-- ==== Sys2Proof/Word.lean ====
section
/-! DEFINITION. Word.lean: the widths the manual uses (R2 to R4) as names for bit vectors. -/
namespace Sys2Proof

/-- An instruction word, an s-register, one lane of a v-register: 32 bits (R27, R31, R75). -/
abbrev Word := BitVec 32

/-- A byte of memory (R3). -/
abbrev Byte := BitVec 8

/-- A 64-bit value: a register pair, a stamp, a clause header (R29, R78). -/
abbrev DWord := BitVec 64

/-- A 128-bit value: a buffer record or a register quad (R29, R33). -/
abbrev QWord := BitVec 128

/-- One bit per lane of a group, bit i for lane i (R26). -/
abbrev Mask := BitVec 32

end Sys2Proof
end

