-- ==== Sys2Proof/Syntax.lean ====
section
/-! DEFINITION. Syntax.lean: the ONE inductive of instructions and steps, one constructor per row of
the opcode table, and the enumerations its fields use. Field codes are given where they are decoded. -/
namespace Sys2Proof

/-- The VIUN functions, in code order (R97, R127). -/
inductive IUnFn where
  | mov | not | neg | abs | popc | clz | ctz | brev | bswap | sext8 | sext16 | zext8 | zext16 | lane | slice
  deriving DecidableEq, Repr

/-- The conditions of VICMP and SCMP, in code order (R97, R128). -/
inductive ICond where
  | eq | ne | lt | le | gt | ge | ltu | leu | gtu | geu
  deriving DecidableEq, Repr

/-- The conditions of VFCMP and SFCMP, in code order (R97, R140). -/
inductive FCond where
  | oeq | one | olt | ole | ogt | oge | uno | ord | ueq | une
  deriving DecidableEq, Repr

/-- The VIRED functions, in code order (R97, R132). -/
inductive IRedFn where
  | add | min | max | minu | maxu | and | or | xor
  deriving DecidableEq, Repr

/-- The VISCAN functions, in code order (R97, R133). -/
inductive IScanFn where
  | addinc | addexc | maxinc | mininc | orinc
  deriving DecidableEq, Repr

/-- The VFUN functions, in code order (R97, R141). -/
inductive FUnFn where
  | mov | abs | neg | floor | ceil | trunc | rint | fract | cls | sat01
  deriving DecidableEq, Repr

/-- The VFX functions, in code order (R97, R142). -/
inductive XFn where
  | rcp | rsq | sqrt | exp2 | log2 | sinr | cosr | tanh
  deriving DecidableEq, Repr

/-- The VFRED functions, in code order (R97, R143). -/
inductive FRedFn where
  | add | min | max
  deriving DecidableEq, Repr

/-- The VFSCAN functions, in code order (R97, R143). -/
inductive FScanFn where
  | addinc | addexc
  deriving DecidableEq, Repr

/-- The VCVT functions, in code order (R97, R146). -/
inductive CvtFn where
  | f2i | f2u | i2f | u2f | f2hlo | f2hhi | h2flo | h2fhi | f2blo | f2bhi | b2flo | b2fhi
  deriving DecidableEq, Repr

/-- The VSHFLI modes, in code order (R97, R131). -/
inductive ShflMode where
  | xor | up | down | rotate
  deriving DecidableEq, Repr

/-- The operations of VATOM, VATOM64 and SATOM, in code order (R97, R186). -/
inductive Aop where
  | add | sub | min | max | minu | maxu | and | or | xor | xchg | cas | fadd | fmin | fmax
  deriving DecidableEq, Repr

/-- The operations of VWOP, in code order (R97, R188). -/
inductive Wop where
  | add32 | add64 | fadd32 | faddh2 | min | max | minu | maxu | fmin | fmax | and | or | xor | xchg | cas
  deriving DecidableEq, Repr

/-- The SUN functions, in code order (R97, R154). -/
inductive SUnFn where
  | mov | not | neg | abs | popc | clz | ctz | brev
  deriving DecidableEq, Repr

/-- The SFUN functions, in code order (R97, R156). -/
inductive SFunFn where
  | mov | abs | neg | floor | ceil | f2i | i2f | rcp | sqrt
  deriving DecidableEq, Repr

/-- The SKOP functions, in code order (R97, R158). -/
inductive KOpFn where
  | and | or | xor | andn | not
  deriving DecidableEq, Repr

/-- The STAMP functions, in code order (R97, R245). -/
inductive StampFn where
  | set | inc0 | inc1 | inc2 | push | pop
  deriving DecidableEq, Repr

/-- The ACCMAP functions, in code order (R97, R216). -/
inductive MapFn where
  | relu | leaky | sigm | tanh | scalebias
  deriving DecidableEq, Repr

/-- The SBSTAT functions, in code order (R266). -/
inductive StatFn where
  | missed | dropped | evicted | freepages | mirrin | rowrej | tileocc
  deriving DecidableEq, Repr

/-- The widths of the VM formats (7 is reserved), in code order (R90). -/
inductive MemW where
  | u8 | s8 | u16 | s16 | w32 | w64 | w128
  deriving DecidableEq, Repr

/-- The widths of the UM format (3 is reserved), in code order (R94). -/
inductive UMemW where
  | w32 | w64 | w128
  deriving DecidableEq, Repr

/-- The widths of SATOM, in code order (R97, R187). -/
inductive AtomW where
  | w32 | w64
  deriving DecidableEq, Repr

/-- One constructor per row of the table of operations and events. Rows with an encoding carry the fields
of their word; rows that are steps of the machine outside the instruction words carry what names the step's
subject: a group, an operation, a core, a die. -/
inductive Instr where
  /-- PREFIX_GENERAL (R92): Prefix word in its general reading: gives the next word a third source, an execution mask, zeroing, rounding, saturation and source modifiers. -/
  | prefixGeneral (c : BitVec 8) (k : BitVec 3) (z : Bool) (m : BitVec 3) (s : Bool) (n : Bool) (a : Bool)
  /-- PREFIX_MEMORY (R93): Prefix word in its memory reading: gives the next memory word a CAS compare value, an execution mask, a scope and an order. -/
  | prefixMemory (c : BitVec 8) (k : BitVec 3) (s : BitVec 3) (o : BitVec 2)
  /-- VADD (R120): Per-lane wrapping or saturating 32-bit add. -/
  | vadd (d : BitVec 8) (a : BitVec 8) (b : BitVec 8)
  /-- VSUB (R120): Per-lane 32-bit subtract. -/
  | vsub (d : BitVec 8) (a : BitVec 8) (b : BitVec 8)
  /-- VMUL (R120): Per-lane low 32 bits of the product. -/
  | vmul (d : BitVec 8) (a : BitVec 8) (b : BitVec 8)
  /-- VMULH (R120): Per-lane high 32 bits of the signed product. -/
  | vmulh (d : BitVec 8) (a : BitVec 8) (b : BitVec 8)
  /-- VMULHU (R120): Per-lane high 32 bits of the unsigned product. -/
  | vmulhu (d : BitVec 8) (a : BitVec 8) (b : BitVec 8)
  /-- VMAD (R120): Per-lane multiply-add with a third source. -/
  | vmad (d : BitVec 8) (a : BitVec 8) (b : BitVec 8)
  /-- VMIN (R120): Per-lane signed minimum. -/
  | vmin (d : BitVec 8) (a : BitVec 8) (b : BitVec 8)
  /-- VMAX (R120): Per-lane signed maximum. -/
  | vmax (d : BitVec 8) (a : BitVec 8) (b : BitVec 8)
  /-- VMINU (R120): Per-lane unsigned minimum. -/
  | vminu (d : BitVec 8) (a : BitVec 8) (b : BitVec 8)
  /-- VMAXU (R120): Per-lane unsigned maximum. -/
  | vmaxu (d : BitVec 8) (a : BitVec 8) (b : BitVec 8)
  /-- VAND (R120): Per-lane bitwise AND. -/
  | vand (d : BitVec 8) (a : BitVec 8) (b : BitVec 8)
  /-- VOR (R120): Per-lane bitwise OR. -/
  | vor (d : BitVec 8) (a : BitVec 8) (b : BitVec 8)
  /-- VXOR (R120): Per-lane bitwise XOR. -/
  | vxor (d : BitVec 8) (a : BitVec 8) (b : BitVec 8)
  /-- VANDN (R120): Per-lane x AND NOT y. -/
  | vandn (d : BitVec 8) (a : BitVec 8) (b : BitVec 8)
  /-- VSHL (R121): Per-lane left shift by a register amount. -/
  | vshl (d : BitVec 8) (a : BitVec 8) (b : BitVec 8)
  /-- VSHR (R121): Per-lane logical right shift by a register amount. -/
  | vshr (d : BitVec 8) (a : BitVec 8) (b : BitVec 8)
  /-- VSAR (R121): Per-lane arithmetic right shift by a register amount. -/
  | vsar (d : BitVec 8) (a : BitVec 8) (b : BitVec 8)
  /-- VROL (R121): Per-lane rotate left. -/
  | vrol (d : BitVec 8) (a : BitVec 8) (b : BitVec 8)
  /-- VBFXU (R122): Per-lane unsigned bit-field extract. -/
  | vbfxu (d : BitVec 8) (a : BitVec 8) (b : BitVec 8)
  /-- VBFXS (R122): Per-lane signed bit-field extract. -/
  | vbfxs (d : BitVec 8) (a : BitVec 8) (b : BitVec 8)
  /-- VBFI (R122): Per-lane bit-field insert into the third source. -/
  | vbfi (d : BitVec 8) (a : BitVec 8) (b : BitVec 8)
  /-- VPERM (R123): Per-lane byte permute under selector bytes. -/
  | vperm (d : BitVec 8) (a : BitVec 8) (b : BitVec 8)
  /-- VADD64 (R124): Per-lane 64-bit add of register pairs. -/
  | vadd64 (d : BitVec 8) (a : BitVec 8) (b : BitVec 8)
  /-- VMULW (R124): Per-lane signed 64-bit product into a pair. -/
  | vmulw (d : BitVec 8) (a : BitVec 8) (b : BitVec 8)
  /-- VADDI (R125): Per-lane add of a signed 8-bit immediate. -/
  | vaddi (d : BitVec 8) (a : BitVec 8) (i : BitVec 8)
  /-- VSHLI (R125): Per-lane left shift by an immediate. -/
  | vshli (d : BitVec 8) (a : BitVec 8) (i : BitVec 5)
  /-- VSHRI (R125): Per-lane logical right shift by an immediate. -/
  | vshri (d : BitVec 8) (a : BitVec 8) (i : BitVec 5)
  /-- VSARI (R125): Per-lane arithmetic right shift by an immediate. -/
  | vsari (d : BitVec 8) (a : BitVec 8) (i : BitVec 5)
  /-- VANDI (R125): Per-lane AND with a zero-extended 8-bit immediate. -/
  | vandi (d : BitVec 8) (a : BitVec 8) (i : BitVec 8)
  /-- VMOVI (R126): Loads a sign-extended 16-bit constant into every lane. -/
  | vmovi (d : BitVec 8) (i : BitVec 16)
  /-- VMOVHI (R126): Replaces the high half of each lane's register with a 16-bit constant. -/
  | vmovhi (d : BitVec 8) (i : BitVec 16)
  /-- VIUN (R127): Per-lane integer unary function selected by fn. -/
  | viun (d : BitVec 8) (a : BitVec 8) (f : IUnFn)
  /-- VICMP (R128): Per-lane integer compare writing a mask bit. -/
  | vicmp (k : BitVec 3) (c : ICond) (a : BitVec 8) (b : BitVec 8)
  /-- VSEL (R129): Per-lane select between two sources under the prefix's mask. -/
  | vsel (d : BitVec 8) (a : BitVec 8) (b : BitVec 8)
  /-- VSHFL (R130): Each lane reads a value from the lane its index register names. -/
  | vshfl (d : BitVec 8) (a : BitVec 8) (b : BitVec 8)
  /-- VSHFLI (R131): Lane shuffle by XOR, up, down or rotate with an immediate amount. -/
  | vshfli (d : BitVec 8) (a : BitVec 8) (m : ShflMode) (i : BitVec 5)
  /-- VIRED (R132): Integer reduction over the active lanes of the wave. -/
  | vired (d : BitVec 8) (a : BitVec 8) (f : IRedFn)
  /-- VISCAN (R133): Integer scan over the active lanes of the wave. -/
  | viscan (d : BitVec 8) (a : BitVec 8) (f : IScanFn)
  /-- VFADD (R138): Per-lane FP32 add, rounded once. -/
  | vfadd (d : BitVec 8) (a : BitVec 8) (b : BitVec 8)
  /-- VFSUB (R138): Per-lane FP32 subtract. -/
  | vfsub (d : BitVec 8) (a : BitVec 8) (b : BitVec 8)
  /-- VFMUL (R138): Per-lane FP32 multiply. -/
  | vfmul (d : BitVec 8) (a : BitVec 8) (b : BitVec 8)
  /-- VFMA (R138): Per-lane fused FP32 multiply-add. -/
  | vfma (d : BitVec 8) (a : BitVec 8) (b : BitVec 8)
  /-- VFMIN (R138): Per-lane FP32 minimumNumber. -/
  | vfmin (d : BitVec 8) (a : BitVec 8) (b : BitVec 8)
  /-- VFMAX (R138): Per-lane FP32 maximumNumber. -/
  | vfmax (d : BitVec 8) (a : BitVec 8) (b : BitVec 8)
  /-- VFCMP (R140): Per-lane FP32 compare writing a mask bit. -/
  | vfcmp (k : BitVec 3) (c : FCond) (a : BitVec 8) (b : BitVec 8)
  /-- VFUN (R141): Per-lane FP32 single-operand function selected by fn. -/
  | vfun (d : BitVec 8) (a : BitVec 8) (f : FUnFn)
  /-- VFX (R142): Issues a transcendental function to the X pipe, charged to flag A. -/
  | vfx (d : BitVec 8) (a : BitVec 8) (f : XFn)
  /-- VFRED (R143): FP32 reduction over the active lanes through the fixed tree. -/
  | vfred (d : BitVec 8) (a : BitVec 8) (f : FRedFn)
  /-- VFSCAN (R143): FP32 scan over the active lanes. -/
  | vfscan (d : BitVec 8) (a : BitVec 8) (f : FScanFn)
  /-- VFLERP (R139): Per-lane linear interpolation with one rounding. -/
  | vflerp (d : BitVec 8) (a : BitVec 8) (b : BitVec 8)
  /-- VHADD (R144): Packed FP16 add. -/
  | vhadd (d : BitVec 8) (a : BitVec 8) (b : BitVec 8)
  /-- VHMUL (R144): Packed FP16 multiply. -/
  | vhmul (d : BitVec 8) (a : BitVec 8) (b : BitVec 8)
  /-- VHFMA (R144): Packed FP16 fused multiply-add. -/
  | vhfma (d : BitVec 8) (a : BitVec 8) (b : BitVec 8)
  /-- VHMIN (R144): Packed FP16 minimumNumber. -/
  | vhmin (d : BitVec 8) (a : BitVec 8) (b : BitVec 8)
  /-- VHMAX (R144): Packed FP16 maximumNumber. -/
  | vhmax (d : BitVec 8) (a : BitVec 8) (b : BitVec 8)
  /-- VBADD (R144): Packed BF16 add. -/
  | vbadd (d : BitVec 8) (a : BitVec 8) (b : BitVec 8)
  /-- VBMUL (R144): Packed BF16 multiply. -/
  | vbmul (d : BitVec 8) (a : BitVec 8) (b : BitVec 8)
  /-- VBFMA (R144): Packed BF16 fused multiply-add. -/
  | vbfma (d : BitVec 8) (a : BitVec 8) (b : BitVec 8)
  /-- VHDOT (R145): FP16 two-element dot product accumulated into FP32 with one rounding. -/
  | vhdot (d : BitVec 8) (a : BitVec 8) (b : BitVec 8)
  /-- VCVT (R146): Per-lane format conversion selected by fn. -/
  | vcvt (d : BitVec 8) (a : BitVec 8) (f : CvtFn)
  /-- VCVTIN (R147): Widens one element in a slot's format to FP32. -/
  | vcvtin (d : BitVec 8) (a : BitVec 8) (e : BitVec 2) (s : BitVec 3)
  /-- VCVTOUT (R147): Narrows FP32 into one element of a slot's format. -/
  | vcvtout (d : BitVec 8) (a : BitVec 8) (e : BitVec 2) (s : BitVec 3)
  /-- VRSVU (R149): Offers one weighted candidate to each lane's reservoir. -/
  | vrsvu (d : BitVec 8) (a : BitVec 8) (b : BitVec 8)
  /-- VRSVM (R150): Merges reservoir B into reservoir A per lane. -/
  | vrsvm (d : BitVec 8) (a : BitVec 8) (b : BitVec 8)
  /-- VLD (R182): Issues a per-lane load through a buffer record on path L. -/
  | vld (d : BitVec 8) (a : BitVec 8) (r : BitVec 4) (l : Bool) (w : MemW)
  /-- VST (R182): Issues a per-lane store through a buffer record on path L. -/
  | vst (d : BitVec 8) (a : BitVec 8) (r : BitVec 4) (l : Bool) (w : MemW)
  /-- VLDSP (R184): Issues a per-lane load from the team's scratchpad, parking on absent lines. -/
  | vldsp (d : BitVec 8) (a : BitVec 8) (l : Bool) (w : MemW)
  /-- VSTSP (R184): Issues a per-lane store to the team's scratchpad, parking on absent lines. -/
  | vstsp (d : BitVec 8) (a : BitVec 8) (l : Bool) (w : MemW)
  /-- VATOM (R186): Issues a 32-bit atomic per lane at the home slice, same-address lanes combined. -/
  | vatom (d : BitVec 8) (a : BitVec 8) (r : BitVec 4) (p : Aop)
  /-- VATOM64 (R186): Issues a 64-bit atomic per lane. -/
  | vatom64 (d : BitVec 8) (a : BitVec 8) (r : BitVec 4) (p : Aop)
  /-- VCAS128 (R186): Issues an indivisible 16-byte compare-and-swap per lane. -/
  | vcas128 (d : BitVec 8) (a : BitVec 8) (r : BitVec 4)
  /-- VLDL (R190): Issues an LOD texel load through path S with residency fallback. -/
  | vldl (d : BitVec 8) (a : BitVec 8) (r : BitVec 4) (l : Bool)
  /-- VSMP (R190): Issues a bilinear LOD sample through path S with residency fallback. -/
  | vsmp (d : BitVec 8) (a : BitVec 8) (r : BitVec 4) (l : Bool)
  /-- VLDWH (R182): Issues a per-lane load from the Wharf on path W. -/
  | vldwh (d : BitVec 8) (a : BitVec 8) (r : BitVec 4) (l : Bool) (w : MemW)
  /-- VSTWH (R182): Issues a per-lane store to the Wharf on path W. -/
  | vstwh (d : BitVec 8) (a : BitVec 8) (r : BitVec 4) (l : Bool) (w : MemW)
  /-- VWOP (R188): Sends a per-lane arithmetic operation to the owning Wharf bank and returns the old value. -/
  | vwop (d : BitVec 8) (a : BitVec 8) (r : BitVec 4) (p : Wop)
  /-- VWOP_POSTED (R188): Posted Wharf operation that returns nothing. -/
  | vwopPosted (a : BitVec 8) (r : BitVec 4) (p : Wop)
  /-- VPGREQ (R193): Asks the runtime for each lane's page and returns a per-lane code. -/
  | vpgreq (d : BitVec 8) (a : BitVec 8) (r : BitVec 4) (l : Bool) (w : MemW)
  /-- VPREF (R195): Prefetches lines of in-bounds lanes toward the core; never traps except ILLEGAL. -/
  | vpref (a : BitVec 8) (r : BitVec 4) (l : Bool) (w : Bool)
  /-- VTRAV (R254): Starts a closest-hit ray traversal per lane in the traversal unit. -/
  | vtrav (d : BitVec 8) (a : BitVec 8) (r : BitVec 4) (l : Bool) (o : BitVec 3)
  /-- VTRAVC (R256): Continues each lane's saved traversal whose token matches. -/
  | vtravc (d : BitVec 8) (a : BitVec 8) (l : Bool) (o : BitVec 3)
  /-- VRAST (R257): Walks a triangle over a tile's probe lattice in the rasteriser. -/
  | vrast (d : BitVec 8) (a : BitVec 8) (b : BitVec 8)
  /-- VSEMIT (R259): Stores each active lane's sample record into the Basin. -/
  | vsemit (d : BitVec 8) (l : Bool)
  /-- VSBG (R262): Gathers one reprojected sample per lane from a Basin tile. -/
  | vsbg (d : BitVec 8) (a : BitVec 8) (b : BitVec 8)
  /-- SADD (R152): Uniform wrapping add. -/
  | sadd (s : BitVec 6) (a : BitVec 6) (b : BitVec 6)
  /-- SSUB (R152): Uniform subtract. -/
  | ssub (s : BitVec 6) (a : BitVec 6) (b : BitVec 6)
  /-- SMUL (R152): Uniform low product. -/
  | smul (s : BitVec 6) (a : BitVec 6) (b : BitVec 6)
  /-- SMULH (R152): Uniform high signed product. -/
  | smulh (s : BitVec 6) (a : BitVec 6) (b : BitVec 6)
  /-- SAND (R152): Uniform AND. -/
  | sand (s : BitVec 6) (a : BitVec 6) (b : BitVec 6)
  /-- SOR (R152): Uniform OR. -/
  | sor (s : BitVec 6) (a : BitVec 6) (b : BitVec 6)
  /-- SXOR (R152): Uniform XOR. -/
  | sxor (s : BitVec 6) (a : BitVec 6) (b : BitVec 6)
  /-- SSHL (R152): Uniform left shift. -/
  | sshl (s : BitVec 6) (a : BitVec 6) (b : BitVec 6)
  /-- SSHR (R152): Uniform logical right shift. -/
  | sshr (s : BitVec 6) (a : BitVec 6) (b : BitVec 6)
  /-- SSAR (R152): Uniform arithmetic right shift. -/
  | ssar (s : BitVec 6) (a : BitVec 6) (b : BitVec 6)
  /-- SMIN (R152): Uniform signed minimum. -/
  | smin (s : BitVec 6) (a : BitVec 6) (b : BitVec 6)
  /-- SMAX (R152): Uniform signed maximum. -/
  | smax (s : BitVec 6) (a : BitVec 6) (b : BitVec 6)
  /-- SMINU (R152): Uniform unsigned minimum. -/
  | sminu (s : BitVec 6) (a : BitVec 6) (b : BitVec 6)
  /-- SMAXU (R152): Uniform unsigned maximum. -/
  | smaxu (s : BitVec 6) (a : BitVec 6) (b : BitVec 6)
  /-- SADDI (R153): Uniform add of a signed 12-bit immediate. -/
  | saddi (s : BitVec 6) (a : BitVec 6) (i : BitVec 12)
  /-- SANDI (R153): Uniform AND with a zero-extended immediate. -/
  | sandi (s : BitVec 6) (a : BitVec 6) (i : BitVec 12)
  /-- SORI (R153): Uniform OR with a zero-extended immediate. -/
  | sori (s : BitVec 6) (a : BitVec 6) (i : BitVec 12)
  /-- SXORI (R153): Uniform XOR with a zero-extended immediate. -/
  | sxori (s : BitVec 6) (a : BitVec 6) (i : BitVec 12)
  /-- SSHLI (R153): Uniform left shift by an immediate. -/
  | sshli (s : BitVec 6) (a : BitVec 6) (i : BitVec 5)
  /-- SSHRI (R153): Uniform logical right shift by an immediate. -/
  | sshri (s : BitVec 6) (a : BitVec 6) (i : BitVec 5)
  /-- SMOVI (R153): Loads a sign-extended 18-bit constant into an s-register. -/
  | smovi (s : BitVec 6) (i : BitVec 18)
  /-- SLUI (R153): Replaces bits [31:14] of an s-register with an immediate. -/
  | slui (s : BitVec 6) (i : BitVec 18)
  /-- SUN (R154): Uniform integer unary function. -/
  | sun (s : BitVec 6) (a : BitVec 6) (f : SUnFn)
  /-- SCMP (R154): Uniform integer compare writing a predicate. -/
  | scmp (q : BitVec 2) (c : ICond) (a : BitVec 6) (b : BitVec 6)
  /-- SSEL (R154): Uniform select under a predicate. -/
  | ssel (s : BitVec 6) (a : BitVec 6) (b : BitVec 6) (q : BitVec 2)
  /-- SADD64 (R154): Uniform 64-bit add of register pairs. -/
  | sadd64 (s : BitVec 6) (a : BitVec 6) (b : BitVec 6)
  /-- SFADD (R155): Uniform FP32 add with a rounding code. -/
  | sfadd (s : BitVec 6) (a : BitVec 6) (b : BitVec 6) (m : BitVec 3)
  /-- SFMUL (R155): Uniform FP32 multiply with a rounding code. -/
  | sfmul (s : BitVec 6) (a : BitVec 6) (b : BitVec 6) (m : BitVec 3)
  /-- SFFMA (R155): Uniform FP32 fused multiply-add with sd as addend. -/
  | sffma (s : BitVec 6) (a : BitVec 6) (b : BitVec 6) (m : BitVec 3)
  /-- SFCMP (R155): Uniform FP32 compare writing a predicate. -/
  | sfcmp (q : BitVec 2) (c : FCond) (a : BitVec 6) (b : BitVec 6)
  /-- SFUN (R156): Uniform FP32 function selected by fn. -/
  | sfun (s : BitVec 6) (a : BitVec 6) (f : SFunFn)
  /-- SRDLANE (R157): Reads one lane's v-register into an s-register. -/
  | srdlane (v : BitVec 8) (s : BitVec 6) (l : BitVec 5)
  /-- SWRLANE (R157): Writes an s-register into one lane's v-register. -/
  | swrlane (v : BitVec 8) (s : BitVec 6) (l : BitVec 5)
  /-- SBALLOT (R158): Collects a mask over the enabled lanes into an s-register. -/
  | sballot (s : BitVec 6) (n : BitVec 3)
  /-- SKMOV (R158): Copies a k-register into an s-register. -/
  | skmov (s : BitVec 6) (n : BitVec 3)
  /-- SKMOV_K (R158): Copies an s-register into a k-register for enabled lanes. -/
  | skmovK (a : BitVec 6) (n : BitVec 3)
  /-- SKOP (R158): Per-lane logic on k-registers for enabled lanes. -/
  | skop (d : BitVec 3) (a : BitVec 3) (b : BitVec 3) (f : KOpFn)
  /-- SFIRST (R158): Finds the lowest enabled lane with a mask bit set. -/
  | sfirst (s : BitVec 6) (n : BitVec 3)
  /-- SSPEC (R159): Reads a special register into an s-register. -/
  | sspec (s : BitVec 6) (c : BitVec 5)
  /-- SSPECW (R159): Writes an s-register to a writable special register. -/
  | sspecw (s : BitVec 6) (c : BitVec 5)
  /-- SETMR (R160): Sets MR of each enabled lane to a clause address from a register pair. -/
  | setmr (a : BitVec 6)
  /-- SETMR_NONE (R160): Sets MR of each enabled lane to none. -/
  | setmrNone
  /-- TRAP (R162): Raises SWTRAP at this word. -/
  | trap (e : BitVec 8)
  /-- TRET (R167): Waits for the group's flags and returns from the trap handler, optionally skipping the trapped word. -/
  | tret (k : Bool)
  /-- SLEEP (R161): Stops the wave from issuing for an immediate number of cycles. -/
  | sleep (i : BitVec 11)
  /-- SLEEP_REG (R161): Stops the wave from issuing for s[sa] cycles. -/
  | sleepReg (a : BitVec 6)
  /-- BRK (R162): Raises BRK at this word. -/
  | brk (e : BitVec 16)
  /-- NOP (R162): Does nothing. -/
  | nop
  /-- SLD (R185): Issues a uniform load through a buffer record. -/
  | sld (s : BitVec 6) (r : BitVec 4) (w : UMemW) (o : BitVec 12)
  /-- SST (R185): Issues a uniform store through a buffer record. -/
  | sst (s : BitVec 6) (r : BitVec 4) (w : UMemW) (o : BitVec 12)
  /-- SLDSP (R185): Issues a uniform scratchpad load. -/
  | sldsp (s : BitVec 6) (r : BitVec 4) (w : UMemW) (o : BitVec 12)
  /-- SSTSP (R185): Issues a uniform scratchpad store. -/
  | sstsp (s : BitVec 6) (r : BitVec 4) (w : UMemW) (o : BitVec 12)
  /-- SATOM (R187): Issues one relaxed uniform atomic for the wave. -/
  | satom (p : Aop) (r : BitVec 4) (w : AtomW) (n : BitVec 6) (o : BitVec 6)
  /-- BRSET (R177): Loads a b-register from four s-registers. -/
  | brset (n : BitVec 4) (a : BitVec 6)
  /-- BRGET (R177): Copies a b-register into four s-registers. -/
  | brget (s : BitVec 6) (n : BitVec 4)
  /-- FENCE (R196): Orders the group's accesses between path masks at a scope, stopping M and E issue until it completes. -/
  | fence (c : BitVec 3) (o : BitVec 2) (p : BitVec 7) (d : BitVec 7)
  /-- PGREQ (R194): Logs page requests for a run of pages to the towpath ring. -/
  | pgreq (s : BitVec 6) (a : BitVec 6) (b : BitVec 6)
  /-- SEAL (R197): Makes a virtual range read-only to every agent. -/
  | sealPages (a : BitVec 6) (b : BitVec 6)
  /-- UNSEAL (R198): Removes a seal and drops cached lines of the range. -/
  | unsealPages (a : BitVec 6) (b : BitVec 6)
  /-- CINV (R199): Discards a byte range of a discardable record from every cache without write-back. -/
  | cinv (a : BitVec 6) (b : BitVec 6) (n : BitVec 4)
  /-- CWB (R200): Writes dirty L2 lines of a range back to LPDDR6. -/
  | cwb (a : BitVec 6) (b : BitVec 6) (n : BitVec 4)
  /-- CPY (R232): Issues a tensor box copy from memory into the team's scratchpad. -/
  | cpy (a : BitVec 6) (x : Bool)
  /-- CPYM (R231): Issues a tensor box copy multicast to the scratchpads of masked cluster ranks. -/
  | cpym (a : BitVec 6) (x : Bool)
  /-- CPYS (R231): Issues a copy from scratchpad into a tensor box. -/
  | cpys (a : BitVec 6)
  /-- CPYG (R235): Issues a gather copy of rows named by an index list into scratchpad. -/
  | cpyg (a : BitVec 6)
  /-- CHKIN (R233): Removes the team's matching check-out entry from the range table. -/
  | chkin (a : BitVec 6)
  /-- LAYSEAL (R229): Computes and writes the CRC seal of a layout record. -/
  | layseal (a : BitVec 6)
  /-- LAUNCH (R236): Posts a launch record to the die queue with a release and a Keeper count. -/
  | launch (a : BitVec 6) (b : BitVec 6) (n : BitVec 6)
  /-- TENQ (R237): Enqueues a task record, running it inline or parking when the queue is full. -/
  | tenq (a : BitVec 6) (b : BitVec 6) (q : BitVec 2)
  /-- MOOR (R240): Spawns one lane per enabled lane into a mooring bin, parking for pool blocks or bins. -/
  | moor (v : BitVec 8) (s : BitVec 6) (c : BitVec 3) (n : BitVec 3)
  /-- CASTOFF (R241): Casts off the bin of a given entry and the group's stamp at once. -/
  | castoff (a : BitVec 6)
  /-- CASTOFF_ALL (R241): Casts off every non-empty bin of the context on the core. -/
  | castoffAll
  /-- DCSET (R243): Sets a dependence counter and arms or disarms its task. -/
  | dcset (d : BitVec 6) (a : BitVec 6) (i : BitVec 12)
  /-- DCADD (R243): Adds a signed delta to a dependence counter. -/
  | dcadd (a : BitVec 6) (i : BitVec 12)
  /-- DCWAIT (R243): Parks the wave until the counter reads zero, then acquires at die scope. -/
  | dcwait (i : BitVec 12)
  /-- STAMP (R245): Changes the group's stamp with a Keeper increment and decrement. -/
  | stamp (a : BitVec 6) (f : StampFn)
  /-- KCNT (R246): Adds a signed delta to a pointstamp count through the core's batch. -/
  | kcnt (a : BitVec 6) (n : BitVec 6) (d : BitVec 6)
  /-- KWAIT (R246): Parks the wave until the Keeper announces a pointstamp. -/
  | kwait (a : BitVec 6) (n : BitVec 6)
  /-- KPROBE (R246): Tests whether a pointstamp has been announced, starting a round if not. -/
  | kprobe (s : BitVec 6) (a : BitVec 6) (n : BitVec 6)
  /-- CHLOAD (R206): Allocates chambers, binds an h-handle and streams weights into them. -/
  | chload (h : BitVec 5) (x : BitVec 6) (y : BitVec 6) (b : BitVec 3) (l : Bool)
  /-- CHREL (R208): Unbinds an h-handle and returns its chambers once earlier users complete. -/
  | chrel (h : BitVec 5) (l : Bool)
  /-- ATDEF (R209): Binds an a-handle to an accumulator tile. -/
  | atdef (h : BitVec 5) (x : BitVec 6) (y : BitVec 6) (a : BitVec 3) (l : Bool)
  /-- MMA (R211): Matrix product with A rows from scratchpad into a tile. -/
  | mma (h : BitVec 5) (x : BitVec 6) (y : BitVec 6) (a : BitVec 3) (b : BitVec 3) (l : Bool)
  /-- MMAG (R211): Matrix product with A rows from memory on path M. -/
  | mmag (h : BitVec 5) (x : BitVec 6) (y : BitVec 6) (a : BitVec 3) (b : BitVec 3) (l : Bool)
  /-- MMAV (R211): Matrix product with A rows from lane registers. -/
  | mmav (h : BitVec 5) (x : BitVec 6) (y : BitVec 6) (a : BitVec 3) (b : BitVec 3) (l : Bool)
  /-- ACCZ (R213): Zeroes the enabled rows of a tile. -/
  | accz (h : BitVec 5) (l : Bool)
  /-- ACCLD (R214): Loads tile rows from memory on path M. -/
  | accld (h : BitVec 5) (x : BitVec 6) (y : BitVec 6) (l : Bool)
  /-- ACCST (R214): Stores tile rows to memory on path M. -/
  | accst (h : BitVec 5) (x : BitVec 6) (y : BitVec 6) (l : Bool)
  /-- ACCRD (R215): Reads tile elements into lane registers. -/
  | accrd (h : BitVec 5) (x : BitVec 6) (y : BitVec 6) (c : BitVec 3) (l : Bool)
  /-- ACCWR (R215): Writes lane registers into tile elements. -/
  | accwr (h : BitVec 5) (x : BitVec 6) (y : BitVec 6) (c : BitVec 3) (l : Bool)
  /-- ACCMAP (R216): Applies an element-wise function to a tile's enabled rows. -/
  | accmap (h : BitVec 5) (x : BitVec 6) (y : BitVec 6) (f : MapFn) (l : Bool)
  /-- RFIL (R217): Updates scratchpad recurrent state by beta*s + gamma*x from a tile. -/
  | rfil (h : BitVec 5) (x : BitVec 6) (y : BitVec 6) (a : BitVec 3) (l : Bool)
  /-- REMA (R217): Updates scratchpad recurrent state by an exponential moving average from a tile. -/
  | rema (h : BitVec 5) (x : BitVec 6) (y : BitVec 6) (a : BitVec 3) (l : Bool)
  /-- MPROG (R222): Reports progress of an entry of the group's engine list. -/
  | mprog (e : BitVec 2) (x : BitVec 6) (y : BitVec 6) (l : Bool)
  /-- MSEQ (R223): Waits until the group's matrix sequence number reaches a target. -/
  | mseq (x : BitVec 6) (y : BitVec 6) (l : Bool)
  /-- PRIOW (R265): Writes Sluice tile priorities. -/
  | priow (a : BitVec 6) (b : BitVec 6) (c : BitVec 4)
  /-- ROWOUT (R264): Writes active lanes' pixels into the row feeder ring. -/
  | rowout (v : BitVec 8) (s : BitVec 6)
  /-- SBSTAT (R266): Reads a Basin or row feeder counter of the die. -/
  | sbstat (s : BitVec 6) (a : BitVec 6) (f : StatFn)
  /-- SYSRD (R169): Reads a privileged system register half. -/
  | sysrd (s : BitVec 6) (c : BitVec 18)
  /-- SYSWR (R169): Writes a privileged system register half. -/
  | syswr (s : BitVec 6) (c : BitVec 18)
  /-- LANEST (R170): Moves each enabled lane's save slot into four v-registers. -/
  | lanest (v : BitVec 8)
  /-- LANELD (R170): Restores each enabled lane's save slot from four v-registers after checks. -/
  | laneld (v : BitVec 8)
  /-- TLBINV (R171): Removes cached translations at a scope and waits for completion. -/
  | tlbinv (a : BitVec 6) (b : BitVec 6) (c : BitVec 3) (k : BitVec 2)
  /-- PREEMPT (R172): Posts a preemption to teams of a context below a priority bound. -/
  | preempt (a : BitVec 6) (r : BitVec 2)
  /-- HALT (R173): Ends the group and writes an error record. -/
  | halt (e : BitVec 8)
  /-- RESERVED_ENCODING (R99): A clause word with an unassigned opcode or reserved encoding issues and traps ILLEGAL. -/
  | reservedEncoding (w : BitVec 32)
  /-- CLAUSE_START (R79): A wave fetches a clause, checks its header, waits on its flags and samples its condition. -/
  | clauseStart
  /-- NEXT (R81): Clause end of kind NEXT: lanes move to the fall-through address. -/
  | next
  /-- JUMP (R81): Clause end of kind JUMP: uniform jump to the direct target. -/
  | jump (off : BitVec 24)
  /-- BRANCH (R81): Clause end of kind BRANCH: enabled lanes go to the target, splitting the wave. -/
  | branch (off : BitVec 24)
  /-- LOOP (R82): Clause end of kind LOOP: decrements the counter register and jumps while nonzero. -/
  | loop (c : BitVec 6) (off : BitVec 18)
  /-- CALL (R84): Clause end of kind CALL: pushes seq and goes to the target. -/
  | call (off : BitVec 24)
  /-- CALLI (R84): Clause end of kind CALLI: pushes seq and goes to each lane's indirect target. -/
  | calli (op : BitVec 8)
  /-- RET (R84): Clause end of kind RET: pops the call stack and returns. -/
  | ret
  /-- JUMPI (R81): Clause end of kind JUMPI: lanes go to their indirect targets. -/
  | jumpi (op : BitVec 8)
  /-- MEET (R81): Clause end of kind MEET: enabled lanes set MR to the target and move on. -/
  | meet (off : BitVec 24)
  /-- EXIT (R85): Clause end of kind EXIT: enabled lanes stop being live. -/
  | exit
  /-- YIELD (R279): Clause end of kind YIELD: the wave is barred behind ready waves of equal priority. -/
  | yield
  /-- TRAPIF (R81): Clause end of kind TRAPIF: the group traps SWTRAP after every lane moves. -/
  | trapif (code : BitVec 8)
  /-- MEETING_RELEASE (R272): Releases a full waiting set at a meeting point into one new wave. -/
  | meetingRelease (gid : Nat) (pc : BitVec 52)
  /-- WAVE_PROMOTION (R278): A wave ready for 1024 cycles is promoted ahead of priority. -/
  | wavePromotion (gid wid : Nat)
  /-- SLEEP_EXPIRY (R161): A sleeping wave's count runs out and it becomes ready. -/
  | sleepExpiry (gid wid : Nat)
  /-- GROUP_EXIT (R85): Once the last lane exits and every flag is zero, the group is freed with its Keeper and counter decrements. -/
  | groupExit (gid : Nat)
  /-- TRAP_ENTRY (R164): All waves stop at their boundaries, lane state is saved and the group enters the handler in supervisor mode. -/
  | trapEntry (gid : Nat)
  /-- VFX_COMPLETE (R134): A transcendental result is written and its flag decremented. -/
  | vfxComplete (gid op : Nat)
  /-- MEMORY_ACCESS_COMPLETE (R181): A load, store, atomic or Wharf operation completes, writing destinations and decrementing its flag. -/
  | memoryAccessComplete (gid op : Nat)
  /-- SCRATCHPAD_PRESENCE_RESUME (R184): A wave parked on absent scratchpad lines resumes once all are present. -/
  | scratchpadPresenceResume (gid wid : Nat)
  /-- FENCE_COMPLETE (R196): A fence completes after draining writes and invalidating the caches its order requires. -/
  | fenceComplete (gid op : Nat)
  /-- SEAL_COMPLETE (R197): Every core has recorded the seal and earlier stores have performed. -/
  | sealComplete (gid op : Nat)
  /-- UNSEAL_COMPLETE (R198): Every L1 and sampler cache has dropped the range's lines. -/
  | unsealComplete (gid op : Nat)
  /-- CINV_COMPLETE (R199): The range's atoms are discarded from every cache. -/
  | cinvComplete (gid op : Nat)
  /-- CWB_COMPLETE (R200): Every atom dirty at issue has been written back. -/
  | cwbComplete (gid op : Nat)
  /-- TLBINV_COMPLETE (R171): The invalidation has completed on every core in scope and the wave issues on. -/
  | tlbinvComplete (gid op : Nat)
  /-- ENGINE_OP_COMPLETE (R203): An engine operation completes in acceptance order, raising SEQ and decrementing its flag. -/
  | engineOpComplete (core op : Nat)
  /-- CHLOAD_COMPLETE (R206): Every weight and scale of a chamber group is in place, or the load completes with error. -/
  | chloadComplete (core op : Nat)
  /-- CHREL_COMPLETE (R208): Chambers return to the team once earlier users complete. -/
  | chrelComplete (core op : Nat)
  /-- MPROG_COMPLETE (R222): The engine writes the progress description of a list entry. -/
  | mprogComplete (gid op : Nat)
  /-- MSEQ_COMPLETE (R223): The sequence number reaches the target and is written. -/
  | mseqComplete (gid op : Nat)
  /-- PAGE_RETRY (R219): A suspended engine operation or copy retries its translation every 4 µs and resumes when present. -/
  | pageRetry (core op : Nat)
  /-- FEEDBACK_REAPPEND (R219): A suspended operation re-appends its ring entry every 16 µs while filtered or dropped. -/
  | feedbackReappend (core op : Nat)
  /-- ENGINE_STOP (R221): After PREEMPT, a running product or CHLOAD stops at its next boundary and becomes a stopped operation. -/
  | engineStop (core op upto : Nat)
  /-- STREAMER_RECORD_CHECK (R232): The streamer checks a copy's layout seal and version and enters its check-out, or rejects it. -/
  | streamerRecordCheck (core op : Nat)
  /-- CPYM_ACCEPT (R323): A destination core accepts a multicast box, clearing presence bits. -/
  | cpymAccept (core op rank : Nat)
  /-- COPY_LANDING (R232): A copy's bytes land in a scratchpad line and its presence bit is set. -/
  | copyLanding (core op rank line : Nat)
  /-- COPY_COMPLETE (R320): A copy completes: release, flag and counter decrements and a Keeper −1. -/
  | copyComplete (core op : Nat)
  /-- LAYSEAL_COMPLETE (R229): The seal has performed at its home slice. -/
  | laysealComplete (gid op : Nat)
  /-- CHKIN_COMPLETE (R233): The check-out entry is gone and waiting copies are re-examined. -/
  | chkinComplete (gid op : Nat)
  /-- TRAVERSAL_COMPLETE (R255): Traversal results are written, raising TRAVDEPTH or TRAVSTACK where due. -/
  | traversalComplete (gid op : Nat)
  /-- VRAST_COMPLETE (R257): Covered lattice positions are written and the token updated. -/
  | vrastComplete (gid op : Nat)
  /-- VSEMIT_COMPLETE (R259): Each lane's sample is inserted into its tile, with page allocation or eviction. -/
  | vsemitComplete (gid op : Nat)
  /-- MIRROR_RECEIVE (R261): A mirrored overlap sample from the other die is reprojected and stored as foreign. -/
  | mirrorReceive (die : Nat)
  /-- VSBG_COMPLETE (R262): Gathered reprojected samples and updated tokens are written. -/
  | vsbgComplete (gid op : Nat)
  /-- ROWOUT_COMPLETE (R264): Pixels are in the row feeder ring or counted as ROWREJ. -/
  | rowoutComplete (gid op : Nat)
  /-- PRIOW_COMPLETE (R265): New tile priorities are accepted by the Sluice. -/
  | priowComplete (gid op : Nat)
  /-- SBSTAT_COMPLETE (R266): The requested die counter is written. -/
  | sbstatComplete (gid op : Nat)
  /-- DELTA_FLUSH_TIMER (R330): 250 ns after the oldest unsent delta, the core sends its delta buffer to the Keeper. -/
  | deltaFlushTimer (core : Nat)
  /-- KEEPER_BATCH_APPLY (R331): The Keeper applies a core's batch atomically and evaluates waiting KWAITs. -/
  | keeperBatchApply (die : Nat)
  /-- DELTA_SEND (R335): After covered releases perform at module scope, the Keeper sends a Delta to the other die. -/
  | deltaSend (die : Nat)
  /-- DELTA (R335): A Delta from the other die is applied to View in sequence order and acknowledged. -/
  | delta (die : Nat)
  /-- ACK (R335): The other die acknowledges a Delta. -/
  | ack (die : Nat)
  /-- FLUSHREQ (R335): On a FlushReq the die flushes every core, applies the batches and replies Done. -/
  | flushreq (die : Nat)
  /-- DONE (R335): A Done reply completes an exchange round once View holds the named deltas. -/
  | done (die : Nat)
  /-- PICK (R359): A core chooses which waiting grid team, task, cast-off or restore entry to start. -/
  | pick (core : Nat)
  /-- TAIL_WAKE (R355): Loss of a submission tail line wakes the scheduler, which takes records in ring order. -/
  | tailWake (die ctx queue : Nat)
  /-- LAUNCH_RECORD_TAKE (R349): The scheduler reads and validates a posted launch record and counts or rejects it. -/
  | launchRecordTake (die : Nat)
  /-- RECORD_READ_RETRY (R351): A launch record read on an absent page retries every 4 µs. -/
  | recordReadRetry (die : Nat)
  /-- SCHEDULER_PREEMPT (R361): A high-priority entry that has waited 2 µs makes the scheduler preempt teams to free room. -/
  | schedulerPreempt (die core : Nat)
  /-- STEAL_REQUEST (R362): A victim core answers an idle core's steal request from its core queue. -/
  | stealRequest (core : Nat)
  /-- STEAL_ANSWER (R363): The thief receives an entry, which starts there, or an empty answer that doubles its wait. -/
  | stealAnswer (core : Nat)
  /-- STEAL_BACKOFF (R363): The thief's backoff expires and it sends its next steal request. -/
  | stealBackoff (core : Nat)
  /-- BIN_TIMER (R398): A filling bin's timer reaches zero and it casts off a group. -/
  | binTimer (core bin : Nat)
  /-- MOOR_POOL_SERVE (R396): The oldest parked MOOR on a pool takes its blocks once enough are free. -/
  | moorPoolServe (die ctx pool : Nat)
  /-- PREEMPT_DELIVERY (R433): Each group of a targeted team takes PREEMPT, abandoning parks and stopping matrix work. -/
  | preemptDelivery (die : Nat)
  /-- VACATE (R435): A handler EXIT of every live lane drains the group, waits for siblings and moves the team to the restore list. -/
  | vacate (gid : Nat)
  /-- SWEEP_BOUNDARY (R368): At row 0's light time the units re-read the display control block. -/
  | sweepBoundary (die : Nat)
  /-- BLOCK_RETRY (R367): With no valid block, the units re-read the display control block every 1 ms. -/
  | blockRetry (die : Nat)
  /-- BAND_OPEN (R369): A band opens for a sweep and the Sluice counts its band hold. -/
  | bandOpen (die band : Nat)
  /-- SWEEP_TICK (R372): Each open tile's accumulator rises by its effective priority and samples are emitted. -/
  | sweepTick (die : Nat)
  /-- WAVEWAIT (R374): A gathering wave's first sample has waited WAVEWAIT ns and the wave launches. -/
  | wavewait (die band : Nat)
  /-- BAND_CUTOFF (R374): At the cutoff the partial wave launches, the band hold is released and reconstruction starts per RECONMODE. -/
  | bandCutoff (die band : Nat)
  /-- BASIN_AGEING (R377): At a band light time expired samples are freed and empty pages returned. -/
  | basinAgeing (die band : Nat)
  /-- ROW_SEND (R382): At the send time the row feeder sends a complete row or replays history and counts MISSED. -/
  | rowSend (die : Nat)
  /-- GAZE (R386): An upstream gaze flit is logged and a valid one sets the gaze tile. -/
  | gaze (die : Nat) (flit : BitVec 256)
  /-- POSE (R386): An upstream pose flit is appended to the report ring. -/
  | pose (die : Nat) (flit : BitVec 256)
  /-- POSITION (R386): An upstream position flit is appended to the report ring. -/
  | position (die : Nat) (flit : BitVec 256)
  /-- PANEL_STATUS (R386): An upstream panel status flit is appended to the report ring. -/
  | panelStatus (die : Nat) (flit : BitVec 256)
  /-- SIRRIC_LINK_DOWN (R384): The tether link goes down; the feeder stops and appends status code 3. -/
  | sirricLinkDown (die : Nat)
  /-- SIRRIC_LINK_UP (R384): The tether link comes back up and the feeder appends status code 4. -/
  | sirricLinkUp (die : Nat)
  /-- PATTERN_SWEEP (R456): The row feeder sends the host pattern at 30 sweeps/s. -/
  | patternSweep (die : Nat)
  /-- HOST_MEM_READ (R445): A host CXL.mem read performs at the line's home slice. -/
  | hostMemRead (die addr len : Nat)
  /-- HOST_MEM_WRITE (R445): A host CXL.mem write performs at the home slice, with an error record if the range is sealed. -/
  | hostMemWrite (die addr : Nat) (bytes : List Byte)
  /-- HOST_SNOOP (R448): The host snoops a path H line cached in a die's L2. -/
  | hostSnoop (die line : Nat)
  /-- MAILBOX_REGISTER_WRITE (R451): A host write to a mailbox or BAR0 register with no behaviour of its own. -/
  | mailboxRegisterWrite (off : Nat) (value : BitVec 32)
  /-- LOAD_CTX (R430): Checks a context descriptor and loads the context on the named dies. -/
  | loadCtx
  /-- UNLOAD_CTX (R432): Casts off bins and unloads a context, withdrawing its display right. -/
  | unloadCtx
  /-- PREEMPT_CMD (R451): Host mailbox preemption of teams, as the PREEMPT instruction. -/
  | preemptCmd
  /-- SET_INDEX (R451): Records the module's index and fabric port. -/
  | setIndex
  /-- SET_PEER (R451): Records or forgets a peer module's fabric port. -/
  | setPeer
  /-- FW_WRITE (R454): Appends a chunk of the Ruonnas image. -/
  | fwWrite
  /-- FW_START (R457): Accepts the received image and enters Verifying. -/
  | fwStart
  /-- FW_VERIFY_DONE (R457): Image checks finish, starting firmware or returning to Reduced with FWFAIL. -/
  | fwVerifyDone
  /-- FIRMWARE_STARTUP (R453): Firmware repairs, trains and zeroes memory, seeds generators and enters Full. -/
  | firmwareStartup (failing short : List Nat)
  /-- ADVANCE_SVN (R457): Burns one anti-rollback fuse toward the running SVN. -/
  | advanceSvn
  /-- SET_ENVELOPE (R454): Records the power envelope the chassis grants. -/
  | setEnvelope
  /-- MEMTEST (R454): Tests every atom of the named dies and reports counts. -/
  | memtest
  /-- PATTERN (R456): Sets the row pattern sent on the named tether ports. -/
  | pattern
  /-- MODULE_RESET (R455): Acknowledges and schedules a module reset. -/
  | moduleReset
  /-- ENTER_RESET (R455): Within 1 ms of MODULE_RESET the module discards its state and enters Reset. -/
  | enterReset
  /-- ERR_RING (R466): Places a die's error ring. -/
  | errRing
  /-- SENSORS (R466): Returns a die's 24 temperature readings. -/
  | sensors
  /-- POWER_GOOD (R452): Power-good starts the boot ROM in Reset. -/
  | powerGood
  /-- POWER_LOSS (R452): Loss of power returns the module to Reset. -/
  | powerLoss
  /-- CXL_LINK_UP (R452): The CXL.io link trains and the module enters Reduced. -/
  | cxlLinkUp
  /-- LINK_RESET (R455): A hot reset or loss of the CXL link takes the module to Reset. -/
  | linkReset
  /-- THERMAL_SAMPLE (R469): Every 100 µs firmware reads the sensors and changes thermal step. -/
  | thermalSample (die : Nat) (readings : List Int)
  /-- DROOP (R471): A core's droop detector stretches its clock while its supply sags. -/
  | droop (core cycles : Nat)
  /-- CORE_IDLE_GATE (R472): A core idle for 20 µs discards its caches and requests gating. -/
  | coreIdleGate (core : Nat)
  /-- GATE_ISOLATION (R472): 80 cycles after the request, isolation completes and power is removed. -/
  | gateIsolation (core : Nat)
  /-- CORE_WAKE (R472): A wake aborts gating or powers a gated core up. -/
  | coreWake (core : Nat)
  /-- SHED_POWER (R25): Firmware finds the module's average power above the granted envelope and limits chambers or lowers the die clock. -/
  | shedPower (die clock chambers : Nat)
  /-- CORE_POWERED_UP (R472): A gated core finishes powering up about 2 µs after a wake, or an aborted gating settles, and the core can take the waiting work. -/
  | corePoweredUp (core : Nat)
  /-- MEMTEST_COMPLETE (R454): The memory test of the named dies ends after about 150 ms per die, returns its counts and clears GO. -/
  | memtestComplete (corrected uncorrectable : Nat)
  /-- UNKNOWN_COMMAND (R451): A GO write with a CMD that names no command returns RESULT 3 and clears GO. -/
  | unknownCommand
  /-- HDM_DECODER_PROGRAM (R444): The host programs an HDM decoder through CXL.io, fixing where the decoder maps die memory in host address space. -/
  | hdmDecoderProgram (decoder base : Nat)
  deriving DecidableEq, Repr

end Sys2Proof
end

