-- ==== Sys2Proof/WellFormed.lean ====
section
/-! DEFINITION. WellFormed.lean: which terms of Instr are instructions of the table: the constraints between fields
that the types of the fields do not carry. -/
namespace Sys2Proof

/-- Why a term is no instruction of the table. -/
inductive WfError where
  /-- VWOP with d = 0xFF is the posted form, a row of its own (R97, R188). -/
  | postedDest
  /-- FADD, FMIN and FMAX on 64 bits are reserved (R97). -/
  | floatAtom64
  /-- A source or parameter field that the function does not use must be zero (R89, R127, R158, R216, R245, R266). -/
  | unusedSource
  deriving DecidableEq, Repr

/-- The check of one term; `none` when it is well formed. -/
def Instr.check : Instr → Option WfError
  | .prefixGeneral .. => none
  | .prefixMemory .. => none
  | .vadd .. => none
  | .vsub .. => none
  | .vmul .. => none
  | .vmulh .. => none
  | .vmulhu .. => none
  | .vmad .. => none
  | .vmin .. => none
  | .vmax .. => none
  | .vminu .. => none
  | .vmaxu .. => none
  | .vand .. => none
  | .vor .. => none
  | .vxor .. => none
  | .vandn .. => none
  | .vshl .. => none
  | .vshr .. => none
  | .vsar .. => none
  | .vrol .. => none
  | .vbfxu .. => none
  | .vbfxs .. => none
  | .vbfi .. => none
  | .vperm .. => none
  | .vadd64 .. => none
  | .vmulw .. => none
  | .vaddi .. => none
  | .vshli .. => none
  | .vshri .. => none
  | .vsari .. => none
  | .vandi .. => none
  | .vmovi .. => none
  | .vmovhi .. => none
  | .viun _ a f => if (f = .lane ∨ f = .slice) ∧ a ≠ 0#8 then some .unusedSource else none
  | .vicmp .. => none
  | .vsel .. => none
  | .vshfl .. => none
  | .vshfli .. => none
  | .vired .. => none
  | .viscan .. => none
  | .vfadd .. => none
  | .vfsub .. => none
  | .vfmul .. => none
  | .vfma .. => none
  | .vfmin .. => none
  | .vfmax .. => none
  | .vfcmp .. => none
  | .vfun .. => none
  | .vfx .. => none
  | .vfred .. => none
  | .vfscan .. => none
  | .vflerp .. => none
  | .vhadd .. => none
  | .vhmul .. => none
  | .vhfma .. => none
  | .vhmin .. => none
  | .vhmax .. => none
  | .vbadd .. => none
  | .vbmul .. => none
  | .vbfma .. => none
  | .vhdot .. => none
  | .vcvt .. => none
  | .vcvtin .. => none
  | .vcvtout .. => none
  | .vrsvu .. => none
  | .vrsvm .. => none
  | .vld .. => none
  | .vst .. => none
  | .vldsp .. => none
  | .vstsp .. => none
  | .vatom .. => none
  | .vatom64 _ _ _ p => if p = .fadd ∨ p = .fmin ∨ p = .fmax then some .floatAtom64 else none
  | .vcas128 .. => none
  | .vldl .. => none
  | .vsmp .. => none
  | .vldwh .. => none
  | .vstwh .. => none
  | .vwop d _ _ _ => if d = 0xFF#8 then some .postedDest else none
  | .vwopPosted .. => none
  | .vpgreq .. => none
  | .vpref .. => none
  | .vtrav .. => none
  | .vtravc .. => none
  | .vrast .. => none
  | .vsemit .. => none
  | .vsbg .. => none
  | .sadd .. => none
  | .ssub .. => none
  | .smul .. => none
  | .smulh .. => none
  | .sand .. => none
  | .sor .. => none
  | .sxor .. => none
  | .sshl .. => none
  | .sshr .. => none
  | .ssar .. => none
  | .smin .. => none
  | .smax .. => none
  | .sminu .. => none
  | .smaxu .. => none
  | .saddi .. => none
  | .sandi .. => none
  | .sori .. => none
  | .sxori .. => none
  | .sshli .. => none
  | .sshri .. => none
  | .smovi .. => none
  | .slui .. => none
  | .sun .. => none
  | .scmp .. => none
  | .ssel .. => none
  | .sadd64 .. => none
  | .sfadd .. => none
  | .sfmul .. => none
  | .sffma .. => none
  | .sfcmp .. => none
  | .sfun .. => none
  | .srdlane .. => none
  | .swrlane .. => none
  | .sballot .. => none
  | .skmov .. => none
  | .skmovK .. => none
  | .skop _ _ b f => if f = .not ∧ b ≠ 0#3 then some .unusedSource else none
  | .sfirst .. => none
  | .sspec .. => none
  | .sspecw .. => none
  | .setmr .. => none
  | .setmrNone .. => none
  | .trap .. => none
  | .tret .. => none
  | .sleep .. => none
  | .sleepReg .. => none
  | .brk .. => none
  | .nop .. => none
  | .sld .. => none
  | .sst .. => none
  | .sldsp .. => none
  | .sstsp .. => none
  | .satom p _ w _ _ => if w = .w64 ∧ (p = .fadd ∨ p = .fmin ∨ p = .fmax) then some .floatAtom64 else none
  | .brset .. => none
  | .brget .. => none
  | .fence .. => none
  | .pgreq .. => none
  | .sealPages .. => none
  | .unsealPages .. => none
  | .cinv .. => none
  | .cwb .. => none
  | .cpy .. => none
  | .cpym .. => none
  | .cpys .. => none
  | .cpyg .. => none
  | .chkin .. => none
  | .layseal .. => none
  | .launch .. => none
  | .tenq .. => none
  | .moor .. => none
  | .castoff .. => none
  | .castoffAll .. => none
  | .dcset .. => none
  | .dcadd .. => none
  | .dcwait .. => none
  | .stamp a f => if f ≠ .set ∧ a ≠ 0#6 then some .unusedSource else none
  | .kcnt .. => none
  | .kwait .. => none
  | .kprobe .. => none
  | .chload .. => none
  | .chrel .. => none
  | .atdef .. => none
  | .mma .. => none
  | .mmag .. => none
  | .mmav .. => none
  | .accz .. => none
  | .accld .. => none
  | .accst .. => none
  | .accrd .. => none
  | .accwr .. => none
  | .accmap _ x y f _ => if (f = .relu ∨ f = .sigm ∨ f = .tanh) ∧ (x ≠ 0#6 ∨ y ≠ 0#6) ∨ f = .leaky ∧ y ≠ 0#6 then some .unusedSource else none
  | .rfil .. => none
  | .rema .. => none
  | .mprog .. => none
  | .mseq .. => none
  | .priow .. => none
  | .rowout .. => none
  | .sbstat _ a f => if f ≠ .tileocc ∧ a ≠ 0#6 then some .unusedSource else none
  | .sysrd .. => none
  | .syswr .. => none
  | .lanest .. => none
  | .laneld .. => none
  | .tlbinv .. => none
  | .preempt .. => none
  | .halt .. => none
  | .clauseStart .. => none
  | .next .. => none
  | .jump .. => none
  | .branch .. => none
  | .loop .. => none
  | .call .. => none
  | .calli .. => none
  | .ret .. => none
  | .jumpi .. => none
  | .meet .. => none
  | .exit .. => none
  | .yield .. => none
  | .trapif .. => none
  | .meetingRelease .. => none
  | .wavePromotion .. => none
  | .sleepExpiry .. => none
  | .groupExit .. => none
  | .trapEntry .. => none
  | .vfxComplete .. => none
  | .memoryAccessComplete .. => none
  | .scratchpadPresenceResume .. => none
  | .fenceComplete .. => none
  | .sealComplete .. => none
  | .unsealComplete .. => none
  | .cinvComplete .. => none
  | .cwbComplete .. => none
  | .tlbinvComplete .. => none
  | .engineOpComplete .. => none
  | .chloadComplete .. => none
  | .chrelComplete .. => none
  | .mprogComplete .. => none
  | .mseqComplete .. => none
  | .pageRetry .. => none
  | .feedbackReappend .. => none
  | .engineStop .. => none
  | .streamerRecordCheck .. => none
  | .cpymAccept .. => none
  | .copyLanding .. => none
  | .copyComplete .. => none
  | .laysealComplete .. => none
  | .chkinComplete .. => none
  | .traversalComplete .. => none
  | .vrastComplete .. => none
  | .vsemitComplete .. => none
  | .mirrorReceive .. => none
  | .vsbgComplete .. => none
  | .rowoutComplete .. => none
  | .priowComplete .. => none
  | .sbstatComplete .. => none
  | .deltaFlushTimer .. => none
  | .keeperBatchApply .. => none
  | .deltaSend .. => none
  | .delta .. => none
  | .ack .. => none
  | .flushreq .. => none
  | .done .. => none
  | .pick .. => none
  | .tailWake .. => none
  | .launchRecordTake .. => none
  | .recordReadRetry .. => none
  | .schedulerPreempt .. => none
  | .stealRequest .. => none
  | .stealAnswer .. => none
  | .stealBackoff .. => none
  | .binTimer .. => none
  | .moorPoolServe .. => none
  | .preemptDelivery .. => none
  | .vacate .. => none
  | .sweepBoundary .. => none
  | .blockRetry .. => none
  | .bandOpen .. => none
  | .sweepTick .. => none
  | .wavewait .. => none
  | .bandCutoff .. => none
  | .basinAgeing .. => none
  | .rowSend .. => none
  | .gaze .. => none
  | .pose .. => none
  | .position .. => none
  | .panelStatus .. => none
  | .sirricLinkDown .. => none
  | .sirricLinkUp .. => none
  | .patternSweep .. => none
  | .hostMemRead .. => none
  | .hostMemWrite .. => none
  | .hostSnoop .. => none
  | .mailboxRegisterWrite .. => none
  | .loadCtx .. => none
  | .unloadCtx .. => none
  | .preemptCmd .. => none
  | .setIndex .. => none
  | .setPeer .. => none
  | .fwWrite .. => none
  | .fwStart .. => none
  | .fwVerifyDone .. => none
  | .firmwareStartup .. => none
  | .advanceSvn .. => none
  | .setEnvelope .. => none
  | .memtest .. => none
  | .pattern .. => none
  | .moduleReset .. => none
  | .enterReset .. => none
  | .errRing .. => none
  | .sensors .. => none
  | .powerGood .. => none
  | .powerLoss .. => none
  | .cxlLinkUp .. => none
  | .linkReset .. => none
  | .thermalSample .. => none
  | .droop .. => none
  | .coreIdleGate .. => none
  | .gateIsolation .. => none
  | .coreWake .. => none
  | .shedPower .. => none
  | .corePoweredUp .. => none
  | .memtestComplete .. => none
  | .unknownCommand .. => none
  | .hdmDecoderProgram .. => none
  | .reservedEncoding .. => none

/-- A well-formed instruction or step. -/
def Instr.WellFormed (i : Instr) : Prop := i.check = none

theorem Instr.wellFormed_iff (i : Instr) : i.WellFormed ↔ i.check = none := Iff.rfl

end Sys2Proof
end

