-- ==== Sys2Proof/Decode.lean ====
section
/-! DEFINITION. Decode.lean: from words to instructions (R89 to R97), and the encoder written from the same tables.
Every row that has a word is decoded by its fixed bits and fields; every other word is refused by name. -/
namespace Sys2Proof

/-- Why a word is no instruction word of level 1. Each of these makes the word trap ILLEGAL (R89, R95 to R97, R99). -/
inductive DecodeError where
  /-- The opcode is not listed in R95 or R96. -/
  | reservedOpcode
  /-- A field that the instruction does not use, or a fixed bit, is not what the encoding gives (R89). -/
  | unusedField
  /-- A function, condition, operation or width code that R90, R94 or R97 reserves. -/
  | reservedCode
  /-- A combination of fields that is no instruction (see `WfError`). -/
  | illFormed (e : WfError)
  deriving DecidableEq, Repr

/-- The `len` bits of `w` that start at bit `lo` (R2). -/
def fieldOf (lo len : Nat) (w : Word) : BitVec len := w.extractLsb' lo len

/-- A word that holds the field `f` at bit `lo` and zeros elsewhere. -/
def place {n : Nat} (lo : Nat) (f : BitVec n) : Word := f.setWidth 32 <<< lo

/-- The instruction if it is well formed. -/
def checked (i : Instr) : Except DecodeError Instr :=
  match i.check with
  | none => .ok i
  | some e => .error (.illFormed e)

/-- The code of each member, counting from 0 in the order R97 lists them (R90, R94 for widths). -/
def IUnFn.code : IUnFn → Nat
  | .mov => 0 | .not => 1 | .neg => 2 | .abs => 3 | .popc => 4 | .clz => 5 | .ctz => 6 | .brev => 7 | .bswap => 8 | .sext8 => 9 | .sext16 => 10 | .zext8 => 11 | .zext16 => 12 | .lane => 13 | .slice => 14

/-- The member with a code; none for a reserved code. -/
def IUnFn.ofCode : Nat → Option IUnFn
  | 0 => some .mov | 1 => some .not | 2 => some .neg | 3 => some .abs | 4 => some .popc | 5 => some .clz | 6 => some .ctz | 7 => some .brev | 8 => some .bswap | 9 => some .sext8 | 10 => some .sext16 | 11 => some .zext8 | 12 => some .zext16 | 13 => some .lane | 14 => some .slice | _ => none

theorem IUnFn.ofCode_code (x : IUnFn) : IUnFn.ofCode x.code = some x := by cases x <;> rfl

/-- The code of each member, counting from 0 in the order R97 lists them (R90, R94 for widths). -/
def ICond.code : ICond → Nat
  | .eq => 0 | .ne => 1 | .lt => 2 | .le => 3 | .gt => 4 | .ge => 5 | .ltu => 6 | .leu => 7 | .gtu => 8 | .geu => 9

/-- The member with a code; none for a reserved code. -/
def ICond.ofCode : Nat → Option ICond
  | 0 => some .eq | 1 => some .ne | 2 => some .lt | 3 => some .le | 4 => some .gt | 5 => some .ge | 6 => some .ltu | 7 => some .leu | 8 => some .gtu | 9 => some .geu | _ => none

theorem ICond.ofCode_code (x : ICond) : ICond.ofCode x.code = some x := by cases x <;> rfl

/-- The code of each member, counting from 0 in the order R97 lists them (R90, R94 for widths). -/
def FCond.code : FCond → Nat
  | .oeq => 0 | .one => 1 | .olt => 2 | .ole => 3 | .ogt => 4 | .oge => 5 | .uno => 6 | .ord => 7 | .ueq => 8 | .une => 9

/-- The member with a code; none for a reserved code. -/
def FCond.ofCode : Nat → Option FCond
  | 0 => some .oeq | 1 => some .one | 2 => some .olt | 3 => some .ole | 4 => some .ogt | 5 => some .oge | 6 => some .uno | 7 => some .ord | 8 => some .ueq | 9 => some .une | _ => none

theorem FCond.ofCode_code (x : FCond) : FCond.ofCode x.code = some x := by cases x <;> rfl

/-- The code of each member, counting from 0 in the order R97 lists them (R90, R94 for widths). -/
def IRedFn.code : IRedFn → Nat
  | .add => 0 | .min => 1 | .max => 2 | .minu => 3 | .maxu => 4 | .and => 5 | .or => 6 | .xor => 7

/-- The member with a code; none for a reserved code. -/
def IRedFn.ofCode : Nat → Option IRedFn
  | 0 => some .add | 1 => some .min | 2 => some .max | 3 => some .minu | 4 => some .maxu | 5 => some .and | 6 => some .or | 7 => some .xor | _ => none

theorem IRedFn.ofCode_code (x : IRedFn) : IRedFn.ofCode x.code = some x := by cases x <;> rfl

/-- The code of each member, counting from 0 in the order R97 lists them (R90, R94 for widths). -/
def IScanFn.code : IScanFn → Nat
  | .addinc => 0 | .addexc => 1 | .maxinc => 2 | .mininc => 3 | .orinc => 4

/-- The member with a code; none for a reserved code. -/
def IScanFn.ofCode : Nat → Option IScanFn
  | 0 => some .addinc | 1 => some .addexc | 2 => some .maxinc | 3 => some .mininc | 4 => some .orinc | _ => none

theorem IScanFn.ofCode_code (x : IScanFn) : IScanFn.ofCode x.code = some x := by cases x <;> rfl

/-- The code of each member, counting from 0 in the order R97 lists them (R90, R94 for widths). -/
def FUnFn.code : FUnFn → Nat
  | .mov => 0 | .abs => 1 | .neg => 2 | .floor => 3 | .ceil => 4 | .trunc => 5 | .rint => 6 | .fract => 7 | .cls => 8 | .sat01 => 9

/-- The member with a code; none for a reserved code. -/
def FUnFn.ofCode : Nat → Option FUnFn
  | 0 => some .mov | 1 => some .abs | 2 => some .neg | 3 => some .floor | 4 => some .ceil | 5 => some .trunc | 6 => some .rint | 7 => some .fract | 8 => some .cls | 9 => some .sat01 | _ => none

theorem FUnFn.ofCode_code (x : FUnFn) : FUnFn.ofCode x.code = some x := by cases x <;> rfl

/-- The code of each member, counting from 0 in the order R97 lists them (R90, R94 for widths). -/
def XFn.code : XFn → Nat
  | .rcp => 0 | .rsq => 1 | .sqrt => 2 | .exp2 => 3 | .log2 => 4 | .sinr => 5 | .cosr => 6 | .tanh => 7

/-- The member with a code; none for a reserved code. -/
def XFn.ofCode : Nat → Option XFn
  | 0 => some .rcp | 1 => some .rsq | 2 => some .sqrt | 3 => some .exp2 | 4 => some .log2 | 5 => some .sinr | 6 => some .cosr | 7 => some .tanh | _ => none

theorem XFn.ofCode_code (x : XFn) : XFn.ofCode x.code = some x := by cases x <;> rfl

/-- The code of each member, counting from 0 in the order R97 lists them (R90, R94 for widths). -/
def FRedFn.code : FRedFn → Nat
  | .add => 0 | .min => 1 | .max => 2

/-- The member with a code; none for a reserved code. -/
def FRedFn.ofCode : Nat → Option FRedFn
  | 0 => some .add | 1 => some .min | 2 => some .max | _ => none

theorem FRedFn.ofCode_code (x : FRedFn) : FRedFn.ofCode x.code = some x := by cases x <;> rfl

/-- The code of each member, counting from 0 in the order R97 lists them (R90, R94 for widths). -/
def FScanFn.code : FScanFn → Nat
  | .addinc => 0 | .addexc => 1

/-- The member with a code; none for a reserved code. -/
def FScanFn.ofCode : Nat → Option FScanFn
  | 0 => some .addinc | 1 => some .addexc | _ => none

theorem FScanFn.ofCode_code (x : FScanFn) : FScanFn.ofCode x.code = some x := by cases x <;> rfl

/-- The code of each member, counting from 0 in the order R97 lists them (R90, R94 for widths). -/
def CvtFn.code : CvtFn → Nat
  | .f2i => 0 | .f2u => 1 | .i2f => 2 | .u2f => 3 | .f2hlo => 4 | .f2hhi => 5 | .h2flo => 6 | .h2fhi => 7 | .f2blo => 8 | .f2bhi => 9 | .b2flo => 10 | .b2fhi => 11

/-- The member with a code; none for a reserved code. -/
def CvtFn.ofCode : Nat → Option CvtFn
  | 0 => some .f2i | 1 => some .f2u | 2 => some .i2f | 3 => some .u2f | 4 => some .f2hlo | 5 => some .f2hhi | 6 => some .h2flo | 7 => some .h2fhi | 8 => some .f2blo | 9 => some .f2bhi | 10 => some .b2flo | 11 => some .b2fhi | _ => none

theorem CvtFn.ofCode_code (x : CvtFn) : CvtFn.ofCode x.code = some x := by cases x <;> rfl

/-- The code of each member, counting from 0 in the order R97 lists them (R90, R94 for widths). -/
def ShflMode.code : ShflMode → Nat
  | .xor => 0 | .up => 1 | .down => 2 | .rotate => 3

/-- The member with a code; none for a reserved code. -/
def ShflMode.ofCode : Nat → Option ShflMode
  | 0 => some .xor | 1 => some .up | 2 => some .down | 3 => some .rotate | _ => none

theorem ShflMode.ofCode_code (x : ShflMode) : ShflMode.ofCode x.code = some x := by cases x <;> rfl

/-- The code of each member, counting from 0 in the order R97 lists them (R90, R94 for widths). -/
def Aop.code : Aop → Nat
  | .add => 0 | .sub => 1 | .min => 2 | .max => 3 | .minu => 4 | .maxu => 5 | .and => 6 | .or => 7 | .xor => 8 | .xchg => 9 | .cas => 10 | .fadd => 11 | .fmin => 12 | .fmax => 13

/-- The member with a code; none for a reserved code. -/
def Aop.ofCode : Nat → Option Aop
  | 0 => some .add | 1 => some .sub | 2 => some .min | 3 => some .max | 4 => some .minu | 5 => some .maxu | 6 => some .and | 7 => some .or | 8 => some .xor | 9 => some .xchg | 10 => some .cas | 11 => some .fadd | 12 => some .fmin | 13 => some .fmax | _ => none

theorem Aop.ofCode_code (x : Aop) : Aop.ofCode x.code = some x := by cases x <;> rfl

/-- The code of each member, counting from 0 in the order R97 lists them (R90, R94 for widths). -/
def Wop.code : Wop → Nat
  | .add32 => 0 | .add64 => 1 | .fadd32 => 2 | .faddh2 => 3 | .min => 4 | .max => 5 | .minu => 6 | .maxu => 7 | .fmin => 8 | .fmax => 9 | .and => 10 | .or => 11 | .xor => 12 | .xchg => 13 | .cas => 14

/-- The member with a code; none for a reserved code. -/
def Wop.ofCode : Nat → Option Wop
  | 0 => some .add32 | 1 => some .add64 | 2 => some .fadd32 | 3 => some .faddh2 | 4 => some .min | 5 => some .max | 6 => some .minu | 7 => some .maxu | 8 => some .fmin | 9 => some .fmax | 10 => some .and | 11 => some .or | 12 => some .xor | 13 => some .xchg | 14 => some .cas | _ => none

theorem Wop.ofCode_code (x : Wop) : Wop.ofCode x.code = some x := by cases x <;> rfl

/-- The code of each member, counting from 0 in the order R97 lists them (R90, R94 for widths). -/
def SUnFn.code : SUnFn → Nat
  | .mov => 0 | .not => 1 | .neg => 2 | .abs => 3 | .popc => 4 | .clz => 5 | .ctz => 6 | .brev => 7

/-- The member with a code; none for a reserved code. -/
def SUnFn.ofCode : Nat → Option SUnFn
  | 0 => some .mov | 1 => some .not | 2 => some .neg | 3 => some .abs | 4 => some .popc | 5 => some .clz | 6 => some .ctz | 7 => some .brev | _ => none

theorem SUnFn.ofCode_code (x : SUnFn) : SUnFn.ofCode x.code = some x := by cases x <;> rfl

/-- The code of each member, counting from 0 in the order R97 lists them (R90, R94 for widths). -/
def SFunFn.code : SFunFn → Nat
  | .mov => 0 | .abs => 1 | .neg => 2 | .floor => 3 | .ceil => 4 | .f2i => 5 | .i2f => 6 | .rcp => 7 | .sqrt => 8

/-- The member with a code; none for a reserved code. -/
def SFunFn.ofCode : Nat → Option SFunFn
  | 0 => some .mov | 1 => some .abs | 2 => some .neg | 3 => some .floor | 4 => some .ceil | 5 => some .f2i | 6 => some .i2f | 7 => some .rcp | 8 => some .sqrt | _ => none

theorem SFunFn.ofCode_code (x : SFunFn) : SFunFn.ofCode x.code = some x := by cases x <;> rfl

/-- The code of each member, counting from 0 in the order R97 lists them (R90, R94 for widths). -/
def KOpFn.code : KOpFn → Nat
  | .and => 0 | .or => 1 | .xor => 2 | .andn => 3 | .not => 4

/-- The member with a code; none for a reserved code. -/
def KOpFn.ofCode : Nat → Option KOpFn
  | 0 => some .and | 1 => some .or | 2 => some .xor | 3 => some .andn | 4 => some .not | _ => none

theorem KOpFn.ofCode_code (x : KOpFn) : KOpFn.ofCode x.code = some x := by cases x <;> rfl

/-- The code of each member, counting from 0 in the order R97 lists them (R90, R94 for widths). -/
def StampFn.code : StampFn → Nat
  | .set => 0 | .inc0 => 1 | .inc1 => 2 | .inc2 => 3 | .push => 4 | .pop => 5

/-- The member with a code; none for a reserved code. -/
def StampFn.ofCode : Nat → Option StampFn
  | 0 => some .set | 1 => some .inc0 | 2 => some .inc1 | 3 => some .inc2 | 4 => some .push | 5 => some .pop | _ => none

theorem StampFn.ofCode_code (x : StampFn) : StampFn.ofCode x.code = some x := by cases x <;> rfl

/-- The code of each member, counting from 0 in the order R97 lists them (R90, R94 for widths). -/
def MapFn.code : MapFn → Nat
  | .relu => 0 | .leaky => 1 | .sigm => 2 | .tanh => 3 | .scalebias => 4

/-- The member with a code; none for a reserved code. -/
def MapFn.ofCode : Nat → Option MapFn
  | 0 => some .relu | 1 => some .leaky | 2 => some .sigm | 3 => some .tanh | 4 => some .scalebias | _ => none

theorem MapFn.ofCode_code (x : MapFn) : MapFn.ofCode x.code = some x := by cases x <;> rfl

/-- The code of each member, counting from 0 in the order R97 lists them (R90, R94 for widths). -/
def StatFn.code : StatFn → Nat
  | .missed => 0 | .dropped => 1 | .evicted => 2 | .freepages => 3 | .mirrin => 4 | .rowrej => 5 | .tileocc => 6

/-- The member with a code; none for a reserved code. -/
def StatFn.ofCode : Nat → Option StatFn
  | 0 => some .missed | 1 => some .dropped | 2 => some .evicted | 3 => some .freepages | 4 => some .mirrin | 5 => some .rowrej | 6 => some .tileocc | _ => none

theorem StatFn.ofCode_code (x : StatFn) : StatFn.ofCode x.code = some x := by cases x <;> rfl

/-- The code of each member, counting from 0 in the order R97 lists them (R90, R94 for widths). -/
def MemW.code : MemW → Nat
  | .u8 => 0 | .s8 => 1 | .u16 => 2 | .s16 => 3 | .w32 => 4 | .w64 => 5 | .w128 => 6

/-- The member with a code; none for a reserved code. -/
def MemW.ofCode : Nat → Option MemW
  | 0 => some .u8 | 1 => some .s8 | 2 => some .u16 | 3 => some .s16 | 4 => some .w32 | 5 => some .w64 | 6 => some .w128 | _ => none

theorem MemW.ofCode_code (x : MemW) : MemW.ofCode x.code = some x := by cases x <;> rfl

/-- The code of each member, counting from 0 in the order R97 lists them (R90, R94 for widths). -/
def UMemW.code : UMemW → Nat
  | .w32 => 0 | .w64 => 1 | .w128 => 2

/-- The member with a code; none for a reserved code. -/
def UMemW.ofCode : Nat → Option UMemW
  | 0 => some .w32 | 1 => some .w64 | 2 => some .w128 | _ => none

theorem UMemW.ofCode_code (x : UMemW) : UMemW.ofCode x.code = some x := by cases x <;> rfl

/-- The code of each member, counting from 0 in the order R97 lists them (R90, R94 for widths). -/
def AtomW.code : AtomW → Nat
  | .w32 => 0 | .w64 => 1

/-- The member with a code; none for a reserved code. -/
def AtomW.ofCode : Nat → Option AtomW
  | 0 => some .w32 | 1 => some .w64 | _ => none

theorem AtomW.ofCode_code (x : AtomW) : AtomW.ofCode x.code = some x := by cases x <;> rfl

/-- The general reading of a prefix word (R92). -/
def decodePrefixGeneral (wd : Word) : Except DecodeError Instr :=
  if wd &&& 0xFF00003F#32 = 0x7F000000#32 then .ok (.prefixGeneral (fieldOf 16 8 wd) (fieldOf 13 3 wd) (wd.getLsbD 12) (fieldOf 9 3 wd) (wd.getLsbD 8) (wd.getLsbD 7) (wd.getLsbD 6))
  else .error .unusedField

/-- The memory reading of a prefix word (R93). -/
def decodePrefixMemory (wd : Word) : Except DecodeError Instr :=
  if wd &&& 0xFF00107F#32 = 0x7F000000#32 then .ok (.prefixMemory (fieldOf 16 8 wd) (fieldOf 13 3 wd) (fieldOf 9 3 wd) (fieldOf 7 2 wd))
  else .error .unusedField

/-- The opcode byte of a word: the set bit and the opcode (R89). -/
def opByte (w : Word) : Nat := (fieldOf 24 8 w).toNat

/-- True when the word's Prefix column is M (R95): the reading that a prefix before it takes. -/
def takesMemoryPrefix (w : Word) : Bool := decide (0x50 ≤ opByte w) && decide (opByte w ≤ 0x5D)

/-- V-set words by opcode (R95, R97). -/
def decodeV (op : Nat) (wd : Word) : Except DecodeError Instr :=
  match op with
  | 0x00 =>
    if wd &&& 0xFF000000#32 = 0x00000000#32 then .ok (.vadd (fieldOf 16 8 wd) (fieldOf 8 8 wd) (fieldOf 0 8 wd))
    else .error .unusedField
  | 0x01 =>
    if wd &&& 0xFF000000#32 = 0x01000000#32 then .ok (.vsub (fieldOf 16 8 wd) (fieldOf 8 8 wd) (fieldOf 0 8 wd))
    else .error .unusedField
  | 0x02 =>
    if wd &&& 0xFF000000#32 = 0x02000000#32 then .ok (.vmul (fieldOf 16 8 wd) (fieldOf 8 8 wd) (fieldOf 0 8 wd))
    else .error .unusedField
  | 0x03 =>
    if wd &&& 0xFF000000#32 = 0x03000000#32 then .ok (.vmulh (fieldOf 16 8 wd) (fieldOf 8 8 wd) (fieldOf 0 8 wd))
    else .error .unusedField
  | 0x04 =>
    if wd &&& 0xFF000000#32 = 0x04000000#32 then .ok (.vmulhu (fieldOf 16 8 wd) (fieldOf 8 8 wd) (fieldOf 0 8 wd))
    else .error .unusedField
  | 0x05 =>
    if wd &&& 0xFF000000#32 = 0x05000000#32 then .ok (.vmad (fieldOf 16 8 wd) (fieldOf 8 8 wd) (fieldOf 0 8 wd))
    else .error .unusedField
  | 0x06 =>
    if wd &&& 0xFF000000#32 = 0x06000000#32 then .ok (.vmin (fieldOf 16 8 wd) (fieldOf 8 8 wd) (fieldOf 0 8 wd))
    else .error .unusedField
  | 0x07 =>
    if wd &&& 0xFF000000#32 = 0x07000000#32 then .ok (.vmax (fieldOf 16 8 wd) (fieldOf 8 8 wd) (fieldOf 0 8 wd))
    else .error .unusedField
  | 0x08 =>
    if wd &&& 0xFF000000#32 = 0x08000000#32 then .ok (.vminu (fieldOf 16 8 wd) (fieldOf 8 8 wd) (fieldOf 0 8 wd))
    else .error .unusedField
  | 0x09 =>
    if wd &&& 0xFF000000#32 = 0x09000000#32 then .ok (.vmaxu (fieldOf 16 8 wd) (fieldOf 8 8 wd) (fieldOf 0 8 wd))
    else .error .unusedField
  | 0x0A =>
    if wd &&& 0xFF000000#32 = 0x0A000000#32 then .ok (.vand (fieldOf 16 8 wd) (fieldOf 8 8 wd) (fieldOf 0 8 wd))
    else .error .unusedField
  | 0x0B =>
    if wd &&& 0xFF000000#32 = 0x0B000000#32 then .ok (.vor (fieldOf 16 8 wd) (fieldOf 8 8 wd) (fieldOf 0 8 wd))
    else .error .unusedField
  | 0x0C =>
    if wd &&& 0xFF000000#32 = 0x0C000000#32 then .ok (.vxor (fieldOf 16 8 wd) (fieldOf 8 8 wd) (fieldOf 0 8 wd))
    else .error .unusedField
  | 0x0D =>
    if wd &&& 0xFF000000#32 = 0x0D000000#32 then .ok (.vandn (fieldOf 16 8 wd) (fieldOf 8 8 wd) (fieldOf 0 8 wd))
    else .error .unusedField
  | 0x0E =>
    if wd &&& 0xFF000000#32 = 0x0E000000#32 then .ok (.vshl (fieldOf 16 8 wd) (fieldOf 8 8 wd) (fieldOf 0 8 wd))
    else .error .unusedField
  | 0x0F =>
    if wd &&& 0xFF000000#32 = 0x0F000000#32 then .ok (.vshr (fieldOf 16 8 wd) (fieldOf 8 8 wd) (fieldOf 0 8 wd))
    else .error .unusedField
  | 0x10 =>
    if wd &&& 0xFF000000#32 = 0x10000000#32 then .ok (.vsar (fieldOf 16 8 wd) (fieldOf 8 8 wd) (fieldOf 0 8 wd))
    else .error .unusedField
  | 0x11 =>
    if wd &&& 0xFF000000#32 = 0x11000000#32 then .ok (.vrol (fieldOf 16 8 wd) (fieldOf 8 8 wd) (fieldOf 0 8 wd))
    else .error .unusedField
  | 0x12 =>
    if wd &&& 0xFF000000#32 = 0x12000000#32 then .ok (.vbfxu (fieldOf 16 8 wd) (fieldOf 8 8 wd) (fieldOf 0 8 wd))
    else .error .unusedField
  | 0x13 =>
    if wd &&& 0xFF000000#32 = 0x13000000#32 then .ok (.vbfxs (fieldOf 16 8 wd) (fieldOf 8 8 wd) (fieldOf 0 8 wd))
    else .error .unusedField
  | 0x14 =>
    if wd &&& 0xFF000000#32 = 0x14000000#32 then .ok (.vbfi (fieldOf 16 8 wd) (fieldOf 8 8 wd) (fieldOf 0 8 wd))
    else .error .unusedField
  | 0x15 =>
    if wd &&& 0xFF000000#32 = 0x15000000#32 then .ok (.vperm (fieldOf 16 8 wd) (fieldOf 8 8 wd) (fieldOf 0 8 wd))
    else .error .unusedField
  | 0x16 =>
    if wd &&& 0xFF000000#32 = 0x16000000#32 then .ok (.vadd64 (fieldOf 16 8 wd) (fieldOf 8 8 wd) (fieldOf 0 8 wd))
    else .error .unusedField
  | 0x17 =>
    if wd &&& 0xFF000000#32 = 0x17000000#32 then .ok (.vmulw (fieldOf 16 8 wd) (fieldOf 8 8 wd) (fieldOf 0 8 wd))
    else .error .unusedField
  | 0x18 =>
    if wd &&& 0xFF000000#32 = 0x18000000#32 then .ok (.vaddi (fieldOf 16 8 wd) (fieldOf 8 8 wd) (fieldOf 0 8 wd))
    else .error .unusedField
  | 0x19 =>
    if wd &&& 0xFF0000E0#32 = 0x19000000#32 then .ok (.vshli (fieldOf 16 8 wd) (fieldOf 8 8 wd) (fieldOf 0 5 wd))
    else .error .unusedField
  | 0x1A =>
    if wd &&& 0xFF0000E0#32 = 0x1A000000#32 then .ok (.vshri (fieldOf 16 8 wd) (fieldOf 8 8 wd) (fieldOf 0 5 wd))
    else .error .unusedField
  | 0x1B =>
    if wd &&& 0xFF0000E0#32 = 0x1B000000#32 then .ok (.vsari (fieldOf 16 8 wd) (fieldOf 8 8 wd) (fieldOf 0 5 wd))
    else .error .unusedField
  | 0x1C =>
    if wd &&& 0xFF000000#32 = 0x1C000000#32 then .ok (.vandi (fieldOf 16 8 wd) (fieldOf 8 8 wd) (fieldOf 0 8 wd))
    else .error .unusedField
  | 0x1D =>
    if wd &&& 0xFF000000#32 = 0x1D000000#32 then .ok (.vmovi (fieldOf 16 8 wd) (fieldOf 0 16 wd))
    else .error .unusedField
  | 0x1E =>
    if wd &&& 0xFF000000#32 = 0x1E000000#32 then .ok (.vmovhi (fieldOf 16 8 wd) (fieldOf 0 16 wd))
    else .error .unusedField
  | 0x1F =>
    if wd &&& 0xFF000000#32 = 0x1F000000#32 then (match IUnFn.ofCode (fieldOf 0 8 wd).toNat with | some f => checked (.viun (fieldOf 16 8 wd) (fieldOf 8 8 wd) f) | none => .error .reservedCode)
    else .error .unusedField
  | 0x20 =>
    if wd &&& 0xFF000000#32 = 0x20000000#32 then (match ICond.ofCode (fieldOf 16 5 wd).toNat with | some c => .ok (.vicmp (fieldOf 21 3 wd) c (fieldOf 8 8 wd) (fieldOf 0 8 wd)) | none => .error .reservedCode)
    else .error .unusedField
  | 0x21 =>
    if wd &&& 0xFF000000#32 = 0x21000000#32 then .ok (.vsel (fieldOf 16 8 wd) (fieldOf 8 8 wd) (fieldOf 0 8 wd))
    else .error .unusedField
  | 0x22 =>
    if wd &&& 0xFF000000#32 = 0x22000000#32 then .ok (.vshfl (fieldOf 16 8 wd) (fieldOf 8 8 wd) (fieldOf 0 8 wd))
    else .error .unusedField
  | 0x23 =>
    if wd &&& 0xFF000020#32 = 0x23000000#32 then (match ShflMode.ofCode (fieldOf 6 2 wd).toNat with | some m => .ok (.vshfli (fieldOf 16 8 wd) (fieldOf 8 8 wd) m (fieldOf 0 5 wd)) | none => .error .reservedCode)
    else .error .unusedField
  | 0x24 =>
    if wd &&& 0xFF000000#32 = 0x24000000#32 then (match IRedFn.ofCode (fieldOf 0 8 wd).toNat with | some f => .ok (.vired (fieldOf 16 8 wd) (fieldOf 8 8 wd) f) | none => .error .reservedCode)
    else .error .unusedField
  | 0x25 =>
    if wd &&& 0xFF000000#32 = 0x25000000#32 then (match IScanFn.ofCode (fieldOf 0 8 wd).toNat with | some f => .ok (.viscan (fieldOf 16 8 wd) (fieldOf 8 8 wd) f) | none => .error .reservedCode)
    else .error .unusedField
  | 0x30 =>
    if wd &&& 0xFF000000#32 = 0x30000000#32 then .ok (.vfadd (fieldOf 16 8 wd) (fieldOf 8 8 wd) (fieldOf 0 8 wd))
    else .error .unusedField
  | 0x31 =>
    if wd &&& 0xFF000000#32 = 0x31000000#32 then .ok (.vfsub (fieldOf 16 8 wd) (fieldOf 8 8 wd) (fieldOf 0 8 wd))
    else .error .unusedField
  | 0x32 =>
    if wd &&& 0xFF000000#32 = 0x32000000#32 then .ok (.vfmul (fieldOf 16 8 wd) (fieldOf 8 8 wd) (fieldOf 0 8 wd))
    else .error .unusedField
  | 0x33 =>
    if wd &&& 0xFF000000#32 = 0x33000000#32 then .ok (.vfma (fieldOf 16 8 wd) (fieldOf 8 8 wd) (fieldOf 0 8 wd))
    else .error .unusedField
  | 0x34 =>
    if wd &&& 0xFF000000#32 = 0x34000000#32 then .ok (.vfmin (fieldOf 16 8 wd) (fieldOf 8 8 wd) (fieldOf 0 8 wd))
    else .error .unusedField
  | 0x35 =>
    if wd &&& 0xFF000000#32 = 0x35000000#32 then .ok (.vfmax (fieldOf 16 8 wd) (fieldOf 8 8 wd) (fieldOf 0 8 wd))
    else .error .unusedField
  | 0x36 =>
    if wd &&& 0xFF000000#32 = 0x36000000#32 then (match FCond.ofCode (fieldOf 16 5 wd).toNat with | some c => .ok (.vfcmp (fieldOf 21 3 wd) c (fieldOf 8 8 wd) (fieldOf 0 8 wd)) | none => .error .reservedCode)
    else .error .unusedField
  | 0x37 =>
    if wd &&& 0xFF000000#32 = 0x37000000#32 then (match FUnFn.ofCode (fieldOf 0 8 wd).toNat with | some f => .ok (.vfun (fieldOf 16 8 wd) (fieldOf 8 8 wd) f) | none => .error .reservedCode)
    else .error .unusedField
  | 0x38 =>
    if wd &&& 0xFF000000#32 = 0x38000000#32 then (match XFn.ofCode (fieldOf 0 8 wd).toNat with | some f => .ok (.vfx (fieldOf 16 8 wd) (fieldOf 8 8 wd) f) | none => .error .reservedCode)
    else .error .unusedField
  | 0x39 =>
    if wd &&& 0xFF000000#32 = 0x39000000#32 then (match FRedFn.ofCode (fieldOf 0 8 wd).toNat with | some f => .ok (.vfred (fieldOf 16 8 wd) (fieldOf 8 8 wd) f) | none => .error .reservedCode)
    else .error .unusedField
  | 0x3A =>
    if wd &&& 0xFF000000#32 = 0x3A000000#32 then (match FScanFn.ofCode (fieldOf 0 8 wd).toNat with | some f => .ok (.vfscan (fieldOf 16 8 wd) (fieldOf 8 8 wd) f) | none => .error .reservedCode)
    else .error .unusedField
  | 0x3B =>
    if wd &&& 0xFF000000#32 = 0x3B000000#32 then .ok (.vflerp (fieldOf 16 8 wd) (fieldOf 8 8 wd) (fieldOf 0 8 wd))
    else .error .unusedField
  | 0x40 =>
    if wd &&& 0xFF000000#32 = 0x40000000#32 then .ok (.vhadd (fieldOf 16 8 wd) (fieldOf 8 8 wd) (fieldOf 0 8 wd))
    else .error .unusedField
  | 0x41 =>
    if wd &&& 0xFF000000#32 = 0x41000000#32 then .ok (.vhmul (fieldOf 16 8 wd) (fieldOf 8 8 wd) (fieldOf 0 8 wd))
    else .error .unusedField
  | 0x42 =>
    if wd &&& 0xFF000000#32 = 0x42000000#32 then .ok (.vhfma (fieldOf 16 8 wd) (fieldOf 8 8 wd) (fieldOf 0 8 wd))
    else .error .unusedField
  | 0x43 =>
    if wd &&& 0xFF000000#32 = 0x43000000#32 then .ok (.vhmin (fieldOf 16 8 wd) (fieldOf 8 8 wd) (fieldOf 0 8 wd))
    else .error .unusedField
  | 0x44 =>
    if wd &&& 0xFF000000#32 = 0x44000000#32 then .ok (.vhmax (fieldOf 16 8 wd) (fieldOf 8 8 wd) (fieldOf 0 8 wd))
    else .error .unusedField
  | 0x45 =>
    if wd &&& 0xFF000000#32 = 0x45000000#32 then .ok (.vbadd (fieldOf 16 8 wd) (fieldOf 8 8 wd) (fieldOf 0 8 wd))
    else .error .unusedField
  | 0x46 =>
    if wd &&& 0xFF000000#32 = 0x46000000#32 then .ok (.vbmul (fieldOf 16 8 wd) (fieldOf 8 8 wd) (fieldOf 0 8 wd))
    else .error .unusedField
  | 0x47 =>
    if wd &&& 0xFF000000#32 = 0x47000000#32 then .ok (.vbfma (fieldOf 16 8 wd) (fieldOf 8 8 wd) (fieldOf 0 8 wd))
    else .error .unusedField
  | 0x48 =>
    if wd &&& 0xFF000000#32 = 0x48000000#32 then .ok (.vhdot (fieldOf 16 8 wd) (fieldOf 8 8 wd) (fieldOf 0 8 wd))
    else .error .unusedField
  | 0x49 =>
    if wd &&& 0xFF000000#32 = 0x49000000#32 then (match CvtFn.ofCode (fieldOf 0 8 wd).toNat with | some f => .ok (.vcvt (fieldOf 16 8 wd) (fieldOf 8 8 wd) f) | none => .error .reservedCode)
    else .error .unusedField
  | 0x4A =>
    if wd &&& 0xFF0000E0#32 = 0x4A000000#32 then .ok (.vcvtin (fieldOf 16 8 wd) (fieldOf 8 8 wd) (fieldOf 3 2 wd) (fieldOf 0 3 wd))
    else .error .unusedField
  | 0x4B =>
    if wd &&& 0xFF0000E0#32 = 0x4B000000#32 then .ok (.vcvtout (fieldOf 16 8 wd) (fieldOf 8 8 wd) (fieldOf 3 2 wd) (fieldOf 0 3 wd))
    else .error .unusedField
  | 0x4C =>
    if wd &&& 0xFF000000#32 = 0x4C000000#32 then .ok (.vrsvu (fieldOf 16 8 wd) (fieldOf 8 8 wd) (fieldOf 0 8 wd))
    else .error .unusedField
  | 0x4D =>
    if wd &&& 0xFF000000#32 = 0x4D000000#32 then .ok (.vrsvm (fieldOf 16 8 wd) (fieldOf 8 8 wd) (fieldOf 0 8 wd))
    else .error .unusedField
  | 0x50 =>
    if wd &&& 0xFF000000#32 = 0x50000000#32 then (match MemW.ofCode (fieldOf 0 3 wd).toNat with | some w => .ok (.vld (fieldOf 16 8 wd) (fieldOf 8 8 wd) (fieldOf 4 4 wd) (wd.getLsbD 3) w) | none => .error .reservedCode)
    else .error .unusedField
  | 0x51 =>
    if wd &&& 0xFF000000#32 = 0x51000000#32 then (match MemW.ofCode (fieldOf 0 3 wd).toNat with | some w => .ok (.vst (fieldOf 16 8 wd) (fieldOf 8 8 wd) (fieldOf 4 4 wd) (wd.getLsbD 3) w) | none => .error .reservedCode)
    else .error .unusedField
  | 0x52 =>
    if wd &&& 0xFF0000F0#32 = 0x52000000#32 then (match MemW.ofCode (fieldOf 0 3 wd).toNat with | some w => .ok (.vldsp (fieldOf 16 8 wd) (fieldOf 8 8 wd) (wd.getLsbD 3) w) | none => .error .reservedCode)
    else .error .unusedField
  | 0x53 =>
    if wd &&& 0xFF0000F0#32 = 0x53000000#32 then (match MemW.ofCode (fieldOf 0 3 wd).toNat with | some w => .ok (.vstsp (fieldOf 16 8 wd) (fieldOf 8 8 wd) (wd.getLsbD 3) w) | none => .error .reservedCode)
    else .error .unusedField
  | 0x54 =>
    if wd &&& 0xFF000000#32 = 0x54000000#32 then (match Aop.ofCode (fieldOf 0 4 wd).toNat with | some p => .ok (.vatom (fieldOf 16 8 wd) (fieldOf 8 8 wd) (fieldOf 4 4 wd) p) | none => .error .reservedCode)
    else .error .unusedField
  | 0x55 =>
    if wd &&& 0xFF000000#32 = 0x55000000#32 then (match Aop.ofCode (fieldOf 0 4 wd).toNat with | some p => checked (.vatom64 (fieldOf 16 8 wd) (fieldOf 8 8 wd) (fieldOf 4 4 wd) p) | none => .error .reservedCode)
    else .error .unusedField
  | 0x56 =>
    if wd &&& 0xFF00000F#32 = 0x56000000#32 then .ok (.vcas128 (fieldOf 16 8 wd) (fieldOf 8 8 wd) (fieldOf 4 4 wd))
    else .error .unusedField
  | 0x57 =>
    if wd &&& 0xFF000007#32 = 0x57000006#32 then .ok (.vldl (fieldOf 16 8 wd) (fieldOf 8 8 wd) (fieldOf 4 4 wd) (wd.getLsbD 3))
    else .error .unusedField
  | 0x58 =>
    if wd &&& 0xFF000007#32 = 0x58000006#32 then .ok (.vsmp (fieldOf 16 8 wd) (fieldOf 8 8 wd) (fieldOf 4 4 wd) (wd.getLsbD 3))
    else .error .unusedField
  | 0x59 =>
    if wd &&& 0xFF000000#32 = 0x59000000#32 then (match MemW.ofCode (fieldOf 0 3 wd).toNat with | some w => .ok (.vldwh (fieldOf 16 8 wd) (fieldOf 8 8 wd) (fieldOf 4 4 wd) (wd.getLsbD 3) w) | none => .error .reservedCode)
    else .error .unusedField
  | 0x5A =>
    if wd &&& 0xFF000000#32 = 0x5A000000#32 then (match MemW.ofCode (fieldOf 0 3 wd).toNat with | some w => .ok (.vstwh (fieldOf 16 8 wd) (fieldOf 8 8 wd) (fieldOf 4 4 wd) (wd.getLsbD 3) w) | none => .error .reservedCode)
    else .error .unusedField
  | 0x5B =>
    if wd &&& 0xFFFF0000#32 = 0x5BFF0000#32 then (match Wop.ofCode (fieldOf 0 4 wd).toNat with | some p => .ok (.vwopPosted (fieldOf 8 8 wd) (fieldOf 4 4 wd) p) | none => .error .reservedCode)
    else if wd &&& 0xFF000000#32 = 0x5B000000#32 then (match Wop.ofCode (fieldOf 0 4 wd).toNat with | some p => checked (.vwop (fieldOf 16 8 wd) (fieldOf 8 8 wd) (fieldOf 4 4 wd) p) | none => .error .reservedCode)
    else .error .unusedField
  | 0x5C =>
    if wd &&& 0xFF000000#32 = 0x5C000000#32 then (match MemW.ofCode (fieldOf 0 3 wd).toNat with | some w => .ok (.vpgreq (fieldOf 16 8 wd) (fieldOf 8 8 wd) (fieldOf 4 4 wd) (wd.getLsbD 3) w) | none => .error .reservedCode)
    else .error .unusedField
  | 0x5D =>
    if wd &&& 0xFFFF0006#32 = 0x5D000000#32 then .ok (.vpref (fieldOf 8 8 wd) (fieldOf 4 4 wd) (wd.getLsbD 3) (wd.getLsbD 0))
    else .error .unusedField
  | 0x60 =>
    if wd &&& 0xFF000000#32 = 0x60000000#32 then .ok (.vtrav (fieldOf 16 8 wd) (fieldOf 8 8 wd) (fieldOf 4 4 wd) (wd.getLsbD 3) (fieldOf 0 3 wd))
    else .error .unusedField
  | 0x61 =>
    if wd &&& 0xFF0000F0#32 = 0x61000000#32 then .ok (.vtravc (fieldOf 16 8 wd) (fieldOf 8 8 wd) (wd.getLsbD 3) (fieldOf 0 3 wd))
    else .error .unusedField
  | 0x62 =>
    if wd &&& 0xFF000000#32 = 0x62000000#32 then .ok (.vrast (fieldOf 16 8 wd) (fieldOf 8 8 wd) (fieldOf 0 8 wd))
    else .error .unusedField
  | 0x63 =>
    if wd &&& 0xFF00FFF7#32 = 0x63000000#32 then .ok (.vsemit (fieldOf 16 8 wd) (wd.getLsbD 3))
    else .error .unusedField
  | 0x64 =>
    if wd &&& 0xFF000000#32 = 0x64000000#32 then .ok (.vsbg (fieldOf 16 8 wd) (fieldOf 8 8 wd) (fieldOf 0 8 wd))
    else .error .unusedField
  | _ => .error .reservedOpcode

/-- U-set words by opcode byte, the set bit included (R96, R97). -/
def decodeU (op : Nat) (wd : Word) : Except DecodeError Instr :=
  match op with
  | 0x80 =>
    if wd &&& 0xFF00003F#32 = 0x80000000#32 then .ok (.sadd (fieldOf 18 6 wd) (fieldOf 12 6 wd) (fieldOf 6 6 wd))
    else .error .unusedField
  | 0x81 =>
    if wd &&& 0xFF00003F#32 = 0x81000000#32 then .ok (.ssub (fieldOf 18 6 wd) (fieldOf 12 6 wd) (fieldOf 6 6 wd))
    else .error .unusedField
  | 0x82 =>
    if wd &&& 0xFF00003F#32 = 0x82000000#32 then .ok (.smul (fieldOf 18 6 wd) (fieldOf 12 6 wd) (fieldOf 6 6 wd))
    else .error .unusedField
  | 0x83 =>
    if wd &&& 0xFF00003F#32 = 0x83000000#32 then .ok (.smulh (fieldOf 18 6 wd) (fieldOf 12 6 wd) (fieldOf 6 6 wd))
    else .error .unusedField
  | 0x84 =>
    if wd &&& 0xFF00003F#32 = 0x84000000#32 then .ok (.sand (fieldOf 18 6 wd) (fieldOf 12 6 wd) (fieldOf 6 6 wd))
    else .error .unusedField
  | 0x85 =>
    if wd &&& 0xFF00003F#32 = 0x85000000#32 then .ok (.sor (fieldOf 18 6 wd) (fieldOf 12 6 wd) (fieldOf 6 6 wd))
    else .error .unusedField
  | 0x86 =>
    if wd &&& 0xFF00003F#32 = 0x86000000#32 then .ok (.sxor (fieldOf 18 6 wd) (fieldOf 12 6 wd) (fieldOf 6 6 wd))
    else .error .unusedField
  | 0x87 =>
    if wd &&& 0xFF00003F#32 = 0x87000000#32 then .ok (.sshl (fieldOf 18 6 wd) (fieldOf 12 6 wd) (fieldOf 6 6 wd))
    else .error .unusedField
  | 0x88 =>
    if wd &&& 0xFF00003F#32 = 0x88000000#32 then .ok (.sshr (fieldOf 18 6 wd) (fieldOf 12 6 wd) (fieldOf 6 6 wd))
    else .error .unusedField
  | 0x89 =>
    if wd &&& 0xFF00003F#32 = 0x89000000#32 then .ok (.ssar (fieldOf 18 6 wd) (fieldOf 12 6 wd) (fieldOf 6 6 wd))
    else .error .unusedField
  | 0x8A =>
    if wd &&& 0xFF00003F#32 = 0x8A000000#32 then .ok (.smin (fieldOf 18 6 wd) (fieldOf 12 6 wd) (fieldOf 6 6 wd))
    else .error .unusedField
  | 0x8B =>
    if wd &&& 0xFF00003F#32 = 0x8B000000#32 then .ok (.smax (fieldOf 18 6 wd) (fieldOf 12 6 wd) (fieldOf 6 6 wd))
    else .error .unusedField
  | 0x8C =>
    if wd &&& 0xFF00003F#32 = 0x8C000000#32 then .ok (.sminu (fieldOf 18 6 wd) (fieldOf 12 6 wd) (fieldOf 6 6 wd))
    else .error .unusedField
  | 0x8D =>
    if wd &&& 0xFF00003F#32 = 0x8D000000#32 then .ok (.smaxu (fieldOf 18 6 wd) (fieldOf 12 6 wd) (fieldOf 6 6 wd))
    else .error .unusedField
  | 0x8E =>
    if wd &&& 0xFF000000#32 = 0x8E000000#32 then .ok (.saddi (fieldOf 18 6 wd) (fieldOf 12 6 wd) (fieldOf 0 12 wd))
    else .error .unusedField
  | 0x8F =>
    if wd &&& 0xFF000000#32 = 0x8F000000#32 then .ok (.sandi (fieldOf 18 6 wd) (fieldOf 12 6 wd) (fieldOf 0 12 wd))
    else .error .unusedField
  | 0x90 =>
    if wd &&& 0xFF000000#32 = 0x90000000#32 then .ok (.sori (fieldOf 18 6 wd) (fieldOf 12 6 wd) (fieldOf 0 12 wd))
    else .error .unusedField
  | 0x91 =>
    if wd &&& 0xFF000000#32 = 0x91000000#32 then .ok (.sxori (fieldOf 18 6 wd) (fieldOf 12 6 wd) (fieldOf 0 12 wd))
    else .error .unusedField
  | 0x92 =>
    if wd &&& 0xFF000FE0#32 = 0x92000000#32 then .ok (.sshli (fieldOf 18 6 wd) (fieldOf 12 6 wd) (fieldOf 0 5 wd))
    else .error .unusedField
  | 0x93 =>
    if wd &&& 0xFF000FE0#32 = 0x93000000#32 then .ok (.sshri (fieldOf 18 6 wd) (fieldOf 12 6 wd) (fieldOf 0 5 wd))
    else .error .unusedField
  | 0x94 =>
    if wd &&& 0xFF000000#32 = 0x94000000#32 then .ok (.smovi (fieldOf 18 6 wd) (fieldOf 0 18 wd))
    else .error .unusedField
  | 0x95 =>
    if wd &&& 0xFF000000#32 = 0x95000000#32 then .ok (.slui (fieldOf 18 6 wd) (fieldOf 0 18 wd))
    else .error .unusedField
  | 0x96 =>
    if wd &&& 0xFF000FC0#32 = 0x96000000#32 then (match SUnFn.ofCode (fieldOf 0 6 wd).toNat with | some f => .ok (.sun (fieldOf 18 6 wd) (fieldOf 12 6 wd) f) | none => .error .reservedCode)
    else .error .unusedField
  | 0x97 =>
    if wd &&& 0xFF00003F#32 = 0x97000000#32 then (match ICond.ofCode (fieldOf 18 4 wd).toNat with | some c => .ok (.scmp (fieldOf 22 2 wd) c (fieldOf 12 6 wd) (fieldOf 6 6 wd)) | none => .error .reservedCode)
    else .error .unusedField
  | 0x98 =>
    if wd &&& 0xFF00003C#32 = 0x98000000#32 then .ok (.ssel (fieldOf 18 6 wd) (fieldOf 12 6 wd) (fieldOf 6 6 wd) (fieldOf 0 2 wd))
    else .error .unusedField
  | 0x99 =>
    if wd &&& 0xFF00003F#32 = 0x99000000#32 then .ok (.sadd64 (fieldOf 18 6 wd) (fieldOf 12 6 wd) (fieldOf 6 6 wd))
    else .error .unusedField
  | 0x9A =>
    if wd &&& 0xFF000038#32 = 0x9A000000#32 then .ok (.sfadd (fieldOf 18 6 wd) (fieldOf 12 6 wd) (fieldOf 6 6 wd) (fieldOf 0 3 wd))
    else .error .unusedField
  | 0x9B =>
    if wd &&& 0xFF000038#32 = 0x9B000000#32 then .ok (.sfmul (fieldOf 18 6 wd) (fieldOf 12 6 wd) (fieldOf 6 6 wd) (fieldOf 0 3 wd))
    else .error .unusedField
  | 0x9C =>
    if wd &&& 0xFF000038#32 = 0x9C000000#32 then .ok (.sffma (fieldOf 18 6 wd) (fieldOf 12 6 wd) (fieldOf 6 6 wd) (fieldOf 0 3 wd))
    else .error .unusedField
  | 0x9D =>
    if wd &&& 0xFF00003F#32 = 0x9D000000#32 then (match FCond.ofCode (fieldOf 18 4 wd).toNat with | some c => .ok (.sfcmp (fieldOf 22 2 wd) c (fieldOf 12 6 wd) (fieldOf 6 6 wd)) | none => .error .reservedCode)
    else .error .unusedField
  | 0x9E =>
    if wd &&& 0xFF000FC0#32 = 0x9E000000#32 then (match SFunFn.ofCode (fieldOf 0 6 wd).toNat with | some f => .ok (.sfun (fieldOf 18 6 wd) (fieldOf 12 6 wd) f) | none => .error .reservedCode)
    else .error .unusedField
  | 0xA0 =>
    if wd &&& 0xFF0003E0#32 = 0xA0000000#32 then .ok (.srdlane (fieldOf 16 8 wd) (fieldOf 10 6 wd) (fieldOf 0 5 wd))
    else .error .unusedField
  | 0xA1 =>
    if wd &&& 0xFF0003E0#32 = 0xA1000000#32 then .ok (.swrlane (fieldOf 16 8 wd) (fieldOf 10 6 wd) (fieldOf 0 5 wd))
    else .error .unusedField
  | 0xA2 =>
    if wd &&& 0xFF03FFF8#32 = 0xA2000000#32 then .ok (.sballot (fieldOf 18 6 wd) (fieldOf 0 3 wd))
    else .error .unusedField
  | 0xA3 =>
    if wd &&& 0xFF03FFF8#32 = 0xA3000000#32 then .ok (.skmov (fieldOf 18 6 wd) (fieldOf 0 3 wd))
    else if wd &&& 0xFFFC0FF8#32 = 0xA3000008#32 then .ok (.skmovK (fieldOf 12 6 wd) (fieldOf 0 3 wd))
    else .error .unusedField
  | 0xA4 =>
    if wd &&& 0xFFE38E00#32 = 0xA4000000#32 then (match KOpFn.ofCode (fieldOf 0 6 wd).toNat with | some f => checked (.skop (fieldOf 18 3 wd) (fieldOf 12 3 wd) (fieldOf 6 3 wd) f) | none => .error .reservedCode)
    else .error .unusedField
  | 0xA5 =>
    if wd &&& 0xFF03FFF8#32 = 0xA5000000#32 then .ok (.sfirst (fieldOf 18 6 wd) (fieldOf 0 3 wd))
    else .error .unusedField
  | 0xA6 =>
    if wd &&& 0xFF03FFE0#32 = 0xA6000000#32 then .ok (.sspec (fieldOf 18 6 wd) (fieldOf 0 5 wd))
    else .error .unusedField
  | 0xA7 =>
    if wd &&& 0xFF03FFE0#32 = 0xA7000000#32 then .ok (.sspecw (fieldOf 18 6 wd) (fieldOf 0 5 wd))
    else .error .unusedField
  | 0xA8 =>
    if wd &&& 0xFFFFFFFF#32 = 0xA8000001#32 then .ok .setmrNone
    else if wd &&& 0xFFFC0FFF#32 = 0xA8000000#32 then .ok (.setmr (fieldOf 12 6 wd))
    else .error .unusedField
  | 0xA9 =>
    if wd &&& 0xFFFFFF00#32 = 0xA9000000#32 then .ok (.trap (fieldOf 0 8 wd))
    else .error .unusedField
  | 0xAA =>
    if wd &&& 0xFFFFFFFE#32 = 0xAA000000#32 then .ok (.tret (wd.getLsbD 0))
    else .error .unusedField
  | 0xAB =>
    if wd &&& 0xFFFC0FFF#32 = 0xAB000800#32 then .ok (.sleepReg (fieldOf 12 6 wd))
    else if wd &&& 0xFFFFF800#32 = 0xAB000000#32 then .ok (.sleep (fieldOf 0 11 wd))
    else .error .unusedField
  | 0xAC =>
    if wd &&& 0xFFFF0000#32 = 0xAC000000#32 then .ok (.brk (fieldOf 0 16 wd))
    else .error .unusedField
  | 0xAD =>
    if wd &&& 0xFFFFFFFF#32 = 0xAD000000#32 then .ok .nop
    else .error .unusedField
  | 0xB0 =>
    if wd &&& 0xFF000000#32 = 0xB0000000#32 then (match UMemW.ofCode (fieldOf 12 2 wd).toNat with | some w => .ok (.sld (fieldOf 18 6 wd) (fieldOf 14 4 wd) w (fieldOf 0 12 wd)) | none => .error .reservedCode)
    else .error .unusedField
  | 0xB1 =>
    if wd &&& 0xFF000000#32 = 0xB1000000#32 then (match UMemW.ofCode (fieldOf 12 2 wd).toNat with | some w => .ok (.sst (fieldOf 18 6 wd) (fieldOf 14 4 wd) w (fieldOf 0 12 wd)) | none => .error .reservedCode)
    else .error .unusedField
  | 0xB2 =>
    if wd &&& 0xFF000000#32 = 0xB2000000#32 then (match UMemW.ofCode (fieldOf 12 2 wd).toNat with | some w => .ok (.sldsp (fieldOf 18 6 wd) (fieldOf 14 4 wd) w (fieldOf 0 12 wd)) | none => .error .reservedCode)
    else .error .unusedField
  | 0xB3 =>
    if wd &&& 0xFF000000#32 = 0xB3000000#32 then (match UMemW.ofCode (fieldOf 12 2 wd).toNat with | some w => .ok (.sstsp (fieldOf 18 6 wd) (fieldOf 14 4 wd) w (fieldOf 0 12 wd)) | none => .error .reservedCode)
    else .error .unusedField
  | 0xB4 =>
    if wd &&& 0xFF000000#32 = 0xB4000000#32 then (match Aop.ofCode (fieldOf 18 6 wd).toNat with | some p => (match AtomW.ofCode (fieldOf 12 2 wd).toNat with | some w => checked (.satom p (fieldOf 14 4 wd) w (fieldOf 6 6 wd) (fieldOf 0 6 wd)) | none => .error .reservedCode) | none => .error .reservedCode)
    else .error .unusedField
  | 0xB5 =>
    if wd &&& 0xFFC00FFF#32 = 0xB5000000#32 then .ok (.brset (fieldOf 18 4 wd) (fieldOf 12 6 wd))
    else .error .unusedField
  | 0xB6 =>
    if wd &&& 0xFF030FFF#32 = 0xB6000000#32 then .ok (.brget (fieldOf 18 6 wd) (fieldOf 12 4 wd))
    else .error .unusedField
  | 0xB7 =>
    if wd &&& 0xFF00001F#32 = 0xB7000000#32 then .ok (.fence (fieldOf 21 3 wd) (fieldOf 19 2 wd) (fieldOf 12 7 wd) (fieldOf 5 7 wd))
    else .error .unusedField
  | 0xB8 =>
    if wd &&& 0xFF00003F#32 = 0xB8000000#32 then .ok (.pgreq (fieldOf 18 6 wd) (fieldOf 12 6 wd) (fieldOf 6 6 wd))
    else .error .unusedField
  | 0xB9 =>
    if wd &&& 0xFFFC003F#32 = 0xB9000000#32 then .ok (.sealPages (fieldOf 12 6 wd) (fieldOf 6 6 wd))
    else .error .unusedField
  | 0xBA =>
    if wd &&& 0xFFFC003F#32 = 0xBA000000#32 then .ok (.unsealPages (fieldOf 12 6 wd) (fieldOf 6 6 wd))
    else .error .unusedField
  | 0xBB =>
    if wd &&& 0xFFFC0030#32 = 0xBB000000#32 then .ok (.cinv (fieldOf 12 6 wd) (fieldOf 6 6 wd) (fieldOf 0 4 wd))
    else .error .unusedField
  | 0xBC =>
    if wd &&& 0xFFFC0030#32 = 0xBC000000#32 then .ok (.cwb (fieldOf 12 6 wd) (fieldOf 6 6 wd) (fieldOf 0 4 wd))
    else .error .unusedField
  | 0xC0 =>
    if wd &&& 0xFFFC0FFE#32 = 0xC0000000#32 then .ok (.cpy (fieldOf 12 6 wd) (wd.getLsbD 0))
    else .error .unusedField
  | 0xC1 =>
    if wd &&& 0xFFFC0FFE#32 = 0xC1000000#32 then .ok (.cpym (fieldOf 12 6 wd) (wd.getLsbD 0))
    else .error .unusedField
  | 0xC2 =>
    if wd &&& 0xFFFC0FFF#32 = 0xC2000000#32 then .ok (.cpys (fieldOf 12 6 wd))
    else .error .unusedField
  | 0xC3 =>
    if wd &&& 0xFFFC0FFF#32 = 0xC3000000#32 then .ok (.cpyg (fieldOf 12 6 wd))
    else .error .unusedField
  | 0xC4 =>
    if wd &&& 0xFFFC0FFF#32 = 0xC4000000#32 then .ok (.chkin (fieldOf 12 6 wd))
    else .error .unusedField
  | 0xC5 =>
    if wd &&& 0xFFFC0FFF#32 = 0xC5000000#32 then .ok (.layseal (fieldOf 12 6 wd))
    else .error .unusedField
  | 0xC8 =>
    if wd &&& 0xFFFC0000#32 = 0xC8000000#32 then .ok (.launch (fieldOf 12 6 wd) (fieldOf 6 6 wd) (fieldOf 0 6 wd))
    else .error .unusedField
  | 0xC9 =>
    if wd &&& 0xFFFC003C#32 = 0xC9000000#32 then .ok (.tenq (fieldOf 12 6 wd) (fieldOf 6 6 wd) (fieldOf 0 2 wd))
    else .error .unusedField
  | 0xCA =>
    if wd &&& 0xFF0003C0#32 = 0xCA000000#32 then .ok (.moor (fieldOf 16 8 wd) (fieldOf 10 6 wd) (fieldOf 3 3 wd) (fieldOf 0 3 wd))
    else .error .unusedField
  | 0xCB =>
    if wd &&& 0xFFFFFFFF#32 = 0xCB000001#32 then .ok .castoffAll
    else if wd &&& 0xFFFC0FFF#32 = 0xCB000000#32 then .ok (.castoff (fieldOf 12 6 wd))
    else .error .unusedField
  | 0xCC =>
    if wd &&& 0xFF000000#32 = 0xCC000000#32 then .ok (.dcset (fieldOf 18 6 wd) (fieldOf 12 6 wd) (fieldOf 0 12 wd))
    else .error .unusedField
  | 0xCD =>
    if wd &&& 0xFFFC0000#32 = 0xCD000000#32 then .ok (.dcadd (fieldOf 12 6 wd) (fieldOf 0 12 wd))
    else .error .unusedField
  | 0xCE =>
    if wd &&& 0xFFFFF000#32 = 0xCE000000#32 then .ok (.dcwait (fieldOf 0 12 wd))
    else .error .unusedField
  | 0xCF =>
    if wd &&& 0xFFFC0FC0#32 = 0xCF000000#32 then (match StampFn.ofCode (fieldOf 0 6 wd).toNat with | some f => checked (.stamp (fieldOf 12 6 wd) f) | none => .error .reservedCode)
    else .error .unusedField
  | 0xD0 =>
    if wd &&& 0xFFFC0000#32 = 0xD0000000#32 then .ok (.kcnt (fieldOf 12 6 wd) (fieldOf 6 6 wd) (fieldOf 0 6 wd))
    else .error .unusedField
  | 0xD1 =>
    if wd &&& 0xFFFC003F#32 = 0xD1000000#32 then .ok (.kwait (fieldOf 12 6 wd) (fieldOf 6 6 wd))
    else .error .unusedField
  | 0xD2 =>
    if wd &&& 0xFF00003F#32 = 0xD2000000#32 then .ok (.kprobe (fieldOf 18 6 wd) (fieldOf 12 6 wd) (fieldOf 6 6 wd))
    else .error .unusedField
  | 0xD8 =>
    if wd &&& 0xFF000070#32 = 0xD8000000#32 then .ok (.chload (fieldOf 19 5 wd) (fieldOf 13 6 wd) (fieldOf 7 6 wd) (fieldOf 1 3 wd) (wd.getLsbD 0))
    else .error .unusedField
  | 0xD9 =>
    if wd &&& 0xFF07FFFE#32 = 0xD9000000#32 then .ok (.chrel (fieldOf 19 5 wd) (wd.getLsbD 0))
    else .error .unusedField
  | 0xDA =>
    if wd &&& 0xFF00000E#32 = 0xDA000000#32 then .ok (.atdef (fieldOf 19 5 wd) (fieldOf 13 6 wd) (fieldOf 7 6 wd) (fieldOf 4 3 wd) (wd.getLsbD 0))
    else .error .unusedField
  | 0xDB =>
    if wd &&& 0xFF000000#32 = 0xDB000000#32 then .ok (.mma (fieldOf 19 5 wd) (fieldOf 13 6 wd) (fieldOf 7 6 wd) (fieldOf 4 3 wd) (fieldOf 1 3 wd) (wd.getLsbD 0))
    else .error .unusedField
  | 0xDC =>
    if wd &&& 0xFF000000#32 = 0xDC000000#32 then .ok (.mmag (fieldOf 19 5 wd) (fieldOf 13 6 wd) (fieldOf 7 6 wd) (fieldOf 4 3 wd) (fieldOf 1 3 wd) (wd.getLsbD 0))
    else .error .unusedField
  | 0xDD =>
    if wd &&& 0xFF000000#32 = 0xDD000000#32 then .ok (.mmav (fieldOf 19 5 wd) (fieldOf 13 6 wd) (fieldOf 7 6 wd) (fieldOf 4 3 wd) (fieldOf 1 3 wd) (wd.getLsbD 0))
    else .error .unusedField
  | 0xDE =>
    if wd &&& 0xFF07FFFE#32 = 0xDE000000#32 then .ok (.accz (fieldOf 19 5 wd) (wd.getLsbD 0))
    else .error .unusedField
  | 0xDF =>
    if wd &&& 0xFF00007E#32 = 0xDF000000#32 then .ok (.accld (fieldOf 19 5 wd) (fieldOf 13 6 wd) (fieldOf 7 6 wd) (wd.getLsbD 0))
    else .error .unusedField
  | 0xE0 =>
    if wd &&& 0xFF00007E#32 = 0xE0000000#32 then .ok (.accst (fieldOf 19 5 wd) (fieldOf 13 6 wd) (fieldOf 7 6 wd) (wd.getLsbD 0))
    else .error .unusedField
  | 0xE1 =>
    if wd &&& 0xFF00000E#32 = 0xE1000000#32 then .ok (.accrd (fieldOf 19 5 wd) (fieldOf 13 6 wd) (fieldOf 7 6 wd) (fieldOf 4 3 wd) (wd.getLsbD 0))
    else .error .unusedField
  | 0xE2 =>
    if wd &&& 0xFF00000E#32 = 0xE2000000#32 then .ok (.accwr (fieldOf 19 5 wd) (fieldOf 13 6 wd) (fieldOf 7 6 wd) (fieldOf 4 3 wd) (wd.getLsbD 0))
    else .error .unusedField
  | 0xE3 =>
    if wd &&& 0xFF000070#32 = 0xE3000000#32 then (match MapFn.ofCode (fieldOf 1 3 wd).toNat with | some f => checked (.accmap (fieldOf 19 5 wd) (fieldOf 13 6 wd) (fieldOf 7 6 wd) f (wd.getLsbD 0)) | none => .error .reservedCode)
    else .error .unusedField
  | 0xE4 =>
    if wd &&& 0xFF00000E#32 = 0xE4000000#32 then .ok (.rfil (fieldOf 19 5 wd) (fieldOf 13 6 wd) (fieldOf 7 6 wd) (fieldOf 4 3 wd) (wd.getLsbD 0))
    else .error .unusedField
  | 0xE5 =>
    if wd &&& 0xFF00000E#32 = 0xE5000000#32 then .ok (.rema (fieldOf 19 5 wd) (fieldOf 13 6 wd) (fieldOf 7 6 wd) (fieldOf 4 3 wd) (wd.getLsbD 0))
    else .error .unusedField
  | 0xE6 =>
    if wd &&& 0xFFE0007E#32 = 0xE6000000#32 then .ok (.mprog (fieldOf 19 2 wd) (fieldOf 13 6 wd) (fieldOf 7 6 wd) (wd.getLsbD 0))
    else .error .unusedField
  | 0xE7 =>
    if wd &&& 0xFFF8007E#32 = 0xE7000000#32 then .ok (.mseq (fieldOf 13 6 wd) (fieldOf 7 6 wd) (wd.getLsbD 0))
    else .error .unusedField
  | 0xE8 =>
    if wd &&& 0xFFFC0030#32 = 0xE8000000#32 then .ok (.priow (fieldOf 12 6 wd) (fieldOf 6 6 wd) (fieldOf 0 4 wd))
    else .error .unusedField
  | 0xE9 =>
    if wd &&& 0xFF0003FF#32 = 0xE9000000#32 then .ok (.rowout (fieldOf 16 8 wd) (fieldOf 10 6 wd))
    else .error .unusedField
  | 0xEA =>
    if wd &&& 0xFF000FC0#32 = 0xEA000000#32 then (match StatFn.ofCode (fieldOf 0 6 wd).toNat with | some f => checked (.sbstat (fieldOf 18 6 wd) (fieldOf 12 6 wd) f) | none => .error .reservedCode)
    else .error .unusedField
  | 0xF0 =>
    if wd &&& 0xFF000000#32 = 0xF0000000#32 then .ok (.sysrd (fieldOf 18 6 wd) (fieldOf 0 18 wd))
    else .error .unusedField
  | 0xF1 =>
    if wd &&& 0xFF000000#32 = 0xF1000000#32 then .ok (.syswr (fieldOf 18 6 wd) (fieldOf 0 18 wd))
    else .error .unusedField
  | 0xF2 =>
    if wd &&& 0xFF00FFFF#32 = 0xF2000000#32 then .ok (.lanest (fieldOf 16 8 wd))
    else .error .unusedField
  | 0xF3 =>
    if wd &&& 0xFF00FFFF#32 = 0xF3000000#32 then .ok (.laneld (fieldOf 16 8 wd))
    else .error .unusedField
  | 0xF4 =>
    if wd &&& 0xFFFC0020#32 = 0xF4000000#32 then .ok (.tlbinv (fieldOf 12 6 wd) (fieldOf 6 6 wd) (fieldOf 2 3 wd) (fieldOf 0 2 wd))
    else .error .unusedField
  | 0xF5 =>
    if wd &&& 0xFFFC0FFC#32 = 0xF5000000#32 then .ok (.preempt (fieldOf 12 6 wd) (fieldOf 0 2 wd))
    else .error .unusedField
  | 0xF6 =>
    if wd &&& 0xFFFFFF00#32 = 0xF6000000#32 then .ok (.halt (fieldOf 0 8 wd))
    else .error .unusedField
  | _ => .error .reservedOpcode

/-- A word of a clause, with the word after it when the clause has one: that word says how a prefix is read
(R91 to R93). A prefix with no word after it is read in its general reading. -/
def decodeWord (w : Word) (after : Option Word) : Except DecodeError Instr :=
  if opByte w = 0x7F then
    (match after with
     | some n => if takesMemoryPrefix n then decodePrefixMemory w else decodePrefixGeneral w
     | none => decodePrefixGeneral w)
  else if opByte w < 0x80 then decodeV (opByte w) w
  else decodeU (opByte w) w

/-- What a clause does at its end, from SEQ and TGT of its header (R78, R81). Codes 12 to 15 and bits of TGT that the
kind leaves unused trap ILLEGAL at the clause's start. -/
def decodeSeq (seq : BitVec 4) (tgt : BitVec 24) : Except DecodeError Instr :=
  match seq.toNat with
  | 0 => if tgt = 0 then .ok .next else .error .unusedField
  | 1 => .ok (.jump tgt)
  | 2 => .ok (.branch tgt)
  | 3 => .ok (.loop (tgt.extractLsb' 18 6) (tgt.extractLsb' 0 18))
  | 4 => .ok (.call tgt)
  | 5 => if tgt.extractLsb' 8 16 = 0#16 then .ok (.calli (tgt.extractLsb' 0 8)) else .error .unusedField
  | 6 => if tgt = 0 then .ok .ret else .error .unusedField
  | 7 => if tgt.extractLsb' 8 16 = 0#16 then .ok (.jumpi (tgt.extractLsb' 0 8)) else .error .unusedField
  | 8 => .ok (.meet tgt)
  | 9 => if tgt = 0 then .ok .exit else .error .unusedField
  | 10 => if tgt = 0 then .ok .yield else .error .unusedField
  | 11 => if tgt.extractLsb' 8 16 = 0#16 then .ok (.trapif (tgt.extractLsb' 0 8)) else .error .unusedField
  | _ => .error .reservedOpcode

/-- SEQ and TGT of the header that asks for a clause end; none for every other instruction. -/
def encodeSeq : Instr → Option (BitVec 4 × BitVec 24)
  | .next => some (0, 0)
  | .jump off => some (1, off)
  | .branch off => some (2, off)
  | .loop c off => some (3, c ++ off)
  | .call off => some (4, off)
  | .calli op => some (5, 0#16 ++ op)
  | .ret => some (6, 0)
  | .jumpi op => some (7, 0#16 ++ op)
  | .meet off => some (8, off)
  | .exit => some (9, 0)
  | .yield => some (10, 0)
  | .trapif code => some (11, 0#16 ++ code)
  | _ => none

/-- The word of an instruction that has one; none for the rows that are steps outside the instruction words. -/
def encode : Instr → Option Word
  | .prefixGeneral c k z m s n a => some (0x7F000000#32 ||| place 16 c ||| place 13 k ||| place 12 (BitVec.ofBool z) ||| place 9 m ||| place 8 (BitVec.ofBool s) ||| place 7 (BitVec.ofBool n) ||| place 6 (BitVec.ofBool a))
  | .prefixMemory c k s o => some (0x7F000000#32 ||| place 16 c ||| place 13 k ||| place 9 s ||| place 7 o)
  | .vadd d a b => some (0x00000000#32 ||| place 16 d ||| place 8 a ||| place 0 b)
  | .vsub d a b => some (0x01000000#32 ||| place 16 d ||| place 8 a ||| place 0 b)
  | .vmul d a b => some (0x02000000#32 ||| place 16 d ||| place 8 a ||| place 0 b)
  | .vmulh d a b => some (0x03000000#32 ||| place 16 d ||| place 8 a ||| place 0 b)
  | .vmulhu d a b => some (0x04000000#32 ||| place 16 d ||| place 8 a ||| place 0 b)
  | .vmad d a b => some (0x05000000#32 ||| place 16 d ||| place 8 a ||| place 0 b)
  | .vmin d a b => some (0x06000000#32 ||| place 16 d ||| place 8 a ||| place 0 b)
  | .vmax d a b => some (0x07000000#32 ||| place 16 d ||| place 8 a ||| place 0 b)
  | .vminu d a b => some (0x08000000#32 ||| place 16 d ||| place 8 a ||| place 0 b)
  | .vmaxu d a b => some (0x09000000#32 ||| place 16 d ||| place 8 a ||| place 0 b)
  | .vand d a b => some (0x0A000000#32 ||| place 16 d ||| place 8 a ||| place 0 b)
  | .vor d a b => some (0x0B000000#32 ||| place 16 d ||| place 8 a ||| place 0 b)
  | .vxor d a b => some (0x0C000000#32 ||| place 16 d ||| place 8 a ||| place 0 b)
  | .vandn d a b => some (0x0D000000#32 ||| place 16 d ||| place 8 a ||| place 0 b)
  | .vshl d a b => some (0x0E000000#32 ||| place 16 d ||| place 8 a ||| place 0 b)
  | .vshr d a b => some (0x0F000000#32 ||| place 16 d ||| place 8 a ||| place 0 b)
  | .vsar d a b => some (0x10000000#32 ||| place 16 d ||| place 8 a ||| place 0 b)
  | .vrol d a b => some (0x11000000#32 ||| place 16 d ||| place 8 a ||| place 0 b)
  | .vbfxu d a b => some (0x12000000#32 ||| place 16 d ||| place 8 a ||| place 0 b)
  | .vbfxs d a b => some (0x13000000#32 ||| place 16 d ||| place 8 a ||| place 0 b)
  | .vbfi d a b => some (0x14000000#32 ||| place 16 d ||| place 8 a ||| place 0 b)
  | .vperm d a b => some (0x15000000#32 ||| place 16 d ||| place 8 a ||| place 0 b)
  | .vadd64 d a b => some (0x16000000#32 ||| place 16 d ||| place 8 a ||| place 0 b)
  | .vmulw d a b => some (0x17000000#32 ||| place 16 d ||| place 8 a ||| place 0 b)
  | .vaddi d a i => some (0x18000000#32 ||| place 16 d ||| place 8 a ||| place 0 i)
  | .vshli d a i => some (0x19000000#32 ||| place 16 d ||| place 8 a ||| place 0 i)
  | .vshri d a i => some (0x1A000000#32 ||| place 16 d ||| place 8 a ||| place 0 i)
  | .vsari d a i => some (0x1B000000#32 ||| place 16 d ||| place 8 a ||| place 0 i)
  | .vandi d a i => some (0x1C000000#32 ||| place 16 d ||| place 8 a ||| place 0 i)
  | .vmovi d i => some (0x1D000000#32 ||| place 16 d ||| place 0 i)
  | .vmovhi d i => some (0x1E000000#32 ||| place 16 d ||| place 0 i)
  | .viun d a f => some (0x1F000000#32 ||| place 16 d ||| place 8 a ||| place 0 (BitVec.ofNat 8 f.code))
  | .vicmp k c a b => some (0x20000000#32 ||| place 21 k ||| place 16 (BitVec.ofNat 5 c.code) ||| place 8 a ||| place 0 b)
  | .vsel d a b => some (0x21000000#32 ||| place 16 d ||| place 8 a ||| place 0 b)
  | .vshfl d a b => some (0x22000000#32 ||| place 16 d ||| place 8 a ||| place 0 b)
  | .vshfli d a m i => some (0x23000000#32 ||| place 16 d ||| place 8 a ||| place 6 (BitVec.ofNat 2 m.code) ||| place 0 i)
  | .vired d a f => some (0x24000000#32 ||| place 16 d ||| place 8 a ||| place 0 (BitVec.ofNat 8 f.code))
  | .viscan d a f => some (0x25000000#32 ||| place 16 d ||| place 8 a ||| place 0 (BitVec.ofNat 8 f.code))
  | .vfadd d a b => some (0x30000000#32 ||| place 16 d ||| place 8 a ||| place 0 b)
  | .vfsub d a b => some (0x31000000#32 ||| place 16 d ||| place 8 a ||| place 0 b)
  | .vfmul d a b => some (0x32000000#32 ||| place 16 d ||| place 8 a ||| place 0 b)
  | .vfma d a b => some (0x33000000#32 ||| place 16 d ||| place 8 a ||| place 0 b)
  | .vfmin d a b => some (0x34000000#32 ||| place 16 d ||| place 8 a ||| place 0 b)
  | .vfmax d a b => some (0x35000000#32 ||| place 16 d ||| place 8 a ||| place 0 b)
  | .vfcmp k c a b => some (0x36000000#32 ||| place 21 k ||| place 16 (BitVec.ofNat 5 c.code) ||| place 8 a ||| place 0 b)
  | .vfun d a f => some (0x37000000#32 ||| place 16 d ||| place 8 a ||| place 0 (BitVec.ofNat 8 f.code))
  | .vfx d a f => some (0x38000000#32 ||| place 16 d ||| place 8 a ||| place 0 (BitVec.ofNat 8 f.code))
  | .vfred d a f => some (0x39000000#32 ||| place 16 d ||| place 8 a ||| place 0 (BitVec.ofNat 8 f.code))
  | .vfscan d a f => some (0x3A000000#32 ||| place 16 d ||| place 8 a ||| place 0 (BitVec.ofNat 8 f.code))
  | .vflerp d a b => some (0x3B000000#32 ||| place 16 d ||| place 8 a ||| place 0 b)
  | .vhadd d a b => some (0x40000000#32 ||| place 16 d ||| place 8 a ||| place 0 b)
  | .vhmul d a b => some (0x41000000#32 ||| place 16 d ||| place 8 a ||| place 0 b)
  | .vhfma d a b => some (0x42000000#32 ||| place 16 d ||| place 8 a ||| place 0 b)
  | .vhmin d a b => some (0x43000000#32 ||| place 16 d ||| place 8 a ||| place 0 b)
  | .vhmax d a b => some (0x44000000#32 ||| place 16 d ||| place 8 a ||| place 0 b)
  | .vbadd d a b => some (0x45000000#32 ||| place 16 d ||| place 8 a ||| place 0 b)
  | .vbmul d a b => some (0x46000000#32 ||| place 16 d ||| place 8 a ||| place 0 b)
  | .vbfma d a b => some (0x47000000#32 ||| place 16 d ||| place 8 a ||| place 0 b)
  | .vhdot d a b => some (0x48000000#32 ||| place 16 d ||| place 8 a ||| place 0 b)
  | .vcvt d a f => some (0x49000000#32 ||| place 16 d ||| place 8 a ||| place 0 (BitVec.ofNat 8 f.code))
  | .vcvtin d a e s => some (0x4A000000#32 ||| place 16 d ||| place 8 a ||| place 3 e ||| place 0 s)
  | .vcvtout d a e s => some (0x4B000000#32 ||| place 16 d ||| place 8 a ||| place 3 e ||| place 0 s)
  | .vrsvu d a b => some (0x4C000000#32 ||| place 16 d ||| place 8 a ||| place 0 b)
  | .vrsvm d a b => some (0x4D000000#32 ||| place 16 d ||| place 8 a ||| place 0 b)
  | .vld d a r l w => some (0x50000000#32 ||| place 16 d ||| place 8 a ||| place 4 r ||| place 3 (BitVec.ofBool l) ||| place 0 (BitVec.ofNat 3 w.code))
  | .vst d a r l w => some (0x51000000#32 ||| place 16 d ||| place 8 a ||| place 4 r ||| place 3 (BitVec.ofBool l) ||| place 0 (BitVec.ofNat 3 w.code))
  | .vldsp d a l w => some (0x52000000#32 ||| place 16 d ||| place 8 a ||| place 3 (BitVec.ofBool l) ||| place 0 (BitVec.ofNat 3 w.code))
  | .vstsp d a l w => some (0x53000000#32 ||| place 16 d ||| place 8 a ||| place 3 (BitVec.ofBool l) ||| place 0 (BitVec.ofNat 3 w.code))
  | .vatom d a r p => some (0x54000000#32 ||| place 16 d ||| place 8 a ||| place 4 r ||| place 0 (BitVec.ofNat 4 p.code))
  | .vatom64 d a r p => some (0x55000000#32 ||| place 16 d ||| place 8 a ||| place 4 r ||| place 0 (BitVec.ofNat 4 p.code))
  | .vcas128 d a r => some (0x56000000#32 ||| place 16 d ||| place 8 a ||| place 4 r)
  | .vldl d a r l => some (0x57000006#32 ||| place 16 d ||| place 8 a ||| place 4 r ||| place 3 (BitVec.ofBool l))
  | .vsmp d a r l => some (0x58000006#32 ||| place 16 d ||| place 8 a ||| place 4 r ||| place 3 (BitVec.ofBool l))
  | .vldwh d a r l w => some (0x59000000#32 ||| place 16 d ||| place 8 a ||| place 4 r ||| place 3 (BitVec.ofBool l) ||| place 0 (BitVec.ofNat 3 w.code))
  | .vstwh d a r l w => some (0x5A000000#32 ||| place 16 d ||| place 8 a ||| place 4 r ||| place 3 (BitVec.ofBool l) ||| place 0 (BitVec.ofNat 3 w.code))
  | .vwop d a r p => some (0x5B000000#32 ||| place 16 d ||| place 8 a ||| place 4 r ||| place 0 (BitVec.ofNat 4 p.code))
  | .vwopPosted a r p => some (0x5BFF0000#32 ||| place 8 a ||| place 4 r ||| place 0 (BitVec.ofNat 4 p.code))
  | .vpgreq d a r l w => some (0x5C000000#32 ||| place 16 d ||| place 8 a ||| place 4 r ||| place 3 (BitVec.ofBool l) ||| place 0 (BitVec.ofNat 3 w.code))
  | .vpref a r l w => some (0x5D000000#32 ||| place 8 a ||| place 4 r ||| place 3 (BitVec.ofBool l) ||| place 0 (BitVec.ofBool w))
  | .vtrav d a r l o => some (0x60000000#32 ||| place 16 d ||| place 8 a ||| place 4 r ||| place 3 (BitVec.ofBool l) ||| place 0 o)
  | .vtravc d a l o => some (0x61000000#32 ||| place 16 d ||| place 8 a ||| place 3 (BitVec.ofBool l) ||| place 0 o)
  | .vrast d a b => some (0x62000000#32 ||| place 16 d ||| place 8 a ||| place 0 b)
  | .vsemit d l => some (0x63000000#32 ||| place 16 d ||| place 3 (BitVec.ofBool l))
  | .vsbg d a b => some (0x64000000#32 ||| place 16 d ||| place 8 a ||| place 0 b)
  | .sadd s a b => some (0x80000000#32 ||| place 18 s ||| place 12 a ||| place 6 b)
  | .ssub s a b => some (0x81000000#32 ||| place 18 s ||| place 12 a ||| place 6 b)
  | .smul s a b => some (0x82000000#32 ||| place 18 s ||| place 12 a ||| place 6 b)
  | .smulh s a b => some (0x83000000#32 ||| place 18 s ||| place 12 a ||| place 6 b)
  | .sand s a b => some (0x84000000#32 ||| place 18 s ||| place 12 a ||| place 6 b)
  | .sor s a b => some (0x85000000#32 ||| place 18 s ||| place 12 a ||| place 6 b)
  | .sxor s a b => some (0x86000000#32 ||| place 18 s ||| place 12 a ||| place 6 b)
  | .sshl s a b => some (0x87000000#32 ||| place 18 s ||| place 12 a ||| place 6 b)
  | .sshr s a b => some (0x88000000#32 ||| place 18 s ||| place 12 a ||| place 6 b)
  | .ssar s a b => some (0x89000000#32 ||| place 18 s ||| place 12 a ||| place 6 b)
  | .smin s a b => some (0x8A000000#32 ||| place 18 s ||| place 12 a ||| place 6 b)
  | .smax s a b => some (0x8B000000#32 ||| place 18 s ||| place 12 a ||| place 6 b)
  | .sminu s a b => some (0x8C000000#32 ||| place 18 s ||| place 12 a ||| place 6 b)
  | .smaxu s a b => some (0x8D000000#32 ||| place 18 s ||| place 12 a ||| place 6 b)
  | .saddi s a i => some (0x8E000000#32 ||| place 18 s ||| place 12 a ||| place 0 i)
  | .sandi s a i => some (0x8F000000#32 ||| place 18 s ||| place 12 a ||| place 0 i)
  | .sori s a i => some (0x90000000#32 ||| place 18 s ||| place 12 a ||| place 0 i)
  | .sxori s a i => some (0x91000000#32 ||| place 18 s ||| place 12 a ||| place 0 i)
  | .sshli s a i => some (0x92000000#32 ||| place 18 s ||| place 12 a ||| place 0 i)
  | .sshri s a i => some (0x93000000#32 ||| place 18 s ||| place 12 a ||| place 0 i)
  | .smovi s i => some (0x94000000#32 ||| place 18 s ||| place 0 i)
  | .slui s i => some (0x95000000#32 ||| place 18 s ||| place 0 i)
  | .sun s a f => some (0x96000000#32 ||| place 18 s ||| place 12 a ||| place 0 (BitVec.ofNat 6 f.code))
  | .scmp q c a b => some (0x97000000#32 ||| place 22 q ||| place 18 (BitVec.ofNat 4 c.code) ||| place 12 a ||| place 6 b)
  | .ssel s a b q => some (0x98000000#32 ||| place 18 s ||| place 12 a ||| place 6 b ||| place 0 q)
  | .sadd64 s a b => some (0x99000000#32 ||| place 18 s ||| place 12 a ||| place 6 b)
  | .sfadd s a b m => some (0x9A000000#32 ||| place 18 s ||| place 12 a ||| place 6 b ||| place 0 m)
  | .sfmul s a b m => some (0x9B000000#32 ||| place 18 s ||| place 12 a ||| place 6 b ||| place 0 m)
  | .sffma s a b m => some (0x9C000000#32 ||| place 18 s ||| place 12 a ||| place 6 b ||| place 0 m)
  | .sfcmp q c a b => some (0x9D000000#32 ||| place 22 q ||| place 18 (BitVec.ofNat 4 c.code) ||| place 12 a ||| place 6 b)
  | .sfun s a f => some (0x9E000000#32 ||| place 18 s ||| place 12 a ||| place 0 (BitVec.ofNat 6 f.code))
  | .srdlane v s l => some (0xA0000000#32 ||| place 16 v ||| place 10 s ||| place 0 l)
  | .swrlane v s l => some (0xA1000000#32 ||| place 16 v ||| place 10 s ||| place 0 l)
  | .sballot s n => some (0xA2000000#32 ||| place 18 s ||| place 0 n)
  | .skmov s n => some (0xA3000000#32 ||| place 18 s ||| place 0 n)
  | .skmovK a n => some (0xA3000008#32 ||| place 12 a ||| place 0 n)
  | .skop d a b f => some (0xA4000000#32 ||| place 18 d ||| place 12 a ||| place 6 b ||| place 0 (BitVec.ofNat 6 f.code))
  | .sfirst s n => some (0xA5000000#32 ||| place 18 s ||| place 0 n)
  | .sspec s c => some (0xA6000000#32 ||| place 18 s ||| place 0 c)
  | .sspecw s c => some (0xA7000000#32 ||| place 18 s ||| place 0 c)
  | .setmr a => some (0xA8000000#32 ||| place 12 a)
  | .setmrNone => some 0xA8000001#32
  | .trap e => some (0xA9000000#32 ||| place 0 e)
  | .tret k => some (0xAA000000#32 ||| place 0 (BitVec.ofBool k))
  | .sleep i => some (0xAB000000#32 ||| place 0 i)
  | .sleepReg a => some (0xAB000800#32 ||| place 12 a)
  | .brk e => some (0xAC000000#32 ||| place 0 e)
  | .nop => some 0xAD000000#32
  | .sld s r w o => some (0xB0000000#32 ||| place 18 s ||| place 14 r ||| place 12 (BitVec.ofNat 2 w.code) ||| place 0 o)
  | .sst s r w o => some (0xB1000000#32 ||| place 18 s ||| place 14 r ||| place 12 (BitVec.ofNat 2 w.code) ||| place 0 o)
  | .sldsp s r w o => some (0xB2000000#32 ||| place 18 s ||| place 14 r ||| place 12 (BitVec.ofNat 2 w.code) ||| place 0 o)
  | .sstsp s r w o => some (0xB3000000#32 ||| place 18 s ||| place 14 r ||| place 12 (BitVec.ofNat 2 w.code) ||| place 0 o)
  | .satom p r w n o => some (0xB4000000#32 ||| place 18 (BitVec.ofNat 6 p.code) ||| place 14 r ||| place 12 (BitVec.ofNat 2 w.code) ||| place 6 n ||| place 0 o)
  | .brset n a => some (0xB5000000#32 ||| place 18 n ||| place 12 a)
  | .brget s n => some (0xB6000000#32 ||| place 18 s ||| place 12 n)
  | .fence c o p d => some (0xB7000000#32 ||| place 21 c ||| place 19 o ||| place 12 p ||| place 5 d)
  | .pgreq s a b => some (0xB8000000#32 ||| place 18 s ||| place 12 a ||| place 6 b)
  | .sealPages a b => some (0xB9000000#32 ||| place 12 a ||| place 6 b)
  | .unsealPages a b => some (0xBA000000#32 ||| place 12 a ||| place 6 b)
  | .cinv a b n => some (0xBB000000#32 ||| place 12 a ||| place 6 b ||| place 0 n)
  | .cwb a b n => some (0xBC000000#32 ||| place 12 a ||| place 6 b ||| place 0 n)
  | .cpy a x => some (0xC0000000#32 ||| place 12 a ||| place 0 (BitVec.ofBool x))
  | .cpym a x => some (0xC1000000#32 ||| place 12 a ||| place 0 (BitVec.ofBool x))
  | .cpys a => some (0xC2000000#32 ||| place 12 a)
  | .cpyg a => some (0xC3000000#32 ||| place 12 a)
  | .chkin a => some (0xC4000000#32 ||| place 12 a)
  | .layseal a => some (0xC5000000#32 ||| place 12 a)
  | .launch a b n => some (0xC8000000#32 ||| place 12 a ||| place 6 b ||| place 0 n)
  | .tenq a b q => some (0xC9000000#32 ||| place 12 a ||| place 6 b ||| place 0 q)
  | .moor v s c n => some (0xCA000000#32 ||| place 16 v ||| place 10 s ||| place 3 c ||| place 0 n)
  | .castoff a => some (0xCB000000#32 ||| place 12 a)
  | .castoffAll => some 0xCB000001#32
  | .dcset d a i => some (0xCC000000#32 ||| place 18 d ||| place 12 a ||| place 0 i)
  | .dcadd a i => some (0xCD000000#32 ||| place 12 a ||| place 0 i)
  | .dcwait i => some (0xCE000000#32 ||| place 0 i)
  | .stamp a f => some (0xCF000000#32 ||| place 12 a ||| place 0 (BitVec.ofNat 6 f.code))
  | .kcnt a n d => some (0xD0000000#32 ||| place 12 a ||| place 6 n ||| place 0 d)
  | .kwait a n => some (0xD1000000#32 ||| place 12 a ||| place 6 n)
  | .kprobe s a n => some (0xD2000000#32 ||| place 18 s ||| place 12 a ||| place 6 n)
  | .chload h x y b l => some (0xD8000000#32 ||| place 19 h ||| place 13 x ||| place 7 y ||| place 1 b ||| place 0 (BitVec.ofBool l))
  | .chrel h l => some (0xD9000000#32 ||| place 19 h ||| place 0 (BitVec.ofBool l))
  | .atdef h x y a l => some (0xDA000000#32 ||| place 19 h ||| place 13 x ||| place 7 y ||| place 4 a ||| place 0 (BitVec.ofBool l))
  | .mma h x y a b l => some (0xDB000000#32 ||| place 19 h ||| place 13 x ||| place 7 y ||| place 4 a ||| place 1 b ||| place 0 (BitVec.ofBool l))
  | .mmag h x y a b l => some (0xDC000000#32 ||| place 19 h ||| place 13 x ||| place 7 y ||| place 4 a ||| place 1 b ||| place 0 (BitVec.ofBool l))
  | .mmav h x y a b l => some (0xDD000000#32 ||| place 19 h ||| place 13 x ||| place 7 y ||| place 4 a ||| place 1 b ||| place 0 (BitVec.ofBool l))
  | .accz h l => some (0xDE000000#32 ||| place 19 h ||| place 0 (BitVec.ofBool l))
  | .accld h x y l => some (0xDF000000#32 ||| place 19 h ||| place 13 x ||| place 7 y ||| place 0 (BitVec.ofBool l))
  | .accst h x y l => some (0xE0000000#32 ||| place 19 h ||| place 13 x ||| place 7 y ||| place 0 (BitVec.ofBool l))
  | .accrd h x y c l => some (0xE1000000#32 ||| place 19 h ||| place 13 x ||| place 7 y ||| place 4 c ||| place 0 (BitVec.ofBool l))
  | .accwr h x y c l => some (0xE2000000#32 ||| place 19 h ||| place 13 x ||| place 7 y ||| place 4 c ||| place 0 (BitVec.ofBool l))
  | .accmap h x y f l => some (0xE3000000#32 ||| place 19 h ||| place 13 x ||| place 7 y ||| place 1 (BitVec.ofNat 3 f.code) ||| place 0 (BitVec.ofBool l))
  | .rfil h x y a l => some (0xE4000000#32 ||| place 19 h ||| place 13 x ||| place 7 y ||| place 4 a ||| place 0 (BitVec.ofBool l))
  | .rema h x y a l => some (0xE5000000#32 ||| place 19 h ||| place 13 x ||| place 7 y ||| place 4 a ||| place 0 (BitVec.ofBool l))
  | .mprog e x y l => some (0xE6000000#32 ||| place 19 e ||| place 13 x ||| place 7 y ||| place 0 (BitVec.ofBool l))
  | .mseq x y l => some (0xE7000000#32 ||| place 13 x ||| place 7 y ||| place 0 (BitVec.ofBool l))
  | .priow a b c => some (0xE8000000#32 ||| place 12 a ||| place 6 b ||| place 0 c)
  | .rowout v s => some (0xE9000000#32 ||| place 16 v ||| place 10 s)
  | .sbstat s a f => some (0xEA000000#32 ||| place 18 s ||| place 12 a ||| place 0 (BitVec.ofNat 6 f.code))
  | .sysrd s c => some (0xF0000000#32 ||| place 18 s ||| place 0 c)
  | .syswr s c => some (0xF1000000#32 ||| place 18 s ||| place 0 c)
  | .lanest v => some (0xF2000000#32 ||| place 16 v)
  | .laneld v => some (0xF3000000#32 ||| place 16 v)
  | .tlbinv a b c k => some (0xF4000000#32 ||| place 12 a ||| place 6 b ||| place 2 c ||| place 0 k)
  | .preempt a r => some (0xF5000000#32 ||| place 12 a ||| place 0 r)
  | .halt e => some (0xF6000000#32 ||| place 0 e)
  | .clauseStart .. => none
  | .next .. => none
  | .jump .. => none
  | .branch .. => none
  | .loop .. => none
  | .call .. => none
  | .calli .. => none
  | .ret .. => none
  | .jumpi .. => none
  | .meet .. => none
  | .exit .. => none
  | .yield .. => none
  | .trapif .. => none
  | .meetingRelease .. => none
  | .wavePromotion .. => none
  | .sleepExpiry .. => none
  | .groupExit .. => none
  | .trapEntry .. => none
  | .vfxComplete .. => none
  | .memoryAccessComplete .. => none
  | .scratchpadPresenceResume .. => none
  | .fenceComplete .. => none
  | .sealComplete .. => none
  | .unsealComplete .. => none
  | .cinvComplete .. => none
  | .cwbComplete .. => none
  | .tlbinvComplete .. => none
  | .engineOpComplete .. => none
  | .chloadComplete .. => none
  | .chrelComplete .. => none
  | .mprogComplete .. => none
  | .mseqComplete .. => none
  | .pageRetry .. => none
  | .feedbackReappend .. => none
  | .engineStop .. => none
  | .streamerRecordCheck .. => none
  | .cpymAccept .. => none
  | .copyLanding .. => none
  | .copyComplete .. => none
  | .laysealComplete .. => none
  | .chkinComplete .. => none
  | .traversalComplete .. => none
  | .vrastComplete .. => none
  | .vsemitComplete .. => none
  | .mirrorReceive .. => none
  | .vsbgComplete .. => none
  | .rowoutComplete .. => none
  | .priowComplete .. => none
  | .sbstatComplete .. => none
  | .deltaFlushTimer .. => none
  | .keeperBatchApply .. => none
  | .deltaSend .. => none
  | .delta .. => none
  | .ack .. => none
  | .flushreq .. => none
  | .done .. => none
  | .pick .. => none
  | .tailWake .. => none
  | .launchRecordTake .. => none
  | .recordReadRetry .. => none
  | .schedulerPreempt .. => none
  | .stealRequest .. => none
  | .stealAnswer .. => none
  | .stealBackoff .. => none
  | .binTimer .. => none
  | .moorPoolServe .. => none
  | .preemptDelivery .. => none
  | .vacate .. => none
  | .sweepBoundary .. => none
  | .blockRetry .. => none
  | .bandOpen .. => none
  | .sweepTick .. => none
  | .wavewait .. => none
  | .bandCutoff .. => none
  | .basinAgeing .. => none
  | .rowSend .. => none
  | .gaze .. => none
  | .pose .. => none
  | .position .. => none
  | .panelStatus .. => none
  | .sirricLinkDown .. => none
  | .sirricLinkUp .. => none
  | .patternSweep .. => none
  | .hostMemRead .. => none
  | .hostMemWrite .. => none
  | .hostSnoop .. => none
  | .mailboxRegisterWrite .. => none
  | .loadCtx .. => none
  | .unloadCtx .. => none
  | .preemptCmd .. => none
  | .setIndex .. => none
  | .setPeer .. => none
  | .fwWrite .. => none
  | .fwStart .. => none
  | .fwVerifyDone .. => none
  | .firmwareStartup .. => none
  | .advanceSvn .. => none
  | .setEnvelope .. => none
  | .memtest .. => none
  | .pattern .. => none
  | .moduleReset .. => none
  | .enterReset .. => none
  | .errRing .. => none
  | .sensors .. => none
  | .powerGood .. => none
  | .powerLoss .. => none
  | .cxlLinkUp .. => none
  | .linkReset .. => none
  | .thermalSample .. => none
  | .droop .. => none
  | .coreIdleGate .. => none
  | .gateIsolation .. => none
  | .coreWake .. => none
  | .shedPower .. => none
  | .corePoweredUp .. => none
  | .memtestComplete .. => none
  | .unknownCommand .. => none
  | .hdmDecoderProgram .. => none
  | .reservedEncoding .. => none

/-- The instruction the decoder reads from one word whose bits are `w`, as the table numbers them. Every encoded row
is one 32-bit word, stored little-endian (R3, R75), so the word's bits are the table's bits. -/
def decodeTableWord (nbits w : Nat) : Option Instr :=
  if nbits = 32 then
    (match decodeWord (BitVec.ofNat 32 w) none with
     | .ok i => some i
     | .error _ => none)
  else none

end Sys2Proof
end

