-- ==== Sys2Proof/Machine/Float.lean ====
section
/-! DEFINITION. Machine/Float.lean: number formats, exact values, rounding and the lane generators (R55 to R74).
Every value is exact (a ratio of natural numbers with a sign) until it is rounded, once, into a format. -/
namespace Sys2Proof.Machine

/-- A floating-point format of R55. `top` is the largest finite magnitude as bits without the sign. -/
structure Fmt where
  ebits : Nat
  mbits : Nat
  bias : Nat
  top : Nat
  inf : Option Nat
  qnan : Nat
  deriving DecidableEq, Repr

/-- FP32 (R55). -/
def fp32 : Fmt := ⟨8, 23, 127, 0x7F7FFFFF, some 0x7F800000, 0x7FC00000⟩
/-- FP16 (R55). -/
def fp16 : Fmt := ⟨5, 10, 15, 0x7BFF, some 0x7C00, 0x7E00⟩
/-- BF16 (R55). -/
def bf16 : Fmt := ⟨8, 7, 127, 0x7F7F, some 0x7F80, 0x7FC0⟩
/-- E4M3 (R55): no infinity, and only the all-ones value is NaN. -/
def e4m3 : Fmt := ⟨4, 3, 7, 0x7E, none, 0x7F⟩
/-- E5M2 (R55). -/
def e5m2 : Fmt := ⟨5, 2, 15, 0x7B, some 0x7C, 0x7E⟩

/-- Bits in a value of the format. -/
def Fmt.width (f : Fmt) : Nat := 1 + f.ebits + f.mbits

/-- An exact value: not a number, an infinity, or a signed ratio. A zero keeps its sign. -/
inductive Num where
  | nan
  | inf (neg : Bool)
  | fin (neg : Bool) (num den : Nat)
  deriving DecidableEq, Repr

/-- Ratio of two powers: `2^e` for a signed `e`, as numerator and denominator. -/
def pow2 (e : Int) : Nat × Nat := if 0 ≤ e then (2 ^ e.toNat, 1) else (1, 2 ^ (-e).toNat)

/-- `m × 2^e` with a sign. -/
def Num.ofScaled (neg : Bool) (m : Nat) (e : Int) : Num := .fin neg (m * (pow2 e).1) (pow2 e).2

/-- The value of an integer. -/
def Num.ofInt (i : Int) : Num := .fin (decide (i < 0)) i.natAbs 1

/-- Sign bit of an encoded value. -/
def Fmt.signOf (f : Fmt) (b : Nat) : Bool := (b >>> (f.ebits + f.mbits)) % 2 = 1

/-- Magnitude bits of an encoded value. -/
def Fmt.magOf (f : Fmt) (b : Nat) : Nat := b % 2 ^ (f.ebits + f.mbits)

/-- The value that bits encode (R55, R56). -/
def Fmt.decode (f : Fmt) (b : Nat) : Num :=
  let s := f.signOf b
  let m := f.magOf b
  if m ≤ f.top then
    let e := m >>> f.mbits
    let fr := m % 2 ^ f.mbits
    if e = 0 then .ofScaled s fr (1 - (f.bias : Int) - (f.mbits : Int))
    else .ofScaled s (2 ^ f.mbits + fr) ((e : Int) - (f.bias : Int) - (f.mbits : Int))
  else if f.inf = some m then .inf s
  else .nan

/-- Bits of a sign and a magnitude. -/
def Fmt.pack (f : Fmt) (s : Bool) (m : Nat) : Nat := (if s then 2 ^ (f.ebits + f.mbits) else 0) + m

/-- One draw of a lane generator: the next state and the 24 bits it returns (R68). -/
def drawGen (x : Word) : Word × Nat :=
  let x := x ^^^ (x <<< 13)
  let x := x ^^^ (x >>> 17)
  let x := x ^^^ (x <<< 5)
  (x, (x >>> 8).toNat)

/-- ⌊log₂ (n/d)⌋ for n, d above zero. -/
def floorLog2 (n d : Nat) : Int :=
  let e : Int := (Nat.log2 n : Int) - (Nat.log2 d : Int)
  let p := pow2 e
  if n * p.2 < d * p.1 then e - 1 else e

/-- Is the away-from-zero neighbour chosen? `lo` is the neighbour of smaller magnitude in units of the quantum, and
`r/d` with `0 < r < d` is the rest (R64 to R66). `frac` is ⌊f × 2²⁴⌋ for the draw of mode 6. -/
def roundAway (mode : Nat) (neg : Bool) (lo r d frac u : Nat) : Bool :=
  match mode with
  | 2 => false
  | 3 => !neg
  | 4 => neg
  | 5 => decide (d ≤ 2 * r)
  | 6 => decide (u < frac)
  | _ => decide (d < 2 * r) || (decide (2 * r = d) && decide (lo % 2 = 1))

/-- A rounding request: the mode code of R64, the saturation flag and the generator that a draw would use. -/
structure Rnd where
  mode : Nat := 0
  sat : Bool := false
  gen : Word := 1
  deriving DecidableEq, Repr

/-- Quotient of a nonnegative ratio by the quantum `2^k`: whole part, rest and divisor. -/
def quantum (num den : Nat) (k : Int) : Nat × Nat × Nat :=
  let p := pow2 k
  let d := den * p.1
  ((num * p.2) / d, (num * p.2) % d, d)

/-- Round the magnitude `num/den` above zero to an integral multiple of `2^k`: the multiple and the generator. -/
def roundUnits (neg : Bool) (num den : Nat) (k : Int) (r : Rnd) : Nat × Word :=
  let q := quantum num den k
  if q.2.1 = 0 then (q.1, r.gen)
  else
    let dr := if r.mode = 6 then drawGen r.gen else (r.gen, 0)
    let up := roundAway r.mode neg q.1 q.2.1 q.2.2 (q.2.1 * 2 ^ 24 / q.2.2) dr.2
    (if up then q.1 + 1 else q.1, dr.1)

/-- The quantum of a format at a magnitude: its precision and subnormal spacing, exponent unbounded above (R65). -/
def Fmt.ulpExp (f : Fmt) (num den : Nat) : Int :=
  max (floorLog2 num den) (1 - (f.bias : Int)) - (f.mbits : Int)

/-- Magnitude bits of `n × 2^k`, where k is at least the subnormal spacing. Above `top` the value overflows. -/
def Fmt.magBits (f : Fmt) (n : Nat) (k : Int) : Nat :=
  (k + (f.mbits : Int) + (f.bias : Int) - 1).toNat * 2 ^ f.mbits + n

/-- The magnitude delivered on overflow (the table of R67): infinity, or the largest finite value. -/
def overflowInf (mode : Nat) (neg : Bool) : Bool :=
  match mode with
  | 2 => false
  | 3 => !neg
  | 4 => neg
  | _ => true

/-- Deliver an infinity of a sign, or what the format has in its place (R67). -/
def Fmt.deliverInf (f : Fmt) (neg sat : Bool) : Nat :=
  if sat then f.pack neg f.top
  else match f.inf with
    | some m => f.pack neg m
    | none => f.qnan

/-- RoundTo of R67: the bits delivered and the generator after any draw. -/
def Fmt.round (f : Fmt) (x : Num) (r : Rnd) : Nat × Word :=
  match x with
  | .nan => (f.qnan, r.gen)
  | .inf s => (f.deliverInf s r.sat, r.gen)
  | .fin s num den =>
    if num = 0 then (f.pack s 0, r.gen)
    else
      let msub : Int := 1 - (f.bias : Int) - (f.mbits : Int)
      let p := pow2 msub
      if f.width ≤ 16 ∧ num * p.2 < den * p.1 then
        let dr := drawGen r.gen
        (f.pack s (if dr.2 < num * p.2 * 2 ^ 24 / (den * p.1) then 1 else 0), dr.1)
      else
        let k := f.ulpExp num den
        let u := roundUnits s num den k r
        let m := f.magBits u.1 k
        if f.top < m then
          (if overflowInf r.mode s then f.deliverInf s r.sat else f.pack s f.top, u.2)
        else (f.pack s m, u.2)

/-- Sum of exact values; `rdn` says that an exact zero sum of opposite signs is −0 (R137). -/
def Num.add (rdn : Bool) : Num → Num → Num
  | .nan, _ => .nan
  | _, .nan => .nan
  | .inf s, .inf t => if s = t then .inf s else .nan
  | .inf s, .fin .. => .inf s
  | .fin .., .inf t => .inf t
  | .fin s a b, .fin t c d =>
    if s = t then .fin s (a * d + c * b) (b * d)
    else if a * d = c * b then .fin rdn 0 1
    else if c * b < a * d then .fin s (a * d - c * b) (b * d)
    else .fin t (c * b - a * d) (b * d)

/-- Product of exact values; 0 × ∞ is NaN (R138). -/
def Num.mul : Num → Num → Num
  | .nan, _ => .nan
  | _, .nan => .nan
  | .inf s, .inf t => .inf (s != t)
  | .inf s, .fin t a _ => if a = 0 then .nan else .inf (s != t)
  | .fin s a _, .inf t => if a = 0 then .nan else .inf (s != t)
  | .fin s a b, .fin t c d => .fin (s != t) (a * c) (b * d)

/-- Quotient of exact values, with the infinities and NaNs of IEEE 754. -/
def Num.div : Num → Num → Num
  | .nan, _ => .nan
  | _, .nan => .nan
  | .inf _, .inf _ => .nan
  | .inf s, .fin t _ _ => .inf (s != t)
  | .fin s _ _, .inf t => .fin (s != t) 0 1
  | .fin s a b, .fin t c d =>
    if c = 0 then (if a = 0 then .nan else .inf (s != t)) else .fin (s != t) (a * d) (b * c)

/-- Negation. -/
def Num.neg : Num → Num
  | .nan => .nan
  | .inf s => .inf (!s)
  | .fin s a b => .fin (!s) a b

/-- Absolute value. -/
def Num.abs : Num → Num
  | .nan => .nan
  | .inf _ => .inf false
  | .fin _ a b => .fin false a b

/-- Is the value a NaN? -/
def Num.isNan (x : Num) : Bool := decide (x = .nan)

/-- Order of two values that are no NaN, −0 equal to +0. -/
def Num.lt : Num → Num → Bool
  | .fin s a b, .fin t c d =>
    let x : Int := if s then -((a * d : Nat) : Int) else ((a * d : Nat) : Int)
    let y : Int := if t then -((c * b : Nat) : Int) else ((c * b : Nat) : Int)
    decide (x < y)
  | .inf s, .inf t => s && !t
  | .inf s, .fin .. => s
  | .fin .., .inf t => !t
  | _, _ => false

/-- Equality of two values that are no NaN, −0 equal to +0. -/
def Num.eqv (x y : Num) : Bool := !x.isNan && !y.isNan && !x.lt y && !y.lt x

/-- Sign of a value that is no NaN. -/
def Num.isNeg : Num → Bool
  | .nan => false
  | .inf s => s
  | .fin s _ _ => s

/-- Is the value a zero? -/
def Num.isZero : Num → Bool
  | .fin _ a _ => decide (a = 0)
  | _ => false

/-- minimumNumber of two encoded values (R71): −0 below +0, a NaN yields the other operand. -/
def Fmt.minNum (f : Fmt) (x y : Nat) : Nat :=
  let a := f.decode x
  let b := f.decode y
  if a.isNan then (if b.isNan then f.qnan else y)
  else if b.isNan then x
  else if a.lt b then x
  else if b.lt a then y
  else if a.isNeg then x else y

/-- maximumNumber of two encoded values (R71). -/
def Fmt.maxNum (f : Fmt) (x y : Nat) : Nat :=
  let a := f.decode x
  let b := f.decode y
  if a.isNan then (if b.isNan then f.qnan else y)
  else if b.isNan then x
  else if a.lt b then y
  else if b.lt a then x
  else if a.isNeg then y else x

/-- A comparison condition of R140 on FP32 bits. -/
def fcond (c : FCond) (x y : Nat) : Bool :=
  let a := fp32.decode x
  let b := fp32.decode y
  let un := a.isNan || b.isNan
  match c with
  | .oeq => a.eqv b
  | .one => !un && !a.eqv b
  | .olt => a.lt b
  | .ole => !un && !b.lt a
  | .ogt => b.lt a
  | .oge => !un && !a.lt b
  | .uno => un
  | .ord => !un
  | .ueq => un || a.eqv b
  | .une => un || !a.eqv b

/-- Round to an integer (R141 RINT, R146): sign, magnitude and generator. -/
def Num.toIntegral (s : Bool) (num den : Nat) (r : Rnd) : Nat × Word :=
  if num = 0 then (0, r.gen) else roundUnits s num den 0 r

/-- An FP32 value rounded to an integer and saturated to `[lo, hi]`; NaN gives 0 (R146). -/
def toIntSat (x : Num) (lo hi : Int) (r : Rnd) : Int × Word :=
  match x with
  | .nan => (0, r.gen)
  | .inf s => (if s then lo else hi, r.gen)
  | .fin s num den =>
    let u := Num.toIntegral s num den r
    let v : Int := if s then -(u.1 : Int) else (u.1 : Int)
    (max lo (min hi v), u.2)

/-- Whole part of the square root, by bits from the top down; `fuel` bits are decided. -/
def isqrtBits : Nat → Nat → Nat → Nat
  | 0, _, r => r
  | fuel + 1, n, r =>
    let c := r + 2 ^ fuel
    isqrtBits fuel n (if c * c ≤ n then c else r)

/-- Whole part of the square root. -/
def isqrt (n : Nat) : Nat := isqrtBits (Nat.log2 n / 2 + 1) n 0

/-- Square root of FP32 bits, correctly rounded in the mode (R74, R142). -/
def fp32Sqrt (x : Num) (r : Rnd) : Nat × Word :=
  match x with
  | .nan => (fp32.qnan, r.gen)
  | .inf s => (if s then fp32.qnan else fp32.deliverInf false r.sat, r.gen)
  | .fin s num den =>
    if num = 0 then (fp32.pack s 0, r.gen)
    else if s then (fp32.qnan, r.gen)
    else
      -- the root's binade, then the root in units of its quantum 2^k
      let e := floorLog2 num den
      let k : Int := e / 2 - 23
      let p := pow2 (2 * k)
      let n := num * p.2
      let d := den * p.1
      let whole := isqrt (n / d)
      if whole * whole * d = n then (fp32.pack false (fp32.magBits whole k), r.gen)
      else
        let frac := isqrt (n * 2 ^ 48 / d) - whole * 2 ^ 24
        let dr := if r.mode = 6 then drawGen r.gen else (r.gen, 0)
        -- the root is irrational or lies between neighbours: the half is passed when (2w+1)² < 4n/d
        let above := decide ((2 * whole + 1) * (2 * whole + 1) * d < 4 * n)
        let up := match r.mode with
          | 2 => false
          | 3 => true
          | 4 => false
          | 6 => decide (dr.2 < frac)
          | _ => above
        (fp32.pack false (fp32.magBits (if up then whole + 1 else whole) k), dr.1)

end Sys2Proof.Machine
end

