-- ==== Sys2Proof/Config.lean ====
section
/-! DEFINITION. Config.lean: what the manual leaves open or lets the module choose. A constant here has no body, so
nothing can be proved of its value; each is named in the assumption log. -/
namespace Sys2Proof.Config

/-- A free value: what the `i`-th open choice of a run turns out to be. The counter in State says which choice is the
next one (log entry 1). -/
opaque freeValue : Nat → Nat

/-- Module identity values that firmware reports and the manual does not give: serial number, key hash, identity
signature, image version, by index (R451, R457; log entry 2). -/
opaque identity : Nat → Nat

/-- Owner context that firmware's frame ownership table names for a 64 KiB frame before any change to it, by home × 2³² +
PA ÷ 2¹⁶ (R315; log entry 18). -/
opaque frameOwner : Nat → BitVec 8

/-- Threshold of a reservoir's choice where the quotient of the weight by the sum is not defined: the sum is zero or NaN
(R149, R150; log entry 52). -/
opaque openQuotient : Nat → Nat → Nat

/-- MHz by which operating point `p` of a die lies above the one below it, less one (R24, R470; log entry 64). -/
opaque clockStep : Nat → Nat → Nat

/-- Operating point that firmware selects for a die under an envelope in W (R24; log entry 64). -/
opaque pointFor : Nat → Nat → Nat

end Sys2Proof.Config
end

