-- ==== Sys2Proof/Machine/Tab.lean ====
section
/-! DEFINITION. Machine/Tab.lean: tables by number (registers, groups, cores, lines) and the byte store of memory. -/
namespace Sys2Proof.Machine

/-- A table from numbers to entries, in rising order of number. A number that is not listed has no entry. -/
abbrev Tab (α : Type) := List (Nat × α)

/-- The entry at `k`. -/
def tget? {α : Type} : Tab α → Nat → Option α
  | [], _ => none
  | (j, x) :: t, k => if k < j then none else if k = j then some x else tget? t k

/-- The entry at `k`, or `d` where there is none. -/
def tget {α : Type} (t : Tab α) (k : Nat) (d : α) : α := (tget? t k).getD d

/-- The table with `x` at `k`. -/
def tset {α : Type} : Tab α → Nat → α → Tab α
  | [], k, x => [(k, x)]
  | (j, y) :: t, k, x =>
    if k < j then (k, x) :: (j, y) :: t
    else if k = j then (k, x) :: t
    else (j, y) :: tset t k x

/-- The table without an entry at `k`. -/
def tdel {α : Type} : Tab α → Nat → Tab α
  | [], _ => []
  | (j, y) :: t, k =>
    if k < j then (j, y) :: t
    else if k = j then t.filter (fun e => k < e.1)
    else (j, y) :: tdel t k

/-- The entries, lowest number first. -/
def tvals {α : Type} (t : Tab α) : List α := t.map (·.2)

/-- A number that no entry of the table has: one more than the highest. -/
def tfresh {α : Type} (t : Tab α) : Nat := t.foldl (fun m e => max m (e.1 + 1)) 0

/-- Element `i` of a register file, or `d` beyond its end. -/
def vecGet {α : Type} {n : Nat} (v : Vector α n) (i : Nat) (d : α) : α := if h : i < n then v[i] else d

/-- The register file with `x` in element `i`; unchanged beyond its end. -/
def vecSet {α : Type} {n : Nat} (v : Vector α n) (i : Nat) (x : α) : Vector α n := v.setIfInBounds i x

/-- Bytes by address: strictly rising addresses, no byte equal to what an unlisted address reads as (zero). -/
abbrev Bytes := List Host.Cell

/-- What an unlisted address of a byte store reads as. Firmware zeroes LPDDR6 before Full (R453); for every other
home the value is a DESIGN CHOICE, log entry 3. -/
def unlisted : Byte := 0#8

/-- The byte at address `a`. -/
def byteAt : Bytes → Nat → Byte
  | [], _ => unlisted
  | (j, x) :: t, a => if a < j then unlisted else if a = j then x else byteAt t a

/-- The store with byte `x` at address `a`, in canonical form. -/
def putByte : Bytes → Nat → Byte → Bytes
  | [], a, x => if x = unlisted then [] else [(a, x)]
  | (j, y) :: t, a, x =>
    if a < j then (if x = unlisted then (j, y) :: t else (a, x) :: (j, y) :: t)
    else if a = j then (if x = unlisted then t.dropWhile (fun c => decide (c.1 ≤ a)) else (a, x) :: t)
    else (j, y) :: putByte t a x

/-- Every address is above `lo` where given, addresses rise strictly, and no byte is the unlisted value. -/
def canonFrom : Option Nat → Bytes → Bool
  | _, [] => true
  | lo, (j, x) :: t => (match lo with | none => true | some l => decide (l < j)) && decide (x ≠ unlisted)
      && canonFrom (some j) t

/-- The canonical form of a byte store. -/
def Bytes.canon (m : Bytes) : Bool := canonFrom none m

/-- The form of a memory: the canonical form of its byte store. -/
abbrev Memory.wf (m : Bytes) : Bool := m.canon

/-- `n` bytes from address `a`, lowest address first. -/
def bytesAt (m : Bytes) (a n : Nat) : List Byte := (List.range n).map (fun i => byteAt m (a + i))

/-- The store with bytes `xs` from address `a`, lowest address first. -/
def putBytes (m : Bytes) (a : Nat) : List Byte → Bytes
  | [] => m
  | x :: xs => putBytes (putByte m a x) (a + 1) xs

/-- The number that bytes stand for, byte 0 least significant (R3). -/
def leNat : List Byte → Nat
  | [] => 0
  | x :: xs => x.toNat + 256 * leNat xs

/-- The `n` low bytes of a number, byte 0 least significant (R3). -/
def natLe : Nat → Nat → List Byte
  | 0, _ => []
  | n + 1, v => BitVec.ofNat 8 v :: natLe n (v / 256)

/-- Lanes 0 to 31 whose bit of a mask is set, in ascending order (R10). -/
def lanesOf (m : Mask) : List Nat := (List.range 32).filter (fun i => m.getLsbD i)

/-- The mask of lanes that satisfy `p`. -/
def maskOf (p : Nat → Bool) : Mask :=
  (List.range 32).foldl (fun m i => if p i then m ||| (1#32 <<< i) else m) 0#32

/-- True when lane `i` is in the mask. -/
def inMask (m : Mask) (i : Nat) : Bool := m.getLsbD i

/-- The mask of the lowest `n` lanes. -/
def lowLanes (n : Nat) : Mask := maskOf (fun i => decide (i < n))

end Sys2Proof.Machine
end

