-- ==== Sys2Proof/Machine/State.lean ====
section
/-! DEFINITION. Machine/State.lean: every piece of state the manual gives the module, as plain data, and the module
right after reset. Each docstring names the rule that gives the field; a field that is the model's own says so. -/
namespace Sys2Proof.Machine

/-- Why the model stops. -/
inductive Fault where
  /-- An access reached the LPDDR6 of a die at or beyond the 45 GiB that software sees (R15, R443). Raised by the
  physical memory operations of Machine/Phys.lean. Safe: the manual gives such an address no effect. -/
  | badPhysicalAddress (die pa : Nat)
  deriving DecidableEq, Repr

/-- Why the model refuses. -/
inductive Refusal where
  /-- An instruction that has no meaning in the model yet. Raised by Dispatch.lean only. Safe. -/
  | notModelled (mnemonic : String)
  deriving DecidableEq, Repr

/-! ### Lanes and waves -/

/-- A triangle hit (R253, R254): its exact t, t and the weights as delivered, the ids, and whether its back was seen. -/
structure Hit where
  t : Num := .nan
  t32 : Nat := 0
  w1 : Nat := 0
  w2 : Nat := 0
  prim : Nat := 0
  inst : Nat := 0xFFFFFFFF
  geom : Nat := 0
  back : Bool := false
  deriving DecidableEq, Repr

/-- What a walk has still to visit (R249 to R252): a box node, the last `left` triangles of a leaf, an instance node, or
the way out of an instance. -/
inductive Todo where
  | box (va : Nat)
  | tri (va left : Nat)
  | inst (va : Nat)
  | leave
  deriving DecidableEq, Repr

/-- A transform stack entry (R255): the ray outside the instance, and the instance outside. -/
structure Frame where
  ray : List Nat := []
  inst : Nat := 0xFFFFFFFF
  deriving DecidableEq, Repr

/-- One lane's walk of a ray structure (R253 to R256). -/
structure Walk where
  /-- The record with its b-register, the options FIRST, STOPANY and CULLBACK, and whether the group walks in user mode. -/
  recd : QWord := 0
  br : Nat := 0
  first : Bool := false
  stopAny : Bool := false
  cull : Bool := false
  user : Bool := true
  /-- Origin and direction as FP32 bits in the current space, the interval, the mask. -/
  ray : List Nat := []
  tmin : Num := .nan
  tmax : Num := .nan
  mask : Nat := 0
  /-- Node stack with the ways out between its entries; transform stack; the current instance. -/
  todo : List Todo := []
  frames : List Frame := []
  inst : Nat := 0xFFFFFFFF
  /-- The closest hit so far, the candidate of a suspended walk, the instance that a walk stopped at (VA and id). -/
  best : Option Hit := none
  cand : Option Hit := none
  deep : Nat := 0
  deepId : Nat := 0
  /-- STATUS at its end; none while it runs. -/
  status : Option Nat := none
  gen : Nat := 0
  deriving DecidableEq, Repr

/-- Hidden state of one lane (R41), its save slot (R164), its two generators (R68, R148). -/
structure Lane where
  /-- Address of the clause header the lane executes next: 52 bits (R41). -/
  pc : BitVec 52 := 0
  /-- Meeting register: a clause address or none (R41). -/
  mr : Option (BitVec 52) := none
  /-- Call stack pointer: 6 bits (R41). -/
  csp : BitVec 6 := 0
  /-- Resume word index: 4 bits; the value LEN + 1 that TRET.SKIP can form is consumed within TRET (R41, R167). -/
  rwi : BitVec 4 := 0
  /-- Save slot: PC, MR, call stack pointer, resume word index at trap entry (R164, R170). -/
  savePc : BitVec 52 := 0
  saveMr : Option (BitVec 52) := none
  saveCsp : BitVec 6 := 0
  saveRwi : BitVec 4 := 0
  /-- Which wave the lane was in at trap entry, for TRET (R268), and its MR if it was held then (R271, R274). -/
  saveWave : Nat := 0
  heldMr : Option (Option (BitVec 52)) := none
  /-- Rounding generator: 32 bits, never zero (R68). -/
  gen : Word := 1
  /-- Selection generator of the reservoir instructions (R148). -/
  selGen : Word := 1
  /-- The lane's saved walk, and the GEN it was last given (R255, R256). -/
  walk : Option Walk := none
  walkGen : Nat := 0
  deriving DecidableEq, Repr

/-- Why a wave is parked inside an instruction (R275). -/
inductive Park where
  | presence | keeper | kwait | dcwait | tenqFull | moorPool | moorBin
  deriving DecidableEq, Repr

/-- What a wave is doing (R79, R275). -/
inductive Phase where
  /-- About to start the clause at its lanes' PC. -/
  | start
  /-- Held at a meeting point (R270). -/
  | held
  /-- Step 2 of R79: the clause is fetched and waits for the flags its header names; the wait has ended, and the wave is
  ready (R275). -/
  | waiting
  | waited
  /-- The words of the clause issue in order. -/
  | body
  /-- Parked inside the instruction at the wave's word index. -/
  | parked (why : Park)
  /-- Sleeping until a cycle of the core's count (R161). -/
  | sleeping (till : Nat)
  /-- Step 7 of R79: waiting for the operations charged to flag "none". -/
  | draining
  /-- Stopped for a trap entry (R164). -/
  | stopped
  /-- Waiting until TLBINV has completed (R171). -/
  | fencedTlb (op : Nat)
  /-- Ended an EXIT clause in the PREEMPT handler and waits to vacate (R435). -/
  | vacating
  deriving DecidableEq, Repr

/-- A task that a TENQ of the clause runs inline at the clause's end (R238): entry, payload, completion counter. -/
structure InlineTask where
  entry : BitVec 52 := 0
  payload : List Word := []
  done : Nat := 0
  /-- Lanes of the task that a trap took apart and that are still to come to the clause's end. -/
  owed : Mask := 0
  deriving DecidableEq, Repr

/-- What a word read when it issued and parked: the registers of its group, and the flag it is charged to meanwhile
(R36, R38). -/
structure Snap where
  v : Tab Word := []
  s : Vector Word 64 := Vector.replicate 64 0
  k : Vector Mask 8 := Vector.replicate 8 0
  q : BitVec 4 := 0
  b : Vector QWord 16 := Vector.replicate 16 0
  flag : Option Nat := none
  deriving DecidableEq, Repr

/-- A wave: live lanes of one group that share a PC and resume index and issue together (R267). The clause it runs is
latched when it is fetched (R79). -/
structure Wave where
  lanes : Mask := 0
  phase : Phase := .start
  /-- Address, header and words of the latched clause (R75, R77). -/
  addr : BitVec 52 := 0
  hdr : DWord := 0
  words : List Word := []
  /-- The clause's enabled lanes, E (R79). -/
  en : Mask := 0
  /-- Index of the next word. -/
  idx : Nat := 0
  /-- A prefix word that applies to the next word (R91), with its own index one below. -/
  pfx : Option Word := none
  /-- Indirect targets of CALLI and JUMPI by lane, read when the clause starts (R83). -/
  ind : Tab Nat := []
  /-- The cycle in which the wave last became ready or issued (R278). -/
  readyAt : Nat := 0
  /-- Its next word waits for a resource (R275). -/
  stalled : Bool := false
  /-- What its word read at issue, while the wave is parked inside it (R38). -/
  snap : Option Snap := none
  /-- Waves that a YIELD waits for, as group and wave numbers (R279). -/
  barred : List (Nat × Nat) := []
  /-- Promoted: ready for 1024 cycles or more without issuing (R278). -/
  promoted : Bool := false
  /-- The wave resumes inside a clause after TRET (R167); it was held when a trap stopped it, or has left the waiting set
of the clause that it starts, which does not hold it again (R271, R274). -/
  resumed : Bool := false
  wasHeld : Bool := false
  freed : Bool := false
  /-- A task to run inline at the clause's end (R238). -/
  inl : Option InlineTask := none
  deriving DecidableEq, Repr

/-! ### Operations in flight -/

/-- What a suspended operation waits for (R219, R234, R414): the address whose page is absent, whether it is to be
written, the time of the next retry, and, while its ring entry was filtered or dropped, when it was last appended. -/
structure Susp where
  va : Nat := 0
  write : Bool := false
  replica : Bool := false
  retryAt : Nat := 0
  again : Option Nat := none
  deriving DecidableEq, Repr

/-- What a piece of a read delivered: the value, or the place of the piece in the access and the key of the poison that it
met (R464). -/
structure Got where
  val : Nat := 0
  bad : Option (Nat × Nat) := none
  deriving DecidableEq, Repr

/-- A long-latency operation of a group between its issue and its completion (R38, R39, R86). What it read at issue
is captured here. -/
structure POp where
  id : Nat := 0
  instr : Instr := .nop
  /-- The prefix word it carried, if any. -/
  pfx : Option Word := none
  /-- The flag it is charged to; none for flag "none" (R86). -/
  flag : Option Nat := none
  /-- The wave that issued it, by lowest lane at issue. -/
  wid : Nat := 0
  /-- Active lanes, and masked lanes to be zeroed (R117). -/
  act : Mask := 0
  zero : Mask := 0
  /-- The buffer record read at issue (R38). -/
  recd : QWord := 0
  /-- Captured values: by lane × 64 + position. -/
  vals : Tab Nat := []
  /-- Captured uniform values. -/
  args : List Nat := []
  /-- Virtual address by lane, for lanes that make an access. -/
  vas : Tab Nat := []
  /-- Physical key (home × 2⁴⁸ + PA) by lane, for lanes that make an access. -/
  pas : Tab Nat := []
  /-- What a scratchpad load has read of lines that it took ahead of its others, as `pas` is indexed (R304). -/
  got : Tab Got := []
  /-- Bytes that each entry of `pas` stands for. -/
  unit : Nat := 0
  /-- Scope and order of a memory access (R93), and the bytes of one lane's access. -/
  scope : Nat := 1
  order : Nat := 0
  size : Nat := 0
  /-- Lanes that were out of bounds or met an absent page at issue. -/
  oob : Mask := 0
  absent : Mask := 0
  /-- Clause address and word index, for what an error completion reports. -/
  clause : BitVec 52 := 0
  idx : Nat := 0
  /-- Progress counter of operations that restart (R219, R221). -/
  stage : Nat := 0
  /-- Accepted by its unit, and stopped by preemption (R203, R221). -/
  accepted : Bool := false
  stopped : Bool := false
  /-- PREEMPT has told it to stop at its next boundary (R221). -/
  stopReq : Bool := false
  /-- Suspended on an absent page (R219, R234, R255). -/
  suspended : Option Susp := none
  /-- Walks of a traversal operation by lane, while they run (R255). -/
  walks : Tab Walk := []
  /-- A store that is still on its way to its home although a later write of its group has performed (R290, R339). -/
  lag : Bool := false
  /-- It has taken the contents of a poisoned register along (R464). -/
  bad : Bool := false
  deriving DecidableEq, Repr

/-- A trap to be reported: cause, kind (0 W, 1 S, 2 T, 3 C, 4 X), SYS_TADDR, SYS_TDETAIL, SYS_TMASK (R163, R168). -/
structure Trap where
  cause : Nat := 0
  kind : Nat := 0
  addr : DWord := 0
  detail : DWord := 0
  lanes : Mask := 0
  deriving DecidableEq, Repr

/-- A bound accumulator tile handle (R34, R209). -/
structure Tile where
  base : Nat := 0
  rows : Nat := 0
  cols : Nat := 0
  f16 : Bool := false
  rnd : Nat := 0
  sat : Bool := false
  deriving DecidableEq, Repr

/-- One translation held by a TLB, a sampler TLB or a prediction register (R410). -/
structure TlbEntry where
  ctx : Nat := 0
  die : Nat := 0
  /-- VA[51:16] of the page, or VA[51:28] × 2¹² for a 256 MiB page. -/
  vpn : Nat := 0
  big : Bool := false
  leaf : DWord := 0
  /-- Home key of the leaf's entry in memory, for the A and D bits (R412). -/
  at_ : Nat := 0
  deriving DecidableEq, Repr

/-- A prediction register: the last translation used through a record, the record as it was, and the VA (R410, R411). -/
structure Pred where
  recd : QWord := 0
  va : Nat := 0
  entry : TlbEntry := {}
  deriving DecidableEq, Repr

/-! ### Groups, teams, grids -/

/-- How a group came to be (R44). -/
inductive Origin where
  | grid | task | castoff | probe
  deriving DecidableEq, Repr

/-- What a lane spawned by MOOR owes at its exit (R240, R299). -/
structure Spawn where
  /-- Join counter, 0xFFFF for none; scope of the release; pool and number of its block (R240, R394, R395). -/
  join : Nat := 0xFFFF
  scope : Nat := 3
  pool : Nat := 0
  block : Nat := 0
  deriving DecidableEq, Repr

/-- An inline task that runs (R238): the lanes that have not returned, the completion counter it names, and lanes that have
still to enter because a trap took them apart from the others. -/
structure Inline where
  lanes : Mask := 0
  done : Nat := 0
  owed : Mask := 0
  deriving DecidableEq, Repr

/-- A register of 32 bits that a completion writes: of a lane, of the group, or a k-register (R39). -/
inductive Loc where
  | v (i : Nat) | s (i : Nat) | k (i : Nat)
  deriving DecidableEq, Repr

/-- A register that a completed operation has written while the flag it was charged to has not been observed at zero: a
read still returns what it held before, or what it holds (R39). -/
structure Late where
  loc : Loc := .v 0
  old : Word := 0
  flag : Option Nat := none
  wid : Nat := 0
  /-- Bits of it that the word being run has written, and whether that word has observed the flag. -/
  wr : Word := 0
  done : Bool := false
  deriving DecidableEq, Repr

/-- A group of up to 32 lanes (R26). -/
structure Group where
  team : Nat := 0
  grid : Nat := 0
  ctx : Nat := 0
  core : Nat := 0
  /-- Partition and slot index within it (R46, R431). -/
  part : Nat := 0
  slot : Nat := 0
  origin : Origin := .grid
  /-- Declared width in lanes and declared v-registers (R27, R30). -/
  width : Nat := 32
  n : Nat := 192
  live : Mask := 0
  lanes : Vector Lane 32 := Vector.replicate 32 {}
  /-- v-registers, by register × 32 + lane (R27). -/
  v : Tab Word := []
  s : Vector Word 64 := Vector.replicate 64 0
  /-- k0–k7 as one mask each; k0 reads as ones whatever element 0 holds (R32). -/
  k : Vector Mask 8 := Vector.replicate 8 0
  q : BitVec 4 := 0
  b : Vector QWord 16 := Vector.replicate 16 0
  /-- Prediction registers, by b-register (R410, R411). -/
  preds : Tab Pred := []
  a : Vector (Option Tile) 32 := Vector.replicate 32 none
  /-- Completion flags f0–f11: counts 0 to 63 (R36). -/
  flags : Vector Nat 12 := Vector.replicate 12 0
  /-- Registers whose completion no wave has observed yet (R39). -/
  late : List Late := []
  /-- Poisoned v-registers, by register × 32 + lane (R463, R464). -/
  bad : List Nat := []
  /-- Its waves, by their lowest lane at their making (R267, R268). -/
  waves : Tab Wave := []
  /-- Operations in flight, in issue order (R26). -/
  ops : List POp := []
  /-- Stamp, Keeper node, stamp staging register (R53, R244). -/
  stamp : DWord := 0
  node : Nat := 0
  staging : Word := 0
  /-- SR_PRIO, and the priority of issue, which a write changes from the next clause (R52). -/
  prio : Nat := 0
  issuePrio : Nat := 0
  /-- The launch priority fixed at creation (R172). -/
  launchPrio : Nat := 0
  /-- SR_STATUS bits OOB, FBDROP, CPOOB (R48). -/
  status : BitVec 3 := 0
  /-- The cycle in which a completion last set each bit of it (R51). -/
  statusAt : Tab Nat := []
  /-- Clock latch and time latch (R48). -/
  clockLatch : Word := 0
  nsLatch : Word := 0
  /-- SR_SEQ (R48). -/
  seq : Word := 0
  /-- Group index, team index, rank, producer group of the team, inline depth limit, call depth limit (R42, R48). -/
  gidx : Nat := 0
  tidx : Nat := 0
  cidx : Nat := 0
  rank : Nat := 0
  producer : Nat := 0
  inlineLimit : Nat := 0
  callLimit : Nat := 0
  /-- Current inline tasks, innermost first: SR_INLINE.DEPTH is their number (R48, R238). -/
  inlines : List Inline := []
  /-- Inline tasks that a trap found waiting for the end of their clause: lanes, clause and task (R238). -/
  inlHeld : List (Mask × BitVec 52 × InlineTask) := []
  /-- Lanes that MOOR spawned: what each owes at its exit (R240). -/
  spawns : Tab Spawn := []
  /-- Completion counter that falls at the group's exit (R236, R237); 0xFFFF for none. -/
  doneCtr : Nat := 0xFFFF
  /-- Supervisor mode, and the registers of the current trap entry (R164, R168). -/
  sup : Bool := false
  tcause : Nat := 0
  tkind : Nat := 0
  tmask : Mask := 0
  taddr : DWord := 0
  tdetail : DWord := 0
  scr : Vector Word 4 := Vector.replicate 4 0
  /-- The trap whose entry is under way while other waves run to their boundaries (R164). -/
  entering : Option Trap := none
  /-- Error completions held for report, in completion order (R88, R166). -/
  errors : List Trap := []
  /-- A PREEMPT held pending: its SYS_TDETAIL (R166). -/
  preempt : Option DWord := none
  /-- A FENCE of the group has not completed (R196), by operation. -/
  fence : Option Nat := none
  /-- The group's last lane has exited and its operations are draining (R85). -/
  exiting : Bool := false
  /-- Step of R435 that a vacating group has reached; 0 for none. -/
  vacate : Nat := 0
  deriving DecidableEq, Repr

/-- A chamber group that a CHLOAD has allocated (R201, R206). -/
structure Chamber where
  /-- Chambers it takes of the team's reservation, weight code, K extent in blocks, columns. -/
  count : Nat := 0
  fmt : Nat := 0
  kBlocks : Nat := 0
  cols : Nat := 0
  /-- The load has completed (R35); a CHREL has released it, so that its chambers return once no operation names it. -/
  loaded : Bool := false
  released : Bool := false
  /-- An uncorrectable error has marked a row of it (R463). -/
  poisoned : Bool := false
  /-- Weights by column × 2¹³ + element, less the zero point for Z4, and encoded scales by column × 2⁸ + group. -/
  weights : Tab Int := []
  scales : Tab Nat := []
  deriving DecidableEq, Repr

/-- A team: its scratchpad, accumulators, chamber handles (R26). -/
structure Team where
  ctx : Nat := 0
  grid : Nat := 0
  core : Nat := 0
  tidx : Nat := 0
  /-- Groups of the team still resident, and how many it started with. -/
  groups : List Nat := []
  size : Nat := 1
  producer : Nat := 0
  rank : Nat := 0
  /-- Scratchpad allocation in bytes, its bytes, and the lines whose presence bit is clear, with the number of copies
  that cleared each and have not landed (R302, R303). -/
  spadLen : Nat := 0
  spad : Bytes := []
  cleared : Tab Nat := []
  /-- Accumulator allocation in bytes, and its bytes (R307). -/
  accLen : Nat := 0
  acc : Bytes := []
  /-- h-registers: the chamber group that a handle is bound to (R35). -/
  h : Vector (Option Nat) 32 := Vector.replicate 32 none
  /-- Chamber groups by number, and the chambers reserved by the launch (R202). -/
  chambers : Tab Chamber := []
  reserved : Nat := 0
  /-- Copies accepted for the allocation that have not landed (R437). -/
  inbound : Nat := 0
  /-- Every group has exited or vacated, and the allocations wait for inbound copies (R365, R437). -/
  ended : Bool := false
  /-- Priority of the team's launch (R172), and the gang cluster it belongs to, if any (R282). -/
  prio : Nat := 0
  gang : Option Nat := none
  deriving DecidableEq, Repr

/-- A walk cache entry: a non-leaf page table entry (R410). -/
structure WalkEntry where
  ctx : Nat := 0
  level : Nat := 0
  index : Nat := 0
  entry : DWord := 0
  deriving DecidableEq, Repr

/-! ### Counts and messages of the Keeper, dependence counters -/

/-- A change to the count of a pointstamp (R329, R330). -/
structure Delta where
  ctx : Nat := 0
  node : Nat := 0
  stamp : DWord := 0
  d : Int := 0
  deriving DecidableEq, Repr

/-- An entry of a Keeper table (R332) or of its view of the other die (R335). -/
structure KEntry where
  ctx : Nat := 0
  node : Nat := 0
  stamp : DWord := 0
  count : Int := 0
  /-- Core buffers that still hold a delta for it. -/
  buffers : Nat := 0
  deriving DecidableEq, Repr

/-- A message between the Keepers (R335). -/
inductive Msg where
  | delta (n : Nat) (ds : List Delta)
  | ack (n : Nat)
  | flushReq
  | done (m : Nat)
  deriving DecidableEq, Repr

/-- A KWAIT word that waits at a Keeper (R334). -/
structure Waiter where
  ctx : Nat := 0
  node : Nat := 0
  stamp : DWord := 0
  gid : Nat := 0
  wid : Nat := 0
  /-- The open round began after the last decrement for the waiter's context (R335). -/
  covered : Bool := false
  /-- A round that began after the last relevant decrement has completed (R335). -/
  fresh : Bool := false
  deriving DecidableEq, Repr

/-- A task record in a queue (R237), with the grid whose shape its group takes (R239). -/
structure Task where
  ctx : Nat := 0
  entry : Nat := 0
  node : Nat := 0
  stamp : DWord := 0
  prio : Nat := 0
  done : Nat := 0xFFFF
  payload : List Word := []
  grid : Nat := 0
  /-- The core that armed it on a dependence counter, whose counts are sent before the task starts elsewhere (R330). -/
  armedBy : Option Nat := none
  deriving DecidableEq, Repr

/-- A task armed on a dependence counter: where its record lies, the record as DCSET read it with the pointstamp that
the arming counted and the priority cap (R243, R324). -/
structure Armed where
  va : Nat := 0
  cap : Nat := 0
  user : Bool := true
  task : Task := {}
  /-- The counter has fired and the scheduler has read the record again (R324). -/
  fresh : Bool := false
  deriving DecidableEq, Repr

/-- A dependence counter (R242). -/
structure DepCtr where
  value : Word := 0
  armed : Option Armed := none
  deriving DecidableEq, Repr

/-! ### Work that waits: grids, tasks, cast-off groups, restore entries -/

/-- A launch record as the scheduler has read it (R349). -/
structure LaunchRec where
  entry : Nat := 0
  teams : Nat := 1
  cols : Nat := 1
  rows : Nat := 1
  gang : Bool := false
  mcast : Bool := false
  groups : Nat := 1
  lanes : Nat := 32
  vregs : Nat := 16
  scratch : Nat := 0
  accum : Nat := 0
  producer : Nat := 0
  prio : Nat := 0
  inlineLimit : Nat := 0
  callDepth : Nat := 0
  chambers : Nat := 0
  fs : Vector Word 8 := Vector.replicate 8 0
  s : Vector Word 16 := Vector.replicate 16 0
  b : Vector QWord 4 := Vector.replicate 4 0
  stamp : DWord := 0
  node : Nat := 0
  done : Nat := 0xFFFF
  mask : Nat := 0
  deriving DecidableEq, Repr

/-- A grid: its launch record and how far it has started and ended (R26, R350, R357). A record that only serves as a
source grid (R239) is a grid with no teams to start. -/
structure Grid where
  ctx : Nat := 0
  die : Nat := 0
  lr : LaunchRec := {}
  prio : Nat := 0
  /-- In the pending grid table; teams not yet started, lowest first; since when it waits (R357, R359). -/
  pending : Bool := false
  toStart : List Nat := []
  since : Nat := 0
  /-- Order of validation on the die (R359). -/
  order : Nat := 0
  /-- Groups that have not exited, teams not yet started included. -/
  groupsLeft : Nat := 0
  /-- Rectangle origins fixed, by cluster index, as core of the die (R360). -/
  rects : Tab Nat := []
  deriving DecidableEq, Repr

/-- A mooring table entry (R392). -/
structure MoorEntry where
  entry : Nat := 0
  cap : Nat := 4
  pool : Nat := 0
  timer : Nat := 1
  node : Nat := 0
  deriving DecidableEq, Repr

/-- A moored lane: the registers of its payload, which lies in its block, and what it owes at its exit (R240, R394). -/
structure MoorLane where
  count : Nat := 1
  owes : Spawn := {}
  deriving DecidableEq, Repr

/-- A bin, or the cast-off group made from one (R398, R400). -/
structure Bin where
  ctx : Nat := 0
  entry : MoorEntry := {}
  stamp : DWord := 0
  /-- Cycle of the core's count at which the timer expires (R398, R402). -/
  timer : Nat := 0
  lanes : List MoorLane := []
  prio : Nat := 0
  grid : Nat := 0
  /-- Cast off, waiting for a core queue entry: s1 of the group (R401). -/
  cast : Option Nat := none
  /-- Operations that the releases of its MOOR words have still to follow (R299). -/
  waits : List Nat := []
  deriving DecidableEq, Repr

/-- What the device keeps of a vacated group (R434, R439). -/
structure Kept where
  group : Group := {}
  /-- SYS_TDETAIL at delivery. -/
  detail : DWord := 0
  deriving DecidableEq, Repr

/-- A restore list entry: a vacated team, or the teams of a gang cluster (R435, R436). -/
structure Restore where
  team : Nat := 0
  shape : Team := {}
  kept : List Kept := []
  prio : Nat := 0
  deriving DecidableEq, Repr

/-- A probe wave that the Sluice launches (R374): its context, source grid, stamp, and words 0 and 1 of its samples. -/
structure ProbeWave where
  ctx : Nat := 0
  grid : Nat := 0
  stamp : DWord := 0
  samples : List (Word × Word) := []
  deriving DecidableEq, Repr

/-- What a queue entry holds. -/
inductive Work where
  | probe (p : ProbeWave)
  | task (t : Task)
  | cast (b : Bin)
  | restore (rs : List Restore)
  deriving DecidableEq, Repr

/-- A queue entry with its priority and the time it arrived (R358). While an operation in `waits` is in flight, the
release that its record awaits has not performed, and it may not start (R237, R299). -/
structure QEntry where
  work : Work
  prio : Nat := 0
  since : Nat := 0
  waits : List Nat := []
  deriving DecidableEq, Repr

/-- A LAUNCH that has issued, until the scheduler takes its record (R236). -/
structure LaunchReq where
  ctx : Nat := 0
  va : Nat := 0
  stamp : DWord := 0
  node : Nat := 0
  cap : Nat := 0
  /-- The core that issued it, and the operations that its release has still to follow (R299). -/
  core : Nat := 0
  waits : List Nat := []
  /-- The record's page was absent: when to read again, and how its ring entry stands (R219, R351). -/
  wait : Option Susp := none
  deriving DecidableEq, Repr

/-- A host submission queue as its serving die holds it (R353 to R356). -/
structure HostQueue where
  ring : Nat := 0
  tailVa : Nat := 0
  statVa : Nat := 0
  log2n : Nat := 2
  dieSel : Nat := 0
  pcap : Nat := 0
  head : Nat := 0
  rej : Nat := 0
  lastIdx : Nat := 0
  lastCode : Nat := 0
  /-- The tail line's TAIL as last read, and whether its line has been lost since (R355, R450). -/
  tail : Nat := 0
  woken : Bool := false
  /-- The next record's page was absent: when to read again, and how its ring entry stands (R219, R351). -/
  wait : Option Susp := none
  deriving DecidableEq, Repr

/-- A pool of a loaded context on a die (R394, R395): BASEd, BLOCKS, the free count, the blocks that came back in this
cycle, and the blocks that lanes hold, by number: empty for one that lies in memory, else its payload. -/
structure Pool where
  base : Nat := 0
  blocks : Nat := 0
  free : Nat := 0
  back : Nat := 0
  store : Tab (List Word) := []
  deriving DecidableEq, Repr

/-- The system registers of a context as a core sees them: a write is seen from the core's next trap entry or from
the context's load (R169). -/
structure SysView where
  trapBase : DWord := 0
  saveArea : DWord := 0
  root : DWord := 0
  towpath : DWord := 0
  sysr : Bool := false
  deriving DecidableEq, Repr

/-- A posted preemption that has not been delivered (R172, R433). -/
structure PreemptReq where
  ctx : Nat := 0
  bound : Nat := 0
  /-- SYS_TDETAIL at delivery. -/
  detail : DWord := 0
  cores : List Nat := []
  /-- Teams named one by one, by the scheduler (R361). -/
  teams : List Nat := []
  deriving DecidableEq, Repr

/-- A steal request (R362): the thief, its free group slots, the free register bytes of each partition, and its free
scratchpad bytes, accumulator bytes and chambers. -/
structure Thief where
  core : Nat := 0
  slots : Nat := 0
  regs : List Nat := []
  spad : Nat := 0
  acc : Nat := 0
  chambers : Nat := 0
  deriving DecidableEq, Repr

/-- The pipes of a partition (R277). -/
inductive Pipe where
  | v0 | v1 | x | u | m | e
  deriving DecidableEq, Repr

/-- A word that a partition has issued: where, by which wave, and the cycles from its issue until its pipe is free
(R277). -/
structure Issue where
  part : Nat := 0
  pipe : Pipe := .u
  gid : Nat := 0
  wid : Nat := 0
  at_ : Nat := 0
  till : Nat := 0
  deriving DecidableEq, Repr

/-- A core (R17). -/
structure Core where
  /-- Cycles of the core clock as delivered (R49), and cycles still to be stretched by droop (R471). -/
  cycles : Nat := 0
  /-- Words issued in this clock, and those that still hold their pipe (R277). -/
  issued : List Issue := []
  /-- L1 data cache, sampler cache, clause fetch buffer: line bytes by line key (R312, R313). -/
  l1 : Tab (List Byte) := []
  sampler : Tab (List Byte) := []
  fetchBuf : Tab (List Byte) := []
  /-- TLB and sampler translations, newest first (R410). -/
  tlb : List TlbEntry := []
  stlb : List TlbEntry := []
  /-- System registers of contexts as the core sees them, by context (R169). -/
  views : Tab SysView := []
  /-- Repeat filter of the towpath ring: context, entry bits [63:0], time it entered; newest first (R425). -/
  filter : List (Nat × Nat × Nat) := []
  /-- Delta buffer: at most 64 pointstamps, and when its oldest unsent delta was made (R330). -/
  deltas : List Delta := []
  deltaSince : Nat := 0
  /-- Engine operations that have not completed, in acceptance order: group and operation (R203). -/
  engine : List (Nat × Nat) := []
  /-- Core queue, oldest first: at most 256 entries (R357). -/
  queue : List QEntry := []
  /-- Mooring bins in use: at most 256 (R398). -/
  bins : List Bin := []
  /-- Stealing: the LFSR, the wait in cycles, the cycle of the next request, the victim asked, and the thieves whose
  requests wait for an answer (R362, R363). -/
  lfsr : BitVec 16 := 1
  backoff : Nat := 64
  stealAt : Nat := 0
  asked : Option Nat := none
  thieves : List Thief := []
  /-- The entry, by priority and time of arrival, for which a preemption frees room on the core (R361). -/
  hold : Option (Nat × Nat) := none
  /-- An answer that has arrived: an entry, or empty (R363). -/
  answer : Option (Option QEntry) := none
  /-- Cycles of droop stretching that are left (R471). -/
  droop : Nat := 0
  /-- Power: when the core became idle, the cycle of a gating request, isolated, and powering up until (R472). -/
  idleSince : Option Nat := none
  gateAt : Option Nat := none
  gated : Bool := false
  wakeAt : Option Nat := none
  deriving DecidableEq, Repr

/-- An entry of the range tables (R233, R316): the slice it is stored at as home × 32 + slice, its owner, the span's
first VA and the one after its last, and the layout record, origin and box that CHKIN names it by. -/
structure Span where
  slice : Nat := 0
  ctx : Nat := 0
  team : Nat := 0
  lo : Nat := 0
  hi : Nat := 0
  excl : Bool := false
  key : List Nat := []
  deriving DecidableEq, Repr

/-- A context loaded on one or both dies, with its descriptor (R430) and its sealed ranges (R197). -/
structure Ctx where
  /-- The dies it is loaded on, and where its descriptor lies. -/
  dies : BitVec 2 := 0
  descDie : Nat := 0
  descPa : Nat := 0
  sysr : Bool := false
  disp : BitVec 2 := 0
  /-- Page table roots by die as SYS_PTROOT reads them, and as walks use them until a TLBINV (R169). -/
  root0 : DWord := 0
  root1 : DWord := 0
  walkRoot0 : DWord := 0
  walkRoot1 : DWord := 0
  /-- The other fields of the descriptor, as SYS registers read them where there is one (R168, R430). -/
  trapBase : DWord := 0
  saveArea : DWord := 0
  towpath : DWord := 0
  /-- Those fields of the descriptor as memory last showed them: SYSR, the two roots, SYS_TRAPBASE, SYS_SAVEAREA and
  SYS_TOWPATH; a change made there is seen as one made by SYSWR (R169, R432). -/
  seen : List DWord := []
  privBase : Nat := 0
  privSize : Nat := 0
  graphVa : Nat := 0
  moorVa : Nat := 0
  moorN : Nat := 0
  poolVa : Nat := 0
  submitVa : Nat := 0
  dispVa0 : Nat := 0
  dispVa1 : Nat := 0
  dcFirst : Nat := 0
  dcCount : Nat := 0
  whBase0 : Nat := 0
  whSize0 : Nat := 0
  whBase1 : Nat := 0
  whSize1 : Nat := 0
  /-- Sealed ranges: first VA and length (R197). -/
  seals : List (Nat × Nat) := []
  /-- Ranges of SEALs that have issued and not completed (R197). -/
  sealing : List (Nat × Nat) := []
  deriving DecidableEq, Repr

/-- A tile of a die's display: written priority, accumulator, cursor (R371 to R373), pages of the Basin it holds, and
its samples by slot, eight words each (R258, R259). -/
structure TileState where
  prio : Nat := 0
  accum : Nat := 0
  cursor : Nat := 0
  pages : Nat := 0
  slots : Tab (List Word) := []
  deriving DecidableEq, Repr

/-- A band of a die's display (R369, R374): the sweep it is open for or opens for next, whether it is open, the gathering
wave with the time of its first sample, waves that wait for room (R375), and the time of its next ageing (R377). -/
structure Band where
  sweep : Nat := 0
  isOpen : Bool := false
  gather : List (Word × Word) := []
  since : Nat := 0
  waiting : List ProbeWave := []
  /-- Node of the band hold (R374). -/
  node : Nat := 0
  ageAt : Nat := 0
  deriving DecidableEq, Repr

/-- A mirrored sample on the aqueduct (R261): the sender's context, the reprojected X, the record. -/
structure Mirror where
  ctx : Nat := 0
  x : Int := 0
  words : List Word := []
  deriving DecidableEq, Repr

/-- The display units of a die: Sluice, Basin, row feeder (R366 to R386). -/
structure Display where
  /-- The context that holds the display right (R366). -/
  granted : Option Nat := none
  /-- The 4096 bytes of the last block that met every limit, as a number; none while the units hold no timing
  (R367, R368). -/
  block : Option Nat := none
  /-- ENABLE as the units act on it, the ENABLE bit last read, and the sweep number of the next boundary
  (R368, R370). -/
  run : Bool := false
  enableBit : Bool := false
  nextSweep : Nat := 0
  /-- When a block is read again while none is held (R367). -/
  retryAt : Nat := 0
  /-- Grids that stand for the records at SHADERVA and RECONLR (R239). -/
  shader : Nat := 0
  recon : Nat := 0
  /-- Tiles by number (R258, R371), and Basin pages that no tile holds (R258, R259). -/
  tiles : Tab TileState := []
  freePages : Nat := 1048576
  /-- Bands by number (R369). -/
  bands : Tab Band := []
  /-- Time of the next sweep tick (R372). -/
  tickAt : Nat := 0
  /-- Gaze tile of the last valid report since enable (R371). -/
  gaze : Option (Nat × Nat) := none
  /-- Row feeder (R381): the next row to be sent as sweep × ROWS + row, pixels in its window by that number × 2¹³ + x,
  and the rows that the history image holds (R382). -/
  nextRow : Nat := 0
  ring : Tab Nat := []
  history : List Nat := []
  /-- Sequence number of the next report ring entry (R386). -/
  reportSeq : Nat := 0
  /-- The Sirric link: up or down, and the last packet sent (R384, R385). -/
  linkUp : Bool := false
  sent : List Byte := []
  /-- The host's row pattern as its spans, the one that replaces it at the next sweep, and when the next row of it is sent
  (R456). -/
  pattern : Option (List Nat) := none
  patternNext : Option (List Nat) := none
  patternAt : Nat := 0
  /-- The pattern's sweep that is being sent: its number, when it started, and its next row (R385, R456). -/
  patternSweep : Nat := 0
  patternSince : Nat := 0
  patternRow : Nat := 0
  /-- Counters of R266. -/
  missed : Word := 0
  dropped : Word := 0
  evicted : Word := 0
  mirrorIn : Word := 0
  rowRej : Word := 0
  /-- Reconstruction tasks that wait for the die queue (R379). -/
  recons : List Task := []
  /-- Mirrors that have arrived (R261). -/
  inbox : List Mirror := []
  deriving DecidableEq, Repr

/-- A die (R15). -/
structure Die where
  /-- Walk cache, newest first (R410). -/
  walks : List WalkEntry := []
  /-- Generator of each Wharf bank, for the draws of FADDH2 (R188). -/
  bankGen : Tab Word := []
  /-- The Keeper's table, and the batches that cores have sent, in order of arrival (R331, R332). -/
  keeper : List KEntry := []
  batches : List (Nat × List Delta) := []
  /-- Number of the last batch applied; net changes still to be sent to the other die; last one acknowledged (R331, R335). -/
  batchNo : Nat := 0
  toSend : List (Nat × List Delta) := []
  acked : Nat := 0
  /-- Messages that have arrived from the other die, in order (R335). -/
  inbox : List Msg := []
  /-- The view of the other die's table, and the last Delta applied to it (R335). -/
  view : List KEntry := []
  viewNo : Nat := 0
  /-- An exchange round is open; the batch number its Done named, while the view has not reached it (R335). -/
  roundOpen : Bool := false
  roundTarget : Option Nat := none
  /-- A decrement has arrived since the open round began; no decrement has arrived since the last completed one began
  (R335). -/
  roundStale : Bool := false
  roundFresh : Bool := false
  /-- Announced pointstamps and waiting KWAIT words (R334). -/
  announced : List (Nat × Nat × DWord) := []
  waiters : List Waiter := []
  /-- The 4096 dependence counters (R242). -/
  dcs : Tab DepCtr := []
  /-- Tasks whose counters fired, until the scheduler has read their records and placed them (R324, R357). -/
  fired : List Armed := []
  /-- Die queue, oldest first: at most 4096 task records (R357). -/
  queue : List QEntry := []
  /-- Restore list, in order of entry: at most 256 (R436). -/
  restores : List QEntry := []
  /-- Teams past step 5 of R435 that wait for room in the list, or for their gang cluster. -/
  leaving : List Restore := []
  /-- Preemptions posted to the die's cores and not delivered (R172). -/
  preempts : List PreemptReq := []
  /-- Launches issued whose records have not been taken, and how many grids have been validated (R236, R359). -/
  launches : List LaunchReq := []
  validated : Nat := 0
  /-- Submission queues served, by context × 16 + queue (R353). -/
  hostQueues : Tab HostQueue := []
  /-- Mooring tables and pools of loaded contexts (R391, R394); pools by context × 16 + pool. -/
  moorings : Tab (List MoorEntry) := []
  pools : Tab Pool := []
  /-- MOOR words parked on a pool, oldest first: context, pool, group, wave (R396). -/
  moorLine : List (Nat × Nat × Nat × Nat) := []
  /-- Graph blocks of loaded contexts: the two words of an entry by context × 4096 + 64 M + N (R325). -/
  graphs : Tab (DWord × DWord) := []
  /-- Error ring: header PA and LOG2N once ERR_RING has set it, records made, records lost before it was set, and the
  die total of corrections (R466, R467). -/
  errRing : Option (Nat × Nat) := none
  errSeq : Nat := 0
  errLost : Nat := 0
  corrected : Nat := 0
  /-- Frames and SRAM banks whose correction has been recorded, by store and number, with when (R467). -/
  recorded : List (Nat × Nat × Nat) := []
  /-- The die issues nothing more until the module is reset (R463, R469). -/
  halted : Bool := false
  /-- Chambers below the highest priority that firmware lets work in one clock (R25), the thermal step, and the last
  readings of the 24 sensors in 0.5 °C (R469). -/
  chamberLimit : Nat := 96
  /-- The operating point of the die, 0 the lowest (R24, R25). -/
  point : Nat := 0
  thermal : Nat := 0
  sensors : List Int := List.replicate 24 0
  /-- The display units (R366 to R386). -/
  disp : Display := {}
  deriving DecidableEq, Repr

/-- What happens to the hardware that no instruction and no step of the table brings about: an error that a store's
check code finds (R462, R463), and firmware's change of a frame's owner (R315). Each names the die, the store's number
of R467 or the unit, and the place. -/
inductive Incident where
  /-- A correction in a store: the frame or SRAM bank, the device PA for LPDDR6, and for an SRAM its row with the day of the
  management controller's clock. -/
  | corrected (die store bank pa row day : Nat)
  /-- An uncorrectable error in a clean line of a core's L1, sampler cache or fetch buffer, as 0, 1 or 2: the SRAM bank that the
  line stands in, and its key. -/
  | cleanLine (core cache bank line : Nat)
  /-- In an atom of an L2 line, found on a read or on a write-back. -/
  | l2Atom (die pa : Nat) (onWriteBack : Bool)
  | lpddrAtom (die pa : Nat)
  | wharfElement (die off : Nat)
  | basinRecord (die tile slot : Nat)
  | scratchpadLine (team line : Nat)
  /-- In the accumulator element of `n` bytes, 2 or 4, at an offset of a team's allocation. -/
  | accElement (team off n : Nat)
  | chamberRow (team chamber : Nat)
  /-- In v-register `reg` of a lane of a group. -/
  | register (gid reg lane : Nat)
  /-- In a Keeper table, a queue or a store of the scheduler. -/
  | schedulerStore (die : Nat)
  | frameOwner (home frame ctx : Nat)
  /-- Firmware sets the preemption threshold (R361). -/
  | preemptThreshold (value : Nat)
  /-- A cache of a core gives up a line: the L1, the sampler cache or the fetch buffer, as 0, 1 or 2 (R312, R313, R296). -/
  | lineLeaves (core cache line : Nat)
  /-- The oldest write in the queue of path M reaches its home (R290). -/
  | drainM
  /-- A scratchpad access performs on one line ahead of its others (R304): the group, the operation, the line. -/
  | spadLine (gid op line : Nat)
  /-- The link or the fabric fails every access to a line of a host or peer page, or has ceased to (R448). -/
  | lineFails (line : Nat) (fails : Bool)
  /-- The host writes bytes of its own memory (R448, R450). -/
  | hostWrite (addr : Nat) (bytes : List Byte)
  /-- Firmware has ended an update of the capability table (R458). -/
  | tableDone
  deriving DecidableEq, Repr

/-- What moves next (the model's own, log entry 4): a wave of a group, a step of the device, or an incident. -/
inductive Move where
  | wave (gid wid : Nat)
  | dev (i : Instr)
  | incident (e : Incident)
  deriving DecidableEq, Repr

/-- One turn of the agenda: what moves, and the time and cycles that pass before it. -/
structure Turn where
  move : Move
  ns : Nat := 0
  cycles : Nat := 0
  deriving DecidableEq, Repr

/-- The states of R452. -/
inductive Service where
  | reset | reduced | verifying | full
  deriving DecidableEq, Repr

/-- The host's side of the module: service state, mailbox, firmware, capability table (R442 to R461). -/
structure HostSide where
  service : Service := .reset
  /-- Power is good; a thermal shutdown holds the link down (R452, R469). -/
  powered : Bool := false
  hot : Bool := false
  /-- Mailbox registers (R451). -/
  go : Bool := false
  cmd : Nat := 0
  result : Nat := 0
  detail : Nat := 0
  payload : Bytes := []
  /-- Image bytes received, and whether the checks of R457 have passed. -/
  image : List Byte := []
  verified : Bool := false
  /-- Burned anti-rollback fuses (R457), the rows of the management controller's repair log, and the days on which rows not
  in it carried corrected errors, by row and day (R468). -/
  fused : Nat := 0
  repairLog : List Nat := []
  rowDays : List (Nat × Nat) := []
  /-- Dynamic region of the capability table (R458). -/
  fwLevel : Nat := 0
  /-- Firmware's preemption threshold (R361). -/
  preemptAt : Nat := 112
  fwRun : Bool := false
  fwFail : Nat := 0
  svn : Nat := 0
  envelope : Nat := 0
  clk0 : Nat := 0
  clk1 : Nat := 0
  gen : Nat := 0
  /-- Fabric port of the module, and of each peer (R451). -/
  port : Option Nat := none
  peers : Tab Nat := []
  /-- Bases of the two HDM decoders (R444). -/
  decoders : Tab Nat := []
  /-- MODULE_RESET has been acknowledged and the reset is due by this time (R455). -/
  resetBy : Option Nat := none
  /-- Dies under MEMTEST (R454). -/
  testing : Option Nat := none
  /-- What the last host read returned: its bytes, and whether it was CXL poison (R445, R452, R464). -/
  readData : List Byte := []
  readPoison : Bool := false
  deriving DecidableEq, Repr

/-- A write that waits in the queue of path M: the group, the key of its first byte, its bytes (R290). -/
structure MWrite where
  gid : Nat := 0
  key : Nat := 0
  bytes : List Byte := []
  deriving DecidableEq, Repr

/-- The whole module. -/
structure State where
  /-- Module time in ns (R50). -/
  ns : Nat := 0
  /-- Cores by number, die × 16 + number on the die (R17), and dies (R15). -/
  cores : Tab Core := []
  dies : Tab Die := []
  /-- Loaded contexts by number (R430). -/
  ctxs : Tab Ctx := []
  /-- Groups, teams and grids by a number of the model (R26). -/
  groups : Tab Group := []
  teams : Tab Team := []
  grids : Tab Grid := []
  /-- LPDDR6 of both dies, host memory and peers: bytes by home × 2⁴⁸ + PA (R407). Host and peer memory are outside
  the module; what they hold is state of the model. -/
  mem : Bytes := []
  /-- Dirty bytes that the L2 slices hold and have not written back, those of host and peer pages among them (R314, R315,
  R448). -/
  l2 : Tab Byte := []
  /-- Lines that the L2 slices hold, as home key ÷ 128, each with the owner context that the line took when it was
  filled; the line held longest first (R314, R315). -/
  l2Tags : List (Nat × Nat) := []
  /-- Lines of host and peer pages, as key ÷ 128, whose accesses the link or the fabric fails (R448). -/
  failing : List Nat := []
  /-- Writes of ACCST that their group has completed and that have not reached their home, oldest first (R290, R389). -/
  mq : List MWrite := []
  /-- The Wharf of both dies: bytes by die × 2²⁷ + offset (R309). -/
  wharf : Bytes := []
  /-- Poisoned 32-byte atoms by home × 2⁴³ + PA ÷ 32, with those of scratchpads and accumulators under pseudo-keys of
  their own (Machine/Access.lean), and poisoned Wharf elements by die × 2²⁵ + offset ÷ 4 (R463). -/
  poison : Tab Nat := []
  wharfPoison : Tab Nat := []
  /-- Check-outs in the range tables of the L2 slices, in order of entry: at most 256 for a slice (R233). -/
  ranges : List Span := []
  /-- Owner context of each 64 KiB frame, by home × 2³² + PA ÷ 2¹⁶ (R315). -/
  frameOwner : Tab Nat := []
  /-- The host's side (R442 to R461). -/
  host : HostSide := {}
  /-- Module index in a peer fabric, 0–3 (R48, R451). -/
  modIndex : Nat := 0
  /-- The wave whose word is being run: group and wave number (the model's own). -/
  curGroup : Nat := 0
  curWave : Nat := 0
  /-- What moves next; empty: the model's own order applies (log entry 4). -/
  agenda : List Turn := []
  /-- How many free values have been used (log entry 1). -/
  free : Nat := 0
  /-- Numbers for the next group, team and operation. -/
  nextGroup : Nat := 0
  nextTeam : Nat := 0
  nextGrid : Nat := 0
  nextOp : Nat := 0
  /-- Set when a physical access left the LPDDR6 of its die; the step then ends in that fault (the model's own). -/
  stop : Option Fault := none
  deriving DecidableEq, Repr

/-- The module right after reset: in the Reset state of R452, with nothing loaded and nothing in memory. -/
def State.reset : State := {}

end Sys2Proof.Machine
end

