-- ==== Sys2Proof/Machine/Phys.lean ====
section
/-! DEFINITION. Machine/Phys.lean: entries of the state's tables, free values, and physical memory: home slices with
their dirty bytes, the Wharf, and the core caches (R283, R312 to R315). -/
namespace Sys2Proof.Machine

/-- The outcome of a step of this machine. -/
abbrev Res := Host.Outcome State Fault Refusal

/-- The step's outcome: the next state, or the fault that a physical access raised. -/
def finish (s : State) : Res :=
  match s.stop with
  | none => .next s
  | some f => .fault f

/-- Group `g`. -/
def State.group (s : State) (g : Nat) : Group := tget s.groups g {}
/-- The state with group `g` replaced. -/
def State.setGroup (s : State) (g : Nat) (x : Group) : State := { s with groups := tset s.groups g x }
/-- The state with group `g` changed. -/
def State.updGroup (s : State) (g : Nat) (f : Group → Group) : State := s.setGroup g (f (s.group g))
/-- Wave `w` of a group. -/
def Group.wave (g : Group) (w : Nat) : Wave := tget g.waves w {}
/-- The group with wave `w` replaced. -/
def Group.setWave (g : Group) (w : Nat) (x : Wave) : Group := { g with waves := tset g.waves w x }
/-- Lane `i` of a group. -/
def Group.lane (g : Group) (i : Nat) : Lane := vecGet g.lanes i {}
/-- The group with lane `i` replaced. -/
def Group.setLane (g : Group) (i : Nat) (x : Lane) : Group := { g with lanes := vecSet g.lanes i x }
/-- The group whose word is being run. -/
def State.cg (s : State) : Group := s.group s.curGroup
/-- The wave whose word is being run. -/
def State.cw (s : State) : Wave := s.cg.wave s.curWave
/-- The state with the current group changed. -/
def State.updCur (s : State) (f : Group → Group) : State := s.updGroup s.curGroup f
/-- The state with the current wave changed. -/
def State.updWave (s : State) (f : Wave → Wave) : State :=
  s.updCur (fun g => g.setWave s.curWave (f (g.wave s.curWave)))

/-- Core `c`, numbered die × 16 + row × 4 + column (R172). -/
def State.core (s : State) (c : Nat) : Core := tget s.cores c {}
/-- The state with core `c` changed. -/
def State.updCore (s : State) (c : Nat) (f : Core → Core) : State :=
  { s with cores := tset s.cores c (f (s.core c)) }
/-- Die `d`. -/
def State.die (s : State) (d : Nat) : Die := tget s.dies d {}
/-- The state with die `d` changed. -/
def State.updDie (s : State) (d : Nat) (f : Die → Die) : State := { s with dies := tset s.dies d (f (s.die d)) }
/-- Team `t`. -/
def State.team (s : State) (t : Nat) : Team := tget s.teams t {}
/-- The state with team `t` changed. -/
def State.updTeam (s : State) (t : Nat) (f : Team → Team) : State :=
  { s with teams := tset s.teams t (f (s.team t)) }
/-- Context `c`. -/
def State.ctx (s : State) (c : Nat) : Ctx := tget s.ctxs c {}
/-- The state with context `c` changed. -/
def State.updCtx (s : State) (c : Nat) (f : Ctx → Ctx) : State := { s with ctxs := tset s.ctxs c (f (s.ctx c)) }
/-- The die a core sits on. -/
def dieOf (core : Nat) : Nat := core / 16

/-- The next free value, and the state that has used it (log entry 1). -/
def State.takeFree (s : State) : Nat × State := (Config.freeValue s.free, { s with free := s.free + 1 })

/-! ### Homes -/

/-- Key of a physical byte: home code of R407 and address within the home. -/
def homeKey (home pa : Nat) : Nat := home * 2 ^ 48 + pa

/-- LPDDR6 that software sees on each die: 45 GiB (R15). -/
def lpddrBytes : Nat := 45 * 2 ^ 30

/-- The state, stopped when the `n` bytes at a key leave the LPDDR6 of a die. -/
def State.checkPa (s : State) (key n : Nat) : State :=
  let home := key / 2 ^ 48
  let pa := key % 2 ^ 48
  if home < 2 ∧ lpddrBytes < pa + n then
    { s with stop := s.stop.or (some (.badPhysicalAddress home pa)) }
  else s

/-- Is a home the host or a peer module? -/
def outsideHome (key : Nat) : Bool := decide (2 ≤ key / 2 ^ 48)

/-- The byte that a read reaching the home returns: the L2's dirty byte, else memory (R298, R314). A die's L2 holds lines of
host and peer pages as well (R448). -/
def State.homeByte (s : State) (key : Nat) : Byte := (tget? s.l2 key).getD (byteAt s.mem key)

/-- `n` bytes at the home. -/
def State.homeBytes (s : State) (key n : Nat) : List Byte := (List.range n).map (fun i => s.homeByte (key + i))

/-- A little-endian number at the home (R3). -/
def State.homeNat (s : State) (key n : Nat) : Nat := leNat (s.homeBytes key n)

/-- Home slice of a physical key (R314). -/
def sliceOf (key : Nat) : Nat :=
  let a := key % 2 ^ 48 / 128
  key / 2 ^ 48 * 32 + Nat.xor (Nat.xor a (a / 32)) (a / 1024) % 32

/-- Lines that one L2 slice holds: 1.5 MiB of 128-byte lines (R18, R314). -/
def sliceLines : Nat := 12288

/-- Owner context of the frame of a key, as firmware's frame ownership table names it (R315). -/
def State.frameOwnerOf (s : State) (key : Nat) : Nat :=
  (tget? s.frameOwner (key / 2 ^ 16)).getD (Config.frameOwner (key / 2 ^ 16)).toNat

/-- A dirty byte goes back to memory: what the home reads as stays the same. -/
def State.cleanByte (s : State) (key : Nat) : State :=
  match tget? s.l2 key with
  | some x => { s with mem := putByte s.mem key x, l2 := tdel s.l2 key }
  | none => s

/-- Write the dirty bytes of an atom range back to memory: those from `key` for `n` bytes (R200, R315). -/
def State.writeBack (s : State) (key n : Nat) : State :=
  (s.l2.filter (fun e => decide (key ≤ e.1) && decide (e.1 < key + n))).foldl (fun s e => s.cleanByte e.1) s

/-- An L2 line is evicted: its dirty atoms are written back (R315). -/
def State.evictL2 (s : State) (line : Nat) : State :=
  { s.writeBack (line * 128) 128 with l2Tags := s.l2Tags.filter (fun e => decide (e.1 ≠ line)) }

/-- The line that a full slice gives up: the one it has held longest (log entry 24). -/
def State.l2Victim (s : State) (line : Nat) : Option Nat :=
  let ls := s.l2Tags.filter (fun e => decide (sliceOf (e.1 * 128) = sliceOf (line * 128)))
  if sliceLines ≤ ls.length then ls.head?.map (·.1) else none

/-- The L2 holds the line of a key that is read or written: a line not held is filled, which reads its owner tag, and takes
the place of another in a full slice (R314, R315). -/
def State.holdL2 (s : State) (key : Nat) : State :=
  let line := key / 128
  if s.l2Tags.any (fun e => decide (e.1 = line)) then s
  else
    let s := match s.l2Victim line with
      | some v => s.evictL2 v
      | none => s
    { s with l2Tags := s.l2Tags ++ [(line, s.frameOwnerOf key)] }

/-- The state after one byte is written at its home (R285, R290). -/
def State.putHomeByte (s : State) (key : Nat) (x : Byte) : State :=
  let s := s.holdL2 key
  { s with l2 := tset s.l2 key x }

/-- The bytes `xs` written at the home from `key`, lowest address first. -/
def State.putHomeRaw (s : State) (key : Nat) : List Byte → State
  | [] => s
  | x :: xs => (s.putHomeByte key x).putHomeRaw (key + 1) xs

/-- Atoms, by key ÷ 32, that `n` bytes at a key cover whole: a write of all 32 bytes clears poison (R464). -/
def clearPoison (p : Tab Nat) (key n : Nat) : Tab Nat :=
  p.filter (fun e => !(decide (key ≤ e.1 * 32) && decide (e.1 * 32 + 32 ≤ key + n)))

/-- Accesses to a place fail: it lies in a peer module whose port SET_PEER has not recorded, or in a line of a host or peer
page for which the link or the fabric reports failure (R444, R448). -/
def State.unreachable (s : State) (key : Nat) : Bool :=
  let home := key / 2 ^ 48
  (decide (0x84 ≤ home) && decide (home ≤ 0x8B) && (tget? s.host.peers ((home - 0x84) / 2)).isNone)
    || (outsideHome key && s.failing.contains (key / 128))

/-- The bytes `xs` written at the home from `key`: a write changes only the bytes it names (R285). A write that the
fabric reports as failed is dropped (R448). -/
def State.putHome (s : State) (key : Nat) (xs : List Byte) : State :=
  if s.unreachable key || s.unreachable (key + xs.length - 1) then s
  else
    let s := s.checkPa key xs.length
    let s := s.putHomeRaw key xs
    { s with poison := clearPoison s.poison key xs.length }

/-- The low `n` bytes of a number written at the home. -/
def State.putHomeNat (s : State) (key n v : Nat) : State := s.putHome key (natLe n v)

/-- Do `n` bytes at a key read as poisoned: a poisoned atom (R463), or a failed access (R448)? -/
def State.poisoned (s : State) (key n : Nat) : Bool :=
  s.unreachable key || s.unreachable (key + n - 1) || s.poison.any (fun e => decide (e.1 * 32 < key + n) && decide (key < e.1 * 32 + 32))

/-- Drop the dirty bytes from `key` for `n` bytes without writing them back (R199). -/
def State.dropDirty (s : State) (key n : Nat) : State :=
  { s with l2 := s.l2.filter (fun e => !(decide (key ≤ e.1) && decide (e.1 < key + n))) }

/-! ### The queue of path M (R290) -/

/-- The oldest write that waits in the queue of path M reaches its home. -/
def State.drainOne (s : State) : State :=
  match s.mq with
  | [] => s
  | w :: rest => { s with mq := rest }.putHome w.key w.bytes

/-- The oldest `n` writes do. -/
def State.drainMany (s : State) : Nat → State
  | 0 => s
  | n + 1 => s.drainOne.drainMany n

/-- Every write of the queue reaches its home. -/
def State.drainAll (s : State) : State := s.drainMany s.mq.length

/-- Every write of a group reaches its home, with those that stand before it. -/
def State.drainGroup (s : State) (gid : Nat) : State :=
  s.drainMany (s.mq.length - (s.mq.reverse.takeWhile (fun w => decide (w.gid ≠ gid))).length)

/-- The byte that a group's read on path M of a key sees: the newest write of its own in the queue, else the home's (R286,
R298). -/
def State.mByte (s : State) (gid key : Nat) (home : Byte) : Byte :=
  s.mq.foldl (fun b w =>
    if w.gid = gid ∧ w.key ≤ key ∧ key < w.key + w.bytes.length then w.bytes.getD (key - w.key) 0 else b) home

/-! ### Core caches -/

/-- Line of a key: 128 bytes (R312). -/
def lineOf (key : Nat) : Nat := key / 128

/-- Lines that `n` bytes at a key touch. -/
def linesOf (key n : Nat) : List Nat :=
  if n = 0 then [] else (List.range ((key + n - 1) / 128 - key / 128 + 1)).map (fun i => key / 128 + i)

/-- Which cache a read is served by (R312, R313). -/
inductive CacheSel where
  | l1 | sampler | fetch
  deriving DecidableEq, Repr

/-- The lines of one cache of a core. -/
def Core.cache (c : Core) : CacheSel → Tab (List Byte)
  | .l1 => c.l1
  | .sampler => c.sampler
  | .fetch => c.fetchBuf

/-- The core with the lines of one cache replaced. -/
def Core.setCache (c : Core) (k : CacheSel) (t : Tab (List Byte)) : Core :=
  match k with
  | .l1 => { c with l1 := t }
  | .sampler => { c with sampler := t }
  | .fetch => { c with fetchBuf := t }

/-- Lines a cache holds: 512 KiB, 256 KiB, and for the fetch buffer a size the manual does not give (log entry 6). -/
def CacheSel.lines : CacheSel → Nat
  | .l1 => 4096
  | .sampler => 2048
  | .fetch => 64

/-- Bring a line into a cache from its home, where the L2 takes it up as well, unless it is there; the line of the lowest
number leaves a full cache (R315, log entry 24). -/
def State.fillLine (s : State) (core : Nat) (k : CacheSel) (line : Nat) : State :=
  match tget? ((s.core core).cache k) line with
  | some _ => s
  | none =>
    (s.holdL2 (line * 128)).updCore core (fun c =>
      c.setCache k (tset (if k.lines ≤ (c.cache k).length then (c.cache k).drop 1 else c.cache k) line
        (s.homeBytes (line * 128) 128)))

/-- A byte as a core's cache shows it: the held line, or the home. -/
def State.cachedByte (s : State) (core : Nat) (k : CacheSel) (key : Nat) : Byte :=
  match tget? ((s.core core).cache k) (lineOf key) with
  | some bs => bs.getD (key % 128) 0
  | none => s.homeByte key

/-- Read `n` bytes through a core's cache, filling the lines it touches (R298, R312, R313). -/
def State.readThrough (s : State) (core : Nat) (k : CacheSel) (key n : Nat) : List Byte × State :=
  let s := s.checkPa key n
  let s := (linesOf key n).foldl (fun s l => s.fillLine core k l) s
  ((List.range n).map (fun i => s.cachedByte core k (key + i)), s)

/-- A held line with the bytes of a write merged in. -/
def mergeLine (line : Nat) (bs : List Byte) (key : Nat) (xs : List Byte) : List Byte :=
  (List.range 128).map (fun i =>
    let a := line * 128 + i
    if key ≤ a ∧ a < key + xs.length then xs.getD (a - key) 0 else bs.getD i 0)

/-- The parts of `n` bytes at a key that lie between multiples of `unit`, as first key and length. -/
def elemsOf (unit key n : Nat) : List (Nat × Nat) :=
  if n = 0 then []
  else (List.range ((key + n - 1) / unit - key / unit + 1)).map (fun i =>
    let lo := max key ((key / unit + i) * unit)
    (lo, min (key + n) ((key / unit + i + 1) * unit) - lo))

/-- A core's cache as it shows one element. Where a held line has other bytes there than the home, the element is shown
whole, as it is held or as the home has it, as a free value decides, and from then on the line holds what it showed (R77,
R284, R286, R296, R297, log entry 50). -/
def State.showElem (s : State) (core : Nat) (k : CacheSel) (key n : Nat) : State :=
  match tget? ((s.core core).cache k) (lineOf key) with
  | none => s
  | some bs =>
    let home := s.homeBytes key n
    if (List.range n).map (fun i => bs.getD ((key + i) % 128) 0) = home then s
    else
      let f := s.takeFree
      if f.1 % 2 = 0 then f.2
      else f.2.updCore core (fun c => c.setCache k (tset (c.cache k) (lineOf key) (mergeLine (lineOf key) bs key home)))

/-- Bytes of an element that a cache shows whole: an instruction word for the clause fetch buffer, else 8 (R284). -/
def CacheSel.elem : CacheSel → Nat
  | .fetch => 4
  | _ => 8

/-- Read `n` bytes through the sampler cache or the clause fetch buffer, element by element. -/
def State.readShown (s : State) (core : Nat) (k : CacheSel) (key n : Nat) : List Byte × State :=
  ((elemsOf k.elem key n).foldl (fun s e => s.showElem core k e.1 e.2) s).readThrough core k key n

/-- A store of path L: it writes through to the home and updates a line that the L1 holds; it never allocates (R312). -/
def State.writeThrough (s : State) (core key : Nat) (xs : List Byte) : State :=
  let s := s.putHome key xs
  let upd := fun (t : Tab (List Byte)) (l : Nat) =>
    match tget? t l with
    | some bs => tset t l (mergeLine l bs key xs)
    | none => t
  s.updCore core (fun c => { c with l1 := (linesOf key xs.length).foldl upd c.l1 })

/-- Remove the lines of a byte range from one cache of a core. -/
def State.dropLines (s : State) (core : Nat) (k : CacheSel) (key n : Nat) : State :=
  s.updCore core (fun c => c.setCache k
    ((c.cache k).filter (fun e => !(decide (key < (e.1 + 1) * 128) && decide (e.1 * 128 < key + n)))))

/-- Invalidate one cache of a core whole. -/
def State.invalidate (s : State) (core : Nat) (k : CacheSel) : State := s.updCore core (fun c => c.setCache k [])

/-- A wake that finds a core about to lose its power aborts the gating, which settles in about 40 ns (R472). -/
def State.abortGate (s : State) (core : Nat) : State :=
  if (s.core core).gateAt.isSome then s.updCore core (fun c => { c with gateAt := none, wakeAt := some (s.ns + 40) }) else s

/-- A wake: it aborts gating, and powers a core without power up in about 2 µs (R472). -/
def State.wakeCore (s : State) (core : Nat) : State :=
  if (s.core core).gateAt.isSome then s.abortGate core
  else if (s.core core).gated then s.updCore core (fun c => { c with gated := false, wakeAt := some (s.ns + 2000) })
  else s

/-- All core numbers of the module. -/
def allCores : List Nat := List.range 32

/-- The cores of a die. -/
def coresOf (die : Nat) : List Nat := (List.range 16).map (fun i => die * 16 + i)

/-! ### The Wharf -/

/-- Bytes in a die's Wharf (R309). -/
def wharfBytes : Nat := 96 * 2 ^ 20

/-- Key of a Wharf byte. -/
def wharfKey (die off : Nat) : Nat := die * 2 ^ 27 + off

/-- The bank of a Wharf offset (R309). -/
def wharfBank (off : Nat) : Nat :=
  let u := off / 64
  let low := u % 128
  let hi := u / 128
  128 * (hi % 3) + (low ^^^ (hi % 128))

/-- A little-endian number in the Wharf. -/
def State.wharfNat (s : State) (die off n : Nat) : Nat := leNat (bytesAt s.wharf (wharfKey die off) n)

/-- The low `n` bytes of a number written in the Wharf; elements of 4 bytes written whole are no longer poisoned. -/
def State.putWharf (s : State) (die off n v : Nat) : State :=
  let k := wharfKey die off
  { s with wharf := putBytes s.wharf k (natLe n v),
           wharfPoison := s.wharfPoison.filter
             (fun e => !(decide (k ≤ e.1 * 4) && decide (e.1 * 4 + 4 ≤ k + n))) }

/-- Do `n` bytes of the Wharf touch a poisoned element? -/
def State.wharfBad (s : State) (die off n : Nat) : Bool :=
  s.wharfPoison.any (fun e => decide (e.1 * 4 < wharfKey die off + n) && decide (wharfKey die off < e.1 * 4 + 4))

end Sys2Proof.Machine
end

