-- ==== Sys2Proof/Machine/Counts.lean ====
section
/-! DEFINITION. Machine/Counts.lean: CRC-32C, stamps, the core delta buffers and the Keeper's entries (R228, R244,
R329 to R332), dependence counter values (R242) and error records (R466, R467). -/
namespace Sys2Proof.Machine

/-! ### CRC-32C -/

/-- One bit of the reflected Castagnoli polynomial (R228). -/
def crcBit (c : Word) : Word := if c.getLsbD 0 then (c >>> 1) ^^^ 0x82F63B78#32 else c >>> 1

/-- One byte into the remainder. -/
def crcByte (c : Word) (b : Byte) : Word :=
  let c := c ^^^ b.setWidth 32
  crcBit (crcBit (crcBit (crcBit (crcBit (crcBit (crcBit (crcBit c)))))))

/-- CRC-32C: Castagnoli polynomial, reflected, initial value and final XOR all ones (R228). -/
def crc32c (bs : List Byte) : Word := (bs.foldl crcByte 0xFFFFFFFF#32) ^^^ 0xFFFFFFFF#32

/-! ### Stamps -/

/-- Depth of a stamp, 1 to 3; 0 is invalid (R244). -/
def stampDepth (t : DWord) : Nat := (t.extractLsb' 62 2).toNat

/-- Counter `i` of a stamp: c0 [61:40], c1 [39:20], c2 [19:0] (R244). -/
def stampCtr (t : DWord) : Nat → Nat
  | 0 => (t.extractLsb' 40 22).toNat
  | 1 => (t.extractLsb' 20 20).toNat
  | _ => (t.extractLsb' 0 20).toNat

/-- The largest value of counter `i`. -/
def ctrMax (i : Nat) : Nat := if i = 0 then 2 ^ 22 - 1 else 2 ^ 20 - 1

/-- The stamp of a depth and three counters. -/
def mkStamp (depth c0 c1 c2 : Nat) : DWord :=
  BitVec.ofNat 2 depth ++ BitVec.ofNat 22 c0 ++ BitVec.ofNat 20 c1 ++ BitVec.ofNat 20 c2

/-- A valid stamp: depth 1 to 3, counters at or beyond the depth zero (R244). -/
def stampOk (t : DWord) : Bool :=
  decide (1 ≤ stampDepth t) &&
  ((decide (2 ≤ stampDepth t)) || decide (stampCtr t 1 = 0)) &&
  ((decide (3 ≤ stampDepth t)) || decide (stampCtr t 2 = 0))

/-- Product order of two stamps of equal depth (R244). -/
def stampLe (a b : DWord) : Bool :=
  decide (stampDepth a = stampDepth b) && decide (stampCtr a 0 ≤ stampCtr b 0)
    && decide (stampCtr a 1 ≤ stampCtr b 1) && decide (stampCtr a 2 ≤ stampCtr b 2)

/-! ### The delta buffer and the Keeper's entries -/

/-- Does an entry stand for a pointstamp? -/
def KEntry.is (e : KEntry) (ctx node : Nat) (st : DWord) : Bool :=
  decide (e.ctx = ctx) && decide (e.node = node) && decide (e.stamp = st)

/-- Does a delta stand for a pointstamp? -/
def Delta.is (e : Delta) (ctx node : Nat) (st : DWord) : Bool :=
  decide (e.ctx = ctx) && decide (e.node = node) && decide (e.stamp = st)

/-- Entries a Keeper table holds (R332). -/
def keeperCapacity : Nat := 4096

/-- Free the entries whose count is zero and for which no buffer holds a delta (R332). -/
def freeEntries (t : List KEntry) : List KEntry := t.filter (fun e => e.count ≠ 0 || e.buffers ≠ 0)

/-- Change the entry of a pointstamp, made new if there is none. -/
def updEntry (t : List KEntry) (ctx node : Nat) (st : DWord) (f : KEntry → KEntry) : List KEntry :=
  if t.any (fun e => e.is ctx node st) then t.map (fun e => if e.is ctx node st then f e else e)
  else t ++ [f { ctx := ctx, node := node, stamp := st }]

/-- Has the die's Keeper an entry for the pointstamp, or room for one (R332)? -/
def State.keeperRoom (s : State) (die ctx node : Nat) (st : DWord) : Bool :=
  (s.die die).keeper.any (fun e => e.is ctx node st)
    || decide ((freeEntries (s.die die).keeper).length < keeperCapacity)

/-- Send a core's whole buffer to its die's Keeper as one batch (R330). -/
def State.flushDeltas (s : State) (core : Nat) : State :=
  let ds := (s.core core).deltas
  if ds.isEmpty then s
  else
    let s := s.updCore core (fun c => { c with deltas := [] })
    s.updDie (dieOf core) (fun d => { d with batches := d.batches ++ [(core, ds)] })

/-- Add a delta to a core's buffer (R329, R330). A pointstamp that the buffer does not hold obtains its Keeper entry
at this moment (R332); a full buffer is flushed first. -/
def State.count (s : State) (core ctx node : Nat) (st : DWord) (d : Int) : State :=
  if d = 0 then s
  else if (s.core core).deltas.any (fun e => e.is ctx node st) then
    let add := fun (e : Delta) => if e.is ctx node st then { e with d := e.d + d } else e
    s.updCore core (fun c => { c with deltas := c.deltas.map add })
  else
    let s := if 64 ≤ (s.core core).deltas.length then s.flushDeltas core else s
    let more := fun (e : KEntry) => { e with buffers := e.buffers + 1 }
    let s := s.updDie (dieOf core) (fun x => { x with keeper := updEntry (freeEntries x.keeper) ctx node st more })
    s.updCore core (fun c =>
      { c with deltaSince := if c.deltas.isEmpty then s.ns else c.deltaSince,
               deltas := c.deltas ++ [{ ctx := ctx, node := node, stamp := st, d := d }] })

/-! ### Error records -/

/-- Append an error record to a die's ring (R466, R467): written whole, then HEAD stored. A record raised before the
ring is set is counted; a full ring drops it and counts it in OVERFLOW. -/
def State.errorRecord (s : State) (die type core ctx : Nat) (charged : Bool) (addr detail : Nat)
    (extra : List Byte := []) : State :=
  match (s.die die).errRing with
  | none => s.updDie die (fun d => { d with errLost := d.errLost + 1, errSeq := d.errSeq + 1 })
  | some (pa, log2n) =>
    let k := homeKey die pa
    let head := s.homeNat k 4
    let tail := s.homeNat (k + 64) 4
    if (head + 2 ^ 32 - tail) % 2 ^ 32 ≥ 2 ^ log2n then
      (s.putHomeNat (k + 128) 4 (s.homeNat (k + 128) 4 + 1)).updDie die (fun d => { d with errSeq := d.errSeq + 1 })
    else
      let body := natLe 2 type ++ natLe 1 die ++ natLe 1 core ++ natLe 1 ctx ++ natLe 1 (if charged then 1 else 0)
        ++ natLe 2 0 ++ natLe 8 s.ns ++ natLe 8 addr ++ natLe 8 detail
        ++ (extra ++ List.replicate 16 0#8).take 16 ++ natLe 8 (s.die die).errSeq ++ natLe 4 0
      let s := s.putHome (k + 4096 + 64 * (head % 2 ^ log2n)) (body ++ natLe 4 (crc32c body).toNat)
      (s.putHomeNat k 4 (head + 1)).updDie die (fun d => { d with errSeq := d.errSeq + 1 })

end Sys2Proof.Machine
end

