-- ==== Sys2Proof/Machine/Flags.lean ====
section
/-! DEFINITION. Machine/Flags.lean: completion flags: which one an instruction is charged to, charging it at issue,
and taking the charge back at completion (R36, R86 to R88). -/
namespace Sys2Proof.Machine

/-- FLA of a header (R78). -/
def hdrFla (h : DWord) : Nat := (h.extractLsb' 16 4).toNat
/-- FLB of a header (R78). -/
def hdrFlb (h : DWord) : Nat := (h.extractLsb' 20 4).toNat

/-- A flag field of a header: f0 to f11, or "none" (R78, R86). -/
def flagField (n : Nat) : Option Nat := if n < 12 then some n else none

/-- The flag that an instruction of the clause is charged to: flag B when its fl bit is 1, else flag A (R86). -/
def Wave.flagOf (w : Wave) (fl : Bool) : Option Nat := flagField (if fl then hdrFlb w.hdr else hdrFla w.hdr)

/-- Value of a flag; "none" counts nothing. -/
def Group.flag (g : Group) (f : Option Nat) : Nat :=
  match f with
  | some i => vecGet g.flags i 0
  | none => 0

/-- A flag stands at 63, so that an issue that would charge it waits (R86). -/
def Group.flagFull (g : Group) (f : Option Nat) : Bool := decide (63 ≤ g.flag f)

/-- The core increments the charged flag at issue (R36, R86). -/
def Group.charge (g : Group) (f : Option Nat) : Group :=
  match f with
  | some i => { g with flags := vecSet g.flags i (vecGet g.flags i 0 + 1) }
  | none => g

/-- The core decrements the charged flag at completion (R36, R86). -/
def Group.discharge (g : Group) (f : Option Nat) : Group :=
  match f with
  | some i => { g with flags := vecSet g.flags i (vecGet g.flags i 0 - 1) }
  | none => g

/-- Every flag of the group reads zero. -/
def Group.flagsZero (g : Group) : Bool := (List.range 12).all (fun i => decide (vecGet g.flags i 0 = 0))

/-- SR_FLAGS: bit i set while fi is nonzero (R48). -/
def Group.busy (g : Group) : Word :=
  maskOf (fun i => decide (i < 12) && decide (vecGet g.flags i 0 ≠ 0))

/-- Every flag that the WAIT field of a header names reads zero (R78, R79). -/
def Group.waitDone (g : Group) (h : DWord) : Bool :=
  (List.range 12).all (fun i => !h.getLsbD (4 + i) || decide (vecGet g.flags i 0 = 0))

/-- An operation of the wave charged to flag "none" is still outstanding (R79 step 7); one that PREEMPT has stopped is
charged to nothing until TRET (R221, R275). -/
def Group.undrained (g : Group) (wid : Nat) : Bool :=
  g.ops.any (fun o => o.flag.isNone && !o.stopped && decide (o.wid = wid))

/-! ### SR_STATUS (R48, R51) -/

/-- A completion sets bit `i` of SR_STATUS in cycle `now`. -/
def Group.setStatus (g : Group) (i now : Nat) : Group :=
  { g with status := g.status ||| (1#3 <<< i), statusAt := tset g.statusAt i now }

/-- A write to SR_STATUS in cycle `now` clears the bits written as 1, but those that a completion set in the same cycle, which
end set (R51). -/
def Group.clearStatus (g : Group) (v : BitVec 3) (now : Nat) : Group :=
  let kept := BitVec.ofNat 3 (maskOf (fun i => decide (i < 3) && decide (tget? g.statusAt i = some now))).toNat
  { g with status := g.status &&& ~~~(v &&& ~~~kept) }

/-! ### Observing a flag at zero (R39) -/

/-- Completions that `p` names have been observed: a read returns what they wrote. -/
def Group.observe (g : Group) (p : Late → Bool) : Group := { g with late := g.late.filter (fun e => !p e) }

/-- A clause has found every flag that its header names at zero. -/
def Group.observeWait (g : Group) (h : DWord) : Group :=
  g.observe (fun e => match e.flag with
    | some i => h.getLsbD (4 + i)
    | none => false)

/-- A wave has drained its operations that are charged to no flag. -/
def Group.observeNone (g : Group) (wid : Nat) : Group := g.observe (fun e => e.flag.isNone && decide (e.wid = wid))

/-- The same for a word that is being run: it has read its registers already, and what it has observed leaves the list at its
end. -/
def Group.observeNow (g : Group) (p : Late → Bool) : Group :=
  { g with late := g.late.map (fun e => if p e then { e with done := true } else e) }

/-- A word has read the flags: those at zero are observed. -/
def Group.observeZero (g : Group) : Group :=
  g.observeNow (fun e => match e.flag with
    | some i => decide (vecGet g.flags i 0 = 0)
    | none => false)

end Sys2Proof.Machine
end

