-- ==== Sys2Proof/Machine/Ops.lean ====
section
/-! DEFINITION. Machine/Ops.lean: the named operations over registers, waves, dependence counters and traps that the
meanings share: reading and writing registers, moving to the next word, parking, taking a trap and returning from one
(R26 to R43, R163 to R167, R242). -/
namespace Sys2Proof.Machine

/-! ### Registers -/

/-- Every bit of a register. -/
def allBits : Word := 0xFFFFFFFF#32
/-- A write of bits of a register that is unobserved. -/
def Late.hit (l : Loc) (m : Word) (e : Late) : Late := if e.loc = l then { e with wr := e.wr ||| m } else e

/-- s-register `i` (R31). -/
def Group.sreg (g : Group) (i : Nat) : Word := vecGet g.s i 0
/-- The group with s-register `i` written. -/
def Group.setS (g : Group) (i : Nat) (x : Word) : Group :=
  { g with s := vecSet g.s i x, late := g.late.map (Late.hit (.s i) allBits) }
/-- The 64-bit pair at s-register `i`, low word first (R29). -/
def Group.spair (g : Group) (i : Nat) : DWord := g.sreg (i + 1) ++ g.sreg i
/-- The group with the pair at s-register `i` written. -/
def Group.setSpair (g : Group) (i : Nat) (x : DWord) : Group :=
  (g.setS i (x.extractLsb' 0 32)).setS (i + 1) (x.extractLsb' 32 32)
/-- v-register `r` of lane `l` (R27). -/
def Group.vreg (g : Group) (r l : Nat) : Word := tget g.v (r * 32 + l) 0
/-- The group with v-register `r` of lane `l` written; a poisoned one is poisoned no more (R464). -/
def Group.setV (g : Group) (r l : Nat) (x : Word) : Group :=
  { g with v := tset g.v (r * 32 + l) x, late := g.late.map (Late.hit (.v (r * 32 + l)) allBits)
           bad := g.bad.filter (fun i => decide (i ≠ r * 32 + l)) }
/-- A source operand field in lane `l`: a v-register, or the s-register broadcast (R28). -/
def Group.src (g : Group) (field l : Nat) : Word := if field < 192 then g.vreg field l else g.sreg (field - 192)
/-- A pair of source registers as 64 bits (R29). -/
def Group.src64 (g : Group) (field l : Nat) : DWord := g.src (field + 1) l ++ g.src field l
/-- The group with pair `r` of lane `l` written. -/
def Group.setV64 (g : Group) (r l : Nat) (x : DWord) : Group :=
  (g.setV r l (x.extractLsb' 0 32)).setV (r + 1) l (x.extractLsb' 32 32)
/-- The group with `n` registers from `r` of lane `l` written from a number, lowest word first (R29). -/
def Group.setVs (g : Group) (r l : Nat) : Nat → Nat → Group
  | 0, _ => g
  | n + 1, v => (g.setV r l (BitVec.ofNat 32 v)).setVs (r + 1) l n (v / 2 ^ 32)
/-- `n` source registers from `field` in lane `l` as a number, lowest word first (R29). -/
def Group.srcs (g : Group) (field l : Nat) : Nat → Nat
  | 0 => 0
  | n + 1 => (g.src field l).toNat + 2 ^ 32 * g.srcs (field + 1) l n
/-- k-register `i` as a mask; k0 reads as ones (R32). -/
def Group.kmask (g : Group) (i : Nat) : Mask := if i = 0 then 0xFFFFFFFF#32 else vecGet g.k i 0
/-- The group with k-register `i` written; a write to k0 is discarded (R32). -/
def Group.setK (g : Group) (i : Nat) (m : Mask) : Group :=
  if i = 0 then g else { g with k := vecSet g.k i m, late := g.late.map (Late.hit (.k i) allBits) }
/-- The group with the lanes of `who` of k-register `i` taken from `m`; the other lanes are not written. -/
def Group.mergeK (g : Group) (i : Nat) (who m : Mask) : Group :=
  { g.setK i ((g.kmask i &&& ~~~who) ||| (m &&& who)) with
    late := if i = 0 then g.late else g.late.map (Late.hit (.k i) who) }
/-- Buffer record b-register `i` (R33). -/
def Group.brec (g : Group) (i : Nat) : QWord := vecGet g.b i 0
/-- Predicate q`i`. -/
def Group.qbit (g : Group) (i : Nat) : Bool := g.q.getLsbD i
/-- The group with predicate q`i` written. -/
def Group.setQ (g : Group) (i : Nat) (x : Bool) : Group :=
  { g with q := if x then g.q ||| (1#4 <<< i) else g.q &&& ~~~(1#4 <<< i) }

/-! ### Registers that a completion has written and no wave has observed (R39) -/

/-- What a register holds. -/
def Group.locVal (g : Group) : Loc → Word
  | .v i => tget g.v i 0
  | .s i => g.sreg i
  | .k i => vecGet g.k i 0
/-- The group with another value shown in a register, which is no write. -/
def Group.setLoc (g : Group) (l : Loc) (x : Word) : Group :=
  match l with
  | .v i => { g with v := tset g.v i x }
  | .s i => { g with s := vecSet g.s i x }
  | .k i => { g with k := vecSet g.k i x }

/-- What is left unobserved of a register after a step that may have written it, in the group `g` as that step left it. -/
def Late.settled (g : Group) (e : Late) : Option Late :=
  if e.done ∨ e.wr = allBits then none
  else some { e with old := (g.locVal e.loc &&& e.wr) ||| (e.old &&& ~~~e.wr), wr := 0 }

/-- Registers that differ between two states of a group. -/
def Group.changedLocs (a b : Group) : List Loc :=
  ((a.v ++ b.v).map (·.1)).eraseDups.filterMap (fun i => if tget a.v i 0 = tget b.v i 0 then none else some (.v i))
    ++ (List.range 64).filterMap (fun i => if a.sreg i = b.sreg i then none else some (.s i))
    ++ (List.range 8).filterMap (fun i => if vecGet a.k i 0 = vecGet b.k i 0 then none else some (.k i))

/-- What a step that completes an operation leaves unobserved: every register it wrote, with what it held before. -/
def Group.noteLate (a b : Group) : Group :=
  let late := b.late.filterMap (Late.settled b)
  match a.ops.find? (fun o => !b.ops.any (fun x => decide (x.id = o.id))) with
  | none => { b with late := late }
  | some o =>
    let new := (a.changedLocs b).map (fun l => ({ loc := l, old := a.locVal l, flag := o.flag, wid := o.wid } : Late))
    { b with late := late.filter (fun e => !new.any (fun x => decide (x.loc = e.loc))) ++ new }

/-- The registers as one word reads them: each that is unobserved shows what it held before where a bit of `pick` is set. -/
def Group.lateSeen (g : Group) (pick : Nat) : Group :=
  (g.late.zipIdx).foldl (fun g e => if pick / 2 ^ e.2 % 2 = 1 ∧ !e.1.done then g.setLoc e.1.loc e.1.old else g) g

/-- After the word that ran on such a view of `base`: the bits of a register that it wrote hold that, the others what the
completion wrote. -/
def Group.lateBack (base g : Group) : Group :=
  let wr := fun (l : Loc) => ((g.late.find? (fun e => decide (e.loc = l))).map (·.wr)).getD 0
  { base.late.foldl (fun x e =>
      x.setLoc e.loc ((g.locVal e.loc &&& wr e.loc) ||| (base.locVal e.loc &&& ~~~wr e.loc))) g with
    late := g.late.filterMap (Late.settled g) }

/-! ### Clauses and words -/

/-- Instruction words of a clause: LEN + 1 (R75). -/
def hdrLen (h : DWord) : Nat := (h.extractLsb' 0 4).toNat + 1
/-- The fall-through address of a clause (R75). -/
def seqOf (addr : BitVec 52) (h : DWord) : BitVec 52 := addr + BitVec.ofNat 52 (8 + 8 * ((hdrLen h + 1) / 2))
/-- The word at the wave's index. -/
def Wave.word (w : Wave) : Word := w.words.getD w.idx 0
/-- The index a trap at this word resumes at: the word's own, or its prefix's (R91). -/
def Wave.trapIdx (w : Wave) : Nat := if w.pfx.isSome then w.idx - 1 else w.idx

/-- The cycle count of the core whose word is being run (R49). -/
def State.now (s : State) : Nat := (s.core s.cg.core).cycles

/-- Move on to the next word; the wave issued in this cycle (R278). -/
def State.nextWord (s : State) : State :=
  let now := (s.core s.cg.core).cycles
  s.updWave (fun w => { w with idx := w.idx + 1, pfx := none, readyAt := now, promoted := false })
/-- Pass over a word that issues nothing (R80). -/
def State.skipWord (s : State) : State := s.updWave (fun w => { w with idx := w.idx + 1, pfx := none })

/-- The registers that a word has read at its issue (R38), and the flag it is charged to. -/
def Group.snap (g : Group) (flag : Option Nat) : Snap := { v := g.v, s := g.s, k := g.k, q := g.q, b := g.b, flag := flag }

/-- The group as a wave's word sees it: a word that has parked sees the registers that it read when it issued, and takes
its flag up again if it issues (R36, R38). -/
def Group.seen (g : Group) (wid : Nat) : Group :=
  match (g.wave wid).snap with
  | some x => ({ g with v := x.v, s := x.s, k := x.k, q := x.q, b := x.b }.discharge x.flag).setWave wid { g.wave wid with snap := none }
  | none => g

/-- A wave gives up the word that it is parked in, and what the word had taken with it. -/
def Group.dropSnap (g : Group) (wid : Nat) : Group :=
  let w := g.wave wid
  (g.discharge (w.snap.bind (·.flag))).setWave wid { w with snap := none }

/-- Take a parked wave back into issue: it runs its instruction again. -/
def State.unpark (s : State) (gid wid : Nat) : State :=
  s.updGroup gid (fun g =>
    let w := g.wave wid
    match w.phase with
    | .parked _ => g.setWave wid { w with phase := .body, readyAt := (s.core g.core).cycles, promoted := false }
    | _ => g)

/-- Unpark every wave of the module parked for a reason that satisfies `p`. -/
def State.unparkAll (s : State) (p : Nat → Group → Park → Bool) : State :=
  s.groups.foldl (fun s e =>
    e.2.waves.foldl (fun s x =>
      match x.2.phase with
      | .parked why => if p e.1 e.2 why then s.unpark e.1 x.1 else s
      | _ => s) s) s

/-- KWAIT words of a die that are parked for a slot of its Keeper run again: a slot is free (R334). -/
def State.serveKwaits (s : State) (die : Nat) : State :=
  s.groups.foldl (fun s e =>
    e.2.waves.foldl (fun s x =>
      if x.2.phase = .parked .kwait ∧ dieOf e.2.core = die
          ∧ (s.die die).waiters.all (fun w => decide ((w.gid, w.wid) ≠ (e.1, x.1))) then s.unpark e.1 x.1
      else s) s) s

/-- Words of a group that are parked leave the lines they stand in when their park is abandoned: a pool's (R396), and the
Keeper's slots for KWAIT, where another word then finds room (R334). -/
def State.leaveLines (s : State) (gid : Nat) : State :=
  let die := dieOf (s.group gid).core
  let held := (s.die die).waiters.any (fun w => decide (w.gid = gid))
  let s := s.updDie die (fun x => { x with
    moorLine := x.moorLine.filter (fun e => e.2.2.1 ≠ gid), waiters := x.waiters.filter (fun w => w.gid ≠ gid) })
  if held then s.serveKwaits die else s

/-! ### Dependence counters -/

/-- One operation on a dependence counter of a die. An armed counter that the operation leaves at exactly 0 fires:
it disarms, and its task goes to the die queue; waves of the die that wait for a zero read their counter again
(R242, R243). -/
def State.dcApply (s : State) (die id : Nat) (f : Word → Word) : State :=
  let c := tget (s.die die).dcs id {}
  let v := f c.value
  if v = 0#32 then
    let s := match c.armed with
      | some a => s.updDie die (fun d => { d with dcs := tset d.dcs id { value := v }, fired := d.fired ++ [a] })
      | none => s.updDie die (fun d => { d with dcs := tset d.dcs id { value := v } })
    s.unparkAll (fun _ g why => decide (why = .dcwait) && decide (g.core / 16 = die))
  else s.updDie die (fun d => { d with dcs := tset d.dcs id { c with value := v } })

/-- Decrement the counter that a group, task, lane or copy names; 0xFFFF names none. -/
def State.dcDec (s : State) (die id : Nat) : State :=
  if id = 0xFFFF then s else s.dcApply die id (fun v => v - 1)

/-- A lane's block returns to its pool, where a MOOR can take it from the next cycle (R395). -/
def State.poolReturn (s : State) (die ctx pool block : Nat) : State :=
  s.updDie die (fun d =>
    let p := tget d.pools (ctx * 16 + pool) {}
    { d with pools := tset d.pools (ctx * 16 + pool) { p with back := p.back + 1, store := tdel p.store block } })

/-- A cycle has passed: blocks that came back are free, and the free count never exceeds BLOCKS (R395). -/
def Pool.settle (p : Pool) : Pool := { p with free := min p.blocks (p.free + p.back), back := 0 }

/-- What a spawned lane owes when it stops being live: its count falls, then its join counter, and its block returns
(R240, R299, R395). -/
def State.spawnExit (s : State) (gid lane : Nat) : State :=
  let g := s.group gid
  match tget? g.spawns lane with
  | none => s
  | some o =>
    let s := s.count g.core g.ctx g.node g.stamp (-1)
    let s := s.dcDec (dieOf g.core) o.join
    let s := s.poolReturn (dieOf g.core) g.ctx o.pool o.block
    s.updGroup gid (fun g => { g with spawns := tdel g.spawns lane })

/-! ### Ending a group -/

/-- HALT and the double trap (R166, R173): every live lane stops being live, the group leaves supervisor mode, and an
error record names the context, the reason and SYS_TCAUSE. The group is freed, with the Keeper accounting of EXIT for
its lanes, when its operations have completed (R85). -/
def State.haltGroup (s : State) (gid reason : Nat) (addr : BitVec 52) : State :=
  let g := s.group gid
  let s := (s.leaveLines gid).errorRecord (dieOf g.core) 4 (g.core % 16) g.ctx false addr.toNat (reason + 256 * g.tcause)
  s.updGroup gid (fun g => { g with live := 0, waves := [], sup := false, entering := none, exiting := true })

/-! ### Taking a trap -/

/-- The handler's clause for a cause: SYS_TRAPBASE with bits [11:0] ignored, plus 64 × cause (R164). -/
def handlerPc (c : Ctx) (cause : Nat) : BitVec 52 :=
  (c.trapBase.extractLsb' 0 52 &&& ~~~0xFFF#52) + BitVec.ofNat 52 (64 * cause)

/-- Lane state copied to its save slot, and the lane sent to the handler (R164 step 5). -/
def Lane.enter (l : Lane) (pc : BitVec 52) (wid : Nat) (held : Bool) : Lane :=
  { l with savePc := l.pc, saveMr := l.mr, saveCsp := l.csp, saveRwi := l.rwi, saveWave := wid
           heldMr := if held then some l.mr else none, pc := pc, mr := none, rwi := 0 }

/-- Lowest lane of a mask; 0 for an empty one. -/
def lowLane (m : Mask) : Nat := (lanesOf m).headD 0

/-- The wave that holds a lane. -/
def Group.waveOf (g : Group) (l : Nat) : Nat :=
  match g.waves.find? (fun e => inMask e.2.lanes l) with
  | some e => e.1
  | none => 0

/-- A context's system registers as its descriptor holds them, for a core of a die (R168, R430). -/
def Ctx.view (c : Ctx) (die : Nat) : SysView :=
  { trapBase := c.trapBase, saveArea := c.saveArea, root := if die = 0 then c.root0 else c.root1, towpath := c.towpath
    sysr := c.sysr }

/-- A context with its descriptor's words read from memory: a field whose word has changed there since it was last read is
changed so (R169, R432). -/
def Ctx.refresh (c : Ctx) (ws : List DWord) : Ctx :=
  let pick := fun (i : Nat) (old : DWord) => if ws.getD i 0 = c.seen.getD i 0 then old else ws.getD i 0
  { c with
    sysr := (pick 0 (if c.sysr then 2 else 0)).getLsbD 1
    root0 := pick 1 c.root0, root1 := pick 2 c.root1, trapBase := pick 3 c.trapBase, saveArea := pick 4 c.saveArea
    towpath := pick 5 c.towpath, seen := ws }

/-- The words of a context's descriptor that hold the fields of SYS registers: bytes 0 to 47 (R430). -/
def State.descWords (s : State) (c : Ctx) : List DWord :=
  (List.range 6).map (fun i => BitVec.ofNat 64 (s.homeNat (homeKey c.descDie (c.descPa + 8 * i)) 8))

/-- The system registers of a context as a core sees them: as they were at its last trap entry or the context's load (R169, log entry
49). -/
def State.sysView (s : State) (core ctx : Nat) : SysView := tget (s.core core).views ctx ((s.ctx ctx).view (dieOf core))
/-- SYS_CTX.SYSR as the current group's core sees it (R168, R169). -/
def State.sysr (s : State) : Bool := (s.sysView s.cg.core s.cg.ctx).sysr

/-- A loaded context takes up what memory holds in its descriptor. -/
def State.refreshCtx (s : State) (ctx : Nat) : State :=
  if (s.ctx ctx).dies = 0#2 then s else s.updCtx ctx (fun c => c.refresh (s.descWords c))

/-- The core sees the context's system registers anew (R169). -/
def State.seeContext (s : State) (core ctx : Nat) : State :=
  let s := s.refreshCtx ctx
  s.updCore core (fun c => { c with views := tset c.views ctx ((s.ctx ctx).view (dieOf core)) })

/-- A pending MSEQ completes at trap entry with the current sequence number (R223). -/
def Group.endMseqs (g : Group) : Group :=
  g.ops.foldl (fun g o =>
    match o.instr with
    | .mseq x _ _ =>
      ({ g.setS x.toNat g.seq with ops := g.ops.filter (fun p => decide (p.id ≠ o.id)) }).discharge o.flag
    | _ => g) g

/-- CHLOAD and the matrix products, which PREEMPT stops (R221). -/
def isStoppable : Instr → Bool
  | .chload .. | .mma .. | .mmag .. | .mmav .. => true
  | _ => false

/-- PREEMPT tells every CHLOAD and matrix product of the group to stop at its next boundary (R221, R433). -/
def Group.stopEngine (g : Group) : Group :=
  { g with ops := g.ops.map (fun o => if isStoppable o.instr && !o.stopped then { o with stopReq := true } else o) }

/-- The group after a word of wave `wid` that saw the registers of its issue: the group's own registers stand, for such a
word writes none before it completes; a trap may have ended an MSEQ. A word that could not go on keeps what it has read and
its flag (R36, R38). -/
def Group.unseen (base : Group) (wid : Nat) (g : Group) : Group :=
  let w := base.wave wid
  let x := g.wave wid
  let g := { g with
    v := base.v, k := base.k, q := base.q, b := base.b, late := base.late, bad := base.bad
    s := if g.sup || g.entering.isSome then base.endMseqs.s else base.s }
  if x.phase = .body ∧ x.addr = w.addr ∧ x.idx = w.idx ∧ x.snap.isNone then
    (g.charge (w.snap.bind (·.flag))).setWave wid { x with snap := w.snap }
  else g

/-- Change a group that is still there. -/
def State.updHeld (s : State) (gid : Nat) (f : Group → Group) : State :=
  if (tget? s.groups gid).isSome then s.updGroup gid f else s

/-- Run a wave's word on the registers that it read when it issued (R38). -/
def State.runSeen (s : State) (gid wid : Nat) (f : State → State) : State :=
  (f { s.updGroup gid (fun g => g.seen wid) with curGroup := gid, curWave := wid }).updHeld gid (Group.unseen (s.group gid) wid)

/-- The registers of group `base` as one read finds them: which of those that no wave has observed are still old is a free
value (R39). -/
def State.lateView (s : State) (gid : Nat) (base : Group) : Group × State :=
  if base.late.isEmpty then (base, s)
  else
    let f := s.takeFree
    (base.lateSeen f.1, f.2.setGroup gid (base.lateSeen f.1))

/-- After such a read the registers hold what the completions wrote. -/
def State.lateDone (s : State) (gid : Nat) (base : Group) : State :=
  if base.late.isEmpty then s else s.updHeld gid (Group.lateBack base)

/-- Trap entry, steps 5 and 6 of R164: save slots, PC at the handler, the trap registers, one supervisor wave. The core sees
the context's system registers anew (R169); under PREEMPT the operations that waves have issued on their way to the boundary
are told to stop with the others (R221, R433). -/
def State.enterTrap (s : State) (gid : Nat) (t : Trap) : State :=
  let s := s.seeContext (s.group gid).core (s.group gid).ctx
  let g := (s.group gid).endMseqs
  let g := if t.cause = 0x0B then g.stopEngine else g
  let pc := handlerPc (s.ctx g.ctx) t.cause
  let lanes := (lanesOf g.live).foldl
    (fun v l => vecSet v l ((vecGet v l {}).enter pc (g.waveOf l) (g.wave (g.waveOf l)).wasHeld)) g.lanes
  let w : Wave := { lanes := g.live, readyAt := (s.core g.core).cycles }
  s.setGroup gid { g with
    lanes := lanes, waves := tset [] (lowLane g.live) w, sup := true, entering := none,
    tcause := t.cause, tkind := t.kind, taddr := t.addr, tdetail := t.detail,
    tmask := if t.kind = 4 then g.live else t.lanes }

/-- Lanes of a wave stopped inside its clause: those in E keep their PC with the word's index, the others go to seq
with index 0 (R164 step 1). A task that an earlier word of the clause runs inline is kept for the clause's end (R238). -/
def Group.stopAt (g : Group) (w : Wave) : Group :=
  let g := (lanesOf w.lanes).foldl (fun g l =>
    let x := g.lane l
    if inMask w.en l then g.setLane l { x with pc := w.addr, rwi := BitVec.ofNat 4 w.trapIdx }
    else g.setLane l { x with pc := seqOf w.addr w.hdr, rwi := 0 }) g
  match w.inl with
  | some t => { g with inlHeld := g.inlHeld ++ [(w.en, w.addr, t)] }
  | none => g

/-- A wave abandons the instruction that it is parked in: its resume index points there (R164 step 3). -/
def Group.abandon (g : Group) (wid : Nat) : Group :=
  let g := g.dropSnap wid
  let w := g.wave wid
  (g.stopAt w).setWave wid { w with phase := .stopped, pfx := none, inl := none }

/-- Park the wave inside the instruction at its word, with what the word has read and the flag it is charged to (R36, R38,
R275). While a trap entry is under way the park is abandoned at once (R164 step 3). -/
def State.park (s : State) (why : Park) (flag : Option Nat := none) : State :=
  if s.cg.entering.isSome then (s.leaveLines s.curGroup).updCur (fun g => g.abandon s.curWave)
  else s.updCur (fun g =>
    (g.charge flag).setWave s.curWave { g.wave s.curWave with phase := .parked why, snap := some (g.snap flag) })

/-- What a group-wide trap does in cycle `now` to a wave that is not at a word (R161, R164 steps 2 and 3): it stops at a
boundary, abandons a park with its index at the instruction, or has its sleep ended, is ready and runs on. -/
def Group.stopWave (g : Group) (now wid : Nat) : Group :=
  let w := g.wave wid
  match w.phase with
  | .held => g.setWave wid { w with phase := .stopped, pfx := none, wasHeld := true }
  | .start | .waiting | .waited => g.setWave wid { w with phase := .stopped, pfx := none }
  | .parked _ => g.abandon wid
  | .sleeping _ => g.setWave wid { w with phase := .body, readyAt := now, promoted := false }
  | _ => g

/-- Every wave of the group has stopped. -/
def Group.allStopped (g : Group) : Bool := g.waves.all (fun e => decide (e.2.phase = .stopped))

/-- The entry takes place once every wave has stopped (R164). -/
def State.settle (s : State) (gid : Nat) : State :=
  let g := s.group gid
  match g.entering with
  | some t => if g.allStopped && !g.sup then s.enterTrap gid t else s
  | none => s

/-- Begin a group-wide trap: the first trap is the one reported, and every wave is told to stop (R164). A TRAPIF of a wave on
its way to its boundary raises no trap of its own then, and does not recur (log entry 55). -/
def State.beginTrap (s : State) (gid : Nat) (t : Trap) : State :=
  let s := s.leaveLines gid
  let s := s.updGroup gid (fun g =>
    let g : Group := { g.endMseqs with entering := g.entering.or (some t) }
    let g := if (g.entering.map (·.cause)) = some 0x0B then g.stopEngine else g
    g.waves.foldl (fun g e => g.stopWave (s.core g.core).cycles e.1) g)
  s.settle gid

/-- TAKING A TRAP AT A WORD (kind W): the word and its prefix have no effect, the wave stops there, and the group
enters the handler as soon as its other waves have stopped; raised by a handler clause it is a double trap
(R98, R164, R166). -/
def State.trapWord (s : State) (t : Trap) : State :=
  let g := s.cg
  let w := s.cw
  if g.sup then s.haltGroup s.curGroup 0xFF w.addr
  else
    let s := s.updCur (fun g => (g.stopAt w).setWave s.curWave { w with phase := .stopped, pfx := none })
    s.beginTrap s.curGroup t

/-- Taking a trap at clause start (kind S): every lane keeps its PC and resume index (R79, R167). -/
def State.trapStart (s : State) (t : Trap) : State :=
  let w := s.cw
  if s.cg.sup then s.haltGroup s.curGroup 0xFF w.addr
  else
    let s := s.updWave (fun w => { w with phase := .stopped, pfx := none })
    s.beginTrap s.curGroup t

/-- A wave of the group stands at a clause boundary, or is parked or asleep so that a group-wide trap ends that (R161,
R164). A wave that TRET sent back into a clause stands at none (R79). -/
def Group.atBoundary (g : Group) : Bool :=
  g.waves.any (fun e => match e.2.phase with
    | .start => !e.2.resumed
    | .held | .waiting | .waited | .parked _ | .sleeping _ | .stopped => true
    | _ => false)

/-- The trap of a pending PREEMPT (R163, R433). -/
def preemptTrap (detail : DWord) : Trap := { cause := 0x0B, kind := 4, addr := 0, detail := detail }

/-- Report what is pending at a clause boundary: error completions first, in completion order, one per entry, then
PREEMPT; nothing while the group is in a handler or an entry is under way (R88, R166). -/
def State.report (s : State) (gid : Nat) : State :=
  let g := s.group gid
  if g.sup || g.entering.isSome || g.exiting || !g.atBoundary then s
  else match g.errors, g.preempt with
    | t :: ts, _ => (s.updGroup gid (fun g => { g with errors := ts })).beginTrap gid t
    | [], some d => (s.updGroup gid (fun g => { g with preempt := none })).beginTrap gid (preemptTrap d)
    | [], none => s

/-! ### The word traps -/

/-- SYS_TMASK of a trap that concerns the whole word: the lanes of E. -/
def Wave.trapLanes (w : Wave) : Mask := w.en

/-- ILLEGAL or PRIV at this word (R163): SYS_TADDR is the clause, SYS_TDETAIL the word that failed and its index. -/
def State.trapIllegal (s : State) (cause : Nat) (word : Word) (idx : Nat) : State :=
  let w := s.cw
  s.trapWord { cause := cause, kind := 0, addr := w.addr.setWidth 64
               detail := BitVec.ofNat 64 (word.toNat + 2 ^ 32 * idx), lanes := w.trapLanes }

/-- ILLEGAL at the word being run. -/
def State.illegal (s : State) : State := s.trapIllegal 0x01 s.cw.word s.cw.idx
/-- ILLEGAL at the prefix of the word being run (R163). -/
def State.illegalPrefix (s : State) : State := s.trapIllegal 0x01 (s.cw.pfx.getD 0) (s.cw.idx - 1)
/-- PRIV at the word being run. -/
def State.privTrap (s : State) : State := s.trapIllegal 0x02 s.cw.word s.cw.idx

/-- A trap whose SYS_TADDR is the clause address and whose detail is given beside the word index (R163: SLOTKIND,
SHAPE, STREAMRIGHTS, SWTRAP, BRK). -/
def State.clauseTrap (s : State) (cause detail : Nat) : State :=
  s.trapWord { cause := cause, kind := 0, addr := s.cw.addr.setWidth 64
               detail := BitVec.ofNat 64 detail, lanes := s.cw.trapLanes }

/-- SLOTKIND naming a format slot (R37, R163); a pair is named by the index of its prefix, where it resumes (R91, R342). -/
def State.slotTrap (s : State) (slot : Nat) : State := s.clauseTrap 0x12 (s.cw.trapIdx + 16 * slot)
/-- SHAPE naming a handle (R34, R163). -/
def State.shapeTrap (s : State) (handle : Nat) : State := s.clauseTrap 0x13 (s.cw.idx + 16 * handle)
/-- STREAMRIGHTS (R226). -/
def State.streamTrap (s : State) : State := s.clauseTrap 0x05 s.cw.idx

/-- SYS_TDETAIL of an address trap: word index, path bit number, write, record (R163); bit 12 is REPLICA (R416). -/
def addrDetail (idx path : Nat) (write : Bool) (br : Nat) (replica : Bool := false) : Nat :=
  idx + 16 * path + (if write then 128 else 0) + 256 * br + (if replica then 4096 else 0)

/-- ALIGN, ACCESS, SEALSTORE, ABSENT or RANGEALIGN with the address of the lowest faulting lane (R163, R180); a pair is
named by the index of its prefix, where it resumes (R91, R342). -/
def State.addrTrap (s : State) (cause : Nat) (va path : Nat) (write : Bool) (br : Nat) (lanes : Mask)
    (replica : Bool := false) : State :=
  s.trapWord { cause := cause, kind := 0, addr := BitVec.ofNat 64 va
               detail := BitVec.ofNat 64 (addrDetail s.cw.trapIdx path write br replica), lanes := lanes }

/-- ALIGN cause code (R163). -/
def cALIGN : Nat := 0x03
/-- ACCESS cause code. -/
def cACCESS : Nat := 0x04
/-- SEALSTORE cause code. -/
def cSEALSTORE : Nat := 0x07
/-- ABSENT cause code. -/
def cABSENT : Nat := 0x10
/-- RANGEALIGN cause code. -/
def cRANGEALIGN : Nat := 0x11

/-! ### Completion of operations -/

/-- The operation with a number, if the group still has it in flight. -/
def Group.op? (g : Group) (id : Nat) : Option POp := g.ops.find? (fun o => decide (o.id = id))
/-- The group with an operation replaced. -/
def Group.setOp (g : Group) (o : POp) : Group := { g with ops := g.ops.map (fun x => if x.id = o.id then o else x) }
/-- The group with an operation taken out and its flag decremented (R36, R86). -/
def Group.endOp (g : Group) (o : POp) : Group :=
  ({ g with ops := g.ops.filter (fun x => decide (x.id ≠ o.id)) }).discharge o.flag

/-- Waves whose clause waits on flags begin its words once every named flag reads zero, and a wave that drains ends
its clause, at their own next turn; they become ready in the cycle in which the wait ends (R275). -/
def State.opDone (s : State) (gid : Nat) (o : POp) : State := s.updGroup gid (fun g => g.endOp o)

/-- An operation that completes with error: its flag falls, and the group takes the trap at its next boundary
(R88, R166). -/
def State.opFailed (s : State) (gid : Nat) (o : POp) (t : Trap) : State :=
  let s := s.updGroup gid (fun g => { g.endOp o with errors := g.errors ++ [t] })
  s.report gid

/-- Put an operation in flight: it takes the next number and charges its flag (R36, R38). -/
def State.issueOp (s : State) (o : POp) : State :=
  let o := { o with id := s.nextOp, wid := s.curWave, clause := s.cw.addr, idx := s.cw.idx }
  let s := { s with nextOp := s.nextOp + 1 }
  s.updCur (fun g => { g.charge o.flag with ops := g.ops ++ [o] })

end Sys2Proof.Machine
end

