-- ==== Sys2Proof/Machine/Operands.lean ====
section
/-! DEFINITION. Machine/Operands.lean: operand fields, prefixes and the write of results of V-set words, and what
U-set words share (R28, R29, R80, R91 to R94, R116, R117, R136, R151). -/
namespace Sys2Proof.Machine

/-! ### Operand fields -/

/-- A vector destination of `k` registers: v-registers below the declared count (R28, R29). -/
def dstOk (n f k : Nat) : Bool := decide (f + k ≤ n) && decide (f + k ≤ 192)
/-- A source of `k` registers: all v-registers below the count, or all s-registers (R28, R29). -/
def srcOk (n f k : Nat) : Bool := dstOk n f k || (decide (192 ≤ f) && decide (f + k ≤ 256))
/-- A span of `k` s-registers (R29). -/
def sspanOk (f k : Nat) : Bool := decide (f + k ≤ 64)

/-! ### Prefixes -/

/-- Which fields of a general prefix an instruction honours (R92, R116, R136). -/
structure Honours where
  /-- Registers of the third source; 0 for an instruction that takes none. -/
  c : Nat := 0
  rm : Bool := false
  sat : Bool := false
  mods : Bool := false
  z : Bool := true
  /-- The Prefix column reads "required" (R91). -/
  need : Bool := false
  deriving DecidableEq, Repr

/-- The general reading of a prefix word (R92). -/
structure GPfx where
  c : Nat := 0
  km : Nat := 0
  z : Bool := false
  rm : Nat := 0
  sat : Bool := false
  neg : Bool := false
  abs : Bool := false
  /-- Bits [5:0], which must be zero. -/
  rest : Nat := 0
  deriving DecidableEq, Repr

/-- Fields of a general prefix (R92). -/
def gpfx (p : Word) : GPfx :=
  { c := (p.extractLsb' 16 8).toNat, km := (p.extractLsb' 13 3).toNat, z := p.getLsbD 12
    rm := (p.extractLsb' 9 3).toNat, sat := p.getLsbD 8, neg := p.getLsbD 7, abs := p.getLsbD 6
    rest := (p.extractLsb' 0 6).toNat }

/-- Does an instruction accept a general prefix (R92)? An unused field must be zero; the third source must be valid. -/
def GPfx.ok (p : GPfx) (h : Honours) (n : Nat) : Bool :=
  (if h.c = 0 then decide (p.c = 0) else srcOk n p.c h.c)
  && (h.z || !p.z) && decide (p.rm ≠ 7) && (h.rm || decide (p.rm = 0))
  && (h.sat || !p.sat) && (h.mods || (!p.neg && !p.abs)) && decide (p.rest = 0)

/-- What a V-set word sees at issue: the enabled lanes, the active ones, those masked by km, and its prefix. -/
structure VIn where
  en : Mask := 0
  act : Mask := 0
  /-- Enabled lanes that the prefix mask leaves out and that z zeroes (R117). -/
  zero : Mask := 0
  p : GPfx := {}
  /-- Field of the third source: the prefix's c, or d without a prefix (R91). -/
  c : Nat := 0
  deriving DecidableEq, Repr

/-- Run a V-set word whose own fields are valid when `ok` (R28, R91, R92): otherwise, or when the prefix does not fit,
it traps ILLEGAL. `d` is what c stands for without a prefix. `sel` is set for VSEL, whose km selects and does not
mask (R129). -/
def State.vWord (s : State) (h : Honours) (ok : Bool) (d : Nat) (sel : Bool) (k : VIn → State → State) : State :=
  let en := s.cw.en
  if !ok then s.illegal
  else match s.cw.pfx with
    | none => if h.need then s.illegal else k { en := en, act := en, c := d } s
    | some w =>
      let p := gpfx w
      if !p.ok h s.cg.n then s.illegalPrefix
      else
        let act := if sel then en else en &&& s.cg.kmask p.km
        k { en := en, act := act, zero := if p.z then en &&& ~~~act else 0, p := p, c := p.c } s

/-- Zero `n` registers from `d` in the lanes of a mask (R117). -/
def Group.zeroLanes (g : Group) (m : Mask) (d n : Nat) : Group := (lanesOf m).foldl (fun g l => g.setVs d l n 0) g

/-- Write the results of a V-set word (R117): each active lane its result, a lane masked under z zero, every other
lane nothing. `f` gives lane `l`'s result, and its rounding generator after any draws (R69). -/
def Group.vResults (g : Group) (x : VIn) (d n : Nat) (f : Nat → Word → Nat × Word) : Group :=
  let g := (lanesOf x.act).foldl (fun g l =>
    let r := f l (g.lane l).gen
    (g.setVs d l n r.1).setLane l { g.lane l with gen := r.2 }) g
  g.zeroLanes x.zero d n

/-- A short-latency V-set word with `n` destination registers at `d`: it reads every source at issue (R115). -/
def vOp (h : Honours) (ok : Group → Bool) (d n : Nat) (f : VIn → Group → Nat → Word → Nat × Word) (s : State) : Res :=
  .next (s.vWord h (dstOk s.cg.n d n && ok s.cg) d false
    (fun x s => (s.updCur (fun g => g.vResults x d n (f x g))).nextWord))

/-- A V-set word that writes one k-bit per lane (R128, R140). -/
def vCmp (h : Honours) (ok : Group → Bool) (kd : Nat) (f : VIn → Group → Nat → Bool) (s : State) : Res :=
  .next (s.vWord h (ok s.cg) 0 false (fun x s =>
    (s.updCur (fun g => g.mergeK kd (x.act ||| x.zero) (maskOf (fun l => inMask x.act l && f x g l)))).nextWord))

/-! ### U-set words -/

/-- Run a U-set word: once for the wave when E holds a lane, skipped otherwise (R80, R151). A word whose fields fail
traps ILLEGAL; `k` gives the state with the word's effect, before the move to the next word. -/
def State.uWord (s : State) (ok : Bool) (k : State → State) : State :=
  if s.cw.en = 0#32 then s.skipWord
  else if !ok then s.illegal
  else k s

/-- A U-set word that changes only the group (R151). -/
def uOp (ok : Bool) (f : Group → Group) (s : State) : Res :=
  .next (s.uWord ok (fun s => (s.updCur f).nextWord))

/-- A privileged U-set word: outside supervisor mode it traps PRIV (R96). -/
def State.privWord (s : State) (ok : Bool) (k : State → State) : State :=
  s.uWord ok (fun s => if s.cg.sup then k s else s.privTrap)

end Sys2Proof.Machine
end

