-- ==== Sys2Proof/Machine/Translate.lean ====
section
/-! DEFINITION. Machine/Translate.lean: page tables, translations held by cores and dies, and what an access to a page
meets (R405 to R416). -/
namespace Sys2Proof.Machine

/-! ### Page table entries (R406, R407) -/

/-- V of an entry. -/
def pteV (e : DWord) : Bool := e.getLsbD 0
/-- Leaf of an entry. -/
def pteLeaf (e : DWord) : Bool := e.getLsbD 1
/-- W of a leaf. -/
def pteW (e : DWord) : Bool := e.getLsbD 2
/-- X of a leaf. -/
def pteX (e : DWord) : Bool := e.getLsbD 3
/-- User of a leaf. -/
def pteUser (e : DWord) : Bool := e.getLsbD 4
/-- Replica of a leaf. -/
def pteReplica (e : DWord) : Bool := e.getLsbD 7
/-- P of a leaf: V = 1 with P = 0 is absent. -/
def pteP (e : DWord) : Bool := e.getLsbD 9
/-- PA bits [47:16] of an entry, in their place. -/
def ptePa (e : DWord) : Nat := (e.extractLsb' 16 32).toNat * 2 ^ 16
/-- HOME of a leaf. -/
def pteHome (e : DWord) : Nat := (e.extractLsb' 48 8).toNat

/-- A HOME that is not reserved: a die, the host, or a die of a peer module that is not the module itself (R407). -/
def homeOk (modIndex home : Nat) : Bool :=
  decide (home < 2) || decide (home = 0x80)
    || (decide (0x84 ≤ home) && decide (home ≤ 0x8B) && decide ((home - 0x84) / 2 ≠ modIndex))

/-- A leaf that counts as valid (R406). In an absent leaf PA, RUN, HOME and the permissions are ignored. -/
def leafOk (modIndex : Nat) (big : Bool) (e : DWord) : Bool :=
  pteV e && pteLeaf e && !e.getLsbD 8 && !e.getLsbD 10 && !e.getLsbD 11
    && (!pteP e || (homeOk modIndex (pteHome e) && (!big || decide (e.extractLsb' 16 12 = 0#12))))

/-- Does a node or page that an entry places in a die's LPDDR6 lie below the 45 GiB that software sees (R15, R443)? An
entry that leads past it counts as not valid (R8, log entry 47). -/
def paInDie (home pa n : Nat) : Bool := decide (2 ≤ home) || decide (pa ≤ lpddrBytes - n)

/-- A leaf that an access can use: valid (R406), its page inside the memory that it names. -/
def leafUsable (modIndex : Nat) (big : Bool) (e : DWord) : Bool :=
  leafOk modIndex big e && (!pteP e || paInDie (pteHome e) (ptePa e) (if big then 2 ^ 28 else 2 ^ 16))

/-- A non-leaf entry that leads a walk to a node of the die (R405, R406). -/
def nodeOk (e : DWord) : Bool := pteV e && !pteLeaf e && paInDie 0 (ptePa e) 32768

/-! ### The walk (R405, R408, R410) -/

/-- Page number of a VA as a TLB entry names it: VA[51:16], or VA[51:28] × 2¹² for a 256 MiB page. -/
def vpnOf (big : Bool) (va : Nat) : Nat := if big then va / 2 ^ 28 * 2 ^ 12 else va / 2 ^ 16

/-- The root that walks of a die use (R405, R169). -/
def Ctx.root (c : Ctx) (die : Nat) : Nat := (if die = 0 then c.walkRoot0 else c.walkRoot1).toNat

/-- A non-leaf entry through the die's walk cache (R410): the entry and the state that holds it. -/
def State.walkNode (s : State) (die ctx level index at_ : Nat) : DWord × State :=
  match (s.die die).walks.find? (fun w => decide (w.ctx = ctx) && decide (w.level = level) && decide (w.index = index)) with
  | some w => (w.entry, s)
  | none =>
    let e := BitVec.ofNat 64 (s.homeNat at_ 8)
    if pteV e && !pteLeaf e then
      let w : WalkEntry := { ctx := ctx, level := level, index := index, entry := e }
      (e, s.updDie die (fun d => { d with walks := (w :: d.walks).take 512 }))
    else (e, s)

/-- A walk of die `die`'s table for a context: the leaf with its size and where it lies, or none when not valid. -/
def State.walk (s : State) (die ctx va : Nat) : Option TlbEntry × State :=
  let root := (s.ctx ctx).root die
  if !paInDie 0 root 32768 then (none, s)
  else
    let n1 := s.walkNode die ctx 1 (va / 2 ^ 40) (homeKey die (root + 8 * (va / 2 ^ 40 % 4096)))
    if !nodeOk n1.1 then (none, n1.2)
    else
      let at2 := homeKey die (ptePa n1.1 + 8 * (va / 2 ^ 28 % 4096))
      let n2 := n1.2.walkNode die ctx 2 (va / 2 ^ 28) at2
      let s := n2.2
      if pteV n2.1 && pteLeaf n2.1 then
        if leafUsable s.modIndex true n2.1 then
          (some { ctx := ctx, die := die, vpn := vpnOf true va, big := true, leaf := n2.1, at_ := at2 }, s)
        else (none, s)
      else if !nodeOk n2.1 then (none, s)
      else
        let at3 := homeKey die (ptePa n2.1 + 8 * (va / 2 ^ 16 % 4096))
        let e := BitVec.ofNat 64 (s.homeNat at3 8)
        if leafUsable s.modIndex false e then
          (some { ctx := ctx, die := die, vpn := vpnOf false va, big := false, leaf := e, at_ := at3 }, s)
        else (none, s)

/-- Does a held translation serve a VA? -/
def TlbEntry.hits (t : TlbEntry) (die ctx va : Nat) : Bool :=
  decide (t.ctx = ctx) && decide (t.die = die) && decide (t.vpn = vpnOf t.big va)

/-- Translations a core holds for a path: the sampler's for path S, else the TLB (R410). -/
def Core.held (c : Core) (sampler : Bool) : List TlbEntry := if sampler then c.stlb else c.tlb

/-- The core with its held translations replaced. -/
def Core.setHeld (c : Core) (sampler : Bool) (t : List TlbEntry) : Core :=
  if sampler then { c with stlb := t } else { c with tlb := t }

/-- Translate a VA on a core: its held translation, or a walk whose present, valid leaf it then holds (R408, R410).
None when the PTE is not valid. -/
def State.translate (s : State) (core ctx : Nat) (sampler : Bool) (va : Nat) : Option TlbEntry × State :=
  let die := dieOf core
  match ((s.core core).held sampler).find? (fun t => t.hits die ctx va) with
  | some t => (some t, s)
  | none =>
    let r := s.walk die ctx va
    match r.1 with
    | none => r
    | some t =>
      if pteP t.leaf then
        (some t, r.2.updCore core (fun c =>
          c.setHeld sampler ((t :: c.held sampler).take (if sampler then 256 else 4096))))
      else (some t, r.2)

/-- The physical key of a VA through a leaf (R407). -/
def TlbEntry.key (t : TlbEntry) (va : Nat) : Nat :=
  homeKey (pteHome t.leaf) (if t.big then ptePa t.leaf + va % 2 ^ 28 else ptePa t.leaf + va % 2 ^ 16)

/-- Bits V, P, W, PA and HOME of a leaf, which must still match when A or D is set (R412). -/
def leafCore (e : DWord) : Bool × Bool × Bool × Nat × Nat := (pteV e, pteP e, pteW e, ptePa e, pteHome e)

/-- Set A, and D for a write, in a present leaf the first time an access goes through a held translation (R412): an
atomic OR at the entry's home. When the leaf no longer matches, the held translation is dropped and the access walks
again; the answer says whether it may proceed with the translation. -/
def State.touch (s : State) (core : Nat) (sampler write : Bool) (t : TlbEntry) : Bool × State :=
  let need := !t.leaf.getLsbD 5 || (write && !t.leaf.getLsbD 6)
  if !need then (true, s)
  else
    let e := BitVec.ofNat 64 (s.homeNat t.at_ 8)
    if leafCore e ≠ leafCore t.leaf then
      (false, s.updCore core (fun c => c.setHeld sampler ((c.held sampler).filter (fun x => x ≠ t))))
    else
      let bits : DWord := if write then 0x60#64 else 0x20#64
      let t' := { t with leaf := t.leaf ||| bits }
      let s := s.putHomeNat t.at_ 8 (e ||| bits).toNat
      (true, s.updCore core (fun c =>
        c.setHeld sampler ((c.held sampler).map (fun x => if x = t then t' else x))))

/-! ### Prediction (R411) -/

/-- Pages of the aligned run that a leaf names; 13 to 15 act as 0 (R406). -/
def runPages (e : DWord) : Nat :=
  let r := (e.extractLsb' 12 4).toNat
  if 13 ≤ r then 1 else 2 ^ r

/-- The key that a load on path L, S or M through a record uses at once: PA_last + (VA − VA_last) when the record is the
one of the prediction register, its translation names a die, and the VA lies in the same run of pages (R411). -/
def Pred.key (p : Pred) (recd : QWord) (die ctx va : Nat) : Option Nat :=
  let t := p.entry
  let page := if t.big then 2 ^ 28 else 2 ^ 16
  let run := runPages t.leaf * page
  if p.recd = recd ∧ t.die = die ∧ t.ctx = ctx ∧ pteHome t.leaf < 2 ∧ va / run = p.va / run then
    some (homeKey (pteHome t.leaf) (ptePa t.leaf + p.va % page + va - p.va))
  else none

/-- The key with which an access goes on: the prediction, where the checked translation agrees; a prediction that
differs is squashed, has no effect, and the access is issued again with the checked translation (R411). -/
def settledKey (predicted : Option Nat) (checked : Nat) : Nat :=
  match predicted with
  | some k => if k = checked then k else checked
  | none => checked

/-- The prediction register of record `br` takes the translation that an access through the record has used (R410). -/
def State.notePred (s : State) (gid br : Nat) (recd : QWord) (va : Nat) (t : TlbEntry) : State :=
  s.updGroup gid (fun g => { g with preds := tset g.preds br { recd := recd, va := va, entry := t } })

/-- The key with which a load of a group through record `br`, which was `recd` at its issue, goes on (R411): the register
predicts only while the record is unchanged. -/
def State.loadKey (s : State) (gid br : Nat) (recd : QWord) (va key : Nat) : Nat :=
  let g := s.group gid
  settledKey (if vecGet g.b br 0 = recd then (tget? g.preds br).bind (fun x => x.key recd (dieOf g.core) g.ctx va) else none) key

/-- An access of a group through a record has used the translation of a VA (R410). -/
def State.noteUse (s : State) (gid br : Nat) (recd : QWord) (sampler : Bool) (va : Nat) : State :=
  let g := s.group gid
  let t := s.translate g.core g.ctx sampler va
  match t.1 with
  | some x => t.2.notePred gid br recd va x
  | none => t.2

/-! ### What an access meets -/

/-- Kinds of access to a page. -/
inductive Want where
  | read | write | fetch
  deriving DecidableEq, Repr

/-- What an access to a page meets (R180 steps 4 and 5, R76, R416). -/
inductive Meets where
  | ok (key : Nat)
  | access
  | absent (replica : Bool)
  deriving DecidableEq, Repr

/-- Classify a translation for an access (R180, R406, R416). -/
def classify (t : Option TlbEntry) (want : Want) (user : Bool) (va : Nat) : Meets :=
  match t with
  | none => .access
  | some t =>
    if !pteP t.leaf then .absent false
    else if want = .write ∧ pteReplica t.leaf then .absent true
    else if user && !pteUser t.leaf then .access
    else if want = .write ∧ !pteW t.leaf then .access
    else if want = .fetch ∧ !pteX t.leaf then .access
    else .ok (t.key va)

/-- Translate for an access of a group and classify what it meets; a present page has A (and D) set, walking again
when the leaf has changed under a held translation (R412). `spec` is set for an access that sets no bit (R413). -/
def State.reach (s : State) (core ctx : Nat) (user sampler : Bool) (want : Want) (va : Nat) (spec : Bool := false) :
    Meets × State :=
  let r := s.translate core ctx sampler va
  let m := classify r.1 want user va
  match r.1, m with
  | some t, .ok _ =>
    if spec then (m, r.2)
    else
      let u := r.2.touch core sampler (decide (want = .write)) t
      if u.1 then (m, u.2)
      else
        let r := u.2.translate core ctx sampler va
        let m := classify r.1 want user va
        match r.1, m with
        | some t, .ok _ => (m, (r.2.touch core sampler (decide (want = .write)) t).2)
        | _, _ => (m, r.2)
  | _, _ => (m, r.2)

/-- Virtual addresses are 52 bits wide and wrap (R178). -/
def vaWrap (va : Nat) : Nat := va % 2 ^ 52

/-- Is a byte range of a context sealed (R197)? -/
def Ctx.sealed (c : Ctx) (va n : Nat) : Bool :=
  c.seals.any (fun r => decide (r.1 < va + n) && decide (va < r.1 + r.2))

/-- Path bit numbers of R94 and R283. -/
def pathL : Nat := 0
/-- Path S. -/
def pathS : Nat := 1
/-- Path C. -/
def pathC : Nat := 2
/-- Path M. -/
def pathM : Nat := 3
/-- Path W. -/
def pathW : Nat := 4
/-- Path B. -/
def pathB : Nat := 5
/-- Path H. -/
def pathH : Nat := 6

/-- Remove cached translations of a core (R171): those that `p` names. -/
def State.dropTlb (s : State) (core : Nat) (p : TlbEntry → Bool) : State :=
  s.updCore core (fun c => { c with tlb := c.tlb.filter (fun t => !p t), stlb := c.stlb.filter (fun t => !p t) })

end Sys2Proof.Machine
end

