-- ==== Sys2Proof/Machine/Paths.lean ====
section
/-! DEFINITION. Machine/Paths.lean: the paths of memory accesses, and the order in which the operations of a group perform
(R93, R283, R288 to R293). -/
namespace Sys2Proof.Machine

/-- Does an order acquire, and does it release (R93)? -/
def acquires (order : Nat) : Bool := decide (order = 1) || decide (order = 3)
/-- Does an order release? -/
def releases (order : Nat) : Bool := decide (order = 2) || decide (order = 3)

/-! ### Order within one group (R283, R288, R291, R292) -/

/-- The path of an operation's accesses; none for units that follow no path (R283). Accesses to a host or peer page
are on path H whatever the instruction. -/
def instrPath : Instr → Option Nat
  | .vld .. | .vst .. | .vldsp .. | .vstsp .. | .vatom .. | .vatom64 .. | .vcas128 .. => some pathL
  | .sld .. | .sst .. | .sldsp .. | .sstsp .. | .satom .. => some pathL
  | .mma .. | .rfil .. | .rema .. => some pathL
  | .accmap _ _ _ f _ => if f = .scalebias then some pathL else none
  | .vldl .. | .vsmp .. | .vtrav .. | .vtravc .. => some pathS
  | .cpy .. | .cpym .. | .cpys .. | .cpyg .. | .layseal .. => some pathC
  | .chload .. | .mmag .. | .accld .. | .accst .. => some pathM
  | .vldwh .. | .vstwh .. | .vwop .. | .vwopPosted .. => some pathW
  | .vsemit .. | .vsbg .. => some pathB
  | _ => none

/-- Does an operation read, and does it write, on its path (R283)? -/
def instrReads : Instr → Bool
  | .vst .. | .vstsp .. | .sst .. | .sstsp .. | .vstwh .. | .accst .. | .vsemit .. => false
  | i => (instrPath i).isSome

/-- Does an operation write on its path (R283)? -/
def instrWrites : Instr → Bool
  | .vst .. | .vstsp .. | .sst .. | .sstsp .. | .vstwh .. | .accst .. | .vsemit .. => true
  | .vatom .. | .vatom64 .. | .vcas128 .. | .satom .. | .vwop .. | .vwopPosted .. => true
  | .rfil .. | .rema .. | .cpy .. | .cpym .. | .cpys .. | .cpyg .. | .layseal .. => true
  | _ => false

/-- Is an instruction an engine operation (R203)? -/
def isEngine : Instr → Bool
  | .chload .. | .chrel .. | .atdef .. | .mma .. | .mmag .. | .mmav .. | .accz .. | .accld .. | .accst .. => true
  | .accrd .. | .accwr .. | .accmap .. | .rfil .. | .rema .. => true
  | _ => false

/-- Engine operations whose reads of scratchpad come at any time until they complete (R212). -/
def readsAtWill : Instr → Bool
  | .mma .. | .mmag .. => true
  | _ => false

/-- Pseudo-key of a scratchpad byte, apart from every physical key. -/
def spadKey (team off : Nat) : Nat := (2 ^ 16 + team) * 2 ^ 48 + off
/-- Pseudo-key of a Wharf byte. -/
def bankKey (die off : Nat) : Nat := (2 ^ 15 + die) * 2 ^ 48 + off

/-- Pseudo-key of the poison of an accumulator byte: an atom of 32 for each two bytes (R463). -/
def accKey (team off : Nat) : Nat := (2 ^ 16 + team) * 2 ^ 48 + 2 ^ 40 + 16 * off

/-- Is a key's home the host or a peer module? -/
def keyH (key : Nat) : Bool := decide (2 ≤ key / 2 ^ 48) && decide (key / 2 ^ 48 < 2 ^ 15)

/-- Is a path one whose accesses to a host or peer page are on path H (R283)? -/
def pathMayH (p : Nat) : Bool := decide (p = pathL) || decide (p = pathS) || decide (p = pathC) || decide (p = pathM)

/-- An operation that forms its addresses as it runs, so that some may turn out to be on path H. -/
def POp.unresolved (o : POp) : Bool :=
  o.pas.isEmpty && (match instrPath o.instr with
    | some p => pathMayH p && decide (p ≠ pathL)
    | none => false)

/-- Is an instruction a traversal, whose spills are on path L (R283)? -/
def spills : Instr → Bool
  | .vtrav .. | .vtravc .. => true
  | _ => false

/-- Entries of a walk's node stack (R255). -/
def Walk.depth (w : Walk) : Nat :=
  (w.todo.filter (fun t => match t with | .leave => false | _ => true)).length

/-- An operation that is no traversal, or a traversal with a node stack that has left the chip (R255). -/
def POp.stacked (o : POp) : Bool := !spills o.instr || o.walks.any (fun e => decide (24 < e.2.depth))

/-- The paths that an operation's accesses are on, as bits of the masks of R196. What an operation that forms its addresses
as it runs may still reach counts as on path H too. -/
def POp.onPath (o : POp) (p : Nat) : Bool :=
  if p = pathH then o.unresolved || o.pas.any (fun e => keyH e.2)
  else (decide (instrPath o.instr = some p) && (o.pas.isEmpty || o.pas.any (fun e => !keyH e.2)))
    || (decide (p = pathL) && spills o.instr)

/-- Paths that two operations share. -/
def sharePath (a b : POp) : Bool := (List.range 7).any (fun p => a.onPath p && b.onPath p)

/-- Do two operations touch a common byte? -/
def shareByte (a b : POp) : Bool :=
  a.pas.any (fun x => b.pas.any (fun y => decide (x.2 < y.2 + b.unit) && decide (y.2 < x.2 + a.unit)))

/-- A plain store: it writes and does not read. -/
def POp.plainStore (o : POp) : Bool := instrWrites o.instr && !instrReads o.instr
/-- A plain load. -/
def POp.plainLoad (o : POp) : Bool := instrReads o.instr && !instrWrites o.instr
/-- An access to the scratchpad. -/
def POp.onSpad (o : POp) : Bool := o.pas.any (fun e => decide (2 ^ 64 ≤ e.2))

/-- May `b` perform before the earlier `a` though both are on path L: a load passes an earlier store of its own group, whose
bytes it takes where they share any (R288 row 1, R289). The engine takes no bytes from a store, so that it waits for a store
to the scratchpad. -/
def passes (a b : POp) : Bool := a.plainStore && b.plainLoad && !(isEngine b.instr && a.onSpad)

/-- May an operation write on path H (R283)? A copy into the scratchpad does not. -/
def POp.hWrites (o : POp) : Bool :=
  o.onPath pathH && (match o.instr with
    | .cpy .. | .cpym .. | .cpyg .. => false
    | i => instrWrites i)

/-- Must the earlier operation `a` perform before `b` (R288 rows 1 to 5)? A product reads scratchpad at any time until it
completes (R212), so that of the rows only those of a release and of writes on path H order a later access behind it; engine
operations keep their own order. An operation that forms its addresses as it runs meets the row of path H at each address
(`State.hHeld`). -/
def before (a b : POp) : Bool :=
  (releases b.order && sharePath a b)
  || (a.hWrites && b.hWrites && !b.unresolved)
  || (!(readsAtWill a.instr || (isEngine a.instr && isEngine b.instr)) && (acquires a.order
    || (a.onPath pathL && b.onPath pathL && a.stacked && b.stacked && !passes a b)
    || (sharePath a b && shareByte a b && !(a.onPath pathL && passes a b))))

/-- May the earlier plain store `a` still be on its way to its home when the later write `b` performs there: writes of one group
to memory on path L keep their order for the groups of their core, and for other cores only a release or a FENCE does (R289,
R290, R291, R339). -/
def lags (a b : POp) : Bool :=
  a.plainStore && a.onPath pathL && !a.onPath pathH && !a.onSpad && decide (a.order = 0)
    && instrWrites b.instr && !isEngine b.instr && b.onPath pathL && !b.onPath pathH && !b.onSpad && !releases b.order
    && !shareByte a b

/-- Instructions that may append to the towpath ring (R414). -/
def appends : Instr → Bool
  | .vldl .. | .vsmp .. | .vpgreq .. | .pgreq .. => true
  | .chload .. | .mmag .. | .accld .. | .accst .. | .vtrav .. | .vtravc .. => true
  | .cpy .. | .cpym .. | .cpys .. | .cpyg .. | .layseal .. => true
  | _ => false

/-- An operation may still append a request, which those that issued after it in its group let go first (R426). -/
def POp.mayAppend (o : POp) : Bool := appends o.instr && o.suspended.isNone && !o.stopped

/-- Operations of the group that issued before `o`. -/
def Group.earlier (g : Group) (o : POp) : List POp := g.ops.filter (fun a => decide (a.id < o.id))

/-- May the operation perform now: no earlier operation of its group must come first. -/
def Group.ready (g : Group) (o : POp) : Bool := (g.earlier o).all (fun a => !before a o)

/-- The operation may perform but for stores that stay behind it. -/
def Group.readyAhead (g : Group) (o : POp) : Bool := (g.earlier o).all (fun a => !before a o || lags a o)

/-- Its stores that stay behind when the operation performs. -/
def Group.leaveBehind (g : Group) (o : POp) : Group :=
  { g with ops := g.ops.map (fun a => if a.id < o.id ∧ before a o = true then { a with lag := true } else a) }

/-- Has a store of a core stayed behind a later write of its group? -/
def State.lagging (s : State) (core : Nat) : Bool :=
  s.groups.any (fun e => decide (e.2.core = core) && e.2.ops.any (·.lag))

/-- The group is the one group of its core, so that no other sees its writes in the core's own order (R289). -/
def State.aloneOnCore (s : State) (gid : Nat) : Bool :=
  s.groups.all (fun e => decide (e.1 = gid) || decide (e.2.core ≠ (s.group gid).core))

/-- An operation of the group that issued before `o` may still append a request (R426). -/
def Group.appendsFirst (g : Group) (o : POp) : Bool := (g.earlier o).any (·.mayAppend)

/-- The group has an acquire that has not performed: nothing that comes later does (R292). -/
def Group.acquiring (g : Group) : Bool := g.ops.any (fun o => acquires o.order)

/-- The same for what issued after it. -/
def Group.acquiringFor (g : Group) (o : POp) : Bool := (g.earlier o).any (fun a => acquires a.order)

/-- A group's write on path H follows its earlier ones, of which some of ACCST may wait in the queue of path M (R288 row 3). -/
def State.drainH (s : State) (gid key : Nat) : State :=
  if keyH key && s.mq.any (fun w => decide (w.gid = gid) && keyH w.key) then s.drainGroup gid else s

/-- A FENCE of the group that has not completed holds back accesses on a path (R288 row 6, R293). -/
def Group.fencing (g : Group) (p : Nat) : Bool :=
  g.ops.any (fun o => match o.instr with
    | .fence _ _ _ d => d.toNat.testBit p
    | _ => false)

end Sys2Proof.Machine
end

