-- ==== Sys2Proof/Machine/Records.lean ====
section
/-! DEFINITION. Machine/Records.lean: buffer records, lane addresses, the checks of an access at issue, and the memory
prefix (R93, R174 to R181). -/
namespace Sys2Proof.Machine

/-! ### Record fields (R174, R175) -/

/-- BASE of a record. -/
def recBase (r : QWord) : Nat := (r.extractLsb' 0 52).toNat
/-- KIND. -/
def recKind (r : QWord) : Nat := (r.extractLsb' 52 4).toNat
/-- ESIZE. -/
def recEsize (r : QWord) : Nat := (r.extractLsb' 56 3).toNat
/-- Element size in bytes. -/
def recEz (r : QWord) : Nat := 2 ^ recEsize r
/-- ABSMODE. -/
def recAbs (r : QWord) : Bool := r.getLsbD 59
/-- SWZ. -/
def recSwz (r : QWord) : Nat := (r.extractLsb' 60 4).toNat
/-- EXTENT. -/
def recExtent (r : QWord) : Nat := (r.extractLsb' 64 32).toNat
/-- STRIDE, or the pitch W of a swizzled record. -/
def recStride (r : QWord) : Nat := (r.extractLsb' 96 20).toNat
/-- PR: read permitted; an image record grants it. -/
def recPr (r : QWord) : Bool := r.getLsbD 124
/-- PW. -/
def recPw (r : QWord) : Bool := r.getLsbD 125
/-- PA. -/
def recPa (r : QWord) : Bool := r.getLsbD 126
/-- PS. -/
def recPs (r : QWord) : Bool := r.getLsbD 127

/-- Window of a context's Wharf on a die: first byte and bytes (R310). -/
def Ctx.window (c : Ctx) (die : Nat) : Nat × Nat :=
  if die = 0 then (c.whBase0 * 2 ^ 16, c.whSize0 * 2 ^ 16) else (c.whBase1 * 2 ^ 16, c.whSize1 * 2 ^ 16)

/-- Owner context of what stands at a key (R315, R465): of the frame; of a scratchpad or accumulator, the context of its
team; of a Wharf element, the context whose window holds it, 0xFF for none. -/
def State.ownerAt (s : State) (key : Nat) : Nat :=
  let home := key / 2 ^ 48
  if 2 ^ 16 ≤ home then (s.team (home - 2 ^ 16)).ctx
  else if 2 ^ 15 ≤ home then
    ((s.ctxs.find? (fun e =>
      let w := e.2.window (home - 2 ^ 15)
      decide (w.1 ≤ key % 2 ^ 48) && decide (key % 2 ^ 48 < w.1 + w.2))).map (·.1)).getD 0xFF
  else s.frameOwnerOf key

/-- The error of an operation that consumed poison (R464): VA of the atom and its owner. -/
def State.poisonTrap (s : State) (va key : Nat) (lanes : Mask) : Trap :=
  { cause := 0x0E, kind := 3, addr := BitVec.ofNat 64 (va / 32 * 32)
    detail := BitVec.ofNat 64 (s.ownerAt key), lanes := lanes }

/-- Die that a Wharf record names. -/
def recDie (r : QWord) : Nat := if r.getLsbD 27 then 1 else 0
/-- Wharf offset of a record's element 0. -/
def recWharf (r : QWord) : Nat := (r.extractLsb' 0 27).toNat

/-- The record's span lies inside the context's window of the die it names (R310). -/
def windowOk (c : Ctx) (r : QWord) : Bool :=
  let w := c.window (recDie r)
  decide (w.2 ≠ 0) && decide (w.1 ≤ recWharf r) && decide (recWharf r + recExtent r * recEz r ≤ w.1 + w.2)

/-- A record that R174 or R175 allows: no reserved code, no bit set that must be zero, a valid pitch (R176). -/
def recFormOk (r : QWord) : Bool :=
  if recKind r = 1 then decide (recSwz r ≤ 8) && decide (recBase r % 2 ^ 16 = 0)
  else
    decide (recEsize r ≤ 4) && decide (recSwz r ≤ 2) && decide (r.extractLsb' 116 8 = 0#8)
      && (decide (recSwz r = 0) || (decide (recStride r ≠ 0) && decide (recStride r % 8 = 0)))
      && (decide (recKind r ≠ 2) || decide (r.extractLsb' 28 24 = 0#24))

/-- The record check of R176 with the kinds an instruction accepts and the permission it needs. -/
def recOk (c : Ctx) (r : QWord) (kinds : List Nat) (need : QWord → Bool) : Bool :=
  decide (r ≠ 0#128) && decide (recKind r ∈ kinds) && recFormOk r && need r
    && (decide (recKind r ≠ 2) || windowOk c r)

/-! ### Lane addresses (R178) -/

/-- Morton interleave of two 16-bit coordinates, x in the even bits. -/
def morton (x y : Nat) : Nat :=
  (List.range 16).foldl (fun a j => a + (x / 2 ^ j % 2) * 2 ^ (2 * j) + (y / 2 ^ j % 2) * 2 ^ (2 * j + 1)) 0

/-- Byte offset from BASE of an index, and whether `n` bytes there are in bounds (R178). -/
def laneOffset (r : QWord) (idx n : Nat) : Nat × Bool :=
  let ez := recEz r
  let ext := recExtent r
  if recSwz r = 0 then
    let st := if recStride r = 0 then ez else recStride r
    (idx * st, decide (idx < ext) && decide (idx * st + n ≤ (ext - 1) * st + ez))
  else
    let x := idx % 2 ^ 16
    let y := idx / 2 ^ 16 % 2 ^ 16
    let w := recStride r
    let e := if recSwz r = 1 then y / 8 * (8 * w) + x / 8 * 64 + y % 8 * 8 + x % 8 else morton x y
    (e * ez, decide (x < w) && decide (e < ext) && decide (e * ez + n ≤ ext * ez))

/-- Where one lane's access lies: its lane, its address, and whether it is in bounds. -/
structure LaneAt where
  lane : Nat := 0
  va : Nat := 0
  inb : Bool := true
  deriving DecidableEq, Repr

/-- Addresses of the active lanes through a record: VAs, or Wharf offsets, where 96 MiB and beyond is out of bounds
(R178, R182). -/
def laneAts (g : Group) (r : QWord) (act : Mask) (a n : Nat) : List LaneAt :=
  (lanesOf act).map (fun l =>
    let o := laneOffset r (g.src a l).toNat n
    if recKind r = 2 then
      let at_ := vaWrap (recWharf r + o.1)
      { lane := l, va := at_, inb := o.2 && decide (at_ + n ≤ wharfBytes) }
    else { lane := l, va := vaWrap (recBase r + o.1), inb := o.2 })

/-! ### The checks at issue (R179, R180) -/

/-- The pieces of an access: 8-byte halves of a 16-byte one, else the whole (R284). -/
def pieces (va n : Nat) : List (Nat × Nat) :=
  if n ≤ 8 then [(0, va)] else [(0, va), (1, vaWrap (va + 8))]

/-- What the lines of an access met. -/
structure Probe where
  /-- Physical keys by lane × 64 + piece. -/
  keys : Tab Nat := []
  /-- Lanes with the first address that failed: not allowed; absent, with the mark of a replica. -/
  access : List (Nat × Nat) := []
  absent : List (Nat × Nat × Bool) := []
  deriving DecidableEq, Repr

/-- Look up one lane's pieces, all of them (R180 step 4 comes before step 5); no A or D bit is set yet (R412). -/
def State.probeLane (s : State) (core ctx : Nat) (user : Bool) (want : Want) (p : Probe) (lane : Nat) :
    List (Nat × Nat) → Probe × State
  | [] => (p, s)
  | (i, va) :: rest =>
    let r := s.reach core ctx user false want va true
    let p := match r.1 with
      | .ok key => { p with keys := tset p.keys (lane * 64 + i) key }
      | .access => { p with access := p.access ++ [(lane, va)] }
      | .absent rep => { p with absent := p.absent ++ [(lane, va, rep)] }
    r.2.probeLane core ctx user want p lane rest

/-- Look up the lines of every lane in the list. -/
def State.probe (s : State) (g : Group) (want : Want) (n : Nat) (p : Probe) : List LaneAt → Probe × State
  | [] => (p, s)
  | l :: ls =>
    let r := s.probeLane g.core g.ctx (!g.sup) want p l.lane (pieces l.va n)
    r.2.probe g want n r.1 ls

/-- An access to check: its path bit, direction, record number, width, alignment, whether an absent page traps, and the
lanes that a uniform access reports in SYS_TMASK. -/
structure Check where
  path : Nat := 0
  write : Bool := false
  br : Nat := 0
  n : Nat := 4
  align : Nat := 4
  absTraps : Bool := true
  umask : Option Mask := none
  deriving DecidableEq, Repr

/-- The trap of one step for the lanes that failed it, lowest first; none when no lane did (R180). -/
def State.stepTrap (s : State) (c : Check) (cause : Nat) (bad : List (Nat × Nat × Bool)) : Option State :=
  match bad with
  | [] => none
  | (_, va, rep) :: _ =>
    let m := c.umask.getD (maskOf (fun l => bad.any (fun e => decide (e.1 = l))))
    some (s.addrTrap cause va c.path c.write c.br m rep)

/-- Steps 4 to 6 of R180 on what the lines met; a lane is named with the first of its addresses that failed. -/
def State.probeTrap (s : State) (c : Check) (ats : List LaneAt) (p : Probe) : Option State :=
  match s.stepTrap c cACCESS (p.access.map (fun e => (e.1, e.2, false))) with
  | some t => some t
  | none =>
    match (if c.absTraps then s.stepTrap c cABSENT p.absent else none) with
    | some t => some t
    | none =>
      if c.write then
        s.stepTrap c cSEALSTORE ((ats.filter (fun l => (s.ctx s.cg.ctx).sealed l.va c.n)).map (fun l => (l.lane, l.va, false)))
      else none

/-- What the checks hand on: physical keys, lanes out of bounds, lanes whose page is absent. -/
structure Cleared where
  keys : Tab Nat := []
  oob : Mask := 0
  absent : Mask := 0
  deriving DecidableEq, Repr

/-- Lanes of a list, as a mask. -/
def lanesIn (ls : List Nat) : Mask := maskOf (fun l => ls.any (fun x => decide (x = l)))

/-- The keys of the lanes that no page of theirs is absent for. -/
def Probe.here (p : Probe) : Tab Nat :=
  p.keys.filter (fun e => !p.absent.any (fun x => decide (x.1 = e.1 / 64)))

/-- VA of a piece of a lane's access, by lane × 64 + piece. -/
def pieceVa (ats : List LaneAt) (k : Nat) : Nat :=
  match ats.find? (fun l => decide (l.lane = k / 64)) with
  | some l => vaWrap (l.va + 8 * (k % 64))
  | none => 0

/-- The prediction register of the record holds the last translation that the access has used (R410). -/
def State.noteLast (s : State) (br : Nat) (ats : List LaneAt) (keys : Tab Nat) : State :=
  match keys.getLast? with
  | none => s
  | some e => s.noteUse s.curGroup br (s.cg.brec br) false (pieceVa ats e.1)

/-- A load goes out with the address that its record's prediction register gives, and the checked translation settles it;
the register then holds the last translation used (R410, R411). -/
def State.predicted (s : State) (br : Nat) (ats : List LaneAt) (keys : Tab Nat) : Tab Nat × State :=
  (keys.map (fun e => (e.1, s.loadKey s.curGroup br (s.cg.brec br) (pieceVa ats e.1) e.2)), s.noteLast br ats keys)

/-- Steps 2 to 6 of R180 for the lanes of an access. When no step traps, `k` goes on. The A bits of what is reached, and the
D bits of a write, are set when the access performs (R412). -/
def State.checked (s : State) (c : Check) (ats : List LaneAt) (k : Cleared → State → State) : State :=
  match s.stepTrap c cALIGN ((ats.filter (fun l => decide (l.va % c.align ≠ 0))).map (fun l => (l.lane, l.va, false))) with
  | some t => t
  | none =>
    let inb := ats.filter (·.inb)
    let oob := maskOf (fun l => ats.any (fun x => decide (x.lane = l) && !x.inb))
    if c.path = pathW then
      k { keys := inb.foldl (fun t l => (pieces l.va c.n).foldl (fun t e => tset t (l.lane * 64 + e.1) e.2) t) [], oob := oob } s
    else
      let p := s.probe s.cg (if c.write then .write else .read) c.n {} inb
      match p.2.probeTrap c inb p.1 with
      | some t => t
      | none =>
        let q := if c.write then (p.1.here, p.2.noteLast c.br inb p.1.here) else p.2.predicted c.br inb p.1.here
        k { keys := q.1, oob := oob, absent := lanesIn (p.1.absent.map (·.1)) } q.2

/-- A record that fails at step 1 traps ACCESS; no address has been formed, so SYS_TADDR is 0 (R176, R180). -/
def State.recordTrap (s : State) (path : Nat) (write : Bool) (br : Nat) (lanes : Mask) : State :=
  s.addrTrap cACCESS 0 path write br lanes

/-! ### The memory prefix (R93) -/

/-- What a VM or VT word sees at issue: enabled and active lanes, the compare field, its scope and order. -/
structure MIn where
  en : Mask := 0
  act : Mask := 0
  c : Nat := 0
  scope : Nat := 1
  order : Nat := 0
  deriving DecidableEq, Repr

/-- Is a prefix word valid in its memory reading before an instruction with these orders and this compare span? -/
def mpfxOk (p : Word) (n : Nat) (orders : List Nat) (cRegs : Nat) : Bool :=
  decide (p.extractLsb' 0 7 = 0#7) && !p.getLsbD 12 && decide ((p.extractLsb' 9 3).toNat ≤ 5)
    && decide ((p.extractLsb' 7 2).toNat ∈ orders)
    && (if cRegs = 0 then decide (p.extractLsb' 16 8 = 0#8) else srcOk n (p.extractLsb' 16 8).toNat cRegs)

/-- A word that R196 holds back, or whose flag is full (R86): the wave tries again later. -/
def State.held (s : State) (fl : Option Nat) : Bool := s.cg.fence.isSome || s.cg.flagFull fl

/-- Run a V-set memory word: its fields, its prefix, then the issue condition of pipe M (R91, R93, R196). A CAS form has
`cRegs` compare registers and requires its prefix. -/
def State.mWord (s : State) (ok : Bool) (orders : List Nat) (cRegs : Nat) (fl : Bool) (k : MIn → State → State) : State :=
  let en := s.cw.en
  if !ok then s.illegal
  else match s.cw.pfx with
    | none => if cRegs ≠ 0 then s.illegal else if s.held (s.cw.flagOf fl) then s else k { en := en, act := en } s
    | some p =>
      if !mpfxOk p s.cg.n orders cRegs then s.illegalPrefix
      else if s.held (s.cw.flagOf fl) then s
      else k { en := en, act := en &&& s.cg.kmask (p.extractLsb' 13 3).toNat, c := (p.extractLsb' 16 8).toNat
               scope := (p.extractLsb' 9 3).toNat, order := (p.extractLsb' 7 2).toNat } s

/-- Run a U-set word of pipe M or E, charged to flag A (R86, R181, R196). -/
def State.umWord (s : State) (ok : Bool) (k : State → State) : State :=
  s.uWord ok (fun s => if s.held (s.cw.flagOf false) then s else k s)

/-- Bytes of a VM width (R90). -/
def memBytes : MemW → Nat
  | .u8 | .s8 => 1
  | .u16 | .s16 => 2
  | .w32 => 4
  | .w64 => 8
  | .w128 => 16

/-- Registers of a width of `n` bytes. -/
def regsOf (n : Nat) : Nat := if n ≤ 4 then 1 else n / 4

/-- Bytes of a UM width (R94). -/
def umemBytes : UMemW → Nat
  | .w32 => 4
  | .w64 => 8
  | .w128 => 16

end Sys2Proof.Machine
end

