-- ==== Sys2Proof/Machine/Access.lean ====
section
/-! DEFINITION. Machine/Access.lean: loads, stores, atomics and Wharf operations: their issue and their
completion (R73, R177, R181 to R189, R283 to R292, R464). -/
namespace Sys2Proof.Machine

/-! ### Bytes of a group's own earlier stores (R286, R289) -/

/-- The byte that a store writes at a key; the higher-numbered lane wins (R183). -/
def POp.storeByte (o : POp) (key : Nat) : Option Byte :=
  o.pas.foldl (fun acc e =>
    if e.2 ≤ key ∧ key < e.2 + o.unit then
      some (BitVec.ofNat 8 (tget o.vals (e.1 / 64 * 64) 0 / 2 ^ (64 * (e.1 % 64)) / 2 ^ (8 * (key - e.2))))
    else acc) none

/-- The byte that the group's latest earlier path L store, not yet performed, writes at a key. -/
def Group.ownByte (g : Group) (o : POp) (key : Nat) : Option Byte :=
  (g.earlier o).foldl (fun acc a => if a.plainStore && a.onPath pathL then (a.storeByte key).or acc else acc) none

/-- Bytes read at a key, with the group's own earlier stores over them. -/
def Group.overlay (g : Group) (o : POp) (key : Nat) (bs : List Byte) : List Byte :=
  bs.mapIdx (fun i b => (g.ownByte o (key + i)).getD b)

/-! ### Issue -/

/-- Put a lane access in flight and move on. -/
def State.issueAccess (s : State) (i : Instr) (fl : Bool) (x : MIn) (ats : List LaneAt) (c : Cleared)
    (key : Nat → Nat) (n : Nat) (vals : Tab Nat) : State :=
  (s.issueOp {
    instr := i, pfx := s.cw.pfx, flag := s.cw.flagOf fl, act := x.act, vals := vals
    vas := ats.foldl (fun t l => tset t (l.lane * 64) l.va) []
    pas := c.keys.map (fun e => (e.1, key e.2)), unit := min n 8, size := n
    scope := x.scope, order := x.order, oob := c.oob, absent := c.absent }).nextWord

/-- Store data of lanes, read at issue (R38): `k` registers from `d`. -/
def laneVals (g : Group) (act : Mask) (d k : Nat) : Tab Nat :=
  (lanesOf act).foldl (fun t l => tset t (l * 64) (g.srcs d l k)) []

/-- Lanes in bounds whose access lies outside the context's Wharf window: they trap ACCESS at step 1 (R180, R182). -/
def windowOut (c : Ctx) (r : QWord) (ats : List LaneAt) (n : Nat) : Mask :=
  let win := c.window (recDie r)
  lanesIn ((ats.filter (fun l => l.inb && !(decide (win.1 ≤ l.va) && decide (l.va + n ≤ win.1 + win.2)))).map (·.lane))

/-- A VM load or store through a record (R176 to R183). A lane outside the Wharf window traps with SYS_TADDR 0 (log entry 19). -/
def State.vmAccess (s : State) (i : Instr) (d a : Nat) (br : Nat) (fl : Bool) (w : MemW) (path : Nat) (write : Bool)
    (kinds : List Nat) : State :=
  let n := memBytes w
  let k := regsOf n
  s.mWord ((if write then srcOk s.cg.n d k else dstOk s.cg.n d k) && srcOk s.cg.n a 1)
    (if write then [0, 2] else [0, 1]) 0 fl (fun x s =>
    let g := s.cg
    let r := g.brec br
    if !recOk (s.ctx g.ctx) r kinds (if write then recPw else recPr) then s.recordTrap path write br x.act
    else
      let ats := laneAts g r x.act a n
      let c : Check := { path := path, write := write, br := br, n := n
                         align := if path = pathW then n else min n 8, absTraps := write || recAbs r }
      let out := if path = pathW then windowOut (s.ctx g.ctx) r ats n else 0
      if out ≠ 0#32 then s.recordTrap path write br out
      else
        s.checked c ats (fun cl s =>
          s.issueAccess i fl x ats cl (fun v => if path = pathW then bankKey (recDie r) v else v) n
            (if write then laneVals g x.act d k else [])))

/-- VLD (R182). -/
def execVld (d a : BitVec 8) (r : BitVec 4) (l : Bool) (w : MemW) (s : State) : Res :=
  finish (s.vmAccess (.vld d a r l w) d.toNat a.toNat r.toNat l w pathL false [0, 4, 5, 6])
/-- VST (R182). -/
def execVst (d a : BitVec 8) (r : BitVec 4) (l : Bool) (w : MemW) (s : State) : Res :=
  finish (s.vmAccess (.vst d a r l w) d.toNat a.toNat r.toNat l w pathL true [0, 5, 6])
/-- VLDWH (R182). -/
def execVldwh (d a : BitVec 8) (r : BitVec 4) (l : Bool) (w : MemW) (s : State) : Res :=
  finish (s.vmAccess (.vldwh d a r l w) d.toNat a.toNat r.toNat l w pathW false [2])
/-- VSTWH (R182). -/
def execVstwh (d a : BitVec 8) (r : BitVec 4) (l : Bool) (w : MemW) (s : State) : Res :=
  finish (s.vmAccess (.vstwh d a r l w) d.toNat a.toNat r.toNat l w pathW true [2])

/-! ### Scratchpad (R184, R185, R302 to R304) -/

/-- Is every line that `n` bytes at an offset touch present? -/
def Team.present (t : Team) (off n : Nat) : Bool :=
  (linesOf off n).all (fun l => decide (tget t.cleared l 0 = 0))

/-- A scratchpad access of lanes, or of a uniform word as its lane 0: ALIGN, bounds, presence, then issue. -/
def State.spadAccess (s : State) (i : Instr) (fl : Bool) (x : MIn) (offs : List (Nat × Nat)) (n : Nat) (write : Bool)
    (umask : Option Mask) (vals : Tab Nat) : State :=
  let g := s.cg
  let t := s.team g.team
  let c : Check := { path := pathL, write := write, br := 0, n := n, align := min n 8, umask := umask }
  match s.stepTrap c cALIGN ((offs.filter (fun e => decide (e.2 % min n 8 ≠ 0))).map (fun e => (e.1, e.2, false))) with
  | some t => t
  | none =>
    let ats : List LaneAt := offs.map (fun e => { lane := e.1, va := e.2, inb := decide (e.2 + n ≤ t.spadLen) })
    let inb := ats.filter (·.inb)
    if !inb.all (fun l => t.present l.va n) then s.park .presence (s.cw.flagOf fl)
    else
      let keys := inb.foldl (fun tb l =>
        (pieces l.va n).foldl (fun tb p => tset tb (l.lane * 64 + p.1) (spadKey g.team p.2)) tb) []
      let cl : Cleared := { keys := keys, oob := maskOf (fun l => ats.any (fun e => decide (e.lane = l) && !e.inb)) }
      s.issueAccess i fl x ats cl id n vals

/-- VLDSP and VSTSP (R184). -/
def State.vmSpad (s : State) (i : Instr) (d a : Nat) (fl : Bool) (w : MemW) (write : Bool) : State :=
  let n := memBytes w
  let k := regsOf n
  s.mWord ((if write then srcOk s.cg.n d k else dstOk s.cg.n d k) && srcOk s.cg.n a 1)
    (if write then [0, 2] else [0, 1]) 0 fl (fun x s =>
    let g := s.cg
    s.spadAccess i fl x ((lanesOf x.act).map (fun l => (l, (g.src a l).toNat))) n write none
      (if write then laneVals g x.act d k else []))

/-- VLDSP (R184). -/
def execVldsp (d a : BitVec 8) (l : Bool) (w : MemW) (s : State) : Res :=
  finish (s.vmSpad (.vldsp d a l w) d.toNat a.toNat l w false)
/-- VSTSP (R184). -/
def execVstsp (d a : BitVec 8) (l : Bool) (w : MemW) (s : State) : Res :=
  finish (s.vmSpad (.vstsp d a l w) d.toNat a.toNat l w true)

/-- SCRATCHPAD_PRESENCE_RESUME (R184): the wave takes up its instruction, which tests the lines again. -/
def execScratchpadPresenceResume (gid wid : Nat) (s : State) : Res :=
  match ((s.group gid).wave wid).phase with
  | .parked .presence => .next (s.unpark gid wid)
  | _ => .next s

/-! ### Uniform accesses (R185) -/

/-- Data of a uniform store, from `k` s-registers. -/
def uniVals (g : Group) (sd k : Nat) : Tab Nat := [(0, g.srcs (192 + sd) 0 k)]

/-- SLD and SST (R185). -/
def State.umAccess (s : State) (i : Instr) (sd br : Nat) (w : UMemW) (off : Nat) (write : Bool) (kinds : List Nat) : State :=
  let n := umemBytes w
  let k := n / 4
  s.umWord (sspanOk sd k) (fun s =>
    let g := s.cg
    let r := g.brec br
    let en := s.cw.en
    if !recOk (s.ctx g.ctx) r kinds (if write then recPw else recPr) then s.recordTrap pathL write br en
    else
      let ats : List LaneAt := [{ lane := 0, va := vaWrap (recBase r + 4 * off)
                                  inb := decide (4 * off + n ≤ recExtent r * recEz r) }]
      let c : Check := { path := pathL, write := write, br := br, n := n, align := min n 8
                         absTraps := write || recAbs r, umask := some en }
      s.checked c ats (fun cl s =>
        s.issueAccess i false { en := en, act := en } ats cl id n (if write then uniVals g sd k else [])))

/-- SLD (R185). -/
def execSld (d : BitVec 6) (r : BitVec 4) (w : UMemW) (o : BitVec 12) (s : State) : Res :=
  finish (s.umAccess (.sld d r w o) d.toNat r.toNat w o.toNat false [0, 4, 5, 6])
/-- SST (R185). -/
def execSst (d : BitVec 6) (r : BitVec 4) (w : UMemW) (o : BitVec 12) (s : State) : Res :=
  finish (s.umAccess (.sst d r w o) d.toNat r.toNat w o.toNat true [0, 5, 6])

/-- SLDSP and SSTSP (R185). -/
def State.umSpad (s : State) (i : Instr) (sd br : Nat) (w : UMemW) (off : Nat) (write : Bool) : State :=
  let n := umemBytes w
  s.umWord (sspanOk sd (n / 4)) (fun s =>
    let g := s.cg
    let en := s.cw.en
    s.spadAccess i false { en := en, act := en } [(0, (g.sreg br).toNat + 4 * off)] n write (some en)
      (if write then uniVals g sd (n / 4) else []))

/-- SLDSP (R185). -/
def execSldsp (d : BitVec 6) (r : BitVec 4) (w : UMemW) (o : BitVec 12) (s : State) : Res :=
  finish (s.umSpad (.sldsp d r w o) d.toNat r.toNat w o.toNat false)
/-- SSTSP (R185). -/
def execSstsp (d : BitVec 6) (r : BitVec 4) (w : UMemW) (o : BitVec 12) (s : State) : Res :=
  finish (s.umSpad (.sstsp d r w o) d.toNat r.toNat w o.toNat true)

/-! ### Records to and from s-registers (R177) -/

/-- BRSET (R177). -/
def execBrset (n : BitVec 4) (a : BitVec 6) : State → Res :=
  uOp (sspanOk a.toNat 4) (fun g =>
    { g with b := vecSet g.b n.toNat (g.sreg (a.toNat + 3) ++ g.sreg (a.toNat + 2) ++ g.sreg (a.toNat + 1) ++ g.sreg a.toNat) })

/-- BRGET (R177). -/
def execBrget (d : BitVec 6) (n : BitVec 4) : State → Res :=
  uOp (sspanOk d.toNat 4) (fun g =>
    let r := g.brec n.toNat
    (List.range 4).foldl (fun g i => g.setS (d.toNat + i) (r.extractLsb' (32 * i) 32)) g)

/-! ### Atomics (R73, R186, R187) -/

/-- A number as signed, of `n` bytes. -/
def signedOf (n v : Nat) : Int := if 2 ^ (8 * n - 1) ≤ v then (v : Int) - 2 ^ (8 * n) else v

/-- FADD of FP32 bits, RNE (R73). -/
def fadd32 (x y : Nat) : Nat := (fp32.round ((fp32.decode x).add false (fp32.decode y)) {}).1

/-- The ⊕ of R73 on values of `n` bytes. SUB, XCHG and CAS are handled apart. -/
def aopFn (p : Aop) (n x y : Nat) : Nat :=
  match p with
  | .add | .sub => (x + y) % 2 ^ (8 * n)
  | .min => if signedOf n y < signedOf n x then y else x
  | .max => if signedOf n x < signedOf n y then y else x
  | .minu => min x y
  | .maxu => max x y
  | .and => Nat.land x y
  | .or => Nat.lor x y
  | .xor => Nat.xor x y
  | .xchg | .cas => y
  | .fadd => fadd32 x y
  | .fmin => fp32.minNum x y
  | .fmax => fp32.maxNum x y

/-- The lanes of one atomic that share an address, combined in ascending lane order (R73): each lane's operand and
compare value in, the value memory ends with and each lane's result out. -/
def atomRun (p : Aop) (n old : Nat) (lanes : List (Nat × Nat)) : Nat × List Nat :=
  match p with
  | .xchg => ((lanes.getLast?.map (·.1)).getD old, (old :: lanes.map (·.1)).take lanes.length)
  | .cas =>
    let r := lanes.foldl (fun (a : Nat × List Nat) e => (if a.1 = e.2 then e.1 else a.1, a.2 ++ [a.1])) (old, [])
    r
  | _ =>
    let r := lanes.foldl (fun (a : Option Nat × List Nat) e =>
      let mine := match a.1 with
        | none => old
        | some q => if p = .sub then (old + 2 ^ (8 * n) - q % 2 ^ (8 * n)) % 2 ^ (8 * n) else aopFn p n old q
      (some (match a.1 with | none => e.1 | some q => aopFn p n q e.1), a.2 ++ [mine])) (none, [])
    match r.1 with
    | none => (old, [])
    | some q =>
      (if p = .sub then (old + 2 ^ (8 * n) - q % 2 ^ (8 * n)) % 2 ^ (8 * n) else aopFn p n old q, r.2)

/-- Operands and compare values of a vector atomic, by lane × 64 and lane × 64 + 1 (R38). -/
def atomVals (g : Group) (act : Mask) (a c k : Nat) (cas : Bool) : Tab Nat :=
  (lanesOf act).foldl (fun t l =>
    let t := tset t (l * 64) (g.srcs (a + 1) l k)
    if cas then tset t (l * 64 + 1) (g.srcs c l k) else t) []

/-- A vector atomic of `n` bytes (R186). -/
def State.vtAtomic (s : State) (i : Instr) (d a br : Nat) (p : Aop) (n : Nat) (ok : Bool) : State :=
  let k := n / 4
  let cas := decide (p = .cas)
  s.mWord (ok && dstOk s.cg.n d k && srcOk s.cg.n a (k + 1)) [0, 1, 2, 3] (if cas then k else 0) false (fun x s =>
    let g := s.cg
    let r := g.brec br
    if !recOk (s.ctx g.ctx) r [0, 6] recPa then s.recordTrap pathL true br x.act
    else
      let ats := laneAts g r x.act a n
      s.checked { path := pathL, write := true, br := br, n := n, align := n } ats (fun cl s =>
        s.issueAccess i false x ats cl id n (atomVals g x.act a x.c k cas)))

/-- VATOM (R186). -/
def execVatom (d a : BitVec 8) (r : BitVec 4) (p : Aop) (s : State) : Res :=
  finish (s.vtAtomic (.vatom d a r p) d.toNat a.toNat r.toNat p 4 true)
/-- VATOM64 (R186): the floating-point operations have no 64-bit form. -/
def execVatom64 (d a : BitVec 8) (r : BitVec 4) (p : Aop) (s : State) : Res :=
  finish (s.vtAtomic (.vatom64 d a r p) d.toNat a.toNat r.toNat p 8
    (decide (p ≠ .fadd) && decide (p ≠ .fmin) && decide (p ≠ .fmax)))
/-- VCAS128 (R186). -/
def execVcas128 (d a : BitVec 8) (r : BitVec 4) (s : State) : Res :=
  finish (s.vtAtomic (.vcas128 d a r) d.toNat a.toNat r.toNat .cas 16 true)

/-- Bytes of a SATOM width. -/
def atomBytes : AtomW → Nat
  | .w32 => 4
  | .w64 => 8

/-- SATOM (R187). -/
def execSatom (p : Aop) (r : BitVec 4) (w : AtomW) (n : BitVec 6) (o : BitVec 6) (s : State) : Res :=
  let by_ := atomBytes w
  let k := by_ / 4
  let cas := decide (p = .cas)
  let fok := decide (w = .w32) || (decide (p ≠ .fadd) && decide (p ≠ .fmin) && decide (p ≠ .fmax))
  finish (s.umWord (fok && sspanOk n.toNat (if cas then 2 * k else k)) (fun s =>
    let g := s.cg
    let rec_ := g.brec r.toNat
    let en := s.cw.en
    if !recOk (s.ctx g.ctx) rec_ [0, 6] recPa then s.recordTrap pathL true r.toNat en
    else
      let ats : List LaneAt := [{ lane := 0, va := vaWrap (recBase rec_ + 4 * o.toNat)
                                  inb := decide (4 * o.toNat + by_ ≤ recExtent rec_ * recEz rec_) }]
      s.checked { path := pathL, write := true, br := r.toNat, n := by_, align := by_, umask := some en } ats (fun cl s =>
        s.issueAccess (.satom p r w n o) false { en := en, act := en } ats cl id by_
          [(0, g.srcs (192 + n.toNat) 0 k), (1, if cas then g.srcs (192 + n.toNat + k) 0 k else 0)])))

/-! ### Wharf operations (R188, R189) -/

/-- Bytes of a Wharf operation. -/
def wopBytes (p : Wop) : Nat := if p = .add64 then 8 else 4

/-- The new value of a Wharf operation, with the bank's generator after its draws (R188). -/
def wopFn (p : Wop) (old x cmp : Nat) (gen : Word) : Nat × Word :=
  match p with
  | .add32 => ((old + x) % 2 ^ 32, gen)
  | .add64 => ((old + x) % 2 ^ 64, gen)
  | .fadd32 => (fadd32 old x, gen)
  | .faddh2 =>
    let h := fun (i : Nat) (gen : Word) =>
      fp16.round ((fp16.decode (old / 2 ^ (16 * i) % 2 ^ 16)).add false (fp16.decode (x / 2 ^ (16 * i) % 2 ^ 16))) { gen := gen }
    let a := h 0 gen
    let b := h 1 a.2
    (a.1 + 2 ^ 16 * b.1, b.2)
  | .min => (aopFn .min 4 old x, gen)
  | .max => (aopFn .max 4 old x, gen)
  | .minu => (min old x, gen)
  | .maxu => (max old x, gen)
  | .fmin => (fp32.minNum old x, gen)
  | .fmax => (fp32.maxNum old x, gen)
  | .and => (Nat.land old x, gen)
  | .or => (Nat.lor old x, gen)
  | .xor => (Nat.xor old x, gen)
  | .xchg => (x, gen)
  | .cas => (if old = cmp then x else old, gen)

/-- VWOP with or without a destination (R188). -/
def State.wop (s : State) (i : Instr) (d : Option Nat) (a br : Nat) (p : Wop) : State :=
  let n := wopBytes p
  let k := n / 4
  let cas := decide (p = .cas)
  s.mWord ((match d with | some d => dstOk s.cg.n d k | none => true) && srcOk s.cg.n a (k + 1)) [0, 1, 2, 3]
    (if cas then 1 else 0) false (fun x s =>
    let g := s.cg
    let r := g.brec br
    if !recOk (s.ctx g.ctx) r [2] recPa then s.recordTrap pathW true br x.act
    else
      let ats := laneAts g r x.act a n
      let out := windowOut (s.ctx g.ctx) r ats n
      if out ≠ 0#32 then s.recordTrap pathW true br out
      else
        s.checked { path := pathW, write := true, br := br, n := n, align := n } ats (fun cl s =>
          s.issueAccess i false x ats cl (bankKey (recDie r)) n (atomVals g x.act a x.c k cas)))

/-- VWOP (R188). -/
def execVwop (d a : BitVec 8) (r : BitVec 4) (p : Wop) (s : State) : Res :=
  finish (s.wop (.vwop d a r p) (some d.toNat) a.toNat r.toNat p)
/-- VWOP posted (R188). -/
def execVwopPosted (a : BitVec 8) (r : BitVec 4) (p : Wop) (s : State) : Res :=
  finish (s.wop (.vwopPosted a r p) none a.toNat r.toNat p)

/-! ### Completion (R181) -/

/-- Clear the poison of atoms that the writes of one instruction cover whole (R464). -/
def State.clearCovered (s : State) (spans : List (Nat × Nat)) : State :=
  { s with poison := s.poison.filter (fun e => !(List.range 32).all (fun i =>
      spans.any (fun p => decide (p.1 ≤ e.1 * 32 + i) && decide (e.1 * 32 + i < p.1 + p.2)))) }

/-- Read one piece of an access (R182): through the L1 for memory, in the team's scratchpad, or in the Wharf. -/
def State.readPiece (s : State) (gid : Nat) (o : POp) (i key : Nat) : Got × State :=
  let g := s.group gid
  let home := key / 2 ^ 48
  let off := key % 2 ^ 48
  let b := if 2 ^ 16 ≤ home then (bytesAt (s.team g.team).spad off o.unit, s, s.poisoned key o.unit)
    else if 2 ^ 15 ≤ home then
      (bytesAt s.wharf (wharfKey (home - 2 ^ 15) off) o.unit, s, s.wharfBad (home - 2 ^ 15) off o.unit)
    else let r := s.readThrough g.core .l1 key o.unit; (r.1, r.2, r.2.poisoned key o.unit)
  ({ val := leNat (g.overlay o key b.1), bad := if b.2.2 then some (i, key) else none }, b.2.1)

/-- Read one lane's access, its pieces in order; a piece that was read ahead of the others stands (R304). -/
def State.readLane (s : State) (gid : Nat) (o : POp) (lane : Nat) : Got × State :=
  [1, 0].foldl (fun (a : Got × State) i =>
    let join := fun (x : Got) => ({ val := x.val + 2 ^ (8 * o.unit) * a.1.val, bad := x.bad.or a.1.bad } : Got)
    match tget? o.got (lane * 64 + i), tget? o.pas (lane * 64 + i) with
    | some x, _ => (join x, a.2)
    | none, some key => let r := a.2.readPiece gid o i key; (join r.1, r.2)
    | none, none => a) ({}, s)

/-- Write bytes at a key: memory through the L1, the team's scratchpad, or the Wharf. -/
def State.writeAt (s : State) (gid key n v : Nat) : State :=
  let g := s.group gid
  let home := key / 2 ^ 48
  let off := key % 2 ^ 48
  if 2 ^ 16 ≤ home then s.updTeam g.team (fun t => { t with spad := putBytes t.spad off (natLe n v) })
  else if 2 ^ 15 ≤ home then s.putWharf (home - 2 ^ 15) off n v
  else s.writeThrough g.core key (natLe n v)

/-- Write one lane's store, its pieces in order. -/
def State.writeLane (s : State) (gid : Nat) (o : POp) (lane : Nat) : State :=
  [0, 1].foldl (fun s i =>
    match tget? o.pas (lane * 64 + i) with
    | some key => s.writeAt gid key o.unit (tget o.vals (lane * 64) 0 / 2 ^ (64 * i))
    | none => s) s

/-- Value delivered for a load width (R182). -/
def extendMem (w : MemW) (v : Nat) : Nat :=
  match w with
  | .s8 => ((BitVec.ofNat 8 v).signExtend 32).toNat
  | .s16 => ((BitVec.ofNat 16 v).signExtend 32).toNat
  | _ => v

/-- Set SR_STATUS.OOB when a lane was out of bounds (R182). -/
def Group.noteOob (g : Group) (oob : Mask) (now : Nat) : Group := if oob = 0#32 then g else g.setStatus 0 now

/-- What an access does at its completion beyond its data: status, the acquire's L1 invalidation (R292), the flag, and
the error of poison that was read. -/
def State.endAccess (s : State) (gid : Nat) (o : POp) (bad : Option (Nat × Nat)) : State :=
  let s := if acquires o.order ∧ 2 ≤ o.scope then s.invalidate (s.group gid).core .l1 else s
  let s := s.updGroup gid (fun g => g.noteOob o.oob (s.core g.core).cycles)
  match bad with
  | none => s.opDone gid o
  | some (va, key) => s.opFailed gid o (s.poisonTrap va key o.act)

/-- Loads of lanes (R182): destination and, for VLD, k7. -/
def State.loadLanes (s : State) (gid : Nat) (o : POp) (d : Nat) (w : MemW) (k7 : Bool) : State :=
  let k := regsOf (memBytes w)
  let r := (lanesOf o.act).foldl (fun (a : State × Option (Nat × Nat)) l =>
    if inMask (o.oob ||| o.absent) l then (a.1.updGroup gid (fun g => g.setVs d l k 0), a.2)
    else
      let v := a.1.readLane gid o l
      match v.1.bad with
      | some key => (v.2.updGroup gid (fun g => g.setVs d l k 0), a.2.or (some (vaWrap (tget o.vas (l * 64) 0 + 8 * key.1), key.2)))
      | none => (v.2.updGroup gid (fun g => g.setVs d l k (extendMem w v.1.val)), a.2)) (s, none)
  let s := if k7 then r.1.updGroup gid (fun g => g.mergeK 7 o.act o.absent) else r.1
  s.endAccess gid o r.2

/-- Loads of a uniform word (R185). -/
def State.loadUniform (s : State) (gid : Nat) (o : POp) (sd : Nat) (k7 : Bool) : State :=
  let put := fun (v : Nat) (s : State) => s.updGroup gid (fun g =>
    (List.range (o.size / 4)).foldl (fun g i => g.setS (sd + i) (BitVec.ofNat 32 (v / 2 ^ (32 * i)))) g)
  if inMask o.oob 0 then (put 0 s).endAccess gid o none
  else if inMask o.absent 0 then
    ((put 0 s).updGroup gid (fun g => if k7 then g.mergeK 7 o.act o.act else g)).endAccess gid o none
  else
    let v := s.readLane gid o 0
    let s := v.2.updGroup gid (fun g => if k7 then g.mergeK 7 o.act 0 else g)
    match v.1.bad with
    | some key => (put 0 s).endAccess gid o (some (vaWrap (tget o.vas 0 0 + 8 * key.1), key.2))
    | none => (put v.1.val s).endAccess gid o none

/-- Stores (R182, R183, R185): ascending lanes, so that the higher-numbered lane's value stands. -/
def State.storeLanes (s : State) (gid : Nat) (o : POp) (lanes : List Nat) : State :=
  let s := lanes.foldl (fun s l => s.writeLane gid o l) s
  (s.clearCovered (o.pas.map (fun e => (e.2, o.unit)))).endAccess gid o none

/-- Distinct first keys of the lanes of an atomic, each with its lanes in ascending order. -/
def POp.byAddress (o : POp) (lanes : List Nat) : List (Nat × List Nat) :=
  lanes.foldl (fun acc l =>
    match tget? o.pas (l * 64) with
    | none => acc
    | some key =>
      match acc.findIdx? (fun e => decide (e.1 = key)) with
      | some i => acc.set i (key, (acc.getD i (key, [])).2 ++ [l])
      | none => acc ++ [(key, [l])]) []

/-- An atomic at its home slice (R73, R186, R312): one read-modify-write per address, and the core's line is removed.
`put` writes a lane's result. -/
def State.atomAt (s : State) (gid : Nat) (o : POp) (p : Aop) (put : Nat → Nat → Group → Group) (lanes : List Nat) :
    State × Option (Nat × Nat) :=
  let n := o.size
  (o.byAddress lanes).foldl (fun (a : State × Option (Nat × Nat)) e =>
    let s := a.1
    if s.poisoned e.1 n then
      (s.updGroup gid (fun g => e.2.foldl (fun g l => put l 0 g) g), a.2.or (some (tget o.vas (e.2.headD 0 * 64) 0, e.1)))
    else
      let s := s.checkPa e.1 n
      let old := s.homeNat e.1 n
      let r := atomRun p n old (e.2.map (fun l => (tget o.vals (l * 64) 0, tget o.vals (l * 64 + 1) 0)))
      let s := (s.putHomeNat e.1 n r.1).dropLines (s.group gid).core .l1 e.1 n
      (s.updGroup gid (fun g => (e.2.zip r.2).foldl (fun g x => put x.1 x.2 g) g), a.2)) (s, none)

/-- Completion of a vector atomic: an out-of-bounds lane receives 0 (R186). -/
def State.atomLanes (s : State) (gid : Nat) (o : POp) (d : Nat) (p : Aop) : State :=
  let k := o.size / 4
  let s := s.updGroup gid (fun g => (lanesOf (o.act &&& (o.oob ||| o.absent))).foldl (fun g l => g.setVs d l k 0) g)
  let r := s.atomAt gid o p (fun l v g => g.setVs d l k v) (lanesOf o.act)
  r.1.endAccess gid o r.2

/-- Completion of SATOM (R187). -/
def State.atomUniform (s : State) (gid : Nat) (o : POp) (sd : Nat) (p : Aop) : State :=
  let put := fun (_ : Nat) (v : Nat) (g : Group) =>
    (List.range (o.size / 4)).foldl (fun g i => g.setS (sd + i) (BitVec.ofNat 32 (v / 2 ^ (32 * i)))) g
  if inMask (o.oob ||| o.absent) 0 then (s.updGroup gid (put 0 0)).endAccess gid o none
  else
    let r := s.atomAt gid o p put [0]
    r.1.endAccess gid o r.2

/-- A Wharf operation at its bank (R188, R189): ascending lanes, one after another. `d` is none when posted. -/
def State.wharfLanes (s : State) (gid : Nat) (o : POp) (d : Option Nat) (p : Wop) : State :=
  let k := o.size / 4
  let put := fun (l v : Nat) (g : Group) => match d with | some d => g.setVs d l k v | none => g
  let s := s.updGroup gid (fun g => (lanesOf (o.act &&& o.oob)).foldl (fun g l => put l 0 g) g)
  let r := (lanesOf o.act).foldl (fun (a : State × Option (Nat × Nat)) l =>
    match tget? o.pas (l * 64) with
    | none => a
    | some key =>
      let s := a.1
      let die := key / 2 ^ 48 - 2 ^ 15
      let off := key % 2 ^ 48
      if s.wharfBad die off o.size then (s.updGroup gid (put l 0), a.2.or (some (tget o.vas (l * 64) 0, key)))
      else
        let bank := wharfBank off
        let old := s.wharfNat die off o.size
        let v := wopFn p old (tget o.vals (l * 64) 0) (tget o.vals (l * 64 + 1) 0) (tget (s.die die).bankGen bank 1)
        let s := if p = .faddh2 then s.updDie die (fun x => { x with bankGen := tset x.bankGen bank v.2 }) else s
        ((s.putWharf die off o.size v.1).updGroup gid (put l old), a.2)) (s, none)
  r.1.endAccess gid o r.2

/-- Are the scratchpad lines of an access present (R304)? An access waits for a line that was cleared since its issue. -/
def State.linesPresent (s : State) (gid : Nat) (o : POp) : Bool :=
  o.pas.all (fun e => decide (e.2 / 2 ^ 48 < 2 ^ 16) || (s.team (s.group gid).team).present (e.2 % 2 ^ 48) o.unit)

/-- What the lanes of an access met when it went through its translations: keys by lane × 64 + piece, and pieces that cannot
be reached any more, with the cause of R180 and the VA. -/
structure Settled where
  pas : Tab Nat := []
  lost : List (Nat × Nat × Nat) := []
  deriving DecidableEq, Repr

/-- The access goes through its translations: A is set in each leaf, and D before a write (R412). A leaf that no longer
matches has the access walk again. -/
def State.settle1 (s : State) (gid : Nat) (o : POp) : Settled × State :=
  let g := s.group gid
  o.pas.foldl (fun (a : Settled × State) e =>
    if 2 ^ 15 ≤ e.2 / 2 ^ 48 then ({ a.1 with pas := tset a.1.pas e.1 e.2 }, a.2)
    else
      let va := vaWrap (tget o.vas (e.1 / 64 * 64) 0 + 8 * (e.1 % 64))
      let x := a.2.reach g.core g.ctx (!g.sup) false (if instrWrites o.instr then .write else .read) va
      (match x.1 with
       | .ok k => { a.1 with pas := tset a.1.pas e.1 k }
       | .access => { a.1 with lost := a.1.lost ++ [(e.1, cACCESS, va)] }
       | .absent _ => { a.1 with lost := a.1.lost ++ [(e.1, cABSENT, va)] }, x.2)) ({}, s)

/-- The access of a lane that can no longer be reached is squashed: it reads as from an absent page or writes nothing, and the
operation completes with an error that names the first such address (R88, R412; log entry 62). -/
def State.settleKeys (s : State) (gid : Nat) (o : POp) : POp × State :=
  let r := s.settle1 gid o
  match r.1.lost with
  | [] => ({ o with pas := r.1.pas }, r.2)
  | (_, cause, va) :: _ =>
    let lost := lanesIn (r.1.lost.map (fun e => e.1 / 64))
    let t : Trap := { cause := cause, kind := 3, addr := BitVec.ofNat 64 va, lanes := lost
                      detail := BitVec.ofNat 64 (addrDetail o.idx pathL (instrWrites o.instr) 0 false) }
    ({ o with pas := r.1.pas.filter (fun e => !inMask lost (e.1 / 64)), absent := o.absent ||| lost },
      r.2.updGroup gid (fun g => { g with errors := g.errors ++ [t] }))

/-- An access with its keys settled performs and completes. Writes of the group that wait in the queue of path M and that
its flags have shown complete stand before a later write (R286, R290). -/
def State.performAt (s : State) (gid : Nat) (o : POp) : State :=
  let s := if instrWrites o.instr then s.drainGroup gid else s
  match o.instr with
  | .vld d _ _ _ w => s.loadLanes gid o d.toNat w true
  | .vldsp d _ _ w => s.loadLanes gid o d.toNat w false
  | .vldwh d _ _ _ w => s.loadLanes gid o d.toNat w false
  | .vst .. | .vstsp .. | .vstwh .. => s.storeLanes gid o (lanesOf o.act)
  | .sld d _ _ _ => s.loadUniform gid o d.toNat true
  | .sldsp d _ _ _ => s.loadUniform gid o d.toNat false
  | .sst .. | .sstsp .. => s.storeLanes gid o [0]
  | .vatom d _ _ p => s.atomLanes gid o d.toNat p
  | .vatom64 d _ _ p => s.atomLanes gid o d.toNat p
  | .vcas128 d _ _ => s.atomLanes gid o d.toNat .cas
  | .satom p _ _ n _ => s.atomUniform gid o n.toNat p
  | .vwop d _ _ p => s.wharfLanes gid o (some d.toNat) p
  | .vwopPosted _ _ p => s.wharfLanes gid o none p
  | _ => s

/-- Perform an access of Access.lean and complete it. -/
def State.perform (s : State) (gid : Nat) (o : POp) : State :=
  let r := s.settleKeys gid o
  let t := r.2.performAt gid r.1
  if r.1.absent = o.absent then t else t.report gid

/-- A scratchpad access performs on one present line of those that it touches, ahead of the others: it treats each line by itself
(R304). -/
def State.spadLine (s : State) (gid op line : Nat) : State :=
  match (s.group gid).op? op with
  | none => s
  | some o =>
    let here := fun (e : Nat × Nat) => decide (2 ^ 64 ≤ e.2) && decide (e.2 % 2 ^ 48 / 128 = line)
    let mine := o.pas.filter here
    let rest := o.pas.filter (fun e => !here e)
    if mine.isEmpty || rest.isEmpty || !(s.group gid).ready o || !(s.team (s.group gid).team).present (line * 128) 128 then s
    else if instrWrites o.instr then
      let s := mine.foldl (fun s e => s.writeAt gid e.2 o.unit (tget o.vals (e.1 / 64 * 64) 0 / 2 ^ (64 * (e.1 % 64)))) s
      (s.clearCovered (mine.map (fun e => (e.2, o.unit)))).updGroup gid (fun g => g.setOp { o with pas := rest })
    else
      let r := mine.foldl (fun (a : Tab Got × State) e =>
        let x := a.2.readPiece gid o (e.1 % 64) e.2
        (tset a.1 e.1 x.1, x.2)) (o.got, s)
      r.2.updGroup gid (fun g => g.setOp { o with pas := rest, got := r.1 })

end Sys2Proof.Machine
end

