-- ==== Sys2Proof/Machine/Approx.lean ====
section
/-! DEFINITION. Machine/Approx.lean: the X-pipe functions (R74, R142). The manual bounds their error and fixes their
special values; within the bound the result is a free value: a candidate of the step is taken when it meets the bound,
and the nearest value otherwise (log entry 5). Reference values are fixed-point numbers with 128 fraction bits. -/
namespace Sys2Proof.Machine

/-- Fraction bits of the reference values. -/
def fixBits : Nat := 128
/-- ln 2, π and log₂ e with 128 fraction bits, rounded down. -/
def fixLn2 : Nat := 235865763225513294137944142764154484399
/-- π with 128 fraction bits. -/
def fixPi : Nat := 1069028584064966747859680373161870783300
/-- log₂ e with 128 fraction bits. -/
def fixLog2e : Nat := 490923683258796565746369346286093237521

/-- Product of two fixed-point numbers, rounded down. -/
def fmulx (a b : Nat) : Nat := a * b / 2 ^ fixBits

/-- Σ y^k / k! from term `t` on, by `fuel` terms. -/
def expSeries : Nat → Nat → Nat → Nat → Nat
  | 0, _, _, _ => 0
  | fuel + 1, k, t, y => t + expSeries fuel (k + 1) (fmulx t y / (k + 1)) y

/-- 2^f for a fraction f. -/
def fixExp2 (f : Nat) : Nat := expSeries 40 0 (2 ^ fixBits) (fmulx f fixLn2)

/-- Fraction bits of log₂ x for 1 ≤ x < 2, by repeated squaring. -/
def log2Bits : Nat → Nat → Nat → Nat
  | 0, _, acc => acc
  | fuel + 1, x, acc =>
    let y := x * x / 2 ^ fixBits
    if 2 ^ (fixBits + 1) ≤ y then log2Bits fuel (y / 2) (2 * acc + 1) else log2Bits fuel y (2 * acc)

/-- Alternating series of sine and cosine: Σ (−1)^j y^(k+2j) / (k+2j)! from term `t`. -/
def trigSeries : Nat → Nat → Nat → Nat → Int
  | 0, _, _, _ => 0
  | fuel + 1, k, t, y2 => (t : Int) - trigSeries fuel (k + 2) (fmulx t y2 / ((k + 1) * (k + 2))) y2

/-- sin 2πt and cos 2πt for 0 ≤ t ≤ 1/4. -/
def fixSin (t : Nat) : Int := let y := fmulx t (2 * fixPi); trigSeries 30 1 y (fmulx y y)
/-- Cosine of a quarter turn or less. -/
def fixCos (t : Nat) : Int := let y := fmulx t (2 * fixPi); trigSeries 30 0 (2 ^ fixBits) (fmulx y y)

/-- The nearest FP32 value to a signed ratio. -/
def nearest (s : Bool) (num den : Nat) : Num := fp32.decode (fp32.round (.fin s num den) {}).1

/-- A signed ratio as numerator over a common denominator. -/
def signedNum (s : Bool) (n : Nat) : Int := if s then -(n : Int) else (n : Int)

/-- The candidate when it is finite and lies within `tn/td` of the value `num/den` with sign `s`, else the nearest
FP32 value. -/
def withinOr (s : Bool) (num den tn td : Nat) (cand : Nat) : Num :=
  match fp32.decode cand with
  | .fin cs cn cd =>
    let diff := (signedNum cs (cn * den) - signedNum s (num * cd)).natAbs
    if diff * td ≤ tn * (cd * den) then .fin cs cn cd else nearest s num den
  | _ => nearest s num den

/-- Within `k` ulp of a value that is exact; of one that is a power of two, the spacing above it counts (log entry 5). -/
def withinUlps (k : Nat) (s : Bool) (num den : Nat) (cand : Nat) : Num :=
  let p := pow2 (fp32.ulpExp num den)
  withinOr s num den (p.1 * k) p.2 cand

/-- Within `k` ulp of a value that a reference value stands for: the reference errs by less than 2⁻⁴⁰ ulp, by which the
bound is drawn in, and of two spacings between which the reference does not decide the lesser counts, so that no result leaves
the rule's bound (log entry 5). -/
def nearUlps (k : Nat) (s : Bool) (num den : Nat) (cand : Nat) : Num :=
  let p := pow2 (fp32.ulpExp (num * (2 ^ 64 - 1)) (den * 2 ^ 64))
  withinOr s num den (p.1 * (k * 2 ^ 40 - 1)) (p.2 * 2 ^ 40) cand

/-- Within `k` ulp of a positive value below the least one that FP32 tells from zero. -/
def nearTiny (k : Nat) (cand : Nat) : Num :=
  withinOr false 1 (2 ^ 300) (k * 2 ^ 40 - 1) (2 ^ 189) cand

/-- Within `k` ulp of a magnitude below 1 that FP32 does not tell from 1: an ulp there is 2⁻²⁴. -/
def nearOne (k : Nat) (cand : Nat) : Num := withinOr false 1 1 (k * 2 ^ 40 - 1) (2 ^ 64) cand

/-- RCP (R142). -/
def xRcp (x : Num) (cand : Nat) : Num :=
  match x with
  | .nan => .nan
  | .inf s => .fin s 0 1
  | .fin s n d =>
    if n = 0 then .inf s
    else if (fp32.round (.fin s d n) {}).1 % 2 ^ 31 = 0x7F800000 then .inf s
    else withinUlps 1 s d n cand

/-- RSQ (R142). -/
def xRsq (x : Num) (cand : Nat) : Num :=
  match x with
  | .nan => .nan
  | .inf s => if s then .nan else .fin false 0 1
  | .fin s n d =>
    if n = 0 then .inf s
    else if s then .nan
    else
      let e := floorLog2 n d
      -- 1/√x scaled so that the root has at least 100 significant bits
      let k : Int := 100 + e / 2
      let p := pow2 (2 * k)
      let r := isqrt (d * p.1 / (n * p.2))
      let q := pow2 k
      if r * r * (n * p.2) = d * p.1 then withinUlps 1 false (r * q.2) q.1 cand
      else nearUlps 1 false (r * q.2) q.1 cand

/-- EXP2 (R142). -/
def xExp2 (x : Num) (cand : Nat) : Num :=
  match x with
  | .nan => .nan
  | .inf s => if s then .fin false 0 1 else .inf false
  | .fin s n d =>
    let v : Int := signedNum s n
    let whole := v / (d : Int)
    let rest := (v - whole * (d : Int)).toNat
    if 128 ≤ whole then .inf false
    else if rest = 0 ∧ -149 ≤ whole then (let p := pow2 whole; .fin false p.1 p.2)
    else if whole < -400 then nearTiny 2 cand
    else
      let m := fixExp2 (rest * 2 ^ fixBits / d)
      let p := pow2 (whole - (fixBits : Int))
      nearUlps 2 false (m * p.1) p.2 cand

/-- LOG2 (R142). -/
def xLog2 (x : Num) (cand : Nat) : Num :=
  match x with
  | .nan => .nan
  | .inf s => if s then .nan else .inf false
  | .fin s n d =>
    if n = 0 then .inf true
    else if s then .nan
    else
      let e := floorLog2 n d
      let p := pow2 e
      -- x = 2^e × m with 1 ≤ m < 2
      if n * p.2 = d * p.1 then .ofInt e
      else
        let m := n * p.2 * 2 ^ fixBits / (d * p.1)
        let f := log2Bits 100 m 0
        let v : Int := e * 2 ^ 100 + (f : Int)
        nearUlps 2 (decide (v < 0)) v.natAbs (2 ^ 100) cand

/-- Sine or cosine of revolutions (R142): exact at the quarter turns, else within 2⁻²². -/
def xTrig (cosine : Bool) (x : Num) (cand : Nat) : Num :=
  match x with
  | .nan => .nan
  | .inf _ => .nan
  | .fin s n d =>
    -- four times the fraction of a revolution: quadrant and rest
    let v := 4 * (n % d)
    let quad := v / d
    let rest := v % d
    if rest = 0 then
      if cosine then
        (if quad % 2 = 1 then .fin false 0 1 else .fin (decide (quad = 2)) 1 1)
      else
        (if quad % 2 = 0 then .fin s 0 1 else .fin (s != decide (quad = 3)) 1 1)
    else
      let t := rest * 2 ^ fixBits / (4 * d)
      let sn := fixSin t
      let cs := fixCos t
      let r : Int := if cosine then
          (match quad with | 0 => cs | 1 => -sn | 2 => -cs | _ => sn)
        else
          (match quad with | 0 => sn | 1 => cs | 2 => -sn | _ => -cs)
      let neg := decide (r < 0) != (s && !cosine)
      withinOr neg r.natAbs (2 ^ fixBits) (2 ^ 78 - 1) (2 ^ 100) cand

/-- TANH (R142). -/
def xTanh (x : Num) (cand : Nat) : Num :=
  match x with
  | .nan => .nan
  | .inf s => .fin s 1 1
  | .fin s n d =>
    if n = 0 then .fin s 0 1
    else if 10 * d ≤ n then .fin s 1 1
    else if n * 1024 < d then
      -- x − x³/3 + 2x⁵/15 − 17x⁷/315 over 315 d⁷
      let a := n * d ^ 6 * 315 + 42 * n ^ 5 * d ^ 2
      let b := 105 * n ^ 3 * d ^ 4 + 17 * n ^ 7
      nearUlps 2 s (a - b) (315 * d ^ 7) cand
    else
      let y := fmulx (2 * n * 2 ^ fixBits / d) fixLog2e
      let whole := y / 2 ^ fixBits
      let e := fixExp2 (y % 2 ^ fixBits) * 2 ^ whole
      nearUlps 2 s (e - 2 ^ fixBits) (e + 2 ^ fixBits) cand

/-- The logistic function 1 ÷ (1 + e^(−x)) of ACCMAP SIGM, within 2 ulp (R216). -/
def xSigm (x : Num) (cand : Nat) : Num :=
  match x with
  | .nan => .nan
  | .inf s => if s then .fin false 0 1 else .fin false 1 1
  | .fin s n d =>
    if 200 * d ≤ n then
      if s then nearTiny 2 cand else nearOne 2 cand
    else
      let y := fmulx (n * 2 ^ fixBits / d) fixLog2e
      let e := fixExp2 (y % 2 ^ fixBits) * 2 ^ (y / 2 ^ fixBits)
      if s then nearUlps 2 false (2 ^ fixBits) (2 ^ fixBits + e) cand
      else nearUlps 2 false e (2 ^ fixBits + e) cand

end Sys2Proof.Machine
end

