-- ==== Sys2Proof/Machine/LaneInt.lean ====
section
/-! DEFINITION. Machine/LaneInt.lean: lane integer, bit and lane-exchange instructions (R115 to R133). -/
namespace Sys2Proof.Machine

/-! ### The functions on words -/

/-- Signed saturation to 32 bits (R116). -/
def satS32 (i : Int) : Word := BitVec.ofInt 32 (max (-(2 ^ 31)) (min (2 ^ 31 - 1) i))
/-- Signed saturation to 64 bits (R116). -/
def satS64 (i : Int) : DWord := BitVec.ofInt 64 (max (-(2 ^ 63)) (min (2 ^ 63 - 1) i))
/-- A signed result, wrapped, or saturated when asked for (R116). -/
def wrapOrSat (sat : Bool) (i : Int) : Word := if sat then satS32 i else BitVec.ofInt 32 i
/-- Bits [63:32] of the signed product (R120). -/
def mulhS (x y : Word) : Word := ((BitVec.ofInt 64 (x.toInt * y.toInt)).extractLsb' 32 32)
/-- Bits [63:32] of the unsigned product (R120). -/
def mulhU (x y : Word) : Word := BitVec.ofNat 32 (x.toNat * y.toNat / 2 ^ 32)
/-- Signed minimum. -/
def minS (x y : Word) : Word := if x.slt y then x else y
/-- Signed maximum. -/
def maxS (x y : Word) : Word := if x.slt y then y else x
/-- Unsigned minimum. -/
def minU (x y : Word) : Word := if x.ult y then x else y
/-- Unsigned maximum. -/
def maxU (x y : Word) : Word := if x.ult y then y else x
/-- Shift left; 0 for an amount of 32 or more (R121). -/
def shl (x m : Word) : Word := if m.toNat < 32 then x <<< m.toNat else 0
/-- Logical shift right; 0 for an amount of 32 or more (R121). -/
def shr (x m : Word) : Word := if m.toNat < 32 then x >>> m.toNat else 0
/-- Arithmetic shift right; the sign alone for an amount of 32 or more (R121). -/
def sar (x m : Word) : Word := x.sshiftRight (min m.toNat 31)
/-- Rotate left by the low five bits (R121). -/
def rol (x m : Word) : Word := x.rotateLeft (m.toNat % 32)

/-- Position and length of a bit field from its control word (R122). -/
def bitField (b : Word) : Nat × Nat :=
  let pos := (b.extractLsb' 0 5).toNat
  (pos, min (b.extractLsb' 8 6).toNat (32 - pos))
/-- A field zero-extended (R122). -/
def bfxu (x b : Word) : Word := let f := bitField b; BitVec.ofNat 32 (x.toNat / 2 ^ f.1 % 2 ^ f.2)
/-- A field sign-extended (R122). -/
def bfxs (x b : Word) : Word :=
  let f := bitField b
  let v := x.toNat / 2 ^ f.1 % 2 ^ f.2
  if f.2 = 0 then 0 else if 2 ^ (f.2 - 1) ≤ v then BitVec.ofInt 32 ((v : Int) - 2 ^ f.2) else BitVec.ofNat 32 v
/-- A field inserted (R122). -/
def bfi (x b c : Word) : Word :=
  let f := bitField b
  let m := BitVec.ofNat 32 ((2 ^ f.2 - 1) * 2 ^ f.1)
  (c &&& ~~~m) ||| (BitVec.ofNat 32 (x.toNat % 2 ^ f.2 * 2 ^ f.1) &&& m)

/-- One byte of VPERM (R123). -/
def permByte (x : Word) (sel : Byte) : Byte :=
  let t := x.extractLsb' (8 * (sel.extractLsb' 0 2).toNat) 8
  if sel.getLsbD 7 then 0 else if sel.getLsbD 6 then (if t.getLsbD 7 then 0xFF else 0) else t
/-- VPERM (R123). -/
def perm (x y : Word) : Word :=
  permByte x (y.extractLsb' 24 8) ++ permByte x (y.extractLsb' 16 8) ++ permByte x (y.extractLsb' 8 8)
    ++ permByte x (y.extractLsb' 0 8)

/-- Number of set bits. -/
def popc (x : Word) : Nat := (List.range 32).countP (fun i => x.getLsbD i)
/-- Number of leading zeros; 32 for zero. -/
def clz (x : Word) : Nat := ((List.range 32).find? (fun i => x.getLsbD (31 - i))).getD 32
/-- Number of trailing zeros; 32 for zero. -/
def ctz (x : Word) : Nat := ((List.range 32).find? (fun i => x.getLsbD i)).getD 32
/-- Bits in reverse order. -/
def brev (x : Word) : Word := maskOf (fun i => x.getLsbD (31 - i))
/-- Bytes in reverse order. -/
def bswap (x : Word) : Word :=
  x.extractLsb' 0 8 ++ x.extractLsb' 8 8 ++ x.extractLsb' 16 8 ++ x.extractLsb' 24 8

/-- VIUN of lane `l` (R127). -/
def iun (f : IUnFn) (sat : Bool) (l : Nat) (x : Word) : Word :=
  match f with
  | .mov => x
  | .not => ~~~x
  | .neg => wrapOrSat sat (-x.toInt)
  | .abs => wrapOrSat sat (x.toInt.natAbs : Int)
  | .popc => BitVec.ofNat 32 (popc x)
  | .clz => BitVec.ofNat 32 (clz x)
  | .ctz => BitVec.ofNat 32 (ctz x)
  | .brev => brev x
  | .bswap => bswap x
  | .sext8 => (x.extractLsb' 0 8).signExtend 32
  | .sext16 => (x.extractLsb' 0 16).signExtend 32
  | .zext8 => (x.extractLsb' 0 8).setWidth 32
  | .zext16 => (x.extractLsb' 0 16).setWidth 32
  | .lane => BitVec.ofNat 32 l
  | .slice => BitVec.ofNat 32 (l / 4)

/-- A condition of VICMP and SCMP (R128). -/
def icond (c : ICond) (x y : Word) : Bool :=
  match c with
  | .eq => x == y
  | .ne => x != y
  | .lt => x.slt y
  | .le => !y.slt x
  | .gt => y.slt x
  | .ge => !x.slt y
  | .ltu => x.ult y
  | .leu => !y.ult x
  | .gtu => y.ult x
  | .geu => !x.ult y

/-! ### Reductions and scans over the 32 positions -/

/-- One level of the tree of R71: adjacent pairs, lower first, each node threading a generator. -/
def treeLevel {α : Type} (op : α → α → Word → α × Word) : List α → Word → List α × Word
  | a :: b :: t, g =>
    let r := op a b g
    let q := treeLevel op t r.2
    (r.1 :: q.1, q.2)
  | l, g => (l, g)

/-- The tree of five levels over 32 positions (R71). -/
def treeReduce {α : Type} (op : α → α → Word → α × Word) (d : α) (xs : List α) (g : Word) : α × Word :=
  let r := (List.range 5).foldl (fun (p : List α × Word) _ => treeLevel op p.1 p.2) (xs, g)
  (r.1.headD d, r.2)

/-- One step of the scan of R72: position p ≥ d takes value(p − d) ⊕ value(p), positions in ascending order. -/
def scanStep {α : Type} (op : α → α → Word → α × Word) (xs : List α) (d : Nat) (dflt : α) (g : Word) :
    List α × Word :=
  let r := (List.range xs.length).foldl (fun (p : List α × Word) i =>
    if i < d then (p.1 ++ [xs.getD i dflt], p.2)
    else
      let q := op (xs.getD (i - d) dflt) (xs.getD i dflt) p.2
      (p.1 ++ [q.1], q.2)) ([], g)
  r

/-- The inclusive scan in the steps 1, 2, 4, 8, 16 (R72). -/
def scanAll {α : Type} (op : α → α → Word → α × Word) (dflt : α) (xs : List α) (g : Word) : List α × Word :=
  [1, 2, 4, 8, 16].foldl (fun (p : List α × Word) d => scanStep op p.1 d dflt p.2) (xs, g)

/-- The 32 positions: each active lane's value, the identity elsewhere (R71, R118). -/
def positions {α : Type} (act : Mask) (ident : α) (f : Nat → α) : List α :=
  (List.range 32).map (fun l => if inMask act l then f l else ident)

/-- An integer operation of VIRED with its identity (R71, R132). -/
def iredOp (f : IRedFn) : (Word → Word → Word) × Word :=
  match f with
  | .add => ((· + ·), 0)
  | .min => (minS, 0x7FFFFFFF#32)
  | .max => (maxS, 0x80000000#32)
  | .minu => (minU, 0xFFFFFFFF#32)
  | .maxu => (maxU, 0)
  | .and => ((· &&& ·), 0xFFFFFFFF#32)
  | .or => ((· ||| ·), 0)
  | .xor => ((· ^^^ ·), 0)

/-- An integer operation of VISCAN with its identity (R133). -/
def iscanOp (f : IScanFn) : (Word → Word → Word) × Word :=
  match f with
  | .addinc | .addexc => ((· + ·), 0)
  | .maxinc => (maxS, 0x80000000#32)
  | .mininc => (minS, 0x7FFFFFFF#32)
  | .orinc => ((· ||| ·), 0)

/-- An integer operation as a tree node, which makes no draw. -/
def pureNode (op : Word → Word → Word) : Word → Word → Word → Word × Word := fun a b g => (op a b, g)

/-! ### The meanings -/

/-- A three-operand integer word (R120): `f` takes sat, x and y. -/
def vBin (sat : Bool) (f : Bool → Word → Word → Word) (d a b : Byte) (s : State) : Res :=
  vOp { sat := sat } (fun g => srcOk g.n a.toNat 1 && srcOk g.n b.toNat 1) d.toNat 1
    (fun x g l gen => ((f x.p.sat (g.src a.toNat l) (g.src b.toNat l)).toNat, gen)) s

/-- A word with one source and an immediate (R125). -/
def vImm (sat : Bool) (f : Bool → Word → Word) (d a : Byte) (s : State) : Res :=
  vOp { sat := sat } (fun g => srcOk g.n a.toNat 1) d.toNat 1
    (fun x g l gen => ((f x.p.sat (g.src a.toNat l)).toNat, gen)) s

/-- VADD (R120). -/
def execVadd (d a b : Byte) : State → Res := vBin true (fun t x y => wrapOrSat t (x.toInt + y.toInt)) d a b
/-- VSUB (R120). -/
def execVsub (d a b : Byte) : State → Res := vBin true (fun t x y => wrapOrSat t (x.toInt - y.toInt)) d a b
/-- VMUL (R120). -/
def execVmul (d a b : Byte) : State → Res := vBin false (fun _ x y => x * y) d a b
/-- VMULH (R120). -/
def execVmulh (d a b : Byte) : State → Res := vBin false (fun _ x y => mulhS x y) d a b
/-- VMULHU (R120). -/
def execVmulhu (d a b : Byte) : State → Res := vBin false (fun _ x y => mulhU x y) d a b
/-- VMAD (R116, R120): the product and sum are exact before they wrap or saturate. -/
def execVmad (d a b : Byte) : State → Res :=
  vOp { c := 1, sat := true } (fun g => srcOk g.n a.toNat 1 && srcOk g.n b.toNat 1) d.toNat 1
    (fun x g l gen => ((wrapOrSat x.p.sat ((g.src a.toNat l).toInt * (g.src b.toNat l).toInt
      + (g.src x.c l).toInt)).toNat, gen))
/-- VMIN (R120). -/
def execVmin (d a b : Byte) : State → Res := vBin false (fun _ x y => minS x y) d a b
/-- VMAX (R120). -/
def execVmax (d a b : Byte) : State → Res := vBin false (fun _ x y => maxS x y) d a b
/-- VMINU (R120). -/
def execVminu (d a b : Byte) : State → Res := vBin false (fun _ x y => minU x y) d a b
/-- VMAXU (R120). -/
def execVmaxu (d a b : Byte) : State → Res := vBin false (fun _ x y => maxU x y) d a b
/-- VAND (R120). -/
def execVand (d a b : Byte) : State → Res := vBin false (fun _ x y => x &&& y) d a b
/-- VOR (R120). -/
def execVor (d a b : Byte) : State → Res := vBin false (fun _ x y => x ||| y) d a b
/-- VXOR (R120). -/
def execVxor (d a b : Byte) : State → Res := vBin false (fun _ x y => x ^^^ y) d a b
/-- VANDN (R120). -/
def execVandn (d a b : Byte) : State → Res := vBin false (fun _ x y => x &&& ~~~y) d a b
/-- VSHL (R121). -/
def execVshl (d a b : Byte) : State → Res := vBin false (fun _ x y => shl x y) d a b
/-- VSHR (R121). -/
def execVshr (d a b : Byte) : State → Res := vBin false (fun _ x y => shr x y) d a b
/-- VSAR (R121). -/
def execVsar (d a b : Byte) : State → Res := vBin false (fun _ x y => sar x y) d a b
/-- VROL (R121). -/
def execVrol (d a b : Byte) : State → Res := vBin false (fun _ x y => rol x y) d a b
/-- VBFXU (R122). -/
def execVbfxu (d a b : Byte) : State → Res := vBin false (fun _ x y => bfxu x y) d a b
/-- VBFXS (R122). -/
def execVbfxs (d a b : Byte) : State → Res := vBin false (fun _ x y => bfxs x y) d a b
/-- VBFI (R122): the third source is the insertion target. -/
def execVbfi (d a b : Byte) : State → Res :=
  vOp { c := 1 } (fun g => srcOk g.n a.toNat 1 && srcOk g.n b.toNat 1) d.toNat 1
    (fun x g l gen => ((bfi (g.src a.toNat l) (g.src b.toNat l) (g.src x.c l)).toNat, gen))
/-- VPERM (R123). -/
def execVperm (d a b : Byte) : State → Res := vBin false (fun _ x y => perm x y) d a b
/-- VADD64 (R124): d, a and b each name a pair. -/
def execVadd64 (d a b : Byte) : State → Res :=
  vOp { sat := true } (fun g => srcOk g.n a.toNat 2 && srcOk g.n b.toNat 2) d.toNat 2
    (fun x g l gen =>
      let i := (g.src64 a.toNat l).toInt + (g.src64 b.toNat l).toInt
      ((if x.p.sat then satS64 i else BitVec.ofInt 64 i).toNat, gen))
/-- VMULW (R124): the signed 64-bit product into the pair d. -/
def execVmulw (d a b : Byte) : State → Res :=
  vOp {} (fun g => srcOk g.n a.toNat 1 && srcOk g.n b.toNat 1) d.toNat 2
    (fun _ g l gen => ((BitVec.ofInt 64 ((g.src a.toNat l).toInt * (g.src b.toNat l).toInt)).toNat, gen))
/-- VADDI (R125). -/
def execVaddi (d a i : Byte) : State → Res := vImm true (fun t x => wrapOrSat t (x.toInt + i.toInt)) d a
/-- VSHLI (R125). -/
def execVshli (d a : Byte) (i : BitVec 5) : State → Res := vImm false (fun _ x => x <<< i.toNat) d a
/-- VSHRI (R125). -/
def execVshri (d a : Byte) (i : BitVec 5) : State → Res := vImm false (fun _ x => x >>> i.toNat) d a
/-- VSARI (R125). -/
def execVsari (d a : Byte) (i : BitVec 5) : State → Res := vImm false (fun _ x => x.sshiftRight i.toNat) d a
/-- VANDI (R125). -/
def execVandi (d a i : Byte) : State → Res := vImm false (fun _ x => x &&& i.setWidth 32) d a
/-- VMOVI (R126). -/
def execVmovi (d : Byte) (i : BitVec 16) : State → Res :=
  vOp {} (fun _ => true) d.toNat 1 (fun _ _ _ gen => ((i.signExtend 32).toNat, gen))
/-- VMOVHI (R126): the low half of d is kept. -/
def execVmovhi (d : Byte) (i : BitVec 16) : State → Res :=
  vOp {} (fun _ => true) d.toNat 1
    (fun _ g l gen => ((i ++ (g.vreg d.toNat l).extractLsb' 0 16).toNat, gen))
/-- VIUN (R116, R127): sat is honoured by NEG and ABS only. -/
def execViun (d a : Byte) (f : IUnFn) : State → Res :=
  vOp { sat := decide (f = .neg) || decide (f = .abs) }
    (fun g => (decide (f = .lane) || decide (f = .slice)) && decide (a = 0) || srcOk g.n a.toNat 1
      && !(decide (f = .lane) || decide (f = .slice))) d.toNat 1
    (fun x g l gen => ((iun f x.p.sat l (g.src a.toNat l)).toNat, gen))
/-- VICMP (R128). -/
def execVicmp (k : BitVec 3) (c : ICond) (a b : Byte) : State → Res :=
  vCmp {} (fun g => srcOk g.n a.toNat 1 && srcOk g.n b.toNat 1) k.toNat
    (fun _ g l => icond c (g.src a.toNat l) (g.src b.toNat l))
/-- VSEL (R129): the prefix is required and its km names the selecting mask. -/
def execVsel (d a b : Byte) (s : State) : Res :=
  .next (s.vWord { z := false, need := true }
    (dstOk s.cg.n d.toNat 1 && srcOk s.cg.n a.toNat 1 && srcOk s.cg.n b.toNat 1) d.toNat true
    (fun x s => (s.updCur (fun g => g.vResults x d.toNat 1 (fun l gen =>
      ((if inMask (g.kmask x.p.km) l then g.src a.toNat l else g.src b.toNat l).toNat, gen)))).nextWord))
/-- VSHFL (R130). -/
def execVshfl (d a b : Byte) : State → Res :=
  vOp {} (fun g => srcOk g.n a.toNat 1 && srcOk g.n b.toNat 1) d.toNat 1
    (fun _ g l gen =>
      let j := (g.src b.toNat l).toNat % 32
      ((if j < g.width then g.src a.toNat j else 0).toNat, gen))
/-- The source lane of VSHFLI, or the lane itself when it lies outside the group (R131). -/
def shfliLane (m : ShflMode) (i w l : Nat) : Nat :=
  match m with
  | .xor => if l ^^^ i < w then l ^^^ i else l
  | .up => if i ≤ l then l - i else l
  | .down => if l + i < w then l + i else l
  | .rotate => (l + i) % w
/-- VSHFLI (R131). -/
def execVshfli (d a : Byte) (m : ShflMode) (i : BitVec 5) : State → Res :=
  vOp {} (fun g => srcOk g.n a.toNat 1) d.toNat 1
    (fun _ g l gen => ((g.src a.toNat (shfliLane m i.toNat g.width l)).toNat, gen))
/-- VIRED (R132). -/
def execVired (d a : Byte) (f : IRedFn) : State → Res :=
  vOp {} (fun g => srcOk g.n a.toNat 1) d.toNat 1
    (fun x g _ gen =>
      let o := iredOp f
      ((treeReduce (pureNode o.1) o.2 (positions x.act o.2 (fun l => g.src a.toNat l)) gen).1.toNat, gen))
/-- VISCAN (R133): ADDEXC delivers the inclusive result of the position below, 0 at position 0. -/
def execViscan (d a : Byte) (f : IScanFn) : State → Res :=
  vOp {} (fun g => srcOk g.n a.toNat 1) d.toNat 1
    (fun x g l gen =>
      let o := iscanOp f
      let r := (scanAll (pureNode o.1) o.2 (positions x.act o.2 (fun l => g.src a.toNat l)) gen).1
      ((if f = .addexc then (if l = 0 then 0 else r.getD (l - 1) 0) else r.getD l 0).toNat, gen))

end Sys2Proof.Machine
end

