-- ==== Sys2Proof/Machine/LaneFloat.lean ====
section
/-! DEFINITION. Machine/LaneFloat.lean: lane floating point, conversion and reservoir instructions (R134 to R150). -/
namespace Sys2Proof.Machine

/-- neg-a and abs-a on the sign bit of an encoded element (R137). -/
def fmods (p : GPfx) (f : Fmt) (b : Nat) : Nat :=
  let s := if p.abs then false else f.signOf b
  f.pack (s != p.neg) (f.magOf b)

/-- Source a of lane `l` after its sign changes, as FP32 bits (R137). -/
def Group.fsrcA (g : Group) (p : GPfx) (field l : Nat) : Nat := fmods p fp32 (g.src field l).toNat
/-- A source as FP32 bits. -/
def Group.fsrc (g : Group) (field l : Nat) : Nat := (g.src field l).toNat

/-- The rounding request of a prefix with a generator (R137). -/
def GPfx.rnd (p : GPfx) (gen : Word) : Rnd := { mode := p.rm, sat := p.sat, gen := gen }
/-- An exact zero sum is −0 under RDN (R137). -/
def GPfx.rdn (p : GPfx) : Bool := decide (p.rm = 4)

/-- Two-operand FP32 arithmetic, rounded once (R138). -/
def vF2 (f : Bool → Num → Num → Num) (d a b : Byte) : State → Res :=
  vOp { rm := true, sat := true, mods := true } (fun g => srcOk g.n a.toNat 1 && srcOk g.n b.toNat 1) d.toNat 1
    (fun x g l gen => fp32.round (f x.p.rdn (fp32.decode (g.fsrcA x.p a.toNat l)) (fp32.decode (g.fsrc b.toNat l)))
      (x.p.rnd gen))

/-- Fused multiply-add of exact values (R138): 0 × ∞ is NaN whatever the addend. -/
def Num.fma (rdn : Bool) (x y w : Num) : Num := (x.mul y).add rdn w

/-- Interpolation of R139 on encoded values: NaN where b − a is ∞ − ∞ or t × (b − a) is 0 × ∞; elsewhere the value of
a + t × (b − a), or of a·(1 − t) + b·t where the first form has no value, and NaN where neither has (log entry 51). -/
def lerp (rdn : Bool) (a b t : Nat) (r : Rnd) : Nat × Word :=
  let x := fp32.decode a
  let y := fp32.decode b
  let w := fp32.decode t
  if x.isNan || y.isNan || w.isNan then (fp32.qnan, r.gen)
  else if w.isZero then (a, r.gen)
  else if w.eqv (.fin false 1 1) then (b, r.gen)
  else
    let step := w.mul (y.add rdn x.neg)
    let v := x.add rdn step
    if v.isNan && !step.isNan then
      fp32.round ((x.mul ((Num.fin false 1 1).add rdn w.neg)).add rdn (y.mul w)) r
    else fp32.round v r

/-- VFADD (R138). -/
def execVfadd (d a b : Byte) : State → Res := vF2 (fun r x y => x.add r y) d a b
/-- VFSUB (R138). -/
def execVfsub (d a b : Byte) : State → Res := vF2 (fun r x y => x.add r y.neg) d a b
/-- VFMUL (R138). -/
def execVfmul (d a b : Byte) : State → Res := vF2 (fun _ x y => x.mul y) d a b
/-- VFMA (R138). -/
def execVfma (d a b : Byte) : State → Res :=
  vOp { c := 1, rm := true, sat := true, mods := true } (fun g => srcOk g.n a.toNat 1 && srcOk g.n b.toNat 1) d.toNat 1
    (fun x g l gen => fp32.round (Num.fma x.p.rdn (fp32.decode (g.fsrcA x.p a.toNat l))
      (fp32.decode (g.fsrc b.toNat l)) (fp32.decode (g.fsrc x.c l))) (x.p.rnd gen))
/-- VFMIN (R71, R138). -/
def execVfmin (d a b : Byte) : State → Res :=
  vOp { mods := true } (fun g => srcOk g.n a.toNat 1 && srcOk g.n b.toNat 1) d.toNat 1
    (fun x g l gen => (fp32.minNum (g.fsrcA x.p a.toNat l) (g.fsrc b.toNat l), gen))
/-- VFMAX (R71, R138). -/
def execVfmax (d a b : Byte) : State → Res :=
  vOp { mods := true } (fun g => srcOk g.n a.toNat 1 && srcOk g.n b.toNat 1) d.toNat 1
    (fun x g l gen => (fp32.maxNum (g.fsrcA x.p a.toNat l) (g.fsrc b.toNat l), gen))
/-- VFLERP (R139). -/
def execVflerp (d a b : Byte) : State → Res :=
  vOp { c := 1, rm := true, sat := true, mods := true } (fun g => srcOk g.n a.toNat 1 && srcOk g.n b.toNat 1) d.toNat 1
    (fun x g l gen => lerp x.p.rdn (g.fsrcA x.p a.toNat l) (g.fsrc b.toNat l) (g.fsrc x.c l) (x.p.rnd gen))
/-- VFCMP (R140). -/
def execVfcmp (k : BitVec 3) (c : FCond) (a b : Byte) : State → Res :=
  vCmp { mods := true } (fun g => srcOk g.n a.toNat 1 && srcOk g.n b.toNat 1) k.toNat
    (fun x g l => fcond c (g.fsrcA x.p a.toNat l) (g.fsrc b.toNat l))

/-- Floor or ceiling of an encoded FP32 value; infinities and zeros pass unchanged (R141). -/
def floorCeil (up : Bool) (b : Nat) : Nat :=
  match fp32.decode b with
  | .nan => fp32.qnan
  | .inf _ => b
  | .fin s n d => if n = 0 then b else (fp32.round (.fin s (roundUnits s n d 0 { mode := if up then 3 else 4 }).1 1) {}).1

/-- The one-hot class of R141. -/
def classBits (b : Nat) : Nat :=
  let s := fp32.signOf b
  let m := fp32.magOf b
  if 0x7F800000 < m then 2 ^ 8
  else if m = 0x7F800000 then (if s then 2 ^ 0 else 2 ^ 7)
  else if m = 0 then (if s then 2 ^ 3 else 2 ^ 4)
  else if m < 0x00800000 then (if s then 2 ^ 2 else 2 ^ 5)
  else (if s then 2 ^ 1 else 2 ^ 6)

/-- VFUN of an encoded value (R141). -/
def funFn (f : FUnFn) (b : Nat) (r : Rnd) : Nat × Word :=
  let x := fp32.decode b
  match f with
  | .cls => (classBits b, r.gen)
  | .sat01 =>
    (if x.isNan || x.isNeg || x.isZero then 0 else if (Num.fin false 1 1).lt x then 0x3F800000 else b, r.gen)
  | .mov => (if x.isNan then fp32.qnan else b, r.gen)
  | .abs => (if x.isNan then fp32.qnan else fp32.magOf b, r.gen)
  | .neg => (if x.isNan then fp32.qnan else fp32.pack (!fp32.signOf b) (fp32.magOf b), r.gen)
  | .floor => (floorCeil false b, r.gen)
  | .ceil => (floorCeil true b, r.gen)
  | .trunc =>
    match x with
    | .fin s n d => (fp32.pack s (fp32.magOf (fp32.round (.fin false (n / d) 1) {}).1), r.gen)
    | .inf _ => (b, r.gen)
    | .nan => (fp32.qnan, r.gen)
  | .rint =>
    match x with
    | .fin s n d =>
      let u := Num.toIntegral s n d r
      (fp32.pack s (fp32.magOf (fp32.round (.fin false u.1 1) {}).1), u.2)
    | .inf _ => (b, r.gen)
    | .nan => (fp32.qnan, r.gen)
  | .fract =>
    match x with
    | .fin s n d =>
      let v : Int := signedNum s n
      let rest := (v - v / (d : Int) * (d : Int)).toNat
      ((fp32.round (.fin false rest d) { mode := 2 }).1, r.gen)
    | _ => (fp32.qnan, r.gen)

/-- VFUN (R141): rm is honoured by RINT only. -/
def execVfun (d a : Byte) (f : FUnFn) : State → Res :=
  vOp { rm := decide (f = .rint), mods := true } (fun g => srcOk g.n a.toNat 1) d.toNat 1
    (fun x g l gen => funFn f (g.fsrcA x.p a.toNat l) (x.p.rnd gen))

/-! ### The X pipe -/

/-- A VFX function of an encoded value, with a candidate for the part the manual leaves free (R74, R142). -/
def vfxFn (f : XFn) (b : Nat) (cand : Nat) (r : Rnd) : Nat × Word :=
  let x := fp32.decode b
  let out := fun (y : Num) => fp32.round y { mode := 1, sat := r.sat, gen := r.gen }
  match f with
  | .sqrt => fp32Sqrt x r
  | .rcp => out (xRcp x cand)
  | .rsq => out (xRsq x cand)
  | .exp2 => out (xExp2 x cand)
  | .log2 => out (xLog2 x cand)
  | .sinr => out (xTrig false x cand)
  | .cosr => out (xTrig true x cand)
  | .tanh => out (xTanh x cand)

/-- VFX (R134, R142): charged to flag A; the sources are read at issue, the destination is written at completion. A
flag at 63 holds the word (R86). -/
def execVfx (d a : Byte) (f : XFn) (s : State) : Res :=
  let fl := s.cw.flagOf false
  .next (s.vWord { rm := decide (f = .sqrt), sat := true, mods := true }
    (dstOk s.cg.n d.toNat 1 && srcOk s.cg.n a.toNat 1) d.toNat false
    (fun x s =>
      if s.cg.flagFull fl then s
      else
        let vals := (lanesOf x.act).foldl (fun t l => tset t (l * 64) (s.cg.fsrcA x.p a.toNat l)) []
        (s.issueOp { instr := .vfx d a f, flag := fl, act := x.act, zero := x.zero, vals := vals
                     args := [x.p.rm, if x.p.sat then 1 else 0] }).nextWord))

/-- VFX_COMPLETE (R39, R142): the operation writes its destination and decrements its flag in one act. -/
def execVfxComplete (gid op : Nat) (s : State) : Res :=
  match (s.group gid).op? op with
  | none => .next s
  | some o =>
    match o.instr with
    | .vfx d _ f =>
      let r : Rnd := { mode := o.args.getD 0 0, sat := decide (o.args.getD 1 0 = 1) }
      let s := (lanesOf o.act).foldl (fun (s : State) l =>
        let c := s.takeFree
        c.2.updGroup gid (fun g =>
          let v := vfxFn f (tget o.vals (l * 64) 0) c.1 { r with gen := (g.lane l).gen }
          (g.setVs d.toNat l 1 v.1).setLane l { g.lane l with gen := v.2 })) s
      let s := s.updGroup gid (fun g => g.zeroLanes o.zero d.toNat 1)
      .next (s.opDone gid o)
    | _ => .next s

/-! ### Reductions and scans -/

/-- A tree node or scan step of VFRED and VFSCAN on encoded values (R71, R143). -/
def fNode (f : FRedFn) (p : GPfx) (a b : Nat) (gen : Word) : Nat × Word :=
  match f with
  | .add => fp32.round ((fp32.decode a).add p.rdn (fp32.decode b)) (p.rnd gen)
  | .min => (fp32.minNum a b, gen)
  | .max => (fp32.maxNum a b, gen)

/-- Identity of a floating-point reduction (R71). -/
def fIdent (f : FRedFn) : Nat :=
  match f with
  | .add => 0x80000000
  | .min => 0x7F800000
  | .max => 0xFF800000

/-- VFRED (R143): every draw comes from the lowest-numbered active lane. -/
def execVfred (d a : Byte) (f : FRedFn) : State → Res :=
  vOp { rm := decide (f = .add), sat := decide (f = .add), mods := true } (fun g => srcOk g.n a.toNat 1) d.toNat 1
    (fun x g l gen =>
      let low := lowLane x.act
      let r := treeReduce (fNode f x.p) (fIdent f) (positions x.act (fIdent f) (fun l => g.fsrcA x.p a.toNat l))
        (g.lane low).gen
      (r.1, if l = low then r.2 else gen))

/-- VFSCAN (R72, R143). -/
def execVfscan (d a : Byte) (f : FScanFn) : State → Res :=
  vOp { rm := true, sat := true, mods := true } (fun g => srcOk g.n a.toNat 1) d.toNat 1
    (fun x g l gen =>
      let low := lowLane x.act
      let r := scanAll (fNode .add x.p) 0x80000000
        (positions x.act 0x80000000 (fun l => g.fsrcA x.p a.toNat l)) (g.lane low).gen
      -- position 0 has met no step: its value is delivered by RoundTo too (R137)
      let at_ := fun p => (fp32.round (fp32.decode (r.1.getD p 0)) (x.p.rnd gen)).1
      (match f with
       | .addinc => at_ l
       | .addexc => if l = 0 then 0 else at_ (l - 1),
       if l = low then r.2 else gen))

/-! ### Packed FP16 and BF16 -/

/-- Element `e` of a packed register (R144). -/
def half (w : Word) (e : Nat) : Nat := (w.toNat / 2 ^ (16 * e)) % 2 ^ 16

/-- Both elements, element 0 first, each with its own draw (R69, R144). -/
def packed2 (gen : Word) (f : Nat → Word → Nat × Word) : Nat × Word :=
  let lo := f 0 gen
  let hi := f 1 lo.2
  (lo.1 + 2 ^ 16 * hi.1, hi.2)

/-- Packed two-operand arithmetic (R144). -/
def vP2 (fmt : Fmt) (f : Bool → Num → Num → Num) (d a b : Byte) : State → Res :=
  vOp { rm := true, sat := true, mods := true } (fun g => srcOk g.n a.toNat 1 && srcOk g.n b.toNat 1) d.toNat 1
    (fun x g l gen => packed2 gen (fun e gen =>
      fmt.round (f x.p.rdn (fmt.decode (fmods x.p fmt (half (g.src a.toNat l) e)))
        (fmt.decode (half (g.src b.toNat l) e))) (x.p.rnd gen)))

/-- Packed fused multiply-add (R144). -/
def vP3 (fmt : Fmt) (d a b : Byte) : State → Res :=
  vOp { c := 1, rm := true, sat := true, mods := true } (fun g => srcOk g.n a.toNat 1 && srcOk g.n b.toNat 1) d.toNat 1
    (fun x g l gen => packed2 gen (fun e gen =>
      fmt.round (Num.fma x.p.rdn (fmt.decode (fmods x.p fmt (half (g.src a.toNat l) e)))
        (fmt.decode (half (g.src b.toNat l) e)) (fmt.decode (half (g.src x.c l) e))) (x.p.rnd gen)))

/-- VHADD (R144). -/
def execVhadd (d a b : Byte) : State → Res := vP2 fp16 (fun r x y => x.add r y) d a b
/-- VHMUL (R144). -/
def execVhmul (d a b : Byte) : State → Res := vP2 fp16 (fun _ x y => x.mul y) d a b
/-- VHFMA (R144). -/
def execVhfma (d a b : Byte) : State → Res := vP3 fp16 d a b
/-- VHMIN (R144). -/
def execVhmin (d a b : Byte) : State → Res :=
  vOp { mods := true } (fun g => srcOk g.n a.toNat 1 && srcOk g.n b.toNat 1) d.toNat 1
    (fun x g l gen => packed2 gen (fun e gen =>
      (fp16.minNum (fmods x.p fp16 (half (g.src a.toNat l) e)) (half (g.src b.toNat l) e), gen)))
/-- VHMAX (R144). -/
def execVhmax (d a b : Byte) : State → Res :=
  vOp { mods := true } (fun g => srcOk g.n a.toNat 1 && srcOk g.n b.toNat 1) d.toNat 1
    (fun x g l gen => packed2 gen (fun e gen =>
      (fp16.maxNum (fmods x.p fp16 (half (g.src a.toNat l) e)) (half (g.src b.toNat l) e), gen)))
/-- VBADD (R144). -/
def execVbadd (d a b : Byte) : State → Res := vP2 bf16 (fun r x y => x.add r y) d a b
/-- VBMUL (R144). -/
def execVbmul (d a b : Byte) : State → Res := vP2 bf16 (fun _ x y => x.mul y) d a b
/-- VBFMA (R144). -/
def execVbfma (d a b : Byte) : State → Res := vP3 bf16 d a b
/-- VHDOT (R145): one rounding of the accumulator plus both products. -/
def execVhdot (d a b : Byte) : State → Res :=
  vOp { rm := true, sat := true, mods := true } (fun g => srcOk g.n a.toNat 1 && srcOk g.n b.toNat 1) d.toNat 1
    (fun x g l gen =>
      let prod := fun e => (fp16.decode (fmods x.p fp16 (half (g.src a.toNat l) e))).mul
        (fp16.decode (half (g.src b.toNat l) e))
      fp32.round (((fp32.decode (g.vreg d.toNat l).toNat).add x.p.rdn (prod 0)).add x.p.rdn (prod 1)) (x.p.rnd gen))

/-! ### Conversions -/

/-- A register with one half replaced. -/
def setHalf (w : Word) (hi : Bool) (h : Nat) : Nat :=
  if hi then w.toNat % 2 ^ 16 + 2 ^ 16 * h else w.toNat / 2 ^ 16 * 2 ^ 16 + h

/-- Which VCVT functions honour rm, sat and the source modifiers (R136). -/
def cvtHonours (f : CvtFn) : Honours :=
  let narrow := decide (f = .f2hlo) || decide (f = .f2hhi) || decide (f = .f2blo) || decide (f = .f2bhi)
  let ints := decide (f = .f2i) || decide (f = .f2u)
  let fromInt := decide (f = .i2f) || decide (f = .u2f)
  { rm := narrow || ints || fromInt, sat := narrow, mods := !fromInt }

/-- Widen a 16-bit element to FP32 bits exactly (R146). -/
def widen (fmt : Fmt) (p : GPfx) (b : Nat) : Nat := (fp32.round (fmt.decode (fmods p fmt b)) {}).1

/-- VCVT (R146). `old` is the destination as read at issue. -/
def cvt (f : CvtFn) (p : GPfx) (x : Word) (old : Word) (gen : Word) : Nat × Word :=
  let r := p.rnd gen
  let a := fp32.decode (fmods p fp32 x.toNat)
  let into := fun (fmt : Fmt) (hi : Bool) =>
    let v := fmt.round a r
    (setHalf old hi v.1, v.2)
  match f with
  | .f2i => let v := toIntSat a (-(2 ^ 31)) (2 ^ 31 - 1) r; ((BitVec.ofInt 32 v.1).toNat, v.2)
  | .f2u => let v := toIntSat a 0 (2 ^ 32 - 1) r; ((BitVec.ofInt 32 v.1).toNat, v.2)
  | .i2f => fp32.round (.ofInt x.toInt) r
  | .u2f => fp32.round (.fin false x.toNat 1) r
  | .f2hlo => into fp16 false
  | .f2hhi => into fp16 true
  | .h2flo => (widen fp16 p (half x 0), gen)
  | .h2fhi => (widen fp16 p (half x 1), gen)
  | .f2blo => into bf16 false
  | .f2bhi => into bf16 true
  | .b2flo => (widen bf16 p (half x 0), gen)
  | .b2fhi => (widen bf16 p (half x 1), gen)

/-- VCVT (R146). -/
def execVcvt (d a : Byte) (f : CvtFn) : State → Res :=
  vOp (cvtHonours f) (fun g => srcOk g.n a.toNat 1) d.toNat 1
    (fun x g l gen => cvt f x.p (g.src a.toNat l) (g.vreg d.toNat l) gen)

/-- A format slot of the group's grid (R37, R63). -/
def State.slot (s : State) (i : Nat) : Word := vecGet (tget s.grids s.cg.grid {}).lr.fs i 0
/-- Format code, rounding and saturation of a slot word (R63). -/
def slotFmt (w : Word) : Nat := (w.extractLsb' 0 5).toNat
/-- RND of a slot word. -/
def slotRnd (w : Word) : Nat := (w.extractLsb' 5 3).toNat
/-- SAT of a slot word. -/
def slotSat (w : Word) : Bool := w.getLsbD 8
/-- A slot word that does not itself trap SLOTKIND (R37): the role of its code is checked where it is used. -/
def slotOk (w : Word) : Bool :=
  decide (slotFmt w ≤ 19) && decide (slotRnd w ≠ 7) && decide (w.extractLsb' 9 23 = 0#23)

/-- The element format of codes 0 to 3 (R62). -/
def codeFmt : Nat → Option Fmt
  | 0 => some e4m3
  | 1 => some e5m2
  | 2 => some bf16
  | 3 => some fp16
  | _ => none

/-- The element format that VCVTIN and VCVTOUT take from a slot, when the slot and the element index allow it (R147). -/
def slotElem (w : Word) (e : Nat) : Option Fmt :=
  if slotOk w then
    match codeFmt (slotFmt w) with
    | some f => if f.width = 16 ∧ 2 ≤ e then none else some f
    | none => none
  else none

/-- Element `e` of a register in a format (R147). -/
def elemOf (f : Fmt) (w : Word) (e : Nat) : Nat := w.toNat / 2 ^ (f.width * e) % 2 ^ f.width
/-- A register with element `e` replaced. -/
def setElem (f : Fmt) (w : Word) (e v : Nat) : Nat :=
  w.toNat - elemOf f w e * 2 ^ (f.width * e) + v * 2 ^ (f.width * e)

/-- The slot conversions: check the slot at issue, then convert (R147). -/
def vSlot (h : Honours) (d a : Byte) (e : BitVec 2) (sl : BitVec 3)
    (f : Fmt → Word → VIn → Group → Nat → Word → Nat × Word) (s : State) : Res :=
  .next (s.vWord h (dstOk s.cg.n d.toNat 1 && srcOk s.cg.n a.toNat 1) d.toNat false
    (fun x s =>
      let w := s.slot sl.toNat
      match slotElem w e.toNat with
      | none => s.slotTrap sl.toNat
      | some fmt => (s.updCur (fun g => g.vResults x d.toNat 1 (f fmt w x g))).nextWord))

/-- VCVTIN (R147). -/
def execVcvtin (d a : Byte) (e : BitVec 2) (sl : BitVec 3) : State → Res :=
  vSlot { mods := true } d a e sl
    (fun fmt _ x g l gen => (widen fmt x.p (elemOf fmt (g.src a.toNat l) e.toNat), gen))
/-- VCVTOUT (R147): mode is the prefix rm if nonzero, else the slot's RND; sat is either. -/
def execVcvtout (d a : Byte) (e : BitVec 2) (sl : BitVec 3) : State → Res :=
  vSlot { rm := true, sat := true, mods := true } d a e sl
    (fun fmt w x g l gen =>
      let v := fmt.round (fp32.decode (g.fsrcA x.p a.toNat l))
        { mode := if x.p.rm = 0 then slotRnd w else x.p.rm, sat := x.p.sat || slotSat w, gen := gen }
      (setElem fmt (g.vreg d.toNat l) e.toNat v.1, v.2))

/-! ### Reservoirs -/

/-- A weight that is finite and above zero (R148). -/
def weightOk (b : Nat) : Bool :=
  match fp32.decode b with
  | .fin s n _ => !s && decide (n ≠ 0)
  | _ => false

/-- Effective cap of a reservoir's third register (R148). -/
def resCap (w : Word) : Nat := if half w 1 = 0 then 65535 else half w 1

/-- The threshold ⌊w / W × 2²⁴⌋ of an exact quotient: 0 when the sum is infinite, and 0 for a negative sum, since no draw
lies below a negative threshold (R149). For a sum of zero or NaN the manual states no quotient: the threshold is a free
value of the two operands (log entry 52). -/
def choiceBound (w sum : Nat) : Nat :=
  match fp32.decode w, fp32.decode sum with
  | .fin _ a b, .fin neg c d =>
    if c = 0 then Config.openQuotient w sum else if neg then 0 else a * d * 2 ^ 24 / (b * c)
  | .fin .., .nan => Config.openQuotient w sum
  | _, _ => 0

/-- Add a candidate of weight `w` to the reservoir at `d` of lane `l`, its count already set (R149, R150): the sum
rises, the lane draws once, and the candidate is taken below the bound. An invalid weight changes nothing more. -/
def Group.offer (g : Group) (d l : Nat) (m : Nat) (id w pdf : Word) : Group :=
  let third := g.vreg (d + 2) l
  let g := g.setV (d + 2) l (BitVec.ofNat 32 (half third 1 * 2 ^ 16 + m))
  if !weightOk w.toNat then g
  else
    let sum := (fp32.round ((fp32.decode (g.vreg (d + 1) l).toNat).add false (fp32.decode w.toNat)) {}).1
    let dr := drawGen (g.lane l).selGen
    let g := (g.setV (d + 1) l (BitVec.ofNat 32 sum)).setLane l { g.lane l with selGen := dr.1 }
    if dr.2 < choiceBound w.toNat sum then (g.setV d l id).setV (d + 3) l pdf else g

/-- VRSVU (R149). -/
def execVrsvu (d a b : Byte) (s : State) : Res :=
  .next (s.vWord { c := 1, z := false, need := true }
    (dstOk s.cg.n d.toNat 4 && srcOk s.cg.n a.toNat 1 && srcOk s.cg.n b.toNat 1) d.toNat false
    (fun x s => (s.updCur (fun g0 => (lanesOf x.act).foldl (fun g l =>
      let third := g0.vreg (d.toNat + 2) l
      let m := min (half third 0 + 1) (resCap third)
      g.offer d.toNat l m (g0.src a.toNat l) (g0.src b.toNat l) (g0.src x.c l)) g0)).nextWord))

/-- The weight of a merged reservoir: c × B.WSUM / B.PDF with one rounding, 0 when B.PDF is 0 (R150). -/
def mergeWeight (c sum pdf : Nat) : Nat :=
  if (fp32.decode pdf).isZero then 0
  else (fp32.round (((fp32.decode c).mul (fp32.decode sum)).div (fp32.decode pdf)) {}).1

/-- VRSVM (R150): B is read at issue. -/
def execVrsvm (d a b : Byte) (s : State) : Res :=
  .next (s.vWord { c := 1, z := false, need := true }
    (dstOk s.cg.n d.toNat 4 && srcOk s.cg.n a.toNat 4 && srcOk s.cg.n b.toNat 1) d.toNat false
    (fun x s => (s.updCur (fun g0 => (lanesOf x.act).foldl (fun g l =>
      let third := g0.vreg (d.toNat + 2) l
      let clampv := if g0.src b.toNat l = 0 then 65535 else (g0.src b.toNat l).toNat
      let bm := half (g0.src (a.toNat + 2) l) 0
      let m := min (half third 0 + min bm clampv) (resCap third)
      let w := mergeWeight (g0.src x.c l).toNat (g0.src (a.toNat + 1) l).toNat (g0.src (a.toNat + 3) l).toNat
      g.offer d.toNat l m (g0.src a.toNat l) (BitVec.ofNat 32 w) (g0.src x.c l)) g0)).nextWord))

end Sys2Proof.Machine
end

