-- ==== Sys2Proof/Machine/Uniform.lean ====
section
/-! DEFINITION. Machine/Uniform.lean: scalar arithmetic, lanes and masks from the uniform side, special registers
(R48 to R53, R151 to R159) and the change of a group's stamp (R245). -/
namespace Sys2Proof.Machine

/-! ### Scalar integer (R152 to R154) -/

/-- A UA integer word (R152). -/
def uBin (f : Word → Word → Word) (d a b : BitVec 6) : State → Res :=
  uOp true (fun g => g.setS d.toNat (f (g.sreg a.toNat) (g.sreg b.toNat)))
/-- A UB immediate word (R153). -/
def uImm (f : Word → Word) (d a : BitVec 6) : State → Res :=
  uOp true (fun g => g.setS d.toNat (f (g.sreg a.toNat)))

/-- SADD (R152). -/
def execSadd (d a b : BitVec 6) : State → Res := uBin (· + ·) d a b
/-- SSUB (R152). -/
def execSsub (d a b : BitVec 6) : State → Res := uBin (· - ·) d a b
/-- SMUL (R152). -/
def execSmul (d a b : BitVec 6) : State → Res := uBin (· * ·) d a b
/-- SMULH (R152). -/
def execSmulh (d a b : BitVec 6) : State → Res := uBin mulhS d a b
/-- SAND (R152). -/
def execSand (d a b : BitVec 6) : State → Res := uBin (· &&& ·) d a b
/-- SOR (R152). -/
def execSor (d a b : BitVec 6) : State → Res := uBin (· ||| ·) d a b
/-- SXOR (R152). -/
def execSxor (d a b : BitVec 6) : State → Res := uBin (· ^^^ ·) d a b
/-- SSHL (R121, R152). -/
def execSshl (d a b : BitVec 6) : State → Res := uBin shl d a b
/-- SSHR (R121, R152). -/
def execSshr (d a b : BitVec 6) : State → Res := uBin shr d a b
/-- SSAR (R121, R152). -/
def execSsar (d a b : BitVec 6) : State → Res := uBin sar d a b
/-- SMIN (R152). -/
def execSmin (d a b : BitVec 6) : State → Res := uBin minS d a b
/-- SMAX (R152). -/
def execSmax (d a b : BitVec 6) : State → Res := uBin maxS d a b
/-- SMINU (R152). -/
def execSminu (d a b : BitVec 6) : State → Res := uBin minU d a b
/-- SMAXU (R152). -/
def execSmaxu (d a b : BitVec 6) : State → Res := uBin maxU d a b
/-- SADDI (R153). -/
def execSaddi (d a : BitVec 6) (i : BitVec 12) : State → Res := uImm (· + i.signExtend 32) d a
/-- SANDI (R153). -/
def execSandi (d a : BitVec 6) (i : BitVec 12) : State → Res := uImm (· &&& i.setWidth 32) d a
/-- SORI (R153). -/
def execSori (d a : BitVec 6) (i : BitVec 12) : State → Res := uImm (· ||| i.setWidth 32) d a
/-- SXORI (R153). -/
def execSxori (d a : BitVec 6) (i : BitVec 12) : State → Res := uImm (· ^^^ i.setWidth 32) d a
/-- SSHLI (R153). -/
def execSshli (d a : BitVec 6) (i : BitVec 5) : State → Res := uImm (· <<< i.toNat) d a
/-- SSHRI (R153). -/
def execSshri (d a : BitVec 6) (i : BitVec 5) : State → Res := uImm (· >>> i.toNat) d a
/-- SMOVI (R153). -/
def execSmovi (d : BitVec 6) (i : BitVec 18) : State → Res := uOp true (fun g => g.setS d.toNat (i.signExtend 32))
/-- SLUI (R153): bits [13:0] of sd are kept. -/
def execSlui (d : BitVec 6) (i : BitVec 18) : State → Res :=
  uOp true (fun g => g.setS d.toNat (i ++ (g.sreg d.toNat).extractLsb' 0 14))

/-- SUN functions, as those of VIUN without saturation (R154). -/
def sunFn (f : SUnFn) (x : Word) : Word :=
  match f with
  | .mov => iun .mov false 0 x
  | .not => iun .not false 0 x
  | .neg => iun .neg false 0 x
  | .abs => iun .abs false 0 x
  | .popc => iun .popc false 0 x
  | .clz => iun .clz false 0 x
  | .ctz => iun .ctz false 0 x
  | .brev => iun .brev false 0 x

/-- SUN (R154). -/
def execSun (d a : BitVec 6) (f : SUnFn) : State → Res := uImm (sunFn f) d a
/-- SCMP (R154). -/
def execScmp (q : BitVec 2) (c : ICond) (a b : BitVec 6) : State → Res :=
  uOp true (fun g => g.setQ q.toNat (icond c (g.sreg a.toNat) (g.sreg b.toNat)))
/-- SSEL (R154). -/
def execSsel (d a b : BitVec 6) (q : BitVec 2) : State → Res :=
  uOp true (fun g => g.setS d.toNat (if g.qbit q.toNat then g.sreg a.toNat else g.sreg b.toNat))
/-- SADD64 (R154): a pair that runs past s63 traps ILLEGAL. -/
def execSadd64 (d a b : BitVec 6) : State → Res :=
  uOp (sspanOk d.toNat 2 && sspanOk a.toNat 2 && sspanOk b.toNat 2)
    (fun g => g.setSpair d.toNat (g.spair a.toNat + g.spair b.toNat))

/-! ### Scalar floating point (R155, R156) -/

/-- A scalar FP32 operation that rounds by the code in fn; a draw comes from the lowest lane of E (R155). Code 7 traps
ILLEGAL. -/
def uFloat (f : Bool → Group → Num) (d : BitVec 6) (m : BitVec 3) (s : State) : Res :=
  .next (s.uWord (decide (m.toNat ≠ 7)) (fun s =>
    let low := lowLane s.cw.en
    (s.updCur (fun g =>
      let r := fp32.round (f (decide (m.toNat = 4)) g) { mode := m.toNat, gen := (g.lane low).gen }
      (g.setS d.toNat (BitVec.ofNat 32 r.1)).setLane low { g.lane low with gen := r.2 })).nextWord))

/-- s-register as an exact FP32 value. -/
def Group.snum (g : Group) (i : BitVec 6) : Num := fp32.decode (g.sreg i.toNat).toNat

/-- SFADD (R155). -/
def execSfadd (d a b : BitVec 6) (m : BitVec 3) : State → Res := uFloat (fun r g => (g.snum a).add r (g.snum b)) d m
/-- SFMUL (R155). -/
def execSfmul (d a b : BitVec 6) (m : BitVec 3) : State → Res := uFloat (fun _ g => (g.snum a).mul (g.snum b)) d m
/-- SFFMA (R155): the addend sd is read at issue. -/
def execSffma (d a b : BitVec 6) (m : BitVec 3) : State → Res :=
  uFloat (fun r g => Num.fma r (g.snum a) (g.snum b) (g.snum d)) d m
/-- SFCMP (R155). -/
def execSfcmp (q : BitVec 2) (c : FCond) (a b : BitVec 6) : State → Res :=
  uOp true (fun g => g.setQ q.toNat (fcond c (g.sreg a.toNat).toNat (g.sreg b.toNat).toNat))

/-- SFUN functions; RCP is free within its bound (R156). -/
def sfunFn (f : SFunFn) (x : Word) (cand : Nat) : Word :=
  match f with
  | .mov => BitVec.ofNat 32 (funFn .mov x.toNat {}).1
  | .abs => BitVec.ofNat 32 (funFn .abs x.toNat {}).1
  | .neg => BitVec.ofNat 32 (funFn .neg x.toNat {}).1
  | .floor => BitVec.ofNat 32 (funFn .floor x.toNat {}).1
  | .ceil => BitVec.ofNat 32 (funFn .ceil x.toNat {}).1
  | .f2i => BitVec.ofInt 32 (toIntSat (fp32.decode x.toNat) (-(2 ^ 31)) (2 ^ 31 - 1) {}).1
  | .i2f => BitVec.ofNat 32 (fp32.round (.ofInt x.toInt) {}).1
  | .rcp => BitVec.ofNat 32 (fp32.round (xRcp (fp32.decode x.toNat) cand) {}).1
  | .sqrt => BitVec.ofNat 32 (fp32Sqrt (fp32.decode x.toNat) {}).1

/-- SFUN (R156). -/
def execSfun (d a : BitVec 6) (f : SFunFn) (s : State) : Res :=
  .next (s.uWord true (fun s =>
    let c := s.takeFree
    (c.2.updCur (fun g => g.setS d.toNat (sfunFn f (g.sreg a.toNat) c.1))).nextWord))

/-! ### Lanes and masks (R157, R158) -/

/-- SRDLANE (R157): 0 for a lane at or above the width. -/
def execSrdlane (v : Byte) (d : BitVec 6) (l : BitVec 5) (s : State) : Res :=
  uOp (dstOk s.cg.n v.toNat 1)
    (fun g => g.setS d.toNat (if l.toNat < g.width then g.vreg v.toNat l.toNat else 0)) s
/-- SWRLANE (R157): the lane may be in any state; no effect at or above the width. -/
def execSwrlane (v : Byte) (a : BitVec 6) (l : BitVec 5) (s : State) : Res :=
  uOp (dstOk s.cg.n v.toNat 1)
    (fun g => if l.toNat < g.width then g.setV v.toNat l.toNat (g.sreg a.toNat) else g) s
/-- SBALLOT (R158). -/
def execSballot (d : BitVec 6) (n : BitVec 3) (s : State) : Res :=
  uOp true (fun g => g.setS d.toNat (s.cw.en &&& g.kmask n.toNat)) s
/-- SKMOV to an s-register (R158): bits at or above the width are 0. -/
def execSkmov (d : BitVec 6) (n : BitVec 3) : State → Res :=
  uOp true (fun g => g.setS d.toNat (g.kmask n.toNat &&& lowLanes g.width))
/-- SKMOV to a k-register, in the lanes of E only (R158). -/
def execSkmovK (a : BitVec 6) (n : BitVec 3) (s : State) : Res :=
  uOp true (fun g => g.mergeK n.toNat s.cw.en (g.sreg a.toNat)) s
/-- The mask operations of SKOP (R158). -/
def kopFn (f : KOpFn) (x y : Mask) : Mask :=
  match f with
  | .and => x &&& y
  | .or => x ||| y
  | .xor => x ^^^ y
  | .andn => x &&& ~~~y
  | .not => ~~~x
/-- SKOP (R158). -/
def execSkop (d a b : BitVec 3) (f : KOpFn) (s : State) : Res :=
  uOp (decide (f ≠ .not) || decide (b = 0))
    (fun g => g.mergeK d.toNat s.cw.en (kopFn f (g.kmask a.toNat) (g.kmask b.toNat))) s
/-- SFIRST (R158): 32 when no lane of E has the bit. -/
def execSfirst (d : BitVec 6) (n : BitVec 3) (s : State) : Res :=
  uOp true (fun g => g.setS d.toNat (BitVec.ofNat 32 ((lanesOf (s.cw.en &&& g.kmask n.toNat)).headD 32))) s

/-! ### Special registers (R48 to R53, R159) -/

/-- The value SSPEC reads, and the group with the latch that the read sets. -/
def readSpecial (s : State) (g : Group) (w : Wave) (c : Nat) : Word × Group :=
  let nat := fun (n : Nat) => (BitVec.ofNat 32 n, g)
  let cyc := (s.core g.core).cycles
  match c with
  | 0 => nat g.gidx
  | 1 => nat g.tidx
  | 2 => nat g.cidx
  | 3 => nat g.rank
  | 4 => nat (g.core % 16)
  | 5 => nat (dieOf g.core + 2 * s.modIndex)
  | 6 => nat g.part
  | 7 => (w.lanes, g)
  | 8 => (g.live, g)
  | 9 => (BitVec.ofNat 32 cyc, { g with clockLatch := BitVec.ofNat 32 (cyc / 2 ^ 32) })
  | 10 => (g.clockLatch, g)
  | 11 => (BitVec.ofNat 32 s.ns, { g with nsLatch := BitVec.ofNat 32 (s.ns / 2 ^ 32) })
  | 12 => (g.nsLatch, g)
  | 13 => (g.stamp.extractLsb' 0 32, g)
  | 14 => (g.stamp.extractLsb' 32 32, g)
  | 15 => nat g.node
  | 16 => nat g.prio
  | 17 => nat (g.producer + if g.gidx = g.producer then 16 else 0)
  | 18 => (g.seq, g)
  | 19 => (g.status.setWidth 32, g)
  | 20 => nat (g.inlines.length + 16 * g.inlineLimit)
  | 21 => (g.busy, g.observeZero)
  | _ => (0, g)

/-- SSPEC (R159): codes from 22 trap ILLEGAL (R48). -/
def execSspec (d : BitVec 6) (c : BitVec 5) (s : State) : Res :=
  .next (s.uWord (decide (c.toNat < 22)) (fun s =>
    let r := readSpecial s s.cg s.cw c.toNat
    (s.updCur (fun _ => r.2.setS d.toNat r.1)).nextWord))

/-- A new stamp of the group (R245): +1 at the new one and −1 at the old one in one batch, the staging register
following. A new pointstamp that finds the Keeper's table full parks the wave (R332). -/
def State.newStamp (s : State) (t : DWord) : State :=
  let g := s.cg
  if !s.keeperRoom (dieOf g.core) g.ctx g.node t then s.park .keeper
  else
    let s := if 62 < (s.core g.core).deltas.length then s.flushDeltas g.core else s
    let s := s.count g.core g.ctx g.node t 1
    let s := s.count g.core g.ctx g.node g.stamp (-1)
    (s.updCur (fun g => { g with stamp := t, staging := t.extractLsb' 0 32 })).nextWord

/-- May STAMP SET change the current stamp to `t` (R245)? The depth stays, and no counter falls. A cast-off group holds
no count of its own and may not change its stamp (R329). -/
def stampSetOk (g : Group) (t : DWord) : Bool :=
  decide (g.origin ≠ .castoff) && stampOk t && stampLe g.stamp t

/-- SSPECW (R159): STAMPLO stages, STAMPHI commits by STAMP SET, PRIO can only fall, STATUS clears the bits written
as 1 (R51 to R53); every other register traps ILLEGAL. -/
def execSspecw (a : BitVec 6) (c : BitVec 5) (s : State) : Res :=
  let v := s.cg.sreg a.toNat
  let t := v ++ s.cg.staging
  let ok := match c.toNat with
    | 13 => true
    | 14 => stampSetOk s.cg t
    | 16 => true
    | 19 => true
    | _ => false
  .next (s.uWord ok (fun s =>
    match c.toNat with
    | 13 => (s.updCur (fun g => { g with staging := v })).nextWord
    | 14 => s.newStamp t
    | 16 => (s.updCur (fun g => { g with prio := min g.prio (v.toNat % 128) })).nextWord
    | _ => (s.updCur (fun g => g.clearStatus (v.extractLsb' 0 3) s.now)).nextWord))

end Sys2Proof.Machine
end

