-- ==== Sys2Proof/Machine/Control.lean ====
section
/-! DEFINITION. Machine/Control.lean: starting and ending clauses, waves and meeting points, pacing, the word traps and
the return from a trap (R75 to R92, R160 to R167, R267 to R279). -/
namespace Sys2Proof.Machine

/-! ### The header (R78) -/

/-- SEQ of a header. -/
def hdrSeq (h : DWord) : BitVec 4 := h.extractLsb' 24 4
/-- COND of a header. -/
def hdrCond (h : DWord) : Nat := (h.extractLsb' 28 4).toNat
/-- TGT of a header. -/
def hdrTgt (h : DWord) : BitVec 24 := h.extractLsb' 32 24
/-- NEG of a header. -/
def hdrNeg (h : DWord) : Bool := h.getLsbD 59
/-- Bytes of a clause (R75). -/
def clauseBytes (h : DWord) : Nat := 8 + 8 * ((hdrLen h + 1) / 2)

/-- A flag field that R78 allows. -/
def flagFieldOk (n : Nat) : Bool := decide (n < 12) || decide (n = 15)

/-- The header checks of R78 and R81: MARK, flags, SEQ with the bits of TGT it leaves unused, COND. -/
def headerOk (h : DWord) : Bool :=
  decide (h.extractLsb' 60 4 = 0b1010#4) && flagFieldOk (hdrFla h) && flagFieldOk (hdrFlb h)
    && decide (hdrCond h ≤ 12)
    && (match decodeSeq (hdrSeq h) (hdrTgt h) with
        | .ok (.jump _) => decide (8 ≤ hdrCond h)
        | .ok (.loop _ _) => decide (8 ≤ hdrCond h)
        | .ok _ => true
        | .error _ => false)

/-- The lanes of a wave where the condition of a header holds (R79 step 4). -/
def condLanes (g : Group) (h : DWord) (lanes : Mask) : Mask :=
  let c := hdrCond h
  let m : Mask := if c < 8 then g.kmask c else if c < 12 then (if g.qbit (c - 8) then 0xFFFFFFFF#32 else 0)
    else 0xFFFFFFFF#32
  lanes &&& (if hdrNeg h then ~~~m else m)

/-- A direct target: the clause address plus 8 × the signed offset (R83). -/
def directTarget {n : Nat} (addr : BitVec 52) (off : BitVec n) : BitVec 52 := addr + (off.signExtend 52 <<< 3)

/-! ### Lane private memory (R42, R431) -/

/-- First byte of a lane's private area (R431). -/
def State.privArea (s : State) (g : Group) (lane : Nat) : Nat :=
  let c := s.ctx g.ctx
  vaWrap (c.privBase + c.privSize * ((g.core * 64 + g.slot) * 32 + lane))

/-- Address of call stack entry `i` of a lane. -/
def State.stackVa (s : State) (g : Group) (lane i : Nat) : Nat := vaWrap (s.privArea g lane + 8 * i)

/-- Read a call stack entry of a lane on path L: 0 when it cannot be reached (log entry 71), and with the error that it raises
when it is poisoned (R464). -/
def State.stackRead (s : State) (gid lane i : Nat) : DWord × Option Trap × State :=
  let g := s.group gid
  let va := s.stackVa g lane i
  let r := s.reach g.core g.ctx (!g.sup) false .read va
  match r.1 with
  | .ok key =>
    let b := r.2.readThrough g.core .l1 key 8
    if b.2.poisoned key 8 then (0, some (b.2.poisonTrap va key (1#32 <<< lane)), b.2)
    else (BitVec.ofNat 64 (leNat b.1), none, b.2)
  | _ => (0, none, r.2)

/-- Push an entry: bits [51:3] of the address and the INLINE mark (R42). A slot that has ceased to be reachable since the start
check takes nothing (log entry 71). -/
def State.stackPush (s : State) (gid lane : Nat) (pc : BitVec 52) (mark : Bool) : State :=
  let g := s.group gid
  let l := g.lane lane
  let r := s.reach g.core g.ctx (!g.sup) false .write (s.stackVa g lane l.csp.toNat)
  let s := match r.1 with
    | .ok key => (r.2.drainH gid key).writeThrough g.core key (natLe 8 (pc.toNat + if mark then 1 else 0))
    | _ => r.2
  s.updGroup gid (fun g => g.setLane lane { g.lane lane with csp := l.csp + 1 })

/-- The completion of an inline task's part on a lane (R238): when its last lane has returned, its counter falls. -/
def State.inlineReturn (s : State) (gid lane : Nat) : State :=
  let g := s.group gid
  match g.inlines.findIdx? (fun x => inMask x.lanes lane) with
  | none => s
  | some i =>
    let x := g.inlines.getD i {}
    let left := x.lanes &&& ~~~(1#32 <<< lane)
    if left = 0#32 ∧ x.owed &&& g.live = 0#32 then
      (s.updGroup gid (fun g => { g with inlines := g.inlines.eraseIdx i })).dcDec (dieOf g.core) x.done
    else s.updGroup gid (fun g => { g with inlines := g.inlines.set i { x with lanes := left } })

/-- Pop a lane's stack: the address it held, and the lane with its pointer one lower. An entry that carries the
INLINE mark also ends the lane's part of the task. A poisoned entry reads as 0, and the group traps ECCPOISON (R464). -/
def State.stackPop (s : State) (gid lane : Nat) : BitVec 52 × State :=
  let l := (s.group gid).lane lane
  let r := s.stackRead gid lane (l.csp.toNat - 1)
  let e := r.1
  let s := r.2.2.updGroup gid (fun g =>
    { g with errors := g.errors ++ r.2.1.toList }.setLane lane { g.lane lane with csp := l.csp - 1 })
  ((e.extractLsb' 0 52) &&& ~~~7#52, if e.getLsbD 0 then s.inlineReturn gid lane else s)

/-- Does the top stack entry of a lane carry the INLINE mark (R238)? Only a group with inline tasks has one. -/
def State.inlineTop (s : State) (gid lane : Nat) : Bool × State :=
  let g := s.group gid
  let l := g.lane lane
  if g.inlines.isEmpty || decide (l.csp = 0) then (false, s)
  else
    let r := s.stackRead gid lane (l.csp.toNat - 1)
    (r.1.getLsbD 0, r.2.2)

/-! ### Start checks of the kind (R83, R84) -/

/-- A trap of kind S that names the clause (R163). -/
def startTrap (cause : Nat) (addr : BitVec 52) (detail : Nat) (lanes : Mask) : Trap :=
  { cause := cause, kind := 1, addr := addr.setWidth 64, detail := BitVec.ofNat 64 detail, lanes := lanes }

/-- A trap of kind S with the address of the lowest faulting lane; `replica` marks a write to a replica page (R416). -/
def startAddrTrap (cause va path : Nat) (write : Bool) (lanes : Mask) (replica : Bool := false) : Trap :=
  { cause := cause, kind := 1, addr := BitVec.ofNat 64 va
    detail := BitVec.ofNat 64 (addrDetail 0 path write 0 replica), lanes := lanes }

/-- Indirect targets of the lanes of E, from the pair that the operand names (R83). -/
def indTargets (g : Group) (op : Nat) (en : Mask) : Tab Nat :=
  (lanesOf en).foldl (fun t l => tset t l (g.src64 op l).toNat) []

/-- The first lane for which `p` holds, with all of them as a mask. -/
def faulting (en : Mask) (p : Nat → Bool) : Option (Nat × Mask) :=
  let m := maskOf (fun l => inMask en l && p l)
  if m = 0#32 then none else some (lowLane m, m)

/-- A lane whose stack slot cannot be used: the cause, the address, and the mark of a replica page. -/
structure SlotFault where
  lane : Nat := 0
  cause : Nat := 0
  va : Nat := 0
  replica : Bool := false
  deriving DecidableEq, Repr

/-- The stack slots that lanes will write or read are translated (R84): the lanes whose slot cannot be used. It is a look:
A and D are set when the push or pop performs (R79, R412). -/
def State.slotFaults (s : State) (gid : Nat) (push : Bool) : List Nat → List SlotFault × State
  | [] => ([], s)
  | l :: ls =>
    let g := s.group gid
    let i := (g.lane l).csp.toNat
    let va := s.stackVa g l (if push then i else i - 1)
    let r := s.reach g.core g.ctx (!g.sup) false (if push then .write else .read) va true
    let q := r.2.slotFaults gid push ls
    match r.1 with
    | .ok _ => q
    | .access => ({ lane := l, cause := cACCESS, va := va } :: q.1, q.2)
    | .absent rep => ({ lane := l, cause := cABSENT, va := va, replica := rep } :: q.1, q.2)

/-- The trap that a lane-path access would take (R84, R180): ACCESS before ABSENT, with the address of the lowest lane that
fails so and the lanes that do (R163). -/
def State.slotCheck (s : State) (gid : Nat) (push : Bool) (ls : List Nat) : Option Trap × State :=
  let r := s.slotFaults gid push ls
  let first := (r.1.find? (fun e => decide (e.cause = cACCESS))).or r.1.head?
  (first.map (fun f => startAddrTrap f.cause f.va pathL push
    (maskOf (fun l => r.1.any (fun e => decide (e.lane = l) && decide (e.cause = f.cause)))) f.replica), r.2)

/-- The start checks of a clause's kind for the lanes of E: the trap, if one is due, and the indirect targets. A trap of
kind S names the lanes of the clause, which are those of E (R163, log entry 48). -/
def State.kindChecks (s : State) (gid : Nat) (addr : BitVec 52) (h : DWord) (en : Mask) :
    Option Trap × Tab Nat × State :=
  let g := s.group gid
  let depth := fun (push : Bool) =>
    match faulting en (fun l => if push then decide ((g.lane l).csp.toNat = g.callLimit) else decide ((g.lane l).csp = 0)) with
    | some _ => (some (startTrap 0x09 addr (g.callLimit + if push then 64 else 0) en), s)
    | none =>
      let r := s.slotCheck gid push (lanesOf en)
      (r.1.map (fun (t : Trap) => { t with lanes := en }), r.2)
  let indirect := fun (op : BitVec 8) =>
    let t := indTargets g op.toNat en
    match faulting en (fun l => decide (tget t l 0 % 8 ≠ 0)) with
    | some (l, _) => (some (startAddrTrap cALIGN (tget t l 0) pathS false en), t)
    | none =>
      match faulting en (fun l => decide (2 ^ 52 ≤ tget t l 0)) with
      | some (l, _) => (some (startAddrTrap cACCESS (tget t l 0) pathS false en), t)
      | none => (none, t)
  match decodeSeq (hdrSeq h) (hdrTgt h) with
  | .ok (.call _) => let r := depth true; (r.1, [], r.2)
  | .ok .ret => let r := depth false; (r.1, [], r.2)
  | .ok (.calli op) =>
    let t := indirect op
    match t.1 with
    | some x => (some x, t.2, s)
    | none => let r := depth true; (r.1, t.2, r.2)
  | .ok (.jumpi op) => let t := indirect op; (t.1, t.2, s)
  | _ => (none, [], s)

/-- The checks for lanes that resume inside a clause or are sent to its end by TRET.SKIP: those of CALL, CALLI and RET
(R167). Under JUMPI the lanes read their target pair again, of which the bits that an address has are used (log entry 7). -/
def State.resumeChecks (s : State) (gid : Nat) (addr : BitVec 52) (h : DWord) (en : Mask) :
    Option Trap × Tab Nat × State :=
  match decodeSeq (hdrSeq h) (hdrTgt h) with
  | .ok (.jumpi op) => (none, (indTargets (s.group gid) op.toNat en).map (fun e => (e.1, e.2 % 2 ^ 52 / 8 * 8)), s)
  | _ => s.kindChecks gid addr h en

/-- Does the operand field of CALLI and JUMPI decode under R28 and R29? -/
def indOk (h : DWord) (n : Nat) : Bool :=
  match decodeSeq (hdrSeq h) (hdrTgt h) with
  | .ok (.calli op) => srcOk n op.toNat 2
  | .ok (.jumpi op) => srcOk n op.toNat 2
  | _ => true

/-! ### Fetching a clause (R76, R77) -/

/-- Fetch `n` bytes of a clause, a read on path S (R77), through the core's path S translations (R410) and the clause
fetch buffer; the trap cause when a page does not allow it, and the VA and key of a poisoned atom that was read (R464). Each page
that it has reached has A set, though a later check traps (log entry 72). -/
def State.fetchBytes (s : State) (core ctx : Nat) (user : Bool) (va n : Nat) :
    Except Nat (List Byte × Option (Nat × Nat)) × State :=
  let r := s.reach core ctx user true .fetch va
  match r.1 with
  | .access => (.error cACCESS, r.2)
  | .absent _ => (.error cABSENT, r.2)
  | .ok key =>
    let b := r.2.readShown core .fetch key n
    (.ok (b.1, if b.2.poisoned key n then some (va, key) else none), b.2)

/-- Fetch the eight-byte units of a clause from `va`. -/
def State.fetchUnits (s : State) (core ctx : Nat) (user : Bool) (va : Nat) :
    Nat → Except Nat (List Byte × Option (Nat × Nat)) × State
  | 0 => (.ok ([], none), s)
  | n + 1 =>
    let r := s.fetchBytes core ctx user (vaWrap va) 8
    match r.1 with
    | .error e => (.error e, r.2)
    | .ok (b, p) =>
      let q := r.2.fetchUnits core ctx user (va + 8) n
      match q.1 with
      | .error e => (.error e, q.2)
      | .ok (c, p') => (.ok (b ++ c, p.or p'), q.2)

/-- The 32-bit words that bytes hold (R3, R75). -/
def wordsOf : List Byte → List Word
  | a :: b :: c :: d :: t => (d ++ c ++ b ++ a) :: wordsOf t
  | _ => []

/-- A clause as fetched: its header and its words, the pad word included. -/
def State.fetchClause (s : State) (core ctx : Nat) (user : Bool) (pc : BitVec 52) :
    Except Nat (DWord × List Word × Option (Nat × Nat)) × State :=
  let r := s.fetchUnits core ctx user pc.toNat 1
  match r.1 with
  | .error e => (.error e, r.2)
  | .ok (hb, p) =>
    let h := BitVec.ofNat 64 (leNat hb)
    let q := r.2.fetchUnits core ctx user (pc.toNat + 8) ((hdrLen h + 1) / 2)
    match q.1 with
    | .error e => (.error e, q.2)
    | .ok (b, p') => (.ok (h, wordsOf b, p.or p'), q.2)

/-! ### Starting a clause (R79) -/

/-- The inline task that lanes had waiting for the end of the clause when a trap stopped them (R238). When they come back
in parts, each part's task names the lanes that are still to come. -/
def Group.heldInline (g : Group) (addr : BitVec 52) (lanes : Mask) : Option InlineTask × Group :=
  match g.inlHeld.findIdx? (fun e => decide (e.2.1 = addr) && decide (e.1 &&& lanes ≠ 0#32)) with
  | none => (none, g)
  | some i =>
    let e := g.inlHeld.getD i (0, 0, {})
    let left := e.1 &&& ~~~lanes &&& g.live
    (some { e.2.2 with owed := left },
      if left = 0#32 then { g with inlHeld := g.inlHeld.eraseIdx i } else { g with inlHeld := g.inlHeld.set i (left, e.2) })

/-- Steps 4 to 6 of R79 for the current wave with its clause latched: sample the condition, make the start checks of
the kind, and begin the body. A resumed wave counts as enabled and takes up at its index (R167). The registers that the condition
and the targets come from are read once the flags of WAIT have been observed (R39). -/
def State.beginBody (s : State) : State :=
  let w := s.cw
  let gid := s.curGroup
  let base := if w.resumed then s.cg else s.cg.observeWait w.hdr
  let v := s.lateView gid base
  let en := if w.resumed then w.lanes else condLanes v.1 w.hdr w.lanes
  let k := if w.resumed then v.2.resumeChecks gid w.addr w.hdr en else v.2.kindChecks gid w.addr w.hdr en
  let s := k.2.2.lateDone gid base
  match k.1 with
  | some t => s.trapStart t
  | none =>
    let start := if w.resumed then (s.cg.lane (lowLane w.lanes)).rwi.toNat else 0
    s.updCur (fun g =>
      let g := if w.resumed then g else g.observeWait w.hdr
      let g := { g with issuePrio := g.prio }
      let inl := if w.resumed then g.heldInline w.addr en else (none, g)
      let g := inl.2
      let lanes := (lanesOf w.lanes).foldl (fun v l => vecSet v l { (vecGet v l ({} : Lane)) with rwi := 0 }) g.lanes
      { g with lanes := lanes }.setWave s.curWave { w with
        en := en, idx := start, pfx := none, ind := k.2.1, phase := .body, resumed := false, inl := inl.1 })

/-- The lanes of a mask that step 1 of R79 holds: those whose MR equals the clause address (R270). -/
def Group.meetLanes (g : Group) (lanes : Mask) (pc : BitVec 52) : Mask :=
  maskOf (fun l => inMask lanes l && decide ((g.lane l).mr = some pc))

/-- Lanes of the waves that are held at an address. -/
def Group.heldAt (g : Group) (pc : BitVec 52) : Mask :=
  g.waves.foldl (fun m e =>
    if e.2.phase = .held ∧ (g.lane (lowLane e.2.lanes)).pc = pc then m ||| e.2.lanes else m) 0

/-- The waiting set of an address is to be released: waves are held there, and with them every live lane whose MR it is
(R272). -/
def Group.releaseDue (g : Group) (pc : BitVec 52) : Bool :=
  let held := g.heldAt pc
  decide (held ≠ 0#32) && decide (g.meetLanes g.live pc &&& ~~~held = 0#32)

/-- The release of a waiting set (R272): MR of each of its lanes becomes none, the lanes form one wave, and it continues at
step 2 of R79. A lane that was held with its wave though its own MR is another keeps that (log entry 26). -/
def State.releaseMeet (s : State) (gid : Nat) (pc : BitVec 52) : State :=
  let g := s.group gid
  if !g.releaseDue pc || g.entering.isSome then s
  else
    let held := g.heldAt pc
    let now := (s.core g.core).cycles
    let lanes := (lanesOf held).foldl (fun v l =>
      let x := vecGet v l ({} : Lane)
      vecSet v l (if x.mr = some pc then { x with mr := none } else x)) g.lanes
    let ws := g.waves.filter (fun e => e.2.lanes &&& held = 0#32)
    s.setGroup gid { g with
      lanes := lanes, waves := tset ws (lowLane held) { lanes := held, phase := .start, readyAt := now } }

/-- Every release that is due in a group: the test is made whenever a lane is held, a lane's MR changes, or a lane stops
being live (R272). -/
def State.releaseMeets (s : State) (gid : Nat) : State :=
  (s.group gid).waves.foldl (fun s e =>
    if e.2.phase = .held then s.releaseMeet gid ((s.group gid).lane (lowLane e.2.lanes)).pc else s) s

/-- A held wave that no lane's MR holds any more is ready again (R271): it goes back to its start. -/
def Group.recheckHeld (g : Group) (now : Nat) : Group :=
  { g with waves := g.waves.map (fun e =>
      if e.2.phase = .held && decide (g.meetLanes e.2.lanes (g.lane (lowLane e.2.lanes)).pc = 0#32) then
        (e.1, { e.2 with phase := .start, readyAt := now, promoted := false })
      else e) }

/-- Fetch and check the clause at the wave's PC, and wait for its flags or begin its body (R79 steps 2 and 3). Where that fails, lanes
that resume keep their index, and poison met in a handler is a double trap (log entry 72). -/
def State.fetchAndStart (s : State) : State :=
  let g := s.cg
  let w := s.cw
  let pc := (g.lane (lowLane w.lanes)).pc
  let r := s.fetchClause g.core g.ctx (!g.sup) pc
  let s := r.2.updWave (fun w => { w with addr := pc })
  match r.1 with
  | .error cause => s.trapStart (startAddrTrap cause pc.toNat pathS false w.lanes)
  | .ok (h, ws, bad) =>
    match bad with
    | some (va, key) => s.trapStart (s.poisonTrap va key w.lanes)
    | none =>
      let pad := ws.getD (hdrLen h) 0
      if !headerOk h || pad ≠ 0#32 || !indOk h g.n then
        s.trapStart (startTrap 0x01 pc ((h.extractLsb' 0 32).toNat + 2 ^ 36) w.lanes)
      else
        let s := s.updWave (fun w => { w with hdr := h, words := ws.take (hdrLen h) })
        if w.resumed || g.waitDone h then s.beginBody else s.updWave (fun w => { w with phase := .waiting })

/-- A look at the key that a group's access to an address would reach; it changes nothing. -/
def State.peekKey (s : State) (gid : Nat) (sampler : Bool) (want : Want) (va : Nat) : Option Nat :=
  let g := s.group gid
  match (s.reach g.core g.ctx (!g.sup) sampler want va true).1 with
  | .ok key => some key
  | _ => none

/-- Is an address of a group on a host or peer page, so that an access to it is on path H (R283)? -/
def State.peekH (s : State) (gid : Nat) (sampler : Bool) (want : Want) (va : Nat) : Bool :=
  (s.peekKey gid sampler want va).any keyH

/-- A clause cannot be fetched yet: an earlier acquire of the group has not performed, or a FENCE that names the path of the
fetch, S or for a host or peer page H, has not completed (R283, R288 rows 4 and 6, R292, R293). -/
def State.fetchWaits (s : State) (gid pc : Nat) : Bool :=
  let g := s.group gid
  g.acquiring || (if g.fencing pathS || g.fencing pathH then
    (if s.peekH gid true .fetch pc then g.fencing pathH else g.fencing pathS) else false)

/-- CLAUSE_START (R75 to R80, R83, R84, R270): the wave of the turn starts its clause. A wave of which any lane is at its
meeting point is held, with all its lanes (R268, log entry 26); a wave that waits begins once its flags read zero. -/
def execClauseStart (s : State) : Res :=
  let g := s.cg
  let w := s.cw
  match w.phase with
  | .waiting => if g.waitDone w.hdr then finish s.beginBody else .next s
  | .waited => finish s.beginBody
  | .start =>
    if w.lanes = 0#32 then .next s
    else
      let pc := (g.lane (lowLane w.lanes)).pc
      let held := if w.resumed || w.freed then 0 else g.meetLanes w.lanes pc
      if held ≠ 0#32 then .next ((s.updWave (fun w => { w with phase := .held })).releaseMeets s.curGroup)
      else if s.fetchWaits s.curGroup pc.toNat then .next s
      else finish s.fetchAndStart
  | _ => .next s

/-! ### Forming waves (R268) -/

/-- Lanes of a mask grouped by a key, each group in ascending order of its lowest lane. -/
def groupLanes {κ : Type} [DecidableEq κ] (key : Nat → κ) (m : Mask) : List Mask :=
  (lanesOf m).foldl (fun (acc : List (κ × Mask)) l =>
    match acc.findIdx? (fun e => decide (e.1 = key l)) with
    | some i => acc.set i (key l, (acc.getD i (key l, 0)).2 ||| (1#32 <<< l))
    | none => acc ++ [(key l, 1#32 <<< l)]) [] |>.map (·.2)

/-- Replace a wave by the waves its live lanes form, one for each PC (R268). They go on being ready since the wave was;
after a YIELD their ready time is its cycle (R278, R279). -/
def State.reform (s : State) (gid wid : Nat) (lanes : Mask) (readyAt : Nat) (barred : List (Nat × Nat)) : State :=
  s.updGroup gid (fun g =>
    let live := lanes &&& g.live
    let phase := if g.entering.isSome then Phase.stopped else Phase.start
    let ws := (groupLanes (fun l => (g.lane l).pc) live).foldl
      (fun t m => tset t (lowLane m) { lanes := m, phase := phase, readyAt := readyAt, barred := barred }) (tdel g.waves wid)
    { g with waves := ws })

/-- Send lanes to an address. -/
def Group.sendLanes (g : Group) (m : Mask) (pc : BitVec 52) : Group :=
  (lanesOf m).foldl (fun g l => g.setLane l { g.lane l with pc := pc, rwi := 0 }) g

/-- A lane stops being live, with what it owes if it was spawned (R43, R240). -/
def State.exitLane (s : State) (gid lane : Nat) : State :=
  (s.spawnExit gid lane).updGroup gid (fun g => { g with live := g.live &&& ~~~(1#32 <<< lane) })

/-- A group whose last live lane has exited waits for its operations (R85). -/
def State.checkExit (s : State) (gid : Nat) : State :=
  s.updGroup gid (fun g => if g.live = 0#32 ∧ !g.exiting then { g with exiting := true, waves := [], entering := none } else g)

/-! ### Clause ends (R81 to R85) -/

/-- What ends a clause: its address, header, lanes, enabled lanes and indirect targets. -/
structure EndIn where
  gid : Nat
  addr : BitVec 52
  hdr : DWord
  lanes : Mask
  en : Mask
  ind : Tab Nat
  deriving DecidableEq, Repr

/-- Every lane moves to seq but those of E, which move as `f` says (R81). -/
def State.endWith (s : State) (e : EndIn) (f : State → State) : State :=
  f (s.updGroup e.gid (fun g => g.sendLanes (e.lanes &&& ~~~e.en) (seqOf e.addr e.hdr)))

/-- Lanes of E to seq. -/
def endNext (e : EndIn) (s : State) : State :=
  s.endWith e (fun s => s.updGroup e.gid (fun g => g.sendLanes e.en (seqOf e.addr e.hdr)))
/-- Lanes of E to the direct target: JUMP and BRANCH. -/
def endDirect (off : BitVec 24) (e : EndIn) (s : State) : State :=
  s.endWith e (fun s => s.updGroup e.gid (fun g => g.sendLanes e.en (directTarget e.addr off)))
/-- LOOP (R82): the counter falls once for the wave, and every live lane moves alike. -/
def endLoop (c : BitVec 6) (off : BitVec 18) (e : EndIn) (s : State) : State :=
  if e.en = 0#32 then s.updGroup e.gid (fun g => g.sendLanes e.lanes (seqOf e.addr e.hdr))
  else s.updGroup e.gid (fun g =>
    let n := g.sreg c.toNat - 1
    (g.setS c.toNat n).sendLanes e.lanes (if n ≠ 0#32 then directTarget e.addr off else seqOf e.addr e.hdr))
/-- Push seq in every lane of E (R84). -/
def pushSeq (e : EndIn) (s : State) : State :=
  (lanesOf e.en).foldl (fun s l => s.stackPush e.gid l (seqOf e.addr e.hdr) false) s
/-- CALL. -/
def endCall (off : BitVec 24) (e : EndIn) (s : State) : State :=
  s.endWith e (fun s => (pushSeq e s).updGroup e.gid (fun g => g.sendLanes e.en (directTarget e.addr off)))
/-- Lanes of E to their indirect targets. -/
def endIndirect (e : EndIn) (s : State) : State :=
  s.endWith e (fun s => s.updGroup e.gid (fun g =>
    (lanesOf e.en).foldl (fun g l => g.sendLanes (1#32 <<< l) (BitVec.ofNat 52 (tget e.ind l 0))) g))
/-- CALLI. -/
def endCalli (e : EndIn) (s : State) : State := endIndirect e (pushSeq e s)
/-- RET: each lane of E pops. -/
def endRet (e : EndIn) (s : State) : State :=
  s.endWith e (fun s => (lanesOf e.en).foldl (fun s l =>
    let r := s.stackPop e.gid l
    r.2.updGroup e.gid (fun g => g.sendLanes (1#32 <<< l) r.1)) s)
/-- MEET: MR of each lane of E, then seq. -/
def endMeet (off : BitVec 24) (e : EndIn) (s : State) : State :=
  s.endWith e (fun s => s.updGroup e.gid (fun g =>
    (lanesOf e.en).foldl (fun g l => g.setLane l { g.lane l with mr := some (directTarget e.addr off) })
      (g.sendLanes e.en (seqOf e.addr e.hdr))))
/-- EXIT: each lane of E stops being live, or returns from an inline task (R238). -/
def endExit (e : EndIn) (s : State) : State :=
  s.endWith e (fun s => (lanesOf e.en).foldl (fun s l =>
    let t := s.inlineTop e.gid l
    if t.1 then
      let r := t.2.stackPop e.gid l
      r.2.updGroup e.gid (fun g => g.sendLanes (1#32 <<< l) r.1)
    else t.2.exitLane e.gid l) s)

/-- A wave that is in none of the states of R275 but ready. -/
def Wave.isReady (w : Wave) : Bool :=
  match w.phase with
  | .start | .waited | .body => !w.stalled
  | _ => false

/-- Waves other than this one that are ready at its priority on its partition (R279). -/
def State.readyPeers (s : State) (gid wid : Nat) : List (Nat × Nat) :=
  let g := s.group gid
  s.groups.flatMap (fun e =>
    if e.2.core = g.core ∧ e.2.part = g.part ∧ e.2.issuePrio = g.issuePrio then
      e.2.waves.filterMap (fun w => if w.2.isReady && decide ((e.1, w.1) ≠ (gid, wid)) then some (e.1, w.1) else none)
    else [])

/-- The end step of a clause's kind for given lanes (R81); TRAPIF's trap and the bar of YIELD are the wave's. -/
def endKind (i : Instr) (e : EndIn) (s : State) : State :=
  match i with
  | .jump off => endDirect off e s
  | .branch off => endDirect off e s
  | .loop c off => endLoop c off e s
  | .call off => endCall off e s
  | .calli _ => endCalli e s
  | .ret => endRet e s
  | .jumpi _ => endIndirect e s
  | .meet off => endMeet off e s
  | .exit => endExit e s
  | _ => endNext e s

/-- A task that the clause ran inline starts after the clause has sequenced (R238): each lane of E pushes its new PC
with the mark and goes to the entry; s0–s9 take the payload; the depth rises. Lanes that a trap took apart from the others of
the task join it without a new entry (log entry 68). -/
def State.startInline (s : State) (gid : Nat) (en : Mask) (t : InlineTask) : State :=
  let en := en &&& (s.group gid).live
  let s := (lanesOf en).foldl (fun s l => s.stackPush gid l ((s.group gid).lane l).pc true) s
  s.updGroup gid (fun g =>
    match g.inlines.findIdx? (fun x => decide (x.owed &&& en ≠ 0#32)) with
    | some i =>
      let x := g.inlines.getD i {}
      { g with inlines := g.inlines.set i { x with lanes := x.lanes ||| en, owed := t.owed } }.sendLanes en t.entry
    | none =>
      let g := (List.range 10).foldl (fun g i => g.setS i (t.payload.getD i 0)) g
      { g with inlines := { lanes := en, done := t.done, owed := t.owed } :: g.inlines }.sendLanes en t.entry)

/-- Does a clause push or pop for its enabled lanes at its end, or may it (R84, R238)? -/
def endsOnStack (g : Group) (w : Wave) : Bool :=
  decide (w.en ≠ 0#32) && (w.inl.isSome || (match decodeSeq (hdrSeq w.hdr) (hdrTgt w.hdr) with
    | .ok (.call _) | .ok (.calli _) | .ok .ret => true
    | .ok .exit => !g.inlines.isEmpty
    | _ => false))

/-- Accesses of the group that its next push or pop comes after: those on path L (R84, R288 row 1), a pending acquire, a
FENCE that names path L (R292, R293). -/
def Group.stackWaits (g : Group) : Bool :=
  g.acquiring || g.fencing pathL || g.ops.any (fun o => o.onPath pathL && !readsAtWill o.instr && o.stacked)

/-- The accesses of a clause's body, which its push or pop comes after whatever their path (R84). -/
def Group.bodyWaits (g : Group) (wid : Nat) (addr : BitVec 52) : Bool :=
  g.ops.any (fun o => decide (o.wid = wid) && decide (o.clause = addr) && !o.stopped && ((instrPath o.instr).isSome || spills o.instr))

/-- Do the slots that lanes push to or pop from lie on host or peer pages behind what path H has pending: a write of the group
or a FENCE that names H (R283, R288 rows 3 and 6)? -/
def State.stackWaitsH (s : State) (gid : Nat) (ls : List Nat) : Bool :=
  let g := s.group gid
  (g.fencing pathH || g.ops.any (·.hWrites)) && ls.any (fun l =>
    let i := (g.lane l).csp.toNat
    s.peekH gid false .write (s.stackVa g l i) || s.peekH gid false .read (s.stackVa g l (i - 1)))

/-- A clause whose end waits: for operations charged to flag "none" (R79 step 7), for the accesses that its pushes and pops
come after, and at the EXIT of a spawned lane for the accesses that it releases before its counts fall (R299). -/
def State.endWaits (s : State) (gid wid : Nat) : Bool :=
  let g := s.group gid
  let w := g.wave wid
  g.undrained wid
    || (endsOnStack g w && (g.stackWaits || g.bodyWaits wid w.addr || s.stackWaitsH gid (lanesOf w.en)))
    || (decide (hdrSeq w.hdr = 9#4) && !g.sup && (lanesOf w.en).any (fun l => (tget? g.spawns l).isSome)
        && g.ops.any (fun o => !o.pas.isEmpty || o.onPath pathL))

/-- A clause end of the current wave: wait (R79 step 7), sequence, start an inline task, form the new waves, make the
releases that are due, and report what waits at the boundary. A YIELD gives the waves that it waits for. -/
def State.clauseEnd (s : State) (f : EndIn → State → State) (yield : Option (List (Nat × Nat))) (after : State → State) :
    State :=
  let gid := s.curGroup
  let w := s.cw
  if s.endWaits gid s.curWave then s.updWave (fun w => { w with phase := .draining })
  else
    let e : EndIn := { gid := gid, addr := w.addr, hdr := w.hdr, lanes := w.lanes, en := w.en, ind := w.ind }
    let s := s.updCur (fun g => g.observeNone s.curWave)
    let s := f e s
    let s := match w.inl with
      | some t => s.startInline gid w.en t
      | none => s
    let s := s.reform gid s.curWave w.lanes (if yield.isSome then s.now else w.readyAt) (yield.getD [])
    let s := (s.checkExit gid).releaseMeets gid
    ((after s).settle gid).report gid

/-- NEXT (R81). -/
def execNext (s : State) : Res := finish (s.clauseEnd (endKind .next) none id)
/-- JUMP (R81, R83). -/
def execJump (off : BitVec 24) (s : State) : Res := finish (s.clauseEnd (endKind (.jump off)) none id)
/-- BRANCH (R81, R83). -/
def execBranch (off : BitVec 24) (s : State) : Res := finish (s.clauseEnd (endKind (.branch off)) none id)
/-- LOOP (R82). -/
def execLoop (c : BitVec 6) (off : BitVec 18) (s : State) : Res := finish (s.clauseEnd (endKind (.loop c off)) none id)
/-- CALL (R84). -/
def execCall (off : BitVec 24) (s : State) : Res := finish (s.clauseEnd (endKind (.call off)) none id)
/-- CALLI (R83, R84). -/
def execCalli (op : BitVec 8) (s : State) : Res := finish (s.clauseEnd (endKind (.calli op)) none id)
/-- RET (R84). -/
def execRet (s : State) : Res := finish (s.clauseEnd (endKind .ret) none id)
/-- JUMPI (R83). -/
def execJumpi (op : BitVec 8) (s : State) : Res := finish (s.clauseEnd (endKind (.jumpi op)) none id)
/-- MEET (R81, R270). -/
def execMeet (off : BitVec 24) (s : State) : Res := finish (s.clauseEnd (endKind (.meet off)) none id)

/-- EXIT (R43, R85). In a handler it is the vacate ending of the PREEMPT routine when E holds every live lane, and a
double trap otherwise (R434). -/
def execExit (s : State) : Res :=
  let g := s.cg
  if g.sup then
    if s.cg.undrained s.curWave then .next (s.updWave (fun w => { w with phase := .draining }))
    else if g.tcause = 0x0B ∧ g.live &&& ~~~s.cw.en = 0#32 then
      .next ((s.updWave (fun w => { w with phase := .vacating })).updCur (fun g => { g with vacate := max g.vacate 1 }))
    else finish (s.haltGroup s.curGroup 0xFF s.cw.addr)
  else finish (s.clauseEnd (endKind .exit) none id)

/-- YIELD (R279): with E not empty the wave goes behind the ready waves of its priority. -/
def execYield (s : State) : Res :=
  let peers := if s.cw.en = 0#32 then none else some (s.readyPeers s.curGroup s.curWave)
  finish (s.clauseEnd (endKind .yield) peers id)

/-- The SWTRAP of a TRAPIF clause (R81, R163). -/
def trapifTrap (addr : BitVec 52) (code : BitVec 8) (lanes : Mask) : Trap :=
  { cause := 0x0A, kind := 2, addr := addr.setWidth 64, detail := code.setWidth 64, lanes := lanes }

/-- TRAPIF (R81): once every lane has moved, the group traps SWTRAP if E is not empty; in a handler that is a double
trap (R166). -/
def execTrapif (code : BitVec 8) (s : State) : Res :=
  let w := s.cw
  let gid := s.curGroup
  finish (s.clauseEnd (endKind (.trapif code)) none (fun s =>
    if w.en = 0#32 then s
    else if (s.group gid).sup then s.haltGroup gid 0xFF w.addr
    else s.beginTrap gid (trapifTrap w.addr code w.en)))

/-! ### Meeting release, promotion, pacing -/

/-- MEETING_RELEASE (R272): the release of a waiting set that is due. Every step that can make one due makes it by itself;
the step is also one of the device. -/
def execMeetingRelease (gid : Nat) (pc : BitVec 52) (s : State) : Res := .next (s.releaseMeet gid pc)

/-- SETMR with a pair (R160): alignment and range are checked before any lane is written. -/
def execSetmr (a : BitVec 6) (s : State) : Res :=
  let v := (s.cg.spair a.toNat).toNat
  .next (s.uWord (sspanOk a.toNat 2) (fun s =>
    let en := s.cw.en
    if v % 8 ≠ 0 then s.addrTrap cALIGN v pathS false 0 en
    else if 2 ^ 52 ≤ v then s.addrTrap cACCESS v pathS false 0 en
    else ((s.updCur (fun g => ((lanesOf en).foldl
      (fun g l => g.setLane l { g.lane l with mr := some (BitVec.ofNat 52 v) }) g).recheckHeld s.now)).releaseMeets s.curGroup).nextWord))

/-- SETMR none (R160). -/
def execSetmrNone (s : State) : Res :=
  .next (s.uWord true (fun s =>
    let en := s.cw.en
    ((s.updCur (fun g => ((lanesOf en).foldl
      (fun g l => g.setLane l { g.lane l with mr := none }) g).recheckHeld s.now)).releaseMeets s.curGroup).nextWord))

/-- Sleep for `n` cycles of the delivered clock, then go on with the next word; a group-wide trap whose entry is under way
ends the sleep at once (R161). -/
def State.sleepFor (s : State) (n : Nat) : State :=
  let till := (s.core s.cg.core).cycles + n
  let s := s.nextWord
  if n = 0 ∨ s.cg.entering.isSome then s else s.updWave (fun w => { w with phase := .sleeping till })

/-- SLEEP with an immediate (R161). -/
def execSleep (i : BitVec 11) (s : State) : Res := .next (s.uWord true (fun s => s.sleepFor i.toNat))
/-- SLEEP with a register (R161). -/
def execSleepReg (a : BitVec 6) (s : State) : Res :=
  .next (s.uWord true (fun s => s.sleepFor (s.cg.sreg a.toNat).toNat))

/-- SLEEP_EXPIRY (R161, R275): N cycles have passed, and the wave is ready. -/
def execSleepExpiry (gid wid : Nat) (s : State) : Res :=
  let g := s.group gid
  let now := (s.core g.core).cycles
  match (g.wave wid).phase with
  | .sleeping till =>
    if till ≤ now then
      .next (s.setGroup gid (g.setWave wid { g.wave wid with phase := .body, readyAt := now, promoted := false }))
    else .next s
  | _ => .next s

/-- WAVE_PROMOTION (R276, R278, R279): a wave ready for 1024 cycles without issuing is promoted, and a YIELD no longer
bars it. -/
def execWavePromotion (gid wid : Nat) (s : State) : Res :=
  let g := s.group gid
  let w := g.wave wid
  match w.phase with
  | .start | .waited | .body =>
    if !w.stalled && decide (w.readyAt + 1024 ≤ (s.core g.core).cycles) then
      .next (s.setGroup gid (g.setWave wid { w with promoted := true, barred := [] }))
    else .next s
  | _ => .next s

/-! ### NOP, TRAP, BRK, reserved words and prefixes -/

/-- NOP (R162). -/
def execNop (s : State) : Res := .next (s.uWord true (fun s => s.nextWord))
/-- TRAP (R162): SWTRAP at this word. -/
def execTrap (e : BitVec 8) (s : State) : Res := finish (s.uWord true (fun s => s.clauseTrap 0x0A (e.toNat + 256)))
/-- BRK (R162). -/
def execBrk (e : BitVec 16) (s : State) : Res := finish (s.uWord true (fun s => s.clauseTrap 0x0C e.toNat))

/-- A prefix word (R91): it applies to the next word, which must be a V-set word and no prefix. Its own fields are checked
after those of that word (R98). -/
def State.prefixWord (s : State) : State :=
  let w := s.cw
  match w.words[w.idx + 1]? with
  | none => s.illegal
  | some n =>
    if n.getLsbD 31 || decide (opByte n = 0x7F) then s.trapIllegal 0x01 n (w.idx + 1)
    else s.updWave (fun w => { w with pfx := some w.word, idx := w.idx + 1 })

/-- RESERVED_ENCODING (R95, R96, R99): the word traps ILLEGAL; a U-set word with no enabled lane is skipped (R80). A prefix
whose zero bits are set fails only after the word that it precedes (R98). -/
def execReservedEncoding (w : BitVec 32) (s : State) : Res :=
  if opByte w = 0x7F then finish s.prefixWord
  else if w.getLsbD 31 && decide (s.cw.en = 0#32) then .next s.skipWord
  else finish (s.trapIllegal 0x01 w s.cw.idx)

/-- PREFIX in its general reading (R91, R92): the fields are checked against the word it precedes, when that issues. -/
def execPrefixGeneral (_c : BitVec 8) (_k : BitVec 3) (_z : Bool) (_m : BitVec 3) (_s _n _a : Bool) (s : State) : Res :=
  finish s.prefixWord
/-- PREFIX in its memory reading (R91, R93). -/
def execPrefixMemory (_c : BitVec 8) (_k _s : BitVec 3) (_o : BitVec 2) (s : State) : Res := finish s.prefixWord

/-! ### Trap entry as an event, and TRET -/

/-- TRAP_ENTRY (R164): the group enters its handler once every wave stands at its boundary; with no entry under way,
what is pending is reported. -/
def execTrapEntry (gid : Nat) (s : State) : Res :=
  if (s.group gid).entering.isSome then finish (s.settle gid) else finish (s.report gid)

/-- Index of the word after the one at `i`, and after its prefix if it has one (R167). -/
def afterWord (ws : List Word) (i : Nat) : Nat :=
  match ws[i]? with
  | some w => if opByte w = 0x7F then i + 2 else i + 1
  | none => i + 1

/-- Lanes restored from their save slots (R167). -/
def Lane.restore (l : Lane) : Lane := { l with pc := l.savePc, mr := l.saveMr, csp := l.saveCsp, rwi := l.saveRwi }

/-- What TRET.SKIP leads to: the failure of a start check, the SWTRAP of a TRAPIF clause, the lanes that ended a YIELD. -/
structure Skipped where
  fail : Option Trap := none
  trap : Option Trap := none
  yields : Mask := 0
  deriving DecidableEq, Repr

/-- Move the lanes that TRET.SKIP sends on, one set that shares a PC, an index and a wave at a time: past the word, or
through the clause's end step as enabled lanes (R167), with the task that waits for that end (R238). The counter of a LOOP
falls once for the set (log entry 57), and the trap of a TRAPIF clause is taken once TRET has ended (log entry 73). Where the clause
cannot be fetched any more its length is not known, and the index goes on by one (log entry 56). -/
def State.skipLanes (s : State) (gid : Nat) (m : Mask) (out : Skipped) : Skipped × State :=
  let g := s.group gid
  let l := g.lane (lowLane m)
  let r := s.fetchClause g.core g.ctx (!g.sup) l.pc
  match r.1 with
  | .error _ =>
    (out, r.2.updGroup gid (fun g => (lanesOf m).foldl (fun g i => g.setLane i { g.lane i with rwi := l.rwi + 1 }) g))
  | .ok (h, ws, _) =>
    let next := afterWord ws l.rwi.toNat
    if next < hdrLen h then
      (out, r.2.updGroup gid (fun g =>
        (lanesOf m).foldl (fun g i => g.setLane i { g.lane i with rwi := BitVec.ofNat 4 next }) g))
    else
      let k := r.2.resumeChecks gid l.pc h m
      match k.1 with
      | some t => ({ out with fail := some t }, k.2.2)
      | none =>
        match decodeSeq (hdrSeq h) (hdrTgt h) with
        | .ok i =>
          let inl := (k.2.2.group gid).heldInline l.pc m
          let s := endKind i { gid := gid, addr := l.pc, hdr := h, lanes := m, en := m, ind := k.2.1 } (k.2.2.setGroup gid inl.2)
          let s := match inl.1 with
            | some t => s.startInline gid m t
            | none => s
          (match i with
            | .trapif code => { out with trap := out.trap.or (some (trapifTrap l.pc code m)) }
            | .yield => { out with yields := out.yields ||| m }
            | _ => out, s)
        | .error _ => (out, k.2.2)

/-- All sets of lanes that TRET.SKIP moves, in turn. -/
def State.skipAll (s : State) (gid : Nat) (out : Skipped) : List Mask → Skipped × State
  | [] => (out, s)
  | m :: ms =>
    let r := s.skipLanes gid m out
    if r.1.fail.isSome then r else r.2.skipAll gid r.1 ms

/-- Operations that preemption stopped are restarted from their counters, their flags charged again (R221). -/
def Group.restartOps (g : Group) : Group :=
  let g := g.ops.foldl (fun g o => if o.stopped then g.charge o.flag else g) g
  { g with ops := g.ops.map (fun o => { o with stopped := false, stopReq := false }) }

/-- A lane has left the waiting set of its clause: it was held there at trap entry, and the handler gave it an MR other than the
clause (R271, R274). -/
def Lane.leftMeet (l : Lane) : Bool :=
  match l.heldMr with
  | some m => decide (m ≠ l.mr) && decide (l.mr ≠ some l.pc)
  | none => false

/-- The waves that lanes form at TRET: those of trap entry, separated by PC and resume index (R167, R268), and from the held
lanes of a wave those that have left their waiting set, which start the clause there (R271, log entry 26). Every flag reads
zero, so that completions are observed (R39). -/
def State.tretWaves (s : State) (gid : Nat) : State :=
  let now := (s.core (s.group gid).core).cycles
  s.updGroup gid (fun g =>
    let ms := groupLanes (fun l => ((g.lane l).saveWave, (g.lane l).pc, (g.lane l).rwi, (g.lane l).leftMeet)) g.live
    { (g.observeNow (fun _ => true)) with
      sup := false
      waves := ms.foldl (fun t m => tset t (lowLane m)
        { lanes := m, readyAt := now, resumed := decide ((g.lane (lowLane m)).rwi ≠ 0)
          freed := (g.lane (lowLane m)).leftMeet }) []
      lanes := (lanesOf g.live).foldl (fun v l => vecSet v l { vecGet v l ({} : Lane) with heldMr := none }) g.lanes })

/-- Waves with lanes that TRET.SKIP took through the end of a YIELD clause go behind the ready waves of their priority
(R81, R279). -/
def State.yieldWaves (s : State) (gid : Nat) (m : Mask) : State :=
  (s.group gid).waves.foldl (fun s e =>
    if e.2.lanes &&& m = 0#32 then s
    else
      let peers := s.readyPeers gid e.1
      s.updGroup gid (fun g => g.setWave e.1 { g.wave e.1 with barred := peers })) s

/-- TRET (R167): it must be the last word of a NEXT clause of the handler, and waits until every flag reads zero, and before
pushes and pops of skipped lanes for the accesses that these come after. A resume index beyond the clause that LANELD wrote
resumes at the clause's end (log entry 58). -/
def execTret (k : Bool) (s : State) : Res :=
  let w := s.cw
  let gid := s.curGroup
  let placed := decide (w.idx + 1 = w.words.length) && decide (hdrSeq w.hdr = 0)
  finish (s.uWord (s.cg.sup && placed) (fun s =>
    let g := s.cg
    let skip := if k && decide (g.tkind = 0) then g.tmask &&& g.live else 0
    if !g.flagsZero || (decide (skip ≠ 0#32) && g.stackWaits) then s
    else
      let s := s.updCur (fun g => { g.restartOps with
        lanes := (lanesOf g.live).foldl (fun v l => vecSet v l (vecGet v l ({} : Lane)).restore) g.lanes })
      let r := s.skipAll gid {} (groupLanes (fun l => ((s.cg.lane l).saveWave, (s.cg.lane l).pc, (s.cg.lane l).rwi)) skip)
      match r.1.fail, r.1.trap with
      | some _, _ => r.2.haltGroup gid 0xFF w.addr
      | none, t =>
        let s := ((r.2.tretWaves gid).yieldWaves gid r.1.yields).checkExit gid
        match t with
        | some t => s.beginTrap gid t
        | none => s.report gid))

end Sys2Proof.Machine
end

