-- ==== Sys2Proof/Machine/Lod.lean ====
section
/-! DEFINITION. Machine/Lod.lean: LOD loads and samples with residency fallback, page requests, the towpath ring,
prefetch, and the completion of memory instructions (R190 to R195, R417 to R426). -/
namespace Sys2Proof.Machine

/-! ### The towpath ring (R423 to R425) -/

/-- What became of a request for a ring entry. -/
inductive Logged where
  | logged | suppressed | dropped
  deriving DecidableEq, Repr

/-- Ring header address of SYS_TOWPATH (R168, R423). -/
def towBase (t : DWord) : Nat := (t.extractLsb' 12 40).toNat * 2 ^ 12
/-- Ring capacity. -/
def towCap (t : DWord) : Nat := 2 ^ (t.extractLsb' 0 5).toNat

/-- Append an entry with bits [63:0] given to a context's ring from a core (R424, R425), past the core's repeat filter. A
page that is not written has no bit set (R412). -/
def State.ringAppend (s : State) (core ctx entry : Nat) : Logged × State :=
  let c := s.core core
  let old := c.filter.find? (fun e => decide (e.1 = ctx) && decide (e.2.1 = entry))
  if old.any (fun e => decide (s.ns < e.2.2 + 16000)) then (.suppressed, s)
  else
    let keep := c.filter.filter (fun e => !(decide (e.1 = ctx) && decide (e.2.1 = entry)))
    let s := s.updCore core (fun c => { c with filter := ((ctx, entry, s.ns) :: keep).take 64 })
    let tow := (tget c.views ctx ((s.ctx ctx).view (dieOf core))).towpath
    let base := towBase tow
    let n := towCap tow
    if base = 0 then (.dropped, s)
    else
      let h := s.reach core ctx false false .write base true
      match h.1 with
      | .ok hk =>
        let s := h.2.checkPa hk 132
        let head := s.homeNat hk 4
        let tail := s.homeNat (hk + 64) 4
        let limit := s.homeNat (hk + 68) 4
        let lim := if limit = 0 ∨ n < limit then n else limit
        let at_ := vaWrap (base + 4096 + 16 * (head % n))
        let e := s.reach core ctx false false .write at_ true
        match e.1 with
        | .ok ek =>
          let h := e.2.reach core ctx false false .write base
          let hk := match h.1 with | .ok k => k | _ => hk
          if lim ≤ (head + 2 ^ 32 - tail) % 2 ^ 32 then
            (.dropped, h.2.putHomeNat (hk + 128) 4 (h.2.homeNat (hk + 128) 4 + 1))
          else
            let time := s.ns / 2 ^ 10 % 2 ^ 32
            let w := h.2.reach core ctx false false .write at_
            let ek := match w.1 with | .ok k => k | _ => ek
            let s := w.2.putHomeNat ek 16 (entry % 2 ^ 64 + 2 ^ 64 * time + 2 ^ 96 * core)
            (.logged, s.putHomeNat hk 4 (head + 1))
        | _ => (.dropped, e.2)
      | _ => (.dropped, h.2)

/-- A request of a group: a dropped one sets SR_STATUS.FBDROP (R193, R425). -/
def State.request (s : State) (gid entry : Nat) : Logged × State :=
  let g := s.group gid
  let r := s.ringAppend g.core g.ctx entry
  if r.1 = .dropped then (r.1, r.2.updGroup gid (fun g => g.setStatus 1 (r.2.core g.core).cycles)) else r

/-- Bits [63:0] of an entry of kind 1 or 2 for a page (R424). -/
def pageEntry (kind va : Nat) (replica : Bool) : Nat :=
  va / 2 ^ 16 % 2 ^ 36 + kind * 2 ^ 60 + if replica then 2 ^ 62 else 0

/-! ### Images (R175, R417, R418) -/

/-- MIPS of an image record. -/
def imgMips (r : QWord) : Nat := (r.extractLsb' 56 4).toNat
/-- TEXFMT. -/
def imgFmt (r : QWord) : Nat := recSwz r
/-- Width of level `j` in texels. -/
def imgW (r : QWord) (j : Nat) : Nat := max 1 (((r.extractLsb' 64 16).toNat + 1) / 2 ^ j)
/-- Height of level `j`. -/
def imgH (r : QWord) (j : Nat) : Nat := max 1 (((r.extractLsb' 80 16).toNat + 1) / 2 ^ j)
/-- VA of the residency map. -/
def imgMap (r : QWord) : Nat := vaWrap (recBase r + 4 * (r.extractLsb' 96 32).toNat)

/-- Bytes of a texel format (R175). -/
def texBytes (f : Nat) : Nat :=
  match f with
  | 0 => 4 | 1 => 8 | 2 => 16 | 3 => 2 | 4 => 4 | 5 => 8 | 6 => 1 | 7 => 4 | _ => 4

/-- Byte offset of level `j` (R417). -/
def levelOffset (r : QWord) : Nat → Nat
  | 0 => 0
  | j + 1 => 128 * ((levelOffset r j + imgW r j * imgH r j * texBytes (imgFmt r) + 127) / 128)

/-- VA of a texel of level `j`. -/
def texelVa (r : QWord) (j x y : Nat) : Nat :=
  vaWrap (recBase r + levelOffset r j + (y * imgW r j + x) * texBytes (imgFmt r))

/-- FP32 bits of `n ÷ d`, RNE. -/
def unorm (n d : Nat) : Nat := (fp32.round (.fin false n d) {}).1

/-- The four FP32 components of a texel (R175). -/
def texel (f v : Nat) : List Nat :=
  let one := 0x3F800000
  let f32 := fun (i : Nat) => (fp32.round (fp32.decode (v / 2 ^ (32 * i) % 2 ^ 32)) {}).1
  let f16 := fun (i : Nat) => (fp32.round (fp16.decode (v / 2 ^ (16 * i) % 2 ^ 16)) {}).1
  let u8 := fun (i : Nat) => unorm (v / 2 ^ (8 * i) % 2 ^ 8) 255
  match f with
  | 0 => [f32 0, 0, 0, one]
  | 1 => [f32 0, f32 1, 0, one]
  | 2 => [f32 0, f32 1, f32 2, f32 3]
  | 3 => [f16 0, 0, 0, one]
  | 4 => [f16 0, f16 1, 0, one]
  | 5 => [f16 0, f16 1, f16 2, f16 3]
  | 6 => [u8 0, 0, 0, one]
  | 7 => [u8 0, u8 1, u8 2, u8 3]
  | _ => [unorm (v % 1024) 1023, unorm (v / 2 ^ 10 % 1024) 1023, unorm (v / 2 ^ 20 % 1024) 1023, unorm (v / 2 ^ 30 % 4) 3]

/-! ### Exact coordinates (R190) -/

/-- A signed ratio with a positive denominator. -/
abbrev Ratio := Int × Nat

/-- A finite value as a signed ratio; 0 for the others. -/
def Num.ratio : Num → Ratio
  | .fin neg n d => (if neg then -(n : Int) else n, d)
  | _ => (0, 1)

/-- A coordinate prepared for VSMP: NaN as 0, clamped to [−1, 2] (R190 step 2). -/
def prepCoord (x : Num) : Ratio :=
  match x with
  | .nan => (0, 1)
  | .inf neg => (if neg then -1 else 2, 1)
  | .fin _ _ _ =>
    let r := x.ratio
    if r.1 < -(r.2 : Int) then (-1, 1) else if 2 * (r.2 : Int) < r.1 then (2, 1) else r

/-- ⌊r⌋. -/
def Ratio.floor (r : Ratio) : Int := r.1 / (r.2 : Int)

/-- A ratio as an exact value. -/
def Ratio.num (r : Ratio) : Num := .fin (decide (r.1 < 0)) r.1.natAbs r.2

/-- Clamp an integer to 0 … n − 1. -/
def clampTo (i : Int) (n : Nat) : Nat := min i.toNat (n - 1)

/-- The requested level of VSMP: floor of lod clamped to 0 … MIPS (R190). -/
def lodLevel (x : Num) (mips : Nat) : Nat :=
  match x with
  | .nan => 0
  | .inf neg => if neg then 0 else mips
  | .fin _ _ _ => min (x.ratio.floor).toNat mips

/-! ### Reads of path S -/

/-- A read on path S through record `br`, which was `rec_` at issue: the bytes, or none when the page cannot be read; and the
key of poison met. It goes out with the predicted address, which the checked translation settles (R411). A part of a map
element shows what `State.mapMoment` has left in the cache. -/
def State.sRead (s : State) (gid br : Nat) (rec_ : QWord) (user : Bool) (va n : Nat) (part : Bool := false) :
    Option Nat × Option Nat × State :=
  let g := s.group gid
  let r := s.reach g.core g.ctx user true .read va
  match r.1 with
  | .ok key =>
    let key := r.2.loadKey gid br rec_ va key
    let s := r.2.noteUse gid br rec_ true va
    let b := if part then s.readThrough g.core .sampler key n else s.readShown g.core .sampler key n
    (some (leNat b.1), if b.2.poisoned key n then some key else none, b.2)
  | _ => (none, none, r.2)

/-- The map byte and the header byte of a residency map are one element (R419): both are shown as the sampler cache holds them,
or both as their homes have them now, as a free value decides where the two differ. The held lines of a map are all of one moment:
to read it anew, the cache gives up every one of them (R284, log entry 50). -/
def State.mapMoment (s : State) (gid : Nat) (user : Bool) (mapVa headVa size : Nat) : State :=
  let g := s.group gid
  let m := s.reach g.core g.ctx user true .read mapVa true
  let h := m.2.reach g.core g.ctx user true .read headVa true
  match m.1, h.1 with
  | .ok ka, .ok kb =>
    let s := h.2
    let held := fun (k : Nat) => (tget? (s.core g.core).sampler (lineOf k)).map (fun bs => bs.getD (k % 128) 0)
    let anew := fun (s : State) =>
      (s.dropLines g.core .sampler kb (min size (2 ^ 16 - kb % 2 ^ 16))).dropLines g.core .sampler ka 1
    if (held ka).isNone || (held kb).isNone then anew s
    else if held ka = some (s.homeByte ka) ∧ held kb = some (s.homeByte kb) then s
    else
      let f := s.takeFree
      if f.1 % 2 = 0 then f.2 else anew f.2
  | _, _ => h.2

/-- What one lane of an LOD load delivers. -/
structure LodOut where
  comps : List Nat := [0, 0, 0, 0]
  status : Nat := 0
  k7 : Bool := false
  oob : Bool := false
  bad : Option (Nat × Nat) := none
  deriving DecidableEq, Repr

/-- Read the texels of a list of coordinates of level `j`: their components, or none when a page cannot be read. -/
def State.readTexels (s : State) (gid br : Nat) (user : Bool) (r : QWord) (j : Nat) :
    List (Nat × Nat) → Option (List (List Nat)) × Option (Nat × Nat) × State
  | [] => (some [], none, s)
  | (x, y) :: rest =>
    let va := texelVa r j x y
    let a := s.sRead gid br r user va (texBytes (imgFmt r))
    let b := a.2.2.readTexels gid br user r j rest
    let bad := (a.2.1.map (fun k => (va, k))).or b.2.1
    match a.1, b.1 with
    | some v, some l => (some (texel (imgFmt r) v :: l), bad, b.2.2)
    | _, _ => (none, bad, b.2.2)

/-- The bilinear sum of one component over four texels with exact weights, rounded once (R190 step 5). -/
def bilinear (fx fy : Ratio) (c : List Nat) : Nat :=
  let one := fun (f : Ratio) => ((f.2 : Int) - f.1, f.2)
  let w := [((one fx).1 * (one fy).1, fx.2 * fy.2), (fx.1 * (one fy).1, fx.2 * fy.2),
            ((one fx).1 * fy.1, fx.2 * fy.2), (fx.1 * fy.1, fx.2 * fy.2)]
  let t := (w.zip c).map (fun e => (Ratio.num e.1).mul (fp32.decode e.2))
  (fp32.round (t.foldl (fun a x => a.add false x) (.fin false 0 1)) {}).1

/-- Steps 2 to 6 of R190 once the map point is known: the level, the texels and the feedback. `pts` gives the texel
coordinates at a level, and `mix` combines their components. -/
def State.lodLane (s : State) (gid br : Nat) (user : Bool) (r : QWord) (req px py : Nat)
    (pts : Nat → List (Nat × Nat)) (mix : Nat → List (List Nat) → List Nat) : LodOut × State :=
  let mips := imgMips r
  let mw := (imgW r 0 + 127) / 128
  let mapVa := vaWrap (imgMap r + 16 + py / 128 * mw + px / 128)
  let s := s.mapMoment gid user mapVa (imgMap r) (16 + mw * ((imgH r 0 + 127) / 128))
  let a := s.sRead gid br r user mapVa 1 true
  let h := a.2.2.sRead gid br r user (imgMap r) 1 true
  let m := match a.1 with | some v => min v mips | none => mips
  let tailn := match a.1, h.1 with | some _, some t => t | _, _ => 0
  let lev := max req m
  let t := h.2.2.readTexels gid br user r lev (pts lev)
  let bad := ((a.2.1.or h.2.1).map (fun k => (imgMap r, k))).or t.2.1
  let entry := recBase r / 2 ^ 16 % 2 ^ 24 + req * 2 ^ 24 + px / 128 * 2 ^ 28 + py / 128 * 2 ^ 44
  let f := if req < lev then t.2.2.request gid entry else (.suppressed, t.2.2)
  let tail := decide (0 < tailn) && decide (mips + 1 ≤ lev + tailn)
  let status := (lev - req) + (if tail then 16 else 0) + (if f.1 = .logged then 32 else 0)
    + (if f.1 = .dropped then 64 else 0) + 256 * lev
  ({ comps := match t.1 with | some l => mix lev l | none => [0, 0, 0, 0]
     status := status, k7 := t.1.isNone, bad := bad }, f.2)

/-- One lane of VLDL (R190). -/
def State.vldlLane (s : State) (gid br : Nat) (user : Bool) (r : QWord) (x y lv : Nat) : LodOut × State :=
  let req := min lv (imgMips r)
  if imgW r req ≤ x ∨ imgH r req ≤ y then ({ status := 128, oob := true }, s)
  else
    s.lodLane gid br user r req (min (x * 2 ^ req) (imgW r 0 - 1)) (min (y * 2 ^ req) (imgH r 0 - 1))
      (fun lev => [(x / 2 ^ (lev - req), y / 2 ^ (lev - req))])
      (fun _ l => l.headD [0, 0, 0, 0])

/-- The rounded texel coordinate RoundFP32(u × w − 0.5) as a ratio (R190 step 5). -/
def texCoord (u : Ratio) (w : Nat) : Ratio :=
  (fp32.decode (fp32.round (Ratio.num (2 * u.1 * (w : Int) - (u.2 : Int), 2 * u.2)) {}).1).ratio

/-- One lane of VSMP (R190). -/
def State.vsmpLane (s : State) (gid br : Nat) (user : Bool) (r : QWord) (ub vb lb : Nat) : LodOut × State :=
  let u := prepCoord (fp32.decode ub)
  let v := prepCoord (fp32.decode vb)
  let req := lodLevel (fp32.decode lb) (imgMips r)
  let px := clampTo (Ratio.floor (u.1 * (imgW r 0 : Int), u.2)) (imgW r 0)
  let py := clampTo (Ratio.floor (v.1 * (imgH r 0 : Int), v.2)) (imgH r 0)
  let at_ := fun (lev : Nat) =>
    let sx := texCoord u (imgW r lev)
    let ty := texCoord v (imgH r lev)
    (sx, ty, Ratio.floor sx, Ratio.floor ty)
  s.lodLane gid br user r req px py
    (fun lev =>
      let c := at_ lev
      let x0 := clampTo c.2.2.1 (imgW r lev)
      let x1 := clampTo (c.2.2.1 + 1) (imgW r lev)
      let y0 := clampTo c.2.2.2 (imgH r lev)
      let y1 := clampTo (c.2.2.2 + 1) (imgH r lev)
      [(x0, y0), (x1, y0), (x0, y1), (x1, y1)])
    (fun lev l =>
      let c := at_ lev
      let fx : Ratio := (c.1.1 - c.2.2.1 * (c.1.2 : Int), c.1.2)
      let fy : Ratio := (c.2.1.1 - c.2.2.2 * (c.2.1.2 : Int), c.2.1.2)
      (List.range 4).map (fun q => bilinear fx fy (l.map (fun t => t.getD q 0))))

/-! ### Issue -/

/-- Put an operation in flight whose whole work is done at its completion. -/
def State.issueLater (s : State) (i : Instr) (fl : Bool) (act : Mask) (recd : QWord) (vals : Tab Nat) (args : List Nat) :
    State :=
  (s.issueOp { instr := i, pfx := s.cw.pfx, flag := s.cw.flagOf fl, act := act, recd := recd, vals := vals, args := args }).nextWord

/-- `k` sources of lanes from `a`, by lane × 64 + position (R38). -/
def laneArgs (g : Group) (act : Mask) (a k : Nat) : Tab Nat :=
  (lanesOf act).foldl (fun t l => (List.range k).foldl (fun t i => tset t (l * 64 + i) (g.src (a + i) l).toNat) t) []

/-- Is the group in user mode, as an argument. -/
def userArg (g : Group) : Nat := if g.sup then 0 else 1

/-- VLDL and VSMP (R190): kind 1 only; they trap on the record alone. -/
def State.lodIssue (s : State) (i : Instr) (d a br : Nat) (fl : Bool) : State :=
  s.mWord (dstOk s.cg.n d 5 && srcOk s.cg.n a 3) [0] 0 fl (fun x s =>
    let g := s.cg
    let r := g.brec br
    if !recOk (s.ctx g.ctx) r [1] (fun _ => true) then s.recordTrap pathS false br x.act
    else s.issueLater i fl x.act r (laneArgs g x.act a 3) [userArg g])

/-- VLDL (R190). -/
def execVldl (d a : BitVec 8) (r : BitVec 4) (l : Bool) (s : State) : Res :=
  finish (s.lodIssue (.vldl d a r l) d.toNat a.toNat r.toNat l)
/-- VSMP (R190). -/
def execVsmp (d a : BitVec 8) (r : BitVec 4) (l : Bool) (s : State) : Res :=
  finish (s.lodIssue (.vsmp d a r l) d.toNat a.toNat r.toNat l)

/-- VPGREQ (R193): steps 1 to 3 of R180; the pages are classified when the requests are made. -/
def execVpgreq (d a : BitVec 8) (r : BitVec 4) (l : Bool) (w : MemW) (s : State) : Res :=
  let n := memBytes w
  finish (s.mWord (dstOk s.cg.n d.toNat 1 && srcOk s.cg.n a.toNat 1) [0] 0 l (fun x s =>
    let g := s.cg
    let b := g.brec r.toNat
    if !recOk (s.ctx g.ctx) b [0, 4, 5, 6] (fun b => recPr b || recPw b || recPs b) then s.recordTrap pathL false r.toNat x.act
    else
      let ats := laneAts g b x.act a.toNat n
      let c : Check := { path := pathL, br := r.toNat, n := n, align := min n 8 }
      match s.stepTrap c cALIGN ((ats.filter (fun e => decide (e.va % min n 8 ≠ 0))).map (fun e => (e.lane, e.va, false))) with
      | some t => t
      | none =>
        (s.issueOp { instr := .vpgreq d a r l w, pfx := s.cw.pfx, flag := s.cw.flagOf l, act := x.act
                     vals := ats.foldl (fun t e => tset t (e.lane * 64) e.va) []
                     oob := maskOf (fun l => ats.any (fun e => decide (e.lane = l) && !e.inb)) }).nextWord))

/-- PGREQ (R194). -/
def execPgreq (d a b : BitVec 6) (s : State) : Res :=
  finish (s.umWord (sspanOk a.toNat 2) (fun s =>
    let g := s.cg
    let va := (g.spair a.toNat).toNat % 2 ^ 52 / 2 ^ 16 * 2 ^ 16
    s.issueLater (.pgreq d a b) false s.cw.en 0 [] [va, min 256 (g.sreg b.toNat).toNat]))

/-- VPREF (R195): nothing but ILLEGAL traps; a lane whose line cannot be reached is dropped. -/
def execVpref (a : BitVec 8) (r : BitVec 4) (l : Bool) (w : Bool) (s : State) : Res :=
  finish (s.mWord (srcOk s.cg.n a.toNat 1) [0] 0 l (fun x s =>
    let g := s.cg
    let b := g.brec r.toNat
    let ats := if recOk (s.ctx g.ctx) b [0, 4, 5, 6] recPr then
        (laneAts g b x.act a.toNat 1).filter (fun e => e.inb && !(s.ctx g.ctx).sealed e.va 1)
      else []
    let p := s.probe g .read 1 {} ats
    (p.2.issueOp { instr := .vpref a r l w, pfx := s.cw.pfx, flag := s.cw.flagOf l, act := x.act
                   pas := p.1.keys, unit := 1 }).nextWord))

/-! ### Completion -/

/-- LOD loads: lanes in ascending order (R426), each with its components, status word and k7. A lane that met poison
completes with error, and what its components then hold is not stated: free values. -/
def State.lodDone (s : State) (gid : Nat) (o : POp) (d br : Nat) (smp : Bool) : State :=
  let user := decide (o.args.getD 0 1 = 1)
  let r := (lanesOf o.act).foldl (fun (a : State × Mask × Bool × Option (Nat × Nat)) l =>
    let v := fun (i : Nat) => tget o.vals (l * 64 + i) 0
    let x := if smp then a.1.vsmpLane gid br user o.recd (v 0) (v 1) (v 2) else a.1.vldlLane gid br user o.recd (v 0) (v 1) (v 2)
    let vs := x.1.comps
    let n := vs.getD 0 0 + 2 ^ 32 * vs.getD 1 0 + 2 ^ 64 * vs.getD 2 0 + 2 ^ 96 * vs.getD 3 0
    let c : Nat × State := if x.1.bad.isSome then x.2.takeFree else (n, x.2)
    let s := c.2.updGroup gid (fun g => (g.setVs d l 4 c.1).setVs (d + 4) l 1 x.1.status)
    (s, if x.1.k7 then a.2.1 ||| (1#32 <<< l) else a.2.1, a.2.2.1 || x.1.oob, a.2.2.2.or x.1.bad)) (s, 0, false, none)
  let s := r.1.updGroup gid (fun g => g.mergeK 7 o.act r.2.1)
  { o with oob := if r.2.2.1 then 1 else 0 } |> fun o => s.endAccess gid o r.2.2.2

/-- VPGREQ's code for one lane (R193). -/
def State.pageCode (s : State) (gid : Nat) (va : Nat) : Nat × State :=
  let g := s.group gid
  let t := s.translate g.core g.ctx false va
  match t.1 with
  | none => (5, t.2)
  | some e =>
    if pteP e.leaf then (0, t.2)
    else
      let r := t.2.request gid (pageEntry 1 va false)
      (match r.1 with | .logged => 1 | .suppressed => 2 | .dropped => 3, r.2)

/-- VPGREQ at its completion. -/
def State.vpgreqDone (s : State) (gid : Nat) (o : POp) (d : Nat) : State :=
  let s := (lanesOf o.act).foldl (fun (s : State) l =>
    if inMask o.oob l then s.updGroup gid (fun g => g.setVs d l 1 4)
    else
      let r := s.pageCode gid (tget o.vals (l * 64) 0)
      r.2.updGroup gid (fun g => g.setVs d l 1 r.1)) s
  s.endAccess gid o none

/-- PGREQ at its completion: entries appended for the absent pages of the run. -/
def State.pgreqDone (s : State) (gid : Nat) (o : POp) (sd : Nat) : State :=
  let r := (List.range (o.args.getD 1 0)).foldl (fun (a : Nat × State) i =>
    let c := a.2.pageCode gid (vaWrap (o.args.getD 0 0 + i * 2 ^ 16))
    (if c.1 = 1 then a.1 + 1 else a.1, c.2)) (0, s)
  (r.2.updGroup gid (fun g => g.setS sd (BitVec.ofNat 32 r.1))).endAccess gid o none

/-- VPREF at its completion: the lines are in the L2, and for w[0] = 0 in the L1 (R195, R315). -/
def State.vprefDone (s : State) (gid : Nat) (o : POp) (l2 : Bool) : State :=
  let core := (s.group gid).core
  let s := o.pas.foldl (fun s e =>
    if s.poisoned (lineOf e.2 * 128) 128 then s
    else if l2 then s.holdL2 e.2
    else s.fillLine core .l1 (lineOf e.2)) s
  s.opDone gid o

/-- Where an operation of the group that issued earlier may still append a request, one that has appended in the run from `s` to
`t` has not performed yet: a group's requests append in its issue order (R426). -/
def State.inTurn (s : State) (gid : Nat) (o : POp) (t : State) : State :=
  let c := (s.group gid).core
  if (s.group gid).appendsFirst o && decide ((s.core c).filter ≠ (t.core c).filter) then s else t

/-- MEMORY_ACCESS_COMPLETE (R39, R181, R288): the operation performs, once every operation of its group that comes
before it has, writes its destinations and decrements its flag. In a group alone on its core a write without a release may reach
its home ahead of earlier stores to other bytes (R289 to R291, R339, log entry 66). -/
def execMemoryAccessComplete (gid op : Nat) (s : State) : Res :=
  let g := s.group gid
  match g.op? op with
  | none => .next s
  | some o =>
    if !(g.ready o || (s.aloneOnCore gid && g.readyAhead o)) || !s.linesPresent gid o then .next s
    else match o.instr with
      | .vldl d _ r _ => finish (s.inTurn gid o (s.lodDone gid o d.toNat r.toNat false))
      | .vsmp d _ r _ => finish (s.inTurn gid o (s.lodDone gid o d.toNat r.toNat true))
      | .vpgreq d _ _ _ _ => finish (s.inTurn gid o (s.vpgreqDone gid o d.toNat))
      | .pgreq d _ _ => finish (s.inTurn gid o (s.pgreqDone gid o d.toNat))
      | .vpref _ _ _ l2 => finish (s.vprefDone gid o l2)
      | _ => finish ((if g.ready o then s else s.updGroup gid (fun g => g.leaveBehind o)).perform gid o)

end Sys2Proof.Machine
end

