-- ==== Sys2Proof/Machine/Ranges.lean ====
section
/-! DEFINITION. Machine/Ranges.lean: fences, sealing, and range maintenance of caches (R196 to R200, R287, R293, R317). -/
namespace Sys2Proof.Machine

/-! ### Scopes (R287) -/

/-- Cores of a team's cluster in its grid: its own core for a group outside every grid's team numbering. -/
def State.clusterCores (s : State) (gid : Nat) : List Nat :=
  let g := s.group gid
  if g.origin ≠ .grid then [g.core]
  else
    let lr := (tget s.grids g.grid {}).lr
    let size := max 1 (lr.cols * lr.rows)
    ((s.teams.filter (fun e => decide (e.2.grid = g.grid) && decide (e.2.tidx / size = g.tidx / size)
      && decide (e.2.groups ≠ []))).map (fun e => e.2.core) ++ [g.core]).dedup

/-- Cores that an instance of a scope reaches (R287, R293). -/
def State.scopeCores (s : State) (gid scope : Nat) : List Nat :=
  let core := (s.group gid).core
  match scope with
  | 0 => [core]
  | 1 => [core]
  | 2 => s.clusterCores gid
  | 3 => coresOf (dieOf core)
  | _ => allCores

/-! ### FENCE (R196, R293) -/

/-- FENCE (R196): from its issue the group issues no word on pipe M or E until it completes. -/
def execFence (c : BitVec 3) (o : BitVec 2) (p d : BitVec 7) (s : State) : Res :=
  finish (s.umWord (decide (c.toNat ≤ 5) && decide (p ≠ 0) && decide (d ≠ 0)) (fun s =>
    let op := s.nextOp
    let s := s.issueLater (.fence c o p d) false s.cw.en 0 [] [c.toNat, o.toNat, p.toNat, d.toNat]
    s.updCur (fun g => { g with fence := some op })))

/-- Must a fence wait for an earlier operation: one on a source path, a read for the acquire order (R288 row 6, R293)? -/
def fenceWaits (order src : Nat) (a : POp) : Bool :=
  (List.range 7).any (fun p => decide (src / 2 ^ p % 2 = 1) && a.onPath p)
    && (decide (order = 1 ∨ order = 2 ∨ order = 3) || instrReads a.instr)

/-- The invalidations of a fence at its completion (R293). A release too drops the lines of path S that its destination
mask names, for what it has released is visible there (R297, R347, log entry 61). At core scope too they go (log entry 77). -/
def State.fenceInvalidate (s : State) (gid scope order dst : Nat) : State :=
    let s := if order ≠ 1 ∧ dst % 2 = 1 ∧ 2 ≤ scope then s.invalidate (s.group gid).core .l1 else s
    if dst / 2 % 2 = 1 then
      (s.scopeCores gid scope).foldl (fun s c => ((s.invalidate c .sampler).invalidate c .fetch).abortGate c) s
    else s

/-- A traversal runs on a core whose path S lines a fence drops, and may have read one of them (R293). -/
def State.walksOn (s : State) (cores : List Nat) : Bool :=
  s.groups.any (fun e => decide (e.2.core ∈ cores) && e.2.ops.any (fun o => spills o.instr && !o.walks.isEmpty))

/-- FENCE_COMPLETE (R196, R293): earlier source-path accesses have performed, those that wait in the queue of path M, some for a
host or peer page, with them; stale lines go, once no path S operation can still hold what it read of one; issue resumes. -/
def execFenceComplete (gid op : Nat) (s : State) : Res :=
  let g := s.group gid
  match g.op? op with
  | none => .next s
  | some o =>
    match o.instr with
    | .fence c od p d =>
      if (g.earlier o).any (fenceWaits od.toNat p.toNat)
          || (d.toNat.testBit pathS && s.walksOn (s.scopeCores gid c.toNat)) then .next s
      else
        let s := if od ≠ 0 ∧ (p.toNat.testBit pathM ∨ (p.toNat.testBit pathH
            ∧ s.mq.any (fun w => decide (w.gid = gid) && keyH w.key) = true)) then s.drainGroup gid else s
        let s := s.fenceInvalidate gid c.toNat od.toNat d.toNat
        finish ((s.updGroup gid (fun g => { g with fence := none })).opDone gid o)
    | _ => .next s

/-! ### SEAL and UNSEAL (R197, R198) -/

/-- A trap of a UA word that names a virtual address. -/
def State.rangeTrap (s : State) (cause va : Nat) (write : Bool) (br : Nat) : State :=
  s.addrTrap cause va pathL write br s.cw.en

/-- The first page of a range, from `va`, whose leaf is not valid with W set. In the leaf of an absent page W is ignored
(R406), so that a page which is valid and absent does not fail (log entry 60). -/
def State.sealPages (s : State) (core ctx : Nat) (va : Nat) : Nat → Option Nat × State
  | 0 => (none, s)
  | n + 1 =>
    let t := s.translate core ctx false va
    match t.1 with
    | some e => if pteW e.leaf || !pteP e.leaf then t.2.sealPages core ctx (vaWrap (va + 2 ^ 16)) n else (some va, t.2)
    | none => (some va, t.2)

/-- Do two byte ranges overlap? -/
def overlap (a n b m : Nat) : Bool := decide (a < b + m) && decide (b < a + n)

/-- SEAL (R197). Of the VA pair bits [51:0] are used, here and at UNSEAL (log entry 59). -/
def execSealPages (a b : BitVec 6) (s : State) : Res :=
  finish (s.umWord (sspanOk a.toNat 2) (fun s =>
    let g := s.cg
    let start := (g.spair a.toNat).toNat % 2 ^ 52
    let len := (g.sreg b.toNat).toNat
    let c := s.ctx g.ctx
    if start % 2 ^ 16 ≠ 0 ∨ len % 2 ^ 16 ≠ 0 ∨ len = 0 then s.rangeTrap cRANGEALIGN start false 0
    else
      let p := s.sealPages g.core g.ctx start (len / 2 ^ 16)
      let s := p.2
      match p.1 with
      | some va => s.rangeTrap cACCESS va false 0
      | none =>
        let held := c.seals ++ c.sealing
        if 32 ≤ held.length ∨ held.any (fun r => overlap r.1 r.2 start len) then s.rangeTrap cACCESS start false 0
        else
          let s := s.updCtx g.ctx (fun c => { c with sealing := c.sealing ++ [(start, len)] })
          s.issueLater (.sealPages a b) false s.cw.en 0 [] [start, len]))

/-- Stores in flight that a SEAL waits for: those issued before it, and those of the context into its range. -/
def sealWaits (ctx start len before : Nat) (g : Group) : Bool :=
  g.ops.any (fun o => instrWrites o.instr && !o.pas.isEmpty && (decide (o.id < before)
    || (decide (g.ctx = ctx) && o.vas.any (fun e => overlap e.2 o.size start len))))

/-- SEAL_COMPLETE (R197): every core has recorded the seal and every store issued before has performed. -/
def execSealComplete (gid op : Nat) (s : State) : Res :=
  let g := s.group gid
  match g.op? op with
  | none => .next s
  | some o =>
    match o.instr with
    | .sealPages _ _ =>
      let start := o.args.getD 0 0
      let len := o.args.getD 1 0
      if s.groups.any (fun e => sealWaits g.ctx start len op e.2) then .next s
      else
        let s := s.drainAll.updCtx g.ctx (fun c => { c with
          sealing := c.sealing.erase (start, len), seals := c.seals ++ [(start, len)] })
        finish (s.opDone gid o)
    | _ => .next s

/-- Physical keys of the 64 KiB pages of a range as a die's table maps them. -/
def State.pageKeys (s : State) (die ctx va : Nat) : Nat → List Nat × State
  | 0 => ([], s)
  | n + 1 =>
    let t := s.walk die ctx va
    let r := t.2.pageKeys die ctx (vaWrap (va + 2 ^ 16)) n
    match t.1 with
    | some e => if pteP e.leaf then (e.key va :: r.1, r.2) else r
    | none => r

/-- UNSEAL (R198): the range must match a seal of the context; one that SEAL would not take traps as there (log entry 76). -/
def execUnsealPages (a b : BitVec 6) (s : State) : Res :=
  finish (s.umWord (sspanOk a.toNat 2) (fun s =>
    let g := s.cg
    let start := (g.spair a.toNat).toNat % 2 ^ 52
    let len := (g.sreg b.toNat).toNat
    let c := s.ctx g.ctx
    if start % 2 ^ 16 ≠ 0 ∨ len % 2 ^ 16 ≠ 0 ∨ len = 0 then s.rangeTrap cRANGEALIGN start false 0
    else if !c.seals.contains (start, len) then s.rangeTrap cACCESS start false 0
    else s.issueLater (.unsealPages a b) false s.cw.en 0 [] [start, len]))

/-- Drop the lines of a list of pages from the L1, sampler cache and fetch buffer of a core. -/
def State.dropPages (s : State) (core : Nat) (keys : List Nat) : State :=
  keys.foldl (fun s k => ((s.dropLines core .l1 k (2 ^ 16)).dropLines core .sampler k (2 ^ 16)).dropLines core .fetch k (2 ^ 16)) s

/-- UNSEAL_COMPLETE (R198): every cache of the module has dropped its lines of the range, and the seal is gone. -/
def execUnsealComplete (gid op : Nat) (s : State) : Res :=
  let g := s.group gid
  match g.op? op with
  | none => .next s
  | some o =>
    match o.instr with
    | .unsealPages _ _ =>
      let start := o.args.getD 0 0
      let len := o.args.getD 1 0
      let c := s.ctx g.ctx
      let k0 := if c.dies.getLsbD 0 then s.pageKeys 0 g.ctx start (len / 2 ^ 16) else ([], s)
      let k1 := if c.dies.getLsbD 1 then k0.2.pageKeys 1 g.ctx start (len / 2 ^ 16) else ([], k0.2)
      let s := allCores.foldl (fun s core => s.dropPages core (k0.1 ++ k1.1).dedup) k1.2
      let s := s.updCtx g.ctx (fun c => { c with seals := c.seals.erase (start, len) })
      finish (s.opDone gid o)
    | _ => .next s

/-! ### CINV and CWB (R199, R200) -/

/-- The parts of a byte range that lie in one 64 KiB page each: first VA and bytes. -/
def pageSpans (va : Nat) (len : Nat) : List (Nat × Nat) :=
  if len = 0 then []
  else
    let first := va / 2 ^ 16
    let last := (va + len - 1) / 2 ^ 16
    (List.range (last - first + 1)).map (fun i =>
      let lo := max va ((first + i) * 2 ^ 16)
      let hi := min (va + len) ((first + i + 1) * 2 ^ 16)
      (vaWrap lo, hi - lo))

/-- Check the pages of a range and put its operation in flight. -/
def State.rangeIssue (s : State) (i : Instr) (va len br : Nat) (write absTraps : Bool) : State :=
  let spans := pageSpans va len
  let ats : List LaneAt := spans.mapIdx (fun j e => { lane := j, va := e.1 })
  let c : Check := { path := pathL, write := write, br := br, n := 1, align := 1, absTraps := absTraps, umask := some s.cw.en }
  s.checked c ats (fun cl s =>
    (s.issueOp { instr := i, flag := s.cw.flagOf false, act := s.cw.en, pas := cl.keys, unit := 0
                 vals := (spans.mapIdx (fun j e => (j * 64, e.2))) }).nextWord)

/-- CINV (R199). A record of another kind traps RANGEALIGN before the record is checked (log entry 76). -/
def execCinv (a b : BitVec 6) (n : BitVec 4) (s : State) : Res :=
  finish (s.umWord true (fun s =>
    let g := s.cg
    let r := g.brec n.toNat
    let off := (g.sreg a.toNat).toNat
    let len := (g.sreg b.toNat).toNat
    let va := vaWrap (recBase r + off)
    if r ≠ 0 ∧ recKind r ≠ 6 then s.rangeTrap cRANGEALIGN va true n.toNat
    else if !recOk (s.ctx g.ctx) r [6] recPw then s.recordTrap pathL true n.toNat s.cw.en
    else if off % 32 ≠ 0 ∨ len % 32 ≠ 0 ∨ recExtent r * recEz r < off + len then s.rangeTrap cRANGEALIGN va true n.toNat
    else s.rangeIssue (.cinv a b n) (recBase r + off) len n.toNat true true))

/-- CWB (R200). -/
def execCwb (a b : BitVec 6) (n : BitVec 4) (s : State) : Res :=
  finish (s.umWord true (fun s =>
    let g := s.cg
    let r := g.brec n.toNat
    let off := (g.sreg a.toNat).toNat
    let len := (g.sreg b.toNat).toNat
    if !recOk (s.ctx g.ctx) r [0, 5, 6] recPr then s.recordTrap pathL false n.toNat s.cw.en
    else if recExtent r * recEz r < off + len then s.rangeTrap cRANGEALIGN (vaWrap (recBase r + off)) false n.toNat
    else s.rangeIssue (.cwb a b n) (recBase r + off) len n.toNat false (recAbs r)))

/-- CINV_COMPLETE (R199): dirty bytes of the range's atoms go without write-back, and no cache holds its lines. -/
def execCinvComplete (gid op : Nat) (s : State) : Res :=
  let g := s.group gid
  match g.op? op with
  | none => .next s
  | some o =>
    match o.instr with
    | .cinv _ _ _ =>
      let s := o.pas.foldl (fun s e =>
        let n := tget o.vals e.1 0
        let s := s.dropDirty e.2 n
        allCores.foldl (fun s c => ((s.dropLines c .l1 e.2 n).dropLines c .sampler e.2 n).dropLines c .fetch e.2 n) s) s
      .next (s.opDone gid o)
    | _ => .next s

/-- CWB_COMPLETE (R200): every dirty atom of the range has been written back. -/
def execCwbComplete (gid op : Nat) (s : State) : Res :=
  let g := s.group gid
  match g.op? op with
  | none => .next s
  | some o =>
    match o.instr with
    | .cwb _ _ _ =>
      let s := o.pas.foldl (fun s e =>
        let n := tget o.vals e.1 0
        let lo := e.2 / 32 * 32
        s.writeBack lo ((e.2 + n + 31) / 32 * 32 - lo)) s
      .next (s.opDone gid o)
    | _ => .next s

end Sys2Proof.Machine
end

