-- ==== Sys2Proof/Machine/Weights.lean ====
section
/-! DEFINITION. Machine/Weights.lean: weight streams, activation rows and the block arithmetic of matrix products
(R58 to R61, R70, R201, R207). -/
namespace Sys2Proof.Machine

/-! ### Weight codes -/

/-- A weight code (R62). -/
def isWeight (c : Nat) : Bool := decide (6 ≤ c) && decide (c ≤ 17)
/-- An activation code (R62). -/
def isAct (c : Nat) : Bool := decide (c ≤ 5)
/-- A sparse weight code (R60). -/
def isSparse (c : Nat) : Bool := decide (14 ≤ c)
/-- Bits of one stored element. -/
def weightBits (c : Nat) : Nat := if c = 12 ∨ c = 13 then 8 else if c = 6 ∨ c = 7 ∨ c = 14 ∨ c = 15 then 3 else 4
/-- Columns of a chamber (R201). -/
def chamberCols (c : Nat) : Nat := if c = 12 ∨ c = 13 then 128 else 256
/-- Bytes of a scale: FP16 for the even codes, E8M0 for the odd ones (R59). -/
def scaleBytes (c : Nat) : Nat := if c % 2 = 0 then 2 else 1
/-- Unit size of a dense code (R59). -/
def unitBytes (c : Nat) : Nat := if c = 12 ∨ c = 13 then 28 else if c = 6 ∨ c = 7 then 12 else 16
/-- A scale as the model holds it: FP16 bits, or 2¹⁶ plus an E8M0 byte. -/
def scaleCode (c v : Nat) : Nat := if c % 2 = 0 then v % 2 ^ 16 else 2 ^ 16 + v % 2 ^ 8
/-- The value of a scale (R58). -/
def scaleNum (v : Nat) : Num :=
  if v < 2 ^ 16 then fp16.decode v
  else if v % 2 ^ 8 = 255 then .nan
  else .ofScaled false 1 ((v % 2 ^ 8 : Nat) - 127)

/-- Two's complement of `b` bits. -/
def signedBits (b v : Nat) : Int := if 2 ^ (b - 1) ≤ v then (v : Int) - 2 ^ b else v

/-- The `i`-th element of packed bits: W3 in 24-bit units of eight, the others in ascending bits (R59). -/
def packedElem (c bits i : Nat) : Nat :=
  let b := weightBits c
  if b = 3 then bits / 2 ^ (24 * (i / 8) + 3 * (i % 8)) % 8 else bits / 2 ^ (b * i) % 2 ^ b

/-- The weight that a stored element stands for, with the zero point of Z4 (R58). -/
def weightOf (c e z : Nat) : Int := if c = 10 ∨ c = 11 then (e : Int) - z else signedBits (weightBits c) e

/-- One column as loaded: weights and scale codes, in increasing K. -/
structure Column where
  ws : List Int := []
  gs : List Nat := []
  deriving DecidableEq, Repr

/-- One dense group unit (R59), or none when a zero field is not zero. -/
def denseUnit (c : Nat) (bs : List Byte) : Option (List Int × Nat) :=
  let eb := 3 * weightBits c
  let sb := scaleBytes c
  let v := leNat bs
  let z4 := decide (c = 10) || decide (c = 11)
  let z := if z4 then v / 2 ^ (8 * (eb + sb)) % 2 ^ 8 else 0
  let used := eb + sb + if z4 then 1 else 0
  if 16 ≤ z ∨ v / 2 ^ (8 * used) ≠ 0 then none
  else some ((List.range 24).map (fun i => weightOf c (packedElem c v i) z), scaleCode c (v / 2 ^ (8 * eb)))

/-- A dense column of `kb` units. -/
def denseColumn (c : Nat) : Nat → List Byte → Option Column
  | 0, _ => some {}
  | kb + 1, bs =>
    match denseUnit c (bs.take (unitBytes c)), denseColumn c kb (bs.drop (unitBytes c)) with
    | some u, some r => some { ws := u.1 ++ r.ws, gs := u.2 :: r.gs }
    | _, _ => none

/-- Bytes of `n` packed elements of a sparse unit, with the zero fill to a multiple of 8 (R60). -/
def sparseBytes (c n : Nat) : Nat :=
  let raw := if weightBits c = 3 then 3 * ((n + 7) / 8) else (n + 1) / 2
  (raw + 7) / 8 * 8

/-- Set bits of a number below 2¹²⁸, by position. -/
def maskBits (m : Nat) : List Nat := (List.range 128).filter (fun j => decide (m / 2 ^ j % 2 = 1))

/-- Elements of one sparse unit of `ext` elements of K: its weights and the bytes it takes; none when a bit that must be
clear is set or a fill is not zero. -/
def sparseUnit (c ext : Nat) (bs : List Byte) : Option (List Int × Nat) :=
  let m := leNat (bs.take 16)
  let set := maskBits m
  let n := set.length
  let len := 16 + sparseBytes c n
  let v := leNat ((bs.drop 16).take (sparseBytes c n))
  let bits := if weightBits c = 3 then 24 * (n / 8) + 3 * (n % 8) else 4 * n
  if set.any (fun j => decide (ext ≤ j)) ∨ v / 2 ^ bits ≠ 0 then none
  else
    some ((List.range ext).map (fun j =>
      match set.findIdx? (fun x => decide (x = j)) with
      | some i => weightOf c (packedElem c v i) 0
      | none => 0), len)

/-- The sparse units of a column, with the bytes they take. -/
def sparseUnits (c : Nat) : Nat → Nat → List Byte → Option (List Int × Nat)
  | 0, _, _ => some ([], 0)
  | fuel + 1, ext, bs =>
    if ext = 0 then some ([], 0)
    else
      match sparseUnit c (min ext 128) bs with
      | none => none
      | some u =>
        match sparseUnits c fuel (ext - 128) (bs.drop u.2) with
        | none => none
        | some r => some (u.1 ++ r.1, u.2 + r.2)

/-- A sparse column: its units, then its scale section padded with zeros to a multiple of 8 (R60). -/
def sparseColumn (c kb : Nat) (bs : List Byte) : Option (Column × Nat) :=
  match sparseUnits c ((24 * kb + 127) / 128) (24 * kb) bs with
  | none => none
  | some u =>
    let sb := scaleBytes c
    let sect := (sb * kb + 7) / 8 * 8
    let v := leNat ((bs.drop u.2).take sect)
    if v / 2 ^ (8 * sb * kb) ≠ 0 then none
    else some ({ ws := u.1, gs := (List.range kb).map (fun j => scaleCode c (v / 2 ^ (8 * sb * j))) }, u.2 + sect)

/-! ### Activation blocks (R61, R70 step 1) -/

/-- Bytes of a block's elements. -/
def blockBytes (c : Nat) : Nat := if c = 2 ∨ c = 3 then 48 else 24
/-- Bytes of an A row of `kb` blocks (R61, R211). -/
def rowBytes (c kb : Nat) : Nat := blockBytes c * kb + if c = 4 ∨ c = 5 then kb else 0
/-- The width P of R70. -/
def alignBits (c : Nat) : Nat := if c = 2 then 12 else if c = 3 then 14 else 8

/-- A block after alignment: not a number, or the exponent X with the integers q. -/
inductive Block where
  | nan
  | ints (x : Int) (q : List Int)
  deriving DecidableEq, Repr

/-- The element format of an activation code. -/
def actFmt (c : Nat) : Fmt := match c with | 0 => e4m3 | 1 => e5m2 | 2 => bf16 | 3 => fp16 | _ => e4m3

/-- ⌊log₂ |a|⌋ + 1 of a nonzero finite value. -/
def expOf : Num → Option Int
  | .fin _ n d => if n = 0 then none else some (floorLog2 n d + 1)
  | _ => none

/-- RNE(a × 2^(P−1−X)), a positive 2^(P−1) clamped. -/
def alignOne (p : Nat) (x : Int) (a : Num) : Int :=
  match a with
  | .fin s n d =>
    if n = 0 then 0
    else
      let m := (roundUnits s n d (x - (p : Int) + 1) { mode := 1 }).1
      if s then -(m : Int) else if m = 2 ^ (p - 1) then (m : Int) - 1 else m
  | _ => 0

/-- Align the 24 elements of a block, given as bytes, with the block's scale byte for codes 4 and 5 (R70 step 1). -/
def alignBlock (c : Nat) (bs : List Byte) (scale : Nat) : Block :=
  if c = 5 then
    if scale = 255 then .nan
    else .ints ((scale : Int) - 127 + 7) (bs.map (fun b => b.toInt))
  else if c = 4 ∧ scale = 255 then .nan
  else
    let w := blockBytes c / 24
    let raw := fun (i : Nat) => (actFmt c).decode (leNat ((bs.drop (w * i)).take w))
    let val := fun (i : Nat) => if c = 4 then (raw i).mul (.ofScaled false 1 ((scale : Int) - 127)) else raw i
    let as := (List.range 24).map val
    if as.any (fun a => match a with | .fin .. => false | _ => true) then .nan
    else
      match (as.filterMap expOf).foldl (fun (m : Option Int) e => some (match m with | none => e | some x => max x e)) none with
      | none => .ints 0 (List.replicate 24 0)
      | some x => .ints x (as.map (alignOne (alignBits c) x))

/-- The contribution T of a block to a column (R70 steps 2 to 4), as FP32 bits. -/
def blockTerm (c : Nat) (b : Block) (ws : List Int) (g : Num) : Nat :=
  match b with
  | .nan => fp32.qnan
  | .ints x q =>
    let sum : Int := ((q.zip ws).map (fun e => e.1 * e.2)).foldl (· + ·) 0
    match g with
    | .nan => fp32.qnan
    | .inf s => if sum = 0 then fp32.qnan else (fp32.round (.inf (s != decide (sum < 0))) {}).1
    | .fin gs gn gd =>
      if sum = 0 then fp32.pack gs 0
      else
        let p := pow2 (x - (alignBits c : Int) + 1)
        (fp32.round (.fin (gs != decide (sum < 0)) (sum.natAbs * gn * p.1) (gd * p.2)) {}).1

/-- Step 5 of R70. -/
def accumulate (acc t : Nat) : Nat := (fp32.round ((fp32.decode acc).add false (fp32.decode t)) {}).1

end Sys2Proof.Machine
end

