-- ==== Sys2Proof/Machine/Engine.lean ====
section
/-! DEFINITION. Machine/Engine.lean: the matrix engine of a core: acceptance of its operations, their execution and
completion, suspension, stop, MPROG and MSEQ (R201 to R223). -/
namespace Sys2Proof.Machine

/-! ### Acceptance (R203) -/

/-- No room in the engine queue: 16 operations per core and 4 per group, stopped ones included (R203). -/
def State.engineFull (s : State) (gid core : Nat) : Bool :=
  let q := (s.core core).engine
  decide (16 ≤ q.length) || decide (4 ≤ (q.filter (fun e => decide (e.1 = gid))).length)

/-- A wave that waits for room stops at its word when its group is entering a trap while stopped operations hold the
room: nothing else could end its wait. -/
def State.queueWait (s : State) : State :=
  let w := s.cw
  if s.cg.entering.isSome ∧ s.cg.ops.any (fun o => o.stopped || o.stopReq) then
    (s.updCur (fun g => (g.stopAt w).setWave s.curWave { w with phase := .stopped, pfx := none })).settle s.curGroup
  else s

/-- Run a word of pipe E charged by its fl bit; an engine operation also needs room in the queue (R86, R196, R203). -/
def State.eWord (s : State) (ok l engine : Bool) (k : State → State) : State :=
  s.uWord ok (fun s =>
    if s.held (s.cw.flagOf l) then s
    else if engine && s.engineFull s.curGroup s.cg.core then s.queueWait
    else k s)

/-- Argument `i` of an operation. -/
def POp.arg (o : POp) (i : Nat) : Nat := o.args.getD i 0

/-- The b-register of the record through which an operation of the engine works on path M, if any. -/
def POp.recordOf (o : POp) : Option Nat :=
  match o.instr with
  | .chload .. => some (o.arg 7)
  | .mmag .. => some (o.arg 14)
  | .accld .. | .accst .. => some (o.arg 10)
  | _ => none

/-- Accept an engine operation: it takes its place in the queue of the core. -/
def State.accept (s : State) (i : Instr) (l : Bool) (args : List Nat) (vals : Tab Nat) : State :=
  let op := s.nextOp
  let gid := s.curGroup
  let core := s.cg.core
  let o : POp := { instr := i, flag := s.cw.flagOf l, act := s.cw.en, args := args, vals := vals, accepted := true
                   stopReq := isStoppable i && s.cg.entering.any (fun t => decide (t.cause = 0x0B)) }
  let s := s.issueOp { o with recd := match o.recordOf with | some br => s.cg.brec br | none => 0 }
  (s.updCore core (fun c => { c with engine := c.engine ++ [(gid, op)] })).nextWord

/-- Check a format slot for a role: its word, or the trap (R37). -/
def State.withSlot (s : State) (i : BitVec 3) (role : Nat → Bool) (k : Word → State) : State :=
  let w := s.slot i.toNat
  if slotOk w && role (slotFmt w) then k w else s.slotTrap i.toNat

/-- The tile of an a-handle, or the trap SHAPE (R34). -/
def State.withTile (s : State) (h : BitVec 5) (k : Tile → State) : State :=
  match vecGet s.cg.a h.toNat none with
  | some t => k t
  | none => s.shapeTrap h.toNat

/-- A tile as arguments 0 to 5 of an operation. -/
def tileArgs (t : Tile) : List Nat := [t.base, t.rows, t.cols, if t.f16 then 1 else 0, t.rnd, if t.sat then 1 else 0]
/-- The tile of an operation. -/
def POp.tile (o : POp) : Tile :=
  { base := o.arg 0, rows := o.arg 1, cols := o.arg 2, f16 := decide (o.arg 3 = 1), rnd := o.arg 4, sat := decide (o.arg 5 = 1) }

/-- ALIGN of a U-set word for an address on a path. -/
def State.alignTrap (s : State) (va path : Nat) (write : Bool) (br : Nat) : State :=
  s.addrTrap cALIGN va path write br s.cw.en

/-! ### Chambers (R201, R206, R208) -/

/-- Chambers of the team's reservation that no group holds. -/
def Team.freeChambers (t : Team) : Nat := t.reserved - (t.chambers.map (fun e => e.2.count)).sum

/-- CHLOAD (R206). -/
def execChload (h : BitVec 5) (x y : BitVec 6) (b : BitVec 3) (l : Bool) (s : State) : Res :=
  finish (s.eWord true l true (fun s =>
    let g := s.cg
    let v := (g.sreg y.toNat).toNat
    let off := (g.sreg x.toNat).toNat
    let br := v % 16
    let r := g.brec br
    let kb := v / 2 ^ 4 % 2 ^ 8
    let n := v / 2 ^ 12 % 2 ^ 12
    if !recOk (s.ctx g.ctx) r [5] recPr then s.recordTrap pathM false br s.cw.en
    else s.withSlot b isWeight (fun w =>
      let code := slotFmt w
      let t := s.team g.team
      let need := (kb + 7) / 8 * ((n + chamberCols code - 1) / chamberCols code)
      if kb = 0 ∨ n = 0 ∨ v / 2 ^ 24 ≠ 0 then s.shapeTrap h.toNat
      else if off % (if isSparse code then 8 else 4) ≠ 0 then s.alignTrap (vaWrap (recBase r + off)) pathM false br
      else if (vecGet t.h h.toNat none).isSome then s.shapeTrap h.toNat
      else if t.freeChambers < need then s.shapeTrap h.toNat
      else
        let id := s.nextOp
        let c : Chamber := { count := need, fmt := code, kBlocks := kb, cols := n }
        let s := s.updTeam g.team (fun t => { t with h := vecSet t.h h.toNat (some id), chambers := tset t.chambers id c })
        s.accept (.chload h x y b l) l [id, kb, n, code, recBase r + off, recBase r + recExtent r * recEz r, userArg g, br] [])))

/-- CHREL (R208): the handle is unbound at acceptance. -/
def execChrel (h : BitVec 5) (l : Bool) (s : State) : Res :=
  finish (s.eWord true l true (fun s =>
    let t := s.team s.cg.team
    match vecGet t.h h.toNat none with
    | none => s.shapeTrap h.toNat
    | some id =>
      (s.updTeam s.cg.team (fun t => { t with h := vecSet t.h h.toNat none })).accept (.chrel h l) l [id] []))

/-! ### Tiles (R209, R213 to R217) -/

/-- ATDEF (R209): the handle is bound at acceptance. -/
def execAtdef (h : BitVec 5) (x y : BitVec 6) (a : BitVec 3) (l : Bool) (s : State) : Res :=
  finish (s.eWord true l true (fun s =>
    let g := s.cg
    let base := (g.sreg x.toNat).toNat
    let v := (g.sreg y.toNat).toNat
    let cols := v % 2 ^ 16
    let f16 := decide (v / 2 ^ 16 % 2 = 1)
    let bytes := g.width * cols * (if f16 then 2 else 4)
    if base % 64 ≠ 0 ∨ cols < 16 ∨ 4096 < cols ∨ cols % 16 ≠ 0 ∨ v / 2 ^ 17 ≠ 0
        ∨ (s.team g.team).accLen < base + bytes then s.shapeTrap h.toNat
    else s.withSlot a (fun c => decide (c = if f16 then 19 else 18)) (fun w =>
      let t : Tile := { base := base, rows := g.width, cols := cols, f16 := f16, rnd := slotRnd w, sat := slotSat w }
      (s.updCur (fun g => { g with a := vecSet g.a h.toNat (some t) })).accept (.atdef h x y a l) l [] [])))

/-- Where the rows of A come from (R211): scratchpad, memory, registers. -/
inductive RowSrc where
  | spad | mem | regs
  deriving DecidableEq, Repr

/-- A matrix product (R210, R211). -/
def State.product (s : State) (i : Instr) (src : RowSrc) (h : BitVec 5) (x y : BitVec 6) (a b : BitVec 3) (l : Bool) : State :=
  s.eWord true l true (fun s => s.withTile h (fun t =>
    let g := s.cg
    let v := (g.sreg y.toNat).toNat
    let q := (g.sreg x.toNat).toNat
    let tm := s.team g.team
    let hh := v % 32
    match vecGet tm.h hh none with
    | none => s.shapeTrap hh
    | some id =>
      let c := tget tm.chambers id {}
      let kb := if v / 2 ^ 5 % 128 = 0 then c.kBlocks else v / 2 ^ 5 % 128
      let br := v / 2 ^ 12 % 16
      let stride := v / 2 ^ 16 * 16
      if c.kBlocks < kb then s.shapeTrap hh
      else if (src ≠ .mem ∧ br ≠ 0) ∨ (src = .regs ∧ stride ≠ 0) then s.shapeTrap h.toNat
      else s.withSlot a isAct (fun wa => s.withSlot b (fun f => decide (f = c.fmt)) (fun _ =>
        let code := slotFmt wa
        let rb := rowBytes code kb
        let rows := lanesOf s.cw.en
        if t.cols < c.cols then s.shapeTrap h.toNat
        else
          let go := fun (kind base limit : Nat) (vals : Tab Nat) =>
            s.accept i l (tileArgs t ++ [id, kb, code, kind, base, stride, limit, userArg g, br]) vals
          match src with
          | .spad =>
            if q % 16 ≠ 0 then s.alignTrap q pathL false 0
            else if rows.any (fun r => decide (tm.spadLen < q + r * stride + rb)) then s.shapeTrap h.toNat
            else go 0 q 0 []
          | .mem =>
            let r := g.brec br
            if !recOk (s.ctx g.ctx) r [0, 6] recPr then s.recordTrap pathM false br s.cw.en
            else if q % 16 ≠ 0 then s.alignTrap (vaWrap (recBase r + q)) pathM false br
            else go 1 (recBase r + q) (recBase r + recExtent r * recEz r) []
          | .regs =>
            let k := (rb + 3) / 4
            if g.n < q + k then s.shapeTrap h.toNat
            else go 2 0 0 (rows.foldl (fun t r =>
              (List.range k).foldl (fun t j => tset t (r * 1024 + j) (g.vreg (q + j) r).toNat) t) [])))))

/-- MMA (R211). -/
def execMma (h : BitVec 5) (x y : BitVec 6) (a b : BitVec 3) (l : Bool) (s : State) : Res :=
  finish (s.product (.mma h x y a b l) .spad h x y a b l)
/-- MMAG (R211). -/
def execMmag (h : BitVec 5) (x y : BitVec 6) (a b : BitVec 3) (l : Bool) (s : State) : Res :=
  finish (s.product (.mmag h x y a b l) .mem h x y a b l)
/-- MMAV (R211). -/
def execMmav (h : BitVec 5) (x y : BitVec 6) (a b : BitVec 3) (l : Bool) (s : State) : Res :=
  finish (s.product (.mmav h x y a b l) .regs h x y a b l)

/-- ACCZ (R213). -/
def execAccz (h : BitVec 5) (l : Bool) (s : State) : Res :=
  finish (s.eWord true l true (fun s => s.withTile h (fun t => s.accept (.accz h l) l (tileArgs t) [])))

/-- ACCLD and ACCST (R214). -/
def State.accMove (s : State) (i : Instr) (h : BitVec 5) (x y : BitVec 6) (l write : Bool) : State :=
  s.eWord true l true (fun s => s.withTile h (fun t =>
    let g := s.cg
    let off := (g.sreg x.toNat).toNat
    let v := (g.sreg y.toNat).toNat
    let br := v % 16
    let r := g.brec br
    if !recOk (s.ctx g.ctx) r [0, 6] (if write then recPw else recPr) then s.recordTrap pathM write br s.cw.en
    else if off % 16 ≠ 0 then s.alignTrap (vaWrap (recBase r + off)) pathM write br
    else if v / 2 ^ 4 % 2 ^ 12 ≠ 0 then s.shapeTrap h.toNat
    else s.accept i l (tileArgs t ++ [recBase r + off, v / 2 ^ 16 * 16, recBase r + recExtent r * recEz r, userArg g, br]) []))

/-- ACCLD (R214). -/
def execAccld (h : BitVec 5) (x y : BitVec 6) (l : Bool) (s : State) : Res :=
  finish (s.accMove (.accld h x y l) h x y l false)
/-- ACCST (R214). -/
def execAccst (h : BitVec 5) (x y : BitVec 6) (l : Bool) (s : State) : Res :=
  finish (s.accMove (.accst h x y l) h x y l true)

/-- ACCRD and ACCWR (R215). -/
def State.accLanes (s : State) (i : Instr) (h : BitVec 5) (x y : BitVec 6) (c : BitVec 3) (l write : Bool) : State :=
  s.eWord true l true (fun s => s.withTile h (fun t =>
    let g := s.cg
    let q := (g.sreg x.toNat).toNat
    let col := (g.sreg y.toNat).toNat
    let m := c.toNat + 1
    if g.n < q + m ∨ t.cols < col + m then s.shapeTrap h.toNat
    else s.accept i l (tileArgs t ++ [q, col, m])
      (if write then (lanesOf s.cw.en).foldl (fun tb r =>
        (List.range m).foldl (fun tb j => tset tb (r * 64 + j) (g.vreg (q + j) r).toNat) tb) [] else [])))

/-- ACCRD (R215). -/
def execAccrd (h : BitVec 5) (x y : BitVec 6) (c : BitVec 3) (l : Bool) (s : State) : Res :=
  finish (s.accLanes (.accrd h x y c l) h x y c l false)
/-- ACCWR (R215). -/
def execAccwr (h : BitVec 5) (x y : BitVec 6) (c : BitVec 3) (l : Bool) (s : State) : Res :=
  finish (s.accLanes (.accwr h x y c l) h x y c l true)

/-- ACCMAP (R216): fields that the function leaves unused must be zero. -/
def execAccmap (h : BitVec 5) (x y : BitVec 6) (f : MapFn) (l : Bool) (s : State) : Res :=
  let ok := match f with
    | .scalebias => true
    | .leaky => decide (y = 0)
    | _ => decide (x = 0) && decide (y = 0)
  finish (s.eWord ok l true (fun s => s.withTile h (fun t =>
    let g := s.cg
    let p := (g.sreg x.toNat).toNat
    let q := (g.sreg y.toNat).toNat
    let go := s.accept (.accmap h x y f l) l (tileArgs t ++ [p, q]) []
    if f = .scalebias then
      if p % 16 ≠ 0 then s.alignTrap p pathL false 0
      else if q % 16 ≠ 0 then s.alignTrap q pathL false 0
      else if (s.team g.team).spadLen < max p q + 4 * t.cols then s.shapeTrap h.toNat
      else go
    else go)))

/-- RFIL and REMA (R217). -/
def State.recur (s : State) (i : Instr) (h : BitVec 5) (x y : BitVec 6) (a : BitVec 3) (l : Bool) (vecs : Nat) : State :=
  s.eWord true l true (fun s => s.withTile h (fun t =>
    s.withSlot a (fun c => decide (c = 2) || decide (c = 3)) (fun w =>
      let g := s.cg
      let sa := (g.sreg x.toNat).toNat
      let ca := (g.sreg y.toNat).toNat
      let len := (s.team g.team).spadLen
      if sa % 16 ≠ 0 then s.alignTrap sa pathL true 0
      else if ca % 16 ≠ 0 then s.alignTrap ca pathL false 0
      else if (lanesOf s.cw.en).any (fun r => decide (len < sa + (r + 1) * t.cols * 2)) ∨ len < ca + vecs * 4 * t.cols then
        s.shapeTrap h.toNat
      else s.accept i l (tileArgs t ++ [sa, ca, slotFmt w, slotRnd w, if slotSat w then 1 else 0]) [])))

/-- RFIL (R217). -/
def execRfil (h : BitVec 5) (x y : BitVec 6) (a : BitVec 3) (l : Bool) (s : State) : Res :=
  finish (s.recur (.rfil h x y a l) h x y a l 2)
/-- REMA (R217). -/
def execRema (h : BitVec 5) (x y : BitVec 6) (a : BitVec 3) (l : Bool) (s : State) : Res :=
  finish (s.recur (.rema h x y a l) h x y a l 1)

/-- MPROG (R222): its entry is described when it completes. -/
def execMprog (e : BitVec 2) (x y : BitVec 6) (l : Bool) (s : State) : Res :=
  finish (s.eWord true l false (fun s => s.issueLater (.mprog e x y l) l s.cw.en 0 [] []))
/-- MSEQ (R223). -/
def execMseq (x y : BitVec 6) (l : Bool) (s : State) : Res :=
  finish (s.eWord true l false (fun s => s.issueLater (.mseq x y l) l s.cw.en 0 [] [(s.cg.sreg y.toNat).toNat]))

/-! ### Elements of tiles -/

/-- Offset of an element in the team's accumulator allocation (R209). -/
def Tile.at_ (t : Tile) (row col : Nat) : Nat := t.base + (row * t.cols + col) * (if t.f16 then 2 else 4)
/-- Stored bits of an element. -/
def Team.elem (tm : Team) (t : Tile) (row col : Nat) : Nat :=
  leNat (bytesAt tm.acc (t.at_ row col) (if t.f16 then 2 else 4))
/-- The team with the stored bits of an element replaced. -/
def Team.setElem (tm : Team) (t : Tile) (row col v : Nat) : Team :=
  { tm with acc := putBytes tm.acc (t.at_ row col) (natLe (if t.f16 then 2 else 4) v) }
/-- An element as FP32 bits: F16 widened exactly, a NaN made canonical (R70, R215). -/
def Team.elem32 (tm : Team) (t : Tile) (row col : Nat) : Nat :=
  let v := tm.elem t row col
  if t.f16 then (fp32.round (fp16.decode v) {}).1 else v
/-- Write FP32 bits to an element: rounded under the tile's slot into F16, with the row's generator (R67, R69). -/
def State.storeElem (s : State) (gid : Nat) (t : Tile) (row col v : Nat) : State :=
  let g := s.group gid
  if t.f16 then
    let r := fp16.round (fp32.decode v) { mode := t.rnd, sat := t.sat, gen := (g.lane row).gen }
    (s.updTeam g.team (fun tm => tm.setElem t row col r.1)).updGroup gid (fun g => g.setLane row { g.lane row with gen := r.2 })
  else s.updTeam g.team (fun tm => tm.setElem t row col v)

/-! ### Path M (R211, R214, R219, R220) -/

/-- How a read or write of path M, C or M's like ended. -/
inductive Moved where
  | ok (bs : List Byte) (oob : Bool)
  | absent (va : Nat) (replica : Bool)
  | bad (va : Nat)
  | poison (va key : Nat)
  deriving DecidableEq, Repr

/-- A reader on path M: the group, the b-register of the record it goes through, and the record at issue. -/
structure MReader where
  gid : Nat := 0
  br : Nat := 0
  recd : QWord := 0
  deriving DecidableEq, Repr

/-- The bytes of a key that a reader sees: on path M the group's own writes in the queue stand before the homes (R286, R298). -/
def State.mBytes (s : State) (m : Option MReader) (key n : Nat) : List Byte :=
  match m with
  | some x => (s.homeBytes key n).mapIdx (fun i b => s.mByte x.gid (key + i) b)
  | none => s.homeBytes key n

/-- The key at which a reader's load goes on; the L2 takes up the lines that it reads (R315), and on path M the record's prediction
register the translation (R410, R411). -/
def State.settleRead (s : State) (m : Option MReader) (va key n : Nat) : Nat × State :=
  let k := match m with | some x => s.loadKey x.gid x.br x.recd va key | none => key
  let s := match m with | some x => s.noteUse x.gid x.br x.recd false va | none => s
  (k, (linesOf k n).foldl (fun s l => s.holdL2 (l * 128)) s)

/-- Read the parts of a byte range: on path M, or at their homes. A look sets no bit in the pages' entries. -/
def State.homeSpans (s : State) (core ctx : Nat) (user look : Bool) (m : Option MReader) : List (Nat × Nat) → Moved × State
  | [] => (.ok [] false, s)
  | (va, n) :: rest =>
    let r := s.reach core ctx user false .read va look
    match r.1 with
    | .access => (.bad va, r.2)
    | .absent rep => (.absent va rep, r.2)
    | .ok key =>
      let s := r.2.checkPa key n
      if s.poisoned key n then (.poison va key, s)
      else
        let k := if look then (key, s) else s.settleRead m va key n
        let q := k.2.homeSpans core ctx user look m rest
        match q.1 with
        | .ok bs o => (.ok (k.2.mBytes m k.1 n ++ bs) o, q.2)
        | e => (e, q.2)

/-- Read `n` bytes from a virtual address; those from `limit` on read as zero (R211, R214). A range that cannot be read whole
is not read at all, and sets no A bit (R412). -/
def State.spanRead (s : State) (core ctx : Nat) (user : Bool) (m : Option MReader) (va n limit : Nat) : Moved × State :=
  let inside := min n (limit - va)
  let look := s.homeSpans core ctx user true m (pageSpans va inside)
  let r := match look.1 with
    | .ok .. => look.2.homeSpans core ctx user false m (pageSpans va inside)
    | _ => look
  match r.1 with
  | .ok bs _ => (.ok (bs ++ List.replicate (n - inside) 0#8) (decide (inside < n)), r.2)
  | e => (e, r.2)

/-- A read of an operation on path M. -/
def State.mRead (s : State) (gid : Nat) (o : POp) (user : Bool) (va n limit : Nat) : Moved × State :=
  let g := s.group gid
  s.spanRead g.core g.ctx user (some { gid := gid, br := o.recordOf.getD 0, recd := o.recd }) va n limit

/-- A read on path C: a Streamer's, which the queue of path M does not serve (R283, R297). -/
def State.cRead (s : State) (core ctx : Nat) (user : Bool) (va n limit : Nat) : Moved × State :=
  s.spanRead core ctx user none va n limit

/-- Look whether every part of a range may be written, before any byte is (R214, R220); only a look that the write
follows sets bits in the pages' entries (R412). -/
def State.mayWrite (s : State) (core ctx : Nat) (user look : Bool) : List (Nat × Nat) → Moved × List (Nat × Nat) × State
  | [] => (.ok [] false, [], s)
  | (va, n) :: rest =>
    let r := s.reach core ctx user false .write va look
    match r.1 with
    | .access => (.bad va, [], r.2)
    | .absent rep => (.absent va rep, [], r.2)
    | .ok key =>
      if (r.2.ctx ctx).sealed va n then (.bad va, [], r.2)
      else
        let q := r.2.mayWrite core ctx user look rest
        (q.1, (key, n) :: q.2.1, q.2.2)

/-- Look at a range first and, where every part may be written, claim it for a write that follows: A and D are set then
(R412), and an entry that has changed under its held translation is walked again. -/
def State.claimWrite (s : State) (core ctx : Nat) (user : Bool) (spans : List (Nat × Nat)) :
    Moved × List (Nat × Nat) × State :=
  let r := s.mayWrite core ctx user true spans
  match r.1 with
  | .ok .. => r.2.2.mayWrite core ctx user false spans
  | _ => r

/-- Write bytes to the parts of a range at their homes. -/
def State.putSpans (s : State) : List (Nat × Nat) → List Byte → State
  | [], _ => s
  | (key, n) :: rest, bs => (s.putHome key (bs.take n)).putSpans rest (bs.drop n)

/-- Write bytes to the parts of a range on path M: they wait in its queue (R297). -/
def State.queueSpans (s : State) (gid : Nat) : List (Nat × Nat) → List Byte → State
  | [], _ => s
  | (key, n) :: rest, bs =>
    ({ s with mq := s.mq ++ [{ gid := gid, key := key, bytes := bs.take n }] } : State).queueSpans gid rest (bs.drop n)

/-- Write bytes at a virtual address; those from `limit` on are discarded (R214). -/
def State.spanWrite (s : State) (core ctx : Nat) (user : Bool) (va : Nat) (bs : List Byte) (limit : Nat)
    (put : State → List (Nat × Nat) → List Byte → State) : Moved × State :=
  let inside := min bs.length (limit - va)
  let r := s.claimWrite core ctx user (pageSpans va inside)
  match r.1 with
  | .ok _ _ => (.ok [] (decide (inside < bs.length)), put r.2.2 r.2.1 bs)
  | e => (e, r.2.2)

/-- A write of a group on path M. -/
def State.mWrite (s : State) (gid : Nat) (o : POp) (user : Bool) (va : Nat) (bs : List Byte) (limit : Nat) : Moved × State :=
  let g := s.group gid
  s.spanWrite g.core g.ctx user va bs limit (fun s =>
    (s.noteUse gid (o.recordOf.getD 0) o.recd false (vaWrap va)).queueSpans gid)

/-- A write of a group on path C; one to a host or peer page follows what the group has in the queue of path M for such pages
(R288 row 3). -/
def State.cWrite (s : State) (gid : Nat) (user : Bool) (va : Nat) (bs : List Byte) (limit : Nat) : Moved × State :=
  let g := s.group gid
  s.spanWrite g.core g.ctx user va bs limit (fun s ks => (ks.foldl (fun s k => s.drainH gid k.1) s).putSpans ks)

/-! ### Running an operation -/

/-- How far a run came. -/
inductive Ran where
  | done
  | limit
  | absent (va : Nat) (write replica : Bool)
  | failed (va : Nat)
  | poison (va key : Nat)
  deriving DecidableEq, Repr

/-- What a move means for a run that may go on. -/
def Moved.stop (m : Moved) (write : Bool) : Option Ran :=
  match m with
  | .ok _ _ => none
  | .absent va rep => some (.absent va write rep)
  | .bad va => some (.failed va)
  | .poison va key => some (.poison va key)

/-- The bytes of a move, and whether some lay outside the limit. -/
def Moved.bytes : Moved → List Byte
  | .ok bs _ => bs
  | _ => []
/-- Did a move meet the record's limit? -/
def Moved.oob : Moved → Bool
  | .ok _ o => o
  | _ => false

/-- Elements and scale byte of block `j` of row `i` of a product (R61, R211). -/
def State.rowBlock (s : State) (gid : Nat) (o : POp) (i j : Nat) : Moved × Nat × State :=
  let g := s.group gid
  let kb := o.arg 7
  let code := o.arg 8
  let bb := blockBytes code
  let row := o.arg 10 + i * o.arg 11
  let scaled := decide (code = 4) || decide (code = 5)
  match o.arg 9 with
  | 0 =>
    let sp := (s.team g.team).spad
    (.ok (bytesAt sp (row + bb * j) bb) false, (byteAt sp (row + bb * kb + j)).toNat, s)
  | 1 =>
    let user := decide (o.arg 13 = 1)
    let a := s.mRead gid o user (row + bb * j) bb (o.arg 12)
    if (a.1.stop false).isSome || !scaled then (a.1, 0, a.2)
    else
      let b := a.2.mRead gid o user (row + bb * kb + j) 1 (o.arg 12)
      match b.1 with
      | .ok bs ob => (.ok a.1.bytes (a.1.oob || ob), leNat bs, b.2)
      | e => (e, 0, b.2)
  | _ =>
    let at_ := fun (k : Nat) => BitVec.ofNat 8 (tget o.vals (i * 1024 + k / 4) 0 / 2 ^ (8 * (k % 4)))
    (.ok ((List.range bb).map (fun k => at_ (bb * j + k))) false, (at_ (bb * kb + j)).toNat, s)

/-- Block `j` of every updated row. -/
def State.rowBlocks (s : State) (gid : Nat) (o : POp) (j : Nat) : List Nat → Except Ran (List (Nat × Block) × Bool) × State
  | [] => (.ok ([], false), s)
  | i :: is =>
    let r := s.rowBlock gid o i j
    match r.1.stop false with
    | some e => (.error e, r.2.2)
    | none =>
      let q := r.2.2.rowBlocks gid o j is
      match q.1 with
      | .error e => (.error e, q.2)
      | .ok (l, oob) => (.ok ((i, alignBlock (o.arg 8) r.1.bytes r.2.1) :: l, r.1.oob || oob), q.2)

/-- Key of a widened element in an operation's values. -/
def wideKey (row col : Nat) : Nat := 2 ^ 20 + row * 4096 + col

/-- Add block `j` to the rows: into the tile, or into the widened rows of an F16 tile that the operation holds (R70). -/
def State.addBlock (s : State) (gid : Nat) (o : POp) (c : Chamber) (j : Nat) (rows : List (Nat × Block)) : POp × State :=
  let team := (s.group gid).team
  let t := o.tile
  rows.foldl (fun (a : POp × State) rb =>
    (List.range c.cols).foldl (fun (a : POp × State) n =>
      let ws := (List.range 24).map (fun m => tget c.weights (n * 2 ^ 13 + 24 * j + m) 0)
      let term := blockTerm (o.arg 8) rb.2 ws (scaleNum (tget c.scales (n * 2 ^ 8 + j) 0))
      if t.f16 then
        let k := wideKey rb.1 n
        ({ a.1 with vals := tset a.1.vals k (accumulate (tget a.1.vals k 0) term) }, a.2)
      else
        (a.1, a.2.updTeam team (fun tm => tm.setElem t rb.1 n (accumulate (tm.elem32 t rb.1 n) term)))) a) (o, s)

/-- Widen the rows of an F16 tile before the first block (R70). -/
def State.widen (s : State) (gid : Nat) (o : POp) (cols : Nat) : POp :=
  let tm := s.team (s.group gid).team
  if o.tile.f16 && decide (o.stage = 0) then
    { o with vals := (lanesOf o.act).foldl (fun t i =>
        (List.range cols).foldl (fun t n => tset t (wideKey i n) (tm.elem32 o.tile i n)) t) o.vals }
  else o

/-- Blocks of a product from its counter, `fuel` of them at most. A block that is not read whole leaves nothing behind: what was read
of it was ahead of the counter (R412, R413). -/
def State.runBlocks (s : State) (gid : Nat) (o : POp) (c : Chamber) : Nat → Ran × POp × State
  | 0 => (if o.stage = o.arg 7 then .done else .limit, o, s)
  | fuel + 1 =>
    if o.stage = o.arg 7 then (.done, o, s)
    else
      let r := s.rowBlocks gid o o.stage (lanesOf o.act)
      match r.1 with
      | .error e => (e, o, s)
      | .ok (rows, oob) =>
        let a := r.2.addBlock gid o c o.stage rows
        let o' := { a.1 with stage := a.1.stage + 1, oob := if oob then 1 else a.1.oob }
        a.2.runBlocks gid o' c fuel

/-- The rows of an F16 tile rounded once at the end, ascending column, each row drawing from its lane (R69, R70). -/
def State.flushWide (s : State) (gid : Nat) (o : POp) : State :=
  (lanesOf o.act).foldl (fun s i =>
    (List.range o.tile.cols).foldl (fun s n =>
      match tget? o.vals (wideKey i n) with
      | some v => s.storeElem gid o.tile i n v
      | none => s) s) s

/-- The bytes of a sparse column's image, unit by unit and no byte past its end (R60, R207, R413): each unit's mask says
how many bytes its elements take. The reading ends at the record's limit. -/
def State.sparseImage (s : State) (gid : Nat) (o : POp) (va : Nat) : Nat → Nat → Except Ran (List Byte) × State
  | 0, _ => (.ok [], s)
  | fuel + 1, ext =>
    let get := fun (s : State) (va n : Nat) => s.mRead gid o (decide (o.arg 6 = 1)) va n (o.arg 5)
    let more : State → List Byte → Nat → Nat → Except Ran (List Byte) × State := fun s head va ext =>
      let q := s.sparseImage gid o va fuel ext
      match q.1 with
      | .ok bs => (Except.ok (head ++ bs), q.2)
      | e => (e, q.2)
    if ext = 0 then
      let kb := o.arg 1
      let r := get s va ((scaleBytes (o.arg 3) * kb + 7) / 8 * 8)
      match r.1 with
      | .ok bs oob => (.ok (if oob then [] else bs), r.2)
      | e => (.error ((e.stop false).getD (.failed va)), r.2)
    else
      let r := get s va 16
      match r.1 with
      | .ok mask oob =>
        let n := (maskBits (leNat mask)).length
        let q := get r.2 (va + 16) (sparseBytes (o.arg 3) n)
        match q.1 with
        | .ok elems oob' =>
          if oob || oob' then (Except.ok [], q.2) else more q.2 (mask ++ elems) (va + 16 + elems.length) (ext - 128)
        | e => (.error ((e.stop false).getD (.failed va)), q.2)
      | e => (.error ((e.stop false).getD (.failed va)), r.2)

/-- One column of a weight stream: where it lies and its bytes (R207). -/
def State.columnBytes (s : State) (gid : Nat) (o : POp) (n : Nat) : Except Ran (Nat × List Byte) × State :=
  let user := decide (o.arg 6 = 1)
  let code := o.arg 3
  let kb := o.arg 1
  let base := o.arg 4
  let limit := o.arg 5
  if isSparse code then
    let h := s.mRead gid o user (base + 4 * n) 4 limit
    match h.1.stop false with
    | some e => (.error e, h.2)
    | none =>
      let off := leNat h.1.bytes
      if h.1.oob ∨ off % 8 ≠ 0 ∨ limit ≤ base + off then (.error (.failed (vaWrap (base + 4 * n))), h.2)
      else
        let b := h.2.sparseImage gid o (base + off) ((24 * kb + 127) / 128 + 1) (24 * kb)
        match b.1 with
        | .error e => (.error e, b.2)
        | .ok bs => (.ok (off, bs), b.2)
  else
    let size := kb * unitBytes code
    let b := s.mRead gid o user (base + n * size) size limit
    match b.1.stop false with
    | some e => (.error e, b.2)
    | none =>
      if b.1.oob then (.error (.failed (vaWrap limit)), b.2) else (.ok (n * size, b.1.bytes), b.2)

/-- A loaded column written into its chamber group. -/
def Chamber.put (c : Chamber) (n : Nat) (col : Column) : Chamber :=
  { c with
    weights := (col.ws.mapIdx (fun k w => (n * 2 ^ 13 + k, w))).foldl (fun t e => tset t e.1 e.2) c.weights
    scales := (col.gs.mapIdx (fun j v => (n * 2 ^ 8 + j, v))).foldl (fun t e => tset t e.1 e.2) c.scales }

/-- Columns of a CHLOAD from its counter, `fuel` of them at most (R207, R219). The extents of sparse columns are kept in
the operation's values, so that an overlap is found. -/
def State.runColumns (s : State) (gid : Nat) (o : POp) : Nat → Ran × POp × State
  | 0 => (if o.stage = o.arg 2 then .done else .limit, o, s)
  | fuel + 1 =>
    if o.stage = o.arg 2 then (.done, o, s)
    else
      let team := (s.group gid).team
      let n := o.stage
      let code := o.arg 3
      let r := s.columnBytes gid o n
      match r.1 with
      | .error e => (e, o, s)
      | .ok (off, bs) =>
        let here := vaWrap (o.arg 4 + off)
        let col : Option (Column × Nat) :=
          if isSparse code then sparseColumn code (o.arg 1) bs
          else (denseColumn code (o.arg 1) bs).map (fun c => (c, bs.length))
        match col with
        | none => (.failed here, o, r.2)
        | some (c, len) =>
          let clash := isSparse code && (decide (bs.length < len)
            || (List.range n).any (fun m => overlap (tget o.vals (2 * m) 0) (tget o.vals (2 * m + 1) 0) off len))
          if clash then (.failed here, o, r.2)
          else
            let s := r.2.updTeam team (fun t =>
              { t with chambers := tset t.chambers (o.arg 0) ((tget t.chambers (o.arg 0) {}).put n c) })
            let o' := { o with stage := n + 1, vals := tset (tset o.vals (2 * n) off) (2 * n + 1) len }
            s.runColumns gid o' fuel

/-- The zero fill after the offsets of a sparse stream (R207). -/
def State.sparsePad (s : State) (gid : Nat) (o : POp) : Option Ran × State :=
  if isSparse (o.arg 3) && decide (o.arg 2 % 2 = 1) && decide (o.stage = 0) then
    let va := o.arg 4 + 4 * o.arg 2
    let r := s.mRead gid o (decide (o.arg 6 = 1)) va 4 (o.arg 5)
    match r.1.stop false with
    | some e => (some e, r.2)
    | none => (if leNat r.1.bytes ≠ 0 ∨ r.1.oob then some (.failed (vaWrap va)) else none, r.2)
  else (none, s)

/-- Does a write of an operation to a VA wait: its page's home is the host or a peer, and an earlier write on path H of the group
has still to perform (R288 row 3)? -/
def State.hHeld (s : State) (gid : Nat) (o : POp) (va : Nat) : Bool :=
  let g := s.group gid
  let h := match (s.translate g.core g.ctx false (vaWrap va)).1 with
    | some t => decide (2 ≤ pteHome t.leaf)
    | none => false
  h && (g.earlier o).any (·.hWrites)

/-- Rows of ACCLD and ACCST from the counter (R214, R219). -/
def State.runRows (s : State) (gid : Nat) (o : POp) (write : Bool) : List Nat → Ran × POp × State
  | [] => (.done, o, s)
  | i :: is =>
    let g := s.group gid
    let t := o.tile
    let n := t.cols * (if t.f16 then 2 else 4)
    let va := o.arg 6 + i * o.arg 7
    let user := decide (o.arg 9 = 1)
    let at_ := t.at_ i 0
    if write && s.hHeld gid o va then (.limit, o, s)
    else
    let r := if write then s.mWrite gid o user va (bytesAt (s.team g.team).acc at_ n) (o.arg 8)
      else s.mRead gid o user va n (o.arg 8)
    match r.1.stop write with
    | some e => (e, o, r.2)
    | none =>
      let s := if write then r.2 else
        let s := r.2.updTeam g.team (fun tm => { tm with acc := putBytes tm.acc at_ r.1.bytes })
        { s with poison := clearPoison s.poison (accKey g.team at_) (16 * n) }
      s.runRows gid { o with stage := o.stage + 1, oob := if r.1.oob then 1 else o.oob } write is

/-- The result of ACCMAP for an element as FP32 bits (R216); the candidate stands for what SIGM and TANH leave open. -/
def mapFn (f : MapFn) (x slope g b cand : Nat) : Nat :=
  let v := fp32.decode x
  if v.isNan then fp32.qnan
  else match f with
    | .relu => if (Num.fin false 0 1).lt v then x else 0
    | .leaky => if v.lt (.fin false 0 1) then (fp32.round (v.mul (fp32.decode slope)) {}).1 else x
    | .sigm => (fp32.round (xSigm v cand) {}).1
    | .tanh => (fp32.round (xTanh v cand) {}).1
    | .scalebias => (fp32.round ((v.mul (fp32.decode g)).add false (fp32.decode b)) {}).1

/-- Every element of the rows of an operation, in ascending row and column order. -/
def State.eachElem (s : State) (o : POp) (f : Nat → Nat → State → State) : State :=
  (lanesOf o.act).foldl (fun s i => (List.range o.tile.cols).foldl (fun s c => f i c s) s) s

/-- An FP32 value of the team's scratchpad. -/
def Team.word (t : Team) (off : Nat) : Nat := leNat (bytesAt t.spad off 4)

/-- RFIL and REMA on one element (R217): state and accumulator, one rounding for the state, draws in order. -/
def State.recurElem (s : State) (gid : Nat) (o : POp) (rema : Bool) (i c : Nat) : State :=
  let g := s.group gid
  let tm := s.team g.team
  let t := o.tile
  let fmt := if o.arg 8 = 2 then bf16 else fp16
  let sOff := o.arg 6 + (i * t.cols + c) * 2
  let x := fp32.decode (tm.elem32 t i c)
  let st := fmt.decode (leNat (bytesAt tm.spad sOff 2))
  let a := fp32.decode (tm.word (o.arg 7 + 4 * c))
  let b := fp32.decode (tm.word (o.arg 7 + 4 * (t.cols + c)))
  let rdn := decide (o.arg 9 = 4)
  let v := if rema then st.add rdn (a.mul (x.add rdn st.neg)) else (a.mul st).add rdn (b.mul x)
  let r := fmt.round v { mode := o.arg 9, sat := decide (o.arg 10 = 1), gen := (g.lane i).gen }
  let s := s.updTeam g.team (fun tm => { tm with spad := putBytes tm.spad sOff (natLe 2 r.1) })
  let s := s.updGroup gid (fun g => g.setLane i { g.lane i with gen := r.2 })
  if t.f16 ∧ o.arg 8 = 3 then s.updTeam g.team (fun tm => tm.setElem t i c r.1)
  else s.storeElem gid t i c (fp32.round (fmt.decode r.1) {}).1

/-- Chamber group that an operation names, if any. -/
def POp.chamber? (o : POp) : Option Nat :=
  match o.instr with
  | .chload .. | .chrel .. => some (o.arg 0)
  | .mma .. | .mmag .. | .mmav .. => some (o.arg 6)
  | _ => none

/-- Scratchpad ranges that an operation touches. -/
def POp.spadRanges (o : POp) : List (Nat × Nat) :=
  match o.instr with
  | .mma .. => (lanesOf o.act).map (fun i => (o.arg 10 + i * o.arg 11, rowBytes (o.arg 8) (o.arg 7)))
  | .accmap _ _ _ f _ => if f = .scalebias then [(o.arg 6, 4 * o.tile.cols), (o.arg 7, 4 * o.tile.cols)] else []
  | .rfil .. => (o.arg 7, 8 * o.tile.cols) :: (lanesOf o.act).map (fun i => (o.arg 6 + i * o.tile.cols * 2, o.tile.cols * 2))
  | .rema .. => (o.arg 7, 4 * o.tile.cols) :: (lanesOf o.act).map (fun i => (o.arg 6 + i * o.tile.cols * 2, o.tile.cols * 2))
  | _ => []

/-- Accumulator ranges whose elements an operation reads, one for each row, or writes whole. -/
def POp.accRows (o : POp) : List (Nat × Nat) :=
  let ez := if o.tile.f16 then 2 else 4
  (lanesOf o.act).map (fun i => match o.instr with
    | .accrd .. | .accwr .. => (o.tile.at_ i (o.arg 7), o.arg 8 * ez)
    | _ => (o.tile.at_ i 0, o.tile.cols * ez))
/-- Does an operation read elements of its tile (R211 to R217)? -/
def readsAcc : Instr → Bool
  | .mma .. | .mmag .. | .mmav .. | .accst .. | .accrd .. | .accmap .. | .rfil .. | .rema .. => true
  | _ => false

/-- Does an operation read poison of its team: accumulator elements, scratchpad lines, a chamber row, registers (R463, R464)? -/
def State.engineBad (s : State) (gid : Nat) (o : POp) : Bool :=
  let team := (s.group gid).team
  o.bad || (readsAcc o.instr && o.accRows.any (fun r => s.poisoned (accKey team r.1) (16 * r.2)))
    || o.spadRanges.any (fun r => s.poisoned (spadKey team r.1) r.2)
    || (readsAcc o.instr && (o.chamber?.bind (fun c => tget? (s.team team).chambers c)).any (·.poisoned))

/-- Accumulator elements that an operation has written whole are no longer poisoned (R464). -/
def State.clearAcc (s : State) (gid : Nat) (o : POp) : State :=
  { s with poison := o.accRows.foldl (fun p r => clearPoison p (accKey (s.group gid).team r.1) (16 * r.2)) s.poison }

/-- Does an operation name a chamber group whose load has failed (R206)? -/
def State.chamberGone (s : State) (gid : Nat) (o : POp) : Bool :=
  match o.chamber? with
  | some id => (tget? (s.team (s.group gid).team).chambers id).isNone
  | none => false

/-- Run an operation from its counter up to a boundary; one that reads poison of its team ends in its error, with SYS_TADDR 0 (log
entry 75). -/
def State.runOp (s : State) (gid : Nat) (o : POp) (upto : Nat) : Ran × POp × State :=
  let g := s.group gid
  if s.chamberGone gid o then (.failed 0, o, s)
  else if s.engineBad gid o then (.poison 0 (spadKey g.team 0), o, s)
  else match o.instr with
  | .chload .. =>
    let p := s.sparsePad gid o
    match p.1 with
    | some e => (e, o, p.2)
    | none => p.2.runColumns gid o (upto - o.stage)
  | .mma .. | .mmag .. | .mmav .. =>
    let c := tget (s.team g.team).chambers (o.arg 6) {}
    s.runBlocks gid (s.widen gid o c.cols) c (upto - o.stage)
  | .accld .. => s.runRows gid o false ((lanesOf o.act).drop o.stage)
  | .accst .. => s.runRows gid o true ((lanesOf o.act).drop o.stage)
  | .accz .. => (.done, o, (s.eachElem o (fun i c s => s.updTeam g.team (fun tm => tm.setElem o.tile i c 0))).clearAcc gid o)
  | .accrd .. =>
    (.done, o, (lanesOf o.act).foldl (fun s i => (List.range (o.arg 8)).foldl (fun s j =>
      let v := (s.team g.team).elem32 o.tile i (o.arg 7 + j)
      s.updGroup gid (fun g => g.setV (o.arg 6 + j) i (BitVec.ofNat 32 v))) s) s)
  | .accwr .. =>
    (.done, o, ((lanesOf o.act).foldl (fun s i => (List.range (o.arg 8)).foldl (fun s j =>
      let v := tget o.vals (i * 64 + j) 0
      s.storeElem gid o.tile i (o.arg 7 + j) (if (fp32.decode v).isNan then fp32.qnan else v)) s) s).clearAcc gid o)
  | .accmap _ _ _ f _ =>
    (.done, o, s.eachElem o (fun i c s =>
      let tm := s.team g.team
      let w := fun (p : Nat) => if f = .scalebias then tm.word (p + 4 * c) else 0
      let fr : Nat × State := if f = .sigm ∨ f = .tanh then s.takeFree else (0, s)
      fr.2.storeElem gid o.tile i c (mapFn f (tm.elem32 o.tile i c) (o.arg 6) (w (o.arg 6)) (w (o.arg 7)) fr.1)))
  | .rfil .. => (.done, o, s.eachElem o (fun i c s => s.recurElem gid o false i c))
  | .rema .. => (.done, o, s.eachElem o (fun i c s => s.recurElem gid o true i c))
  | _ => (.done, o, s)

/-! ### Turns of the engine (R203, R204) -/

/-- The group that holds an operation. -/
def State.ownerOf (s : State) (op : Nat) : Option (Nat × POp) :=
  s.groups.findSome? (fun e => (e.2.op? op).map (fun o => (e.1, o)))

/-- Accumulator bytes that an operation touches: first and length. -/
def POp.accRange (o : POp) : Nat × Nat :=
  match o.instr with
  | .chload .. | .chrel .. | .atdef .. => (0, 0)
  | _ => (o.tile.base, o.tile.rows * o.tile.cols * (if o.tile.f16 then 2 else 4))

/-- State or coefficient vectors: the scratchpad bytes that R204 orders between groups. -/
def POp.vectorRanges (o : POp) : List (Nat × Nat) :=
  match o.instr with
  | .mma .. => []
  | _ => o.spadRanges

/-- Must an operation of another group of the team that was accepted earlier complete first (R204)? -/
def clashes (a b : POp) : Bool :=
  overlap a.accRange.1 a.accRange.2 b.accRange.1 b.accRange.2
    || a.vectorRanges.any (fun x => b.vectorRanges.any (fun y => overlap x.1 x.2 y.1 y.2))

/-- Engine operations of the core accepted before one, with their groups. -/
def State.acceptedBefore (s : State) (core op : Nat) : List (Nat × POp) :=
  ((s.core core).engine.takeWhile (fun e => decide (e.2 ≠ op))).filterMap (fun e =>
    ((s.group e.1).op? e.2).map (fun o => (e.1, o)))

/-- Chamber work of a team below the highest priority present on its die rests while firmware lets no such chamber work
(R25, R469; log entry 64). -/
def State.chamberRests (s : State) (core team : Nat) (i : Instr) : Bool :=
  (match i with | .chload .. | .mma .. | .mmag .. | .mmav .. => true | _ => false)
    && decide ((s.die (dieOf core)).chamberLimit = 0)
    && s.teams.any (fun e => decide (dieOf e.2.core = dieOf core) && !e.2.ended && decide ((s.team team).prio < e.2.prio))

/-- May an operation run now: not stopped, not suspended, its group's earlier operations complete but for stopped ones,
R204 kept, its weights loaded, its scratchpad lines present, the group's order of accesses kept, and its chambers at work. -/
def State.engineTurn (s : State) (core gid : Nat) (o : POp) : Bool :=
  let g := s.group gid
  let prior := s.acceptedBefore core o.id
  let t := s.team g.team
  decide ((gid, o.id) ∈ (s.core core).engine) && !o.stopped && o.suspended.isNone
    && prior.all (fun e => decide (e.1 ≠ gid) || e.2.stopped)
    && prior.all (fun e => decide (e.1 = gid) || decide ((s.group e.1).team ≠ g.team) || !clashes e.2 o)
    && (match o.instr, o.chamber? with
        | .chload .., _ => true
        | .chrel .., some id => prior.all (fun e => decide (e.2.chamber? ≠ some id) || (e.2.stopped && decide (e.1 = gid)))
        | _, some id => (match tget? t.chambers id with | some c => c.loaded | none => true)
        | _, none => true)
    && o.spadRanges.all (fun r => t.present r.1 r.2)
    && g.ready o && !s.chamberRests core g.team o.instr

/-- Chamber groups that a CHREL has released return once no accepted operation names them (R208). -/
def State.returnChambers (s : State) (team : Nat) : State :=
  let named := fun (id : Nat) => s.groups.any (fun e => decide (e.2.team = team) && e.2.ops.any (fun o =>
    isEngine o.instr && decide (o.chamber? = some id)))
  s.updTeam team (fun t => { t with chambers := t.chambers.filter (fun e => !(e.2.released && !named e.1)) })

/-- Take an operation out of the engine: the sequence number rises and the flag falls; an error raises its trap. -/
def State.engineEnd (s : State) (core gid : Nat) (o : POp) (t : Option (Nat → Trap)) : State :=
  let s := s.updCore core (fun c => { c with engine := c.engine.filter (fun e => decide (e ≠ (gid, o.id))) })
  let s := s.updGroup gid (fun g => { g.noteOob o.oob (s.core g.core).cycles with seq := g.seq + 1 })
  let s := match t with
    | none => s.opDone gid o
    | some f => s.opFailed gid o (f (s.group gid).seq.toNat)
  s.returnChambers (s.group gid).team

/-- Opcode of an engine operation (R205). -/
def engineOpc : Instr → Nat
  | .chload .. => 0x58 | .chrel .. => 0x59 | .atdef .. => 0x5A | .mma .. => 0x5B | .mmag .. => 0x5C
  | .mmav .. => 0x5D | .accz .. => 0x5E | .accld .. => 0x5F | .accst .. => 0x60 | .accrd .. => 0x61
  | .accwr .. => 0x62 | .accmap .. => 0x63 | .rfil .. => 0x64 | .rema .. => 0x65
  | _ => 0

/-- The trap ENGINE of an operation (R163, R220). -/
def engineTrap (o : POp) (va : Nat) (seq : Nat) : Trap :=
  { cause := 0x0F, kind := 3, addr := BitVec.ofNat 64 va, lanes := o.act
    detail := BitVec.ofNat 64 (engineOpc o.instr + 256 * o.flag.getD 15 + 2 ^ 32 * seq) }

/-- A CHLOAD that failed: its handle is unbound and its chambers return. Every operation accepted that names them
completes with error as well, each in its own place of the acceptance order (R203, R206): none finds its chamber group
when its turn comes. -/
def State.chloadFailed (s : State) (gid : Nat) (o : POp) : State :=
  let id := o.arg 0
  s.updTeam (s.group gid).team (fun t => { t with
    h := t.h.map (fun x => if x = some id then none else x), chambers := tdel t.chambers id })

/-- Append the ring entry of a suspended operation (R219, R414): requests of a group append in its issue order, so that the
operation waits with its entry for an instruction of the group that issued before it and has still to append (R426). -/
def State.suspend (s : State) (gid : Nat) (o : POp) (va : Nat) (write replica : Bool) : State :=
  if (s.group gid).appendsFirst o then s.updGroup gid (fun g => g.setOp o)
  else
  let r := s.request gid (pageEntry 2 va replica)
  let sp : Susp := { va := va, write := write, replica := replica, retryAt := s.ns + 4000
                     again := if r.1 = .logged then none else some s.ns }
  r.2.updGroup gid (fun g => g.setOp { o with suspended := some sp })

/-- What follows a run of an operation: completion, suspension or error (R206, R219, R220). -/
def State.afterRun (s : State) (core gid : Nat) (r : Ran) (o : POp) : State :=
  match r with
  | .done =>
    let s := s.flushWide gid o
    let s := match o.instr with
      | .chload .. => s.updTeam (s.group gid).team (fun t =>
          { t with chambers := tset t.chambers (o.arg 0) { tget t.chambers (o.arg 0) {} with loaded := true } })
      | .chrel .. => s.updTeam (s.group gid).team (fun t =>
          match tget? t.chambers (o.arg 0) with
          | some c => { t with chambers := tset t.chambers (o.arg 0) { c with released := true } }
          | none => t)
      | _ => s
    s.engineEnd core gid o none
  | .limit => s.updGroup gid (fun g => g.setOp o)
  | .absent va w rep => s.suspend gid o va w rep
  | .failed va =>
    let s := (s.flushWide gid o).engineEnd core gid o (some (engineTrap o va))
    (match o.instr with | .chload .. => s.chloadFailed gid o | _ => s)
  | .poison va key =>
    let t := s.poisonTrap va key o.act
    let s := (s.flushWide gid o).engineEnd core gid o (some (fun _ => t))
    (match o.instr with | .chload .. => s.chloadFailed gid o | _ => s)

/-- Boundaries of an operation: columns, blocks or rows (R219). -/
def POp.total (o : POp) : Nat :=
  match o.instr with
  | .chload .. => o.arg 2
  | .mma .. | .mmag .. | .mmav .. => o.arg 7
  | _ => 0

/-- A turn of the engine for an operation whose turn it is: it runs to its end. -/
def State.engineStep (s : State) (core op : Nat) (p : Instr → Bool) : State :=
  match s.ownerOf op with
  | none => s
  | some (gid, o) =>
    if !p o.instr || o.stopReq || !s.engineTurn core gid o then s
    else
      let r := s.runOp gid o o.total
      r.2.2.afterRun core gid r.1 r.2.1

/-- ENGINE_OP_COMPLETE (R203, R204, R210 to R218). -/
def execEngineOpComplete (core op : Nat) (s : State) : Res :=
  finish (s.engineStep core op (fun i => isEngine i && (match i with | .chload .. | .chrel .. => false | _ => true)))
/-- CHLOAD_COMPLETE (R206, R207). -/
def execChloadComplete (core op : Nat) (s : State) : Res :=
  finish (s.engineStep core op (fun i => match i with | .chload .. => true | _ => false))
/-- CHREL_COMPLETE (R208). -/
def execChrelComplete (core op : Nat) (s : State) : Res :=
  finish (s.engineStep core op (fun i => match i with | .chrel .. => true | _ => false))

/-- Is every operation of the group accepted before one complete? A product or load that stops does not pass a stopped
one, so that each goes on from its counter after TRET as if nothing had stopped (R221). -/
def State.firstOfGroup (s : State) (core gid : Nat) (o : POp) : Bool :=
  (s.acceptedBefore core o.id).all (fun e => decide (e.1 ≠ gid))

/-- ENGINE_STOP (R221): an operation that PREEMPT has told to stop runs to the boundary `upto` at most, if it is its
turn, and becomes a stopped operation there; one that reaches its end completes. -/
def execEngineStop (core op upto : Nat) (s : State) : Res :=
  match s.ownerOf op with
  | none => .next s
  | some (gid, o) =>
    if !o.stopReq || o.stopped then .next s
    else
      let lim := if s.engineTurn core gid o && s.firstOfGroup core gid o then max o.stage (min upto o.total) else o.stage
      let r := if lim = o.stage then (Ran.limit, o, s) else s.runOp gid o lim
      let stop := fun (o : POp) (s : State) =>
        (s.updGroup gid (fun g => (g.setOp { o with stopped := true, stopReq := false, suspended := none }).discharge o.flag))
      match r.1 with
      | .limit => finish (stop r.2.1 r.2.2)
      | .absent _ _ _ => finish (stop r.2.1 r.2.2)
      | e => finish (r.2.2.afterRun core gid e r.2.1)

/-! ### Suspended operations (R219, R414) -/

/-- PAGE_RETRY (R219, R234, R255, R414): 4 µs after the last try, the translation is tried again. -/
def execPageRetry (_core op : Nat) (s : State) : Res :=
  match s.ownerOf op with
  | none => .next s
  | some (gid, o) =>
    match o.suspended with
    | none => .next s
    | some sp =>
      if s.ns < sp.retryAt then .next s
      else
        let g := s.group gid
        let r := s.reach g.core g.ctx false false (if sp.write then .write else .read) sp.va true
        match r.1 with
        | .absent rep =>
          let later : Susp := { sp with retryAt := s.ns + 4000, replica := rep }
          finish (r.2.updGroup gid (fun g => g.setOp { o with suspended := some later }))
        | _ => finish (r.2.updGroup gid (fun g => g.setOp { o with suspended := none }))

/-- FEEDBACK_REAPPEND (R219, R414): a ring entry that was filtered or dropped is appended again after 16 µs. -/
def execFeedbackReappend (_core op : Nat) (s : State) : Res :=
  match s.ownerOf op with
  | none => .next s
  | some (gid, o) =>
    match o.suspended with
    | some sp =>
      match sp.again with
      | some t =>
        if s.ns < t + 16000 then .next s
        else
          let r := s.request gid (pageEntry 2 sp.va sp.replica)
          let later : Susp := { sp with again := if r.1 = .logged then none else some s.ns }
          finish (r.2.updGroup gid (fun g => g.setOp { o with suspended := some later }))
      | none => .next s
    | none => .next s

/-! ### MPROG and MSEQ (R222, R223) -/

/-- The group's engine list: accepted operations that have not completed, in acceptance order. -/
def State.engineList (s : State) (gid : Nat) : List POp :=
  let g := s.group gid
  (s.core g.core).engine.filterMap (fun e => if e.1 = gid then g.op? e.2 else none)

/-- How many operations of the list complete before entry `e` as matters stand: those that stand before it, a stopped one
after every one that is not (R203, R221, R222). -/
def completeBefore (list : List POp) (e : Nat) : Nat :=
  let mine := (list[e]?.map (·.stopped)).getD false
  ((list.take e).filter (fun p => decide (p.stopped = mine))).length
    + (if mine then (list.filter (fun p => !p.stopped)).length else 0)

/-- The description of an entry (R222). -/
def describe (o : POp) : Nat :=
  o.stage % 256 + engineOpc o.instr * 2 ^ 8 + o.flag.getD 15 * 2 ^ 15 + o.stage / 256 % 256 * 2 ^ 19
    + (if o.suspended.isSome then 2 ^ 29 else 0) + (if o.stopped then 2 ^ 30 else 0) + 2 ^ 31

/-- MPROG_COMPLETE (R222). -/
def execMprogComplete (gid op : Nat) (s : State) : Res :=
  let g := s.group gid
  match g.op? op with
  | none => .next s
  | some o =>
    match o.instr with
    | .mprog e x y _ =>
      let v : Nat × Nat := match (s.engineList gid)[e.toNat]? with
        | some p => (describe p, g.seq.toNat + 1 + completeBefore (s.engineList gid) e.toNat)
        | none => (0, 0)
      .next ((s.updGroup gid (fun g =>
        (g.setS x.toNat (BitVec.ofNat 32 v.1)).setS y.toNat (BitVec.ofNat 32 v.2))).opDone gid o)
    | _ => .next s

/-- MSEQ_COMPLETE (R223): the target is reached. -/
def execMseqComplete (gid op : Nat) (s : State) : Res :=
  let g := s.group gid
  match g.op? op with
  | none => .next s
  | some o =>
    match o.instr with
    | .mseq x _ _ =>
      if (g.seq - BitVec.ofNat 32 (o.arg 0)).toNat < 2 ^ 31 then
        .next ((s.updGroup gid (fun g => g.setS x.toNat g.seq)).opDone gid o)
      else .next s
    | _ => .next s

end Sys2Proof.Machine
end

