-- ==== Sys2Proof/Machine/Streamer.lean ====
section
/-! DEFINITION. Machine/Streamer.lean: copies between tensors and scratchpad, their layout records and check-outs, and
their landing and completion (R225 to R235, R303, R316, R319 to R323). -/
namespace Sys2Proof.Machine

/-! ### Layout records (R228) -/

/-- A layout record: its 64 bytes as a number, and the fields of R228. -/
structure Layout where
  raw : Nat := 0
  deriving DecidableEq, Repr

/-- `n` bytes of the record from byte `i`. -/
def Layout.field (l : Layout) (i n : Nat) : Nat := l.raw / 2 ^ (8 * i) % 2 ^ (8 * n)
/-- BASE. -/
def Layout.base (l : Layout) : Nat := l.field 0 8
/-- DIMk. -/
def Layout.dim (l : Layout) (k : Nat) : Nat := l.field (8 + 2 * k) 2
/-- STRk. -/
def Layout.str (l : Layout) (k : Nat) : Nat := l.field (16 + 4 * k) 4
/-- BOXk as stored. -/
def Layout.boxField (l : Layout) (k : Nat) : Nat := l.field (32 + 2 * k) 2
/-- Number of dimensions. -/
def Layout.count (l : Layout) : Nat := l.field 42 2 % 4 + 1
/-- BOXk, 1 beyond the dimension count. -/
def Layout.box (l : Layout) (k : Nat) : Nat := if k < l.count then l.boxField k else 1
/-- Log2 of the element size. -/
def Layout.esize (l : Layout) : Nat := l.field 40 1
/-- Element size in bytes. -/
def Layout.ez (l : Layout) : Nat := 2 ^ l.esize
/-- SWZ. -/
def Layout.swz (l : Layout) : Nat := l.field 41 1
/-- VERSION. -/
def Layout.version (l : Layout) : Nat := l.field 44 4
/-- SEAL. -/
def Layout.seal (l : Layout) : Nat := l.field 60 4

/-- The fields keep to R228. -/
def Layout.ok (l : Layout) : Bool :=
  decide (l.base < 2 ^ 52) && decide (l.esize ≤ 4) && decide (l.swz ≤ 2) && decide (l.field 42 2 < 4)
    && decide (l.field 48 12 = 0) && (decide (l.swz = 0) || decide (l.dim 0 % 8 = 0))
    && (List.range 4).all (fun k => if k < l.count then decide (l.dim k ≠ 0) && decide (l.boxField k ≠ 0)
        else decide (l.boxField k = 0))

/-- SEAL is the CRC-32C of bytes 0 to 59. -/
def Layout.sealOk (l : Layout) : Bool := decide ((crc32c (natLe 60 l.raw)).toNat = l.seal)

/-- Is a coordinate list inside the tensor? Only the dimensions that the record counts matter. -/
def Layout.inside (l : Layout) (c : List Nat) : Bool :=
  (List.range l.count).all (fun k => decide (c.getD k 0 < l.dim k))

/-- Byte offset of dimensions 0 and 1 from BASE (R178, R228). -/
def Layout.plane (l : Layout) (x y : Nat) : Nat :=
  match l.swz with
  | 0 => x * l.str 0 + y * l.str 1
  | 1 => (y / 8 * (8 * l.dim 0) + x / 8 * 64 + y % 8 * 8 + x % 8) * l.ez
  | _ => morton x y * l.ez

/-- Offset of an element from BASE. -/
def Layout.offset (l : Layout) (c : List Nat) : Nat :=
  l.plane (c.getD 0 0) (c.getD 1 0) + c.getD 2 0 * l.str 2 + c.getD 3 0 * l.str 3

/-- VA of an element. -/
def Layout.va (l : Layout) (c : List Nat) : Nat := vaWrap (l.base + l.offset c)

/-! ### Copies as operations -/

/-- Arguments of a copy: the copy block of R230 as read, the user bit, the record's bytes, the pointstamp it carries. -/
structure CopyArgs where
  va : Nat := 0
  version : Nat := 0
  off : Nat := 0
  origin : List Nat := []
  ctr : Nat := 0xFFFF
  excl : Bool := false
  failfast : Bool := false
  notrack : Bool := false
  mask : Nat := 0
  arrival : Nat := 0xFFFF
  list : Nat := 0
  count : Nat := 0
  deriving DecidableEq, Repr

/-- A truth value as an argument. -/
def bitArg (b : Bool) : Nat := if b then 1 else 0

/-- Encode the arguments of a copy, with what else its operation captures. -/
def CopyArgs.list' (a : CopyArgs) (user raw node stamp : Nat) : List Nat :=
  [a.va, a.version, a.off, a.origin.getD 0 0, a.origin.getD 1 0, a.origin.getD 2 0, a.origin.getD 3 0, a.ctr, bitArg a.excl,
    bitArg a.failfast, bitArg a.notrack, a.mask, a.arrival, a.list, a.count, user, raw, node, stamp]

/-- The arguments of a copy in flight. -/
def POp.copy (o : POp) : CopyArgs :=
  { va := o.arg 0, version := o.arg 1, off := o.arg 2, origin := [o.arg 3, o.arg 4, o.arg 5, o.arg 6], ctr := o.arg 7
    excl := decide (o.arg 8 = 1), failfast := decide (o.arg 9 = 1), notrack := decide (o.arg 10 = 1), mask := o.arg 11
    arrival := o.arg 12, list := o.arg 13, count := o.arg 14 }
/-- Was the copy issued in user mode? -/
def POp.copyUser (o : POp) : Bool := decide (o.arg 15 = 1)
/-- The layout record as read at issue (R232). -/
def POp.layout (o : POp) : Layout := { raw := o.arg 16 }
/-- Keeper node that the copy carries (R320). -/
def POp.copyNode (o : POp) : Nat := o.arg 17
/-- Stamp that the copy carries. -/
def POp.copyStamp (o : POp) : DWord := BitVec.ofNat 64 (o.arg 18)

/-- Is an operation a copy, and one that loads scratchpad? -/
def isCopy : Instr → Bool
  | .cpy .. | .cpym .. | .cpys .. | .cpyg .. => true
  | _ => false
/-- CPY, CPYM and CPYG. -/
def isLoadCopy : Instr → Bool
  | .cpy .. | .cpym .. | .cpyg .. => true
  | _ => false

/-- Origin with the dimensions beyond the record's count taken as 0 (R231). -/
def Layout.origin (l : Layout) (a : CopyArgs) (k : Nat) : Nat := if k < l.count then a.origin.getD k 0 else 0

/-- Elements of the packed box of a copy (R231). -/
def copyElems (i : Instr) (l : Layout) (a : CopyArgs) : Nat :=
  match i with
  | .cpyg _ => a.count * l.box 0
  | _ => l.box 0 * l.box 1 * l.box 2 * l.box 3

/-- Coordinates of packed element `p` of a box. -/
def boxCoords (l : Layout) (a : CopyArgs) (p : Nat) : List Nat :=
  [l.origin a 0 + p % l.box 0, l.origin a 1 + p / l.box 0 % l.box 1,
    l.origin a 2 + p / (l.box 0 * l.box 1) % l.box 2, l.origin a 3 + p / (l.box 0 * l.box 1 * l.box 2)]

/-- Scratchpad lines that a copy's box touches. -/
def copyLines (i : Instr) (l : Layout) (a : CopyArgs) : List Nat := linesOf a.off (copyElems i l a * l.ez)

/-- Coordinates of dimension `k` that lie inside the tensor: first and last; none when there is none. -/
def Layout.extent (l : Layout) (a : CopyArgs) (k : Nat) : Option (Nat × Nat) :=
  if l.count ≤ k then some (0, 0)
  else
    let o := l.origin a k
    if l.dim k ≤ o then none else some (o, min (o + l.box k - 1) (l.dim k - 1))

/-- From the lowest byte of the elements at ranges of coordinates to the one after their highest, as VAs (R231). -/
def Layout.spanOf (l : Layout) (x y z w : Option (Nat × Nat)) : Option (Nat × Nat) :=
  match x, y, z, w with
  | some x, some y, some z, some w =>
    let lo2 := z.1 * l.str 2 + w.1 * l.str 3
    let hi2 := z.2 * l.str 2 + w.2 * l.str 3
    let p : Nat × Nat :=
      if l.swz = 0 then (l.plane x.1 y.1, l.plane x.2 y.2)
      else
        let all := (List.range (x.2 - x.1 + 1)).flatMap (fun i =>
          (List.range (y.2 - y.1 + 1)).map (fun j => l.plane (x.1 + i) (y.1 + j)))
        (all.foldl min (l.plane x.1 y.1), all.foldl max 0)
    some (l.base + p.1 + lo2, l.base + p.2 + hi2 + l.ez)
  | _, _, _, _ => none

/-- Span of a copy: VA of its lowest byte and the one after its highest, over the elements inside the tensor (R231). -/
def Layout.span (l : Layout) (a : CopyArgs) : Option (Nat × Nat) :=
  l.spanOf (l.extent a 0) (l.extent a 1) (l.extent a 2) (l.extent a 3)

/-! ### What a copy keeps while it is in flight: marks in `vals` -/

/-- Sequence of acceptance at a destination, plus 1; 0 while it has not been accepted (R321, R323). -/
def markAccept (rank : Nat) : Nat := rank
/-- Destination team of a rank. -/
def markTeam (rank : Nat) : Nat := 2 ^ 20 + rank
/-- A line has landed at a rank. -/
def markLanded (rank line : Nat) : Nat := 2 ^ 21 + rank * 2 ^ 15 + line
/-- Bytes of a line as read once for every destination (R323), plus 1. -/
def markBytes (line : Nat) : Nat := 2 ^ 22 + line
/-- Index `j` of the list of CPYG as read (R235). -/
def markIndex (j : Nat) : Nat := 2 ^ 23 + j

/-- Set a mark. -/
def POp.mark (o : POp) (k v : Nat) : POp := { o with vals := tset o.vals k v }

/-- Destinations of a copy: the ranks of CPYM's mask, or the issuing team alone as rank 0. -/
def POp.ranks (o : POp) : List Nat :=
  match o.instr with
  | .cpym .. => (List.range 12).filter (fun r => decide (o.copy.mask / 2 ^ r % 2 = 1))
  | .cpys _ => []
  | _ => [0]

/-- Has the destination accepted the copy? -/
def POp.acceptedAt (o : POp) (rank : Nat) : Bool := (tget? o.vals (markAccept rank)).isSome
/-- Lines of the copy that have not landed at a rank. -/
def POp.toLand (o : POp) (rank : Nat) : List Nat :=
  (copyLines o.instr o.layout o.copy).filter (fun l => (tget? o.vals (markLanded rank l)).isNone)

/-! ### Issue (R226, R230, R232) -/

/-- Only the team's producer group has the streamer's issue rights (R226, R319). -/
def Group.isProducer (g : Group) : Bool := decide (g.gidx = g.producer)

/-- A word of the streamer: spans, rights, and room in its flag. -/
def State.cWord (s : State) (ok : Bool) (k : State → State) : State :=
  s.uWord ok (fun s =>
    if s.held (s.cw.flagOf false) then s
    else if !s.cg.isProducer then s.streamTrap
    else k s)

/-- Is a counter id in the context's range (R242)? 0xFFFF names none. -/
def ctrInRange (c : Ctx) (id : Nat) : Bool :=
  decide (id = 0xFFFF) || (decide (c.dcFirst ≤ id) && decide (id < c.dcFirst + c.dcCount))
/-- A counter id or none. -/
def ctrFormOk (id : Nat) : Bool := decide (id < 4096) || decide (id = 0xFFFF)

/-- ACCESS of a streamer word at an address on path C. -/
def State.cTrap (s : State) (cause va : Nat) (write : Bool := false) : State := s.addrTrap cause va pathC write 0 s.cw.en

/-- Ranks of the issuer's cluster (R48, R231): those of a cluster launch, else its own team's alone. -/
def State.clusterRanks (s : State) (g : Group) : List Nat :=
  let lr := (tget s.grids g.grid {}).lr
  if g.origin = .grid ∧ 1 < lr.cols * lr.rows then List.range (lr.cols * lr.rows) else [g.rank]

/-- Team index of a rank of the issuer's cluster. -/
def State.rankTeam (s : State) (g : Group) (rank : Nat) : Nat :=
  let lr := (tget s.grids g.grid {}).lr
  if 1 < lr.cols * lr.rows then g.cidx * (lr.cols * lr.rows) + rank else g.tidx

/-- Check the copy block at `sa` (R230) for a word: its values, or the trap. `m` is set for CPYM and `gth` for CPYG. -/
def State.withBlock (s : State) (sa : Nat) (x m gth : Bool) (k : CopyArgs → State → State) : State :=
  let g := s.cg
  let r := fun (i : Nat) => (g.sreg (sa + i)).toNat
  let va := (g.spair sa).toNat
  let f := r 7
  let c := s.ctx g.ctx
  let mask := f / 2 ^ 20
  let list := r 8 + 2 ^ 32 * r 9
  if va % 64 ≠ 0 then s.cTrap cALIGN va
  else if 2 ^ 52 ≤ va then s.cTrap cACCESS va
  else if !ctrFormOk (f % 2 ^ 16) || decide (f / 2 ^ 19 % 2 = 1) then s.illegal
  else if !m && decide (mask ≠ 0) then s.illegal
  else if m && (decide (mask = 0)
      || (List.range 12).any (fun i => decide (mask / 2 ^ i % 2 = 1) && !(s.clusterRanks g).contains i)) then s.illegal
  else if m && !ctrFormOk (r 8 % 2 ^ 16) then s.illegal
  else if gth && (decide (r 10 = 0) || decide (65536 < r 10)) then s.illegal
  else if !ctrInRange c (f % 2 ^ 16) || (m && !ctrInRange c (r 8 % 2 ^ 16)) then s.cTrap cACCESS 0
  else if gth && decide (2 ^ 52 ≤ list) then s.cTrap cACCESS list
  else
    k { va := va, version := r 2, off := r 3, origin := [r 4, r 5, r 6 % 2 ^ 16, r 6 / 2 ^ 16], ctr := f % 2 ^ 16
        excl := x || decide (f / 2 ^ 16 % 2 = 1), failfast := decide (f / 2 ^ 17 % 2 = 1)
        notrack := decide (f / 2 ^ 18 % 2 = 1), mask := mask, arrival := if m then r 8 % 2 ^ 16 else 0xFFFF
        list := list, count := if gth then r 10 else 0 } s

/-- Where the rows that a CPYG may name lie; of a swizzled plane all that its two dimensions can reach. -/
def Layout.rowsOf (l : Layout) (a : CopyArgs) : Option (Nat × Nat) :=
  if l.swz = 0 then l.spanOf (l.extent a 0) (some (0, l.dim 1 - 1)) (l.extent a 2) (l.extent a 3)
  else
    (l.spanOf (some (0, 0)) (some (0, 0)) (l.extent a 2) (l.extent a 3)).map (fun x =>
      (x.1, x.2 + 4 * (max (l.dim 0) (l.dim 1)) ^ 2 * l.ez))

/-- Memory that a path C operation touches, as first bytes and lengths: the list of a CPYG, and the rows that it may name. -/
def POp.cSpans (o : POp) : List (Nat × Nat) :=
  let l := o.layout
  let a := o.copy
  let data := fun (sp : Option (Nat × Nat)) => (sp.map (fun x => (x.1, x.2 - x.1))).toList
  match o.instr with
  | .layseal _ => [(o.arg 0, 64)]
  | .cpyg _ => (a.list, 4 * a.count) :: data (l.rowsOf a)
  | .cpy .. | .cpym .. | .cpys .. => data (l.span a)
  | _ => []

/-- A path C operation of the group is in flight over bytes that are about to be read at issue: the word waits, for
the read comes after it in group order (R288 row 2). -/
def Group.cPending (g : Group) (va n : Nat) : Bool :=
  g.ops.any (fun o => o.cSpans.any (fun x => overlap x.1 x.2 va n))

/-- The error of a record in memory that is poisoned: the word that reads it at issue completes with it (R464). -/
def State.recordBad (s : State) (va key : Nat) : State :=
  let t := s.poisonTrap va key s.cw.en
  s.nextWord.updCur (fun g => { g with errors := g.errors ++ [t] })

/-- The word reads the layout record: A is set in its page (R412). -/
def State.layoutRead (s : State) (va : Nat) : State :=
  (s.reach s.cg.core s.cg.ctx (!s.cg.sup) false .read va).2

/-- Read the layout record at issue through path C (R232, R233): its bytes, or the word trap on its page. The word waits for an
acquire of the group that has not performed (R292). It is a look: a word that then issues sets A (R412). -/
def State.withLayout (s : State) (va : Nat) (k : Layout → State → State) : State :=
  let g := s.cg
  if g.acquiring || g.cPending va 64 then s
  else
    let r := s.reach g.core g.ctx (!g.sup) false .read va true
    match r.1 with
    | .access => r.2.cTrap cACCESS va
    | .absent rep => r.2.addrTrap cABSENT va pathC false 0 r.2.cw.en rep
    | .ok key =>
      let s := r.2.checkPa key 64
      if s.poisoned key 64 then (s.layoutRead va).recordBad va key else k { raw := s.homeNat key 64 } s

/-- Clear the presence of lines for one copy (R232 step 1, R303). -/
def Team.clearLines (t : Team) (lines : List Nat) : Team :=
  { t with cleared := lines.foldl (fun c l => tset c l (tget c l 0 + 1)) t.cleared }
/-- A line that one copy had cleared is owed by one copy less; it is present once none owes it. -/
def Team.landLine (t : Team) (l : Nat) : Team :=
  let n := tget t.cleared l 0 - 1
  { t with cleared := if n = 0 then tdel t.cleared l else tset t.cleared l n }

/-- Can the core count at a pointstamp: its buffer holds it, or the Keeper has an entry or room (R332)? -/
def State.canCount (s : State) (core ctx node : Nat) (st : DWord) : Bool :=
  (s.core core).deltas.any (fun e => e.is ctx node st) || s.keeperRoom (dieOf core) ctx node st

/-- Issue a copy (R232): checks, presence, the Keeper's count, and the operation. -/
def State.copyIssue (s : State) (i : Instr) (sa n : Nat) (x : Bool) : State :=
  let m := match i with | .cpym .. => true | _ => false
  let gth := match i with | .cpyg _ => true | _ => false
  s.cWord (sspanOk sa n) (fun s => s.withBlock sa x m gth (fun a s => s.withLayout a.va (fun l s =>
    let g := s.cg
    let bytes := copyElems i l a * l.ez
    if l.ok && decide (a.off % l.ez ≠ 0) then s.cTrap cALIGN a.off
    else if l.ok && decide ((s.team g.team).spadLen < a.off + bytes) then s.cTrap cACCESS a.off
    else if !s.canCount g.core g.ctx g.node g.stamp then s.park .keeper
    else
      let s := (s.layoutRead a.va).count g.core g.ctx g.node g.stamp 1
      let load := match i with | .cpy .. => true | .cpyg _ => true | _ => false
      let s := if l.ok && load then
          s.updTeam g.team (fun t => { t.clearLines (copyLines i l a) with inbound := t.inbound + 1 })
        else s
      let marks : Tab Nat := if l.ok && load then tset (tset [] (markAccept 0) (s.nextOp + 1)) (markTeam 0) g.team else []
      s.issueLater i false s.cw.en 0 marks (a.list' (userArg g) l.raw g.node g.stamp.toNat))))

/-- CPY (R231, R232). -/
def execCpy (a : BitVec 6) (x : Bool) (s : State) : Res := finish (s.copyIssue (.cpy a x) a.toNat 8 x)
/-- CPYM (R231, R232). -/
def execCpym (a : BitVec 6) (x : Bool) (s : State) : Res := finish (s.copyIssue (.cpym a x) a.toNat 9 x)
/-- CPYS (R231, R232). -/
def execCpys (a : BitVec 6) (s : State) : Res := finish (s.copyIssue (.cpys a) a.toNat 8 false)
/-- CPYG (R231, R232, R235). -/
def execCpyg (a : BitVec 6) (s : State) : Res := finish (s.copyIssue (.cpyg a) a.toNat 11 false)

/-- CHKIN (R233): its block and record are checked as those of a copy; its offset keeps to the record's element size
(R230), though CHKIN moves no byte. -/
def execChkin (a : BitVec 6) (s : State) : Res :=
  finish (s.cWord (sspanOk a.toNat 8) (fun s => s.withBlock a.toNat false false false (fun b s => s.withLayout b.va (fun l s =>
    if l.ok && decide (b.off % l.ez ≠ 0) then s.cTrap cALIGN b.off
    else (s.layoutRead b.va).issueLater (.chkin a) false s.cw.en 0 [] (b.list' (userArg s.cg) l.raw 0 0)))))

/-- LAYSEAL (R229). -/
def execLayseal (a : BitVec 6) (s : State) : Res :=
  finish (s.cWord (sspanOk a.toNat 2) (fun s =>
    let va := (s.cg.spair a.toNat).toNat
    if va % 64 ≠ 0 then s.cTrap cALIGN va
    else if 2 ^ 52 ≤ va then s.cTrap cACCESS va
    else s.issueLater (.layseal a) false s.cw.en 0 [] [va, userArg s.cg]))

/-! ### Completion with error (R232, R233, R234, R464) -/

/-- A team that has ended or vacated gives its scratchpad back once no copy to it is inbound (R365, R437). -/
def State.freeTeam (s : State) (t : Nat) : State :=
  let x := s.team t
  if x.ended && decide (x.inbound = 0) then { s with teams := tdel s.teams t } else s

/-- End a copy that failed: its lines not landed become present as they are, its flag falls, the Keeper counts −1, and
its group takes the trap; no dependence counter falls (R320). -/
def State.copyFailed (s : State) (gid : Nat) (o : POp) (t : Trap) : State :=
  let g := s.group gid
  let s := o.ranks.foldl (fun s r =>
    let left := o.toLand r
    if o.acceptedAt r && !left.isEmpty then
      let t := tget o.vals (markTeam r) 0
      (s.updTeam t (fun t => { left.foldl Team.landLine t with inbound := t.inbound - 1 })).freeTeam t
    else s) s
  let s := s.count g.core g.ctx o.copyNode o.copyStamp (-1)
  s.opFailed gid o t

/-- Opcode of a streamer word (R227). -/
def streamOpc : Instr → Nat
  | .cpy .. => 0x40 | .cpym .. => 0x41 | .cpys .. => 0x42 | .cpyg .. => 0x43 | .chkin .. => 0x44 | .layseal .. => 0x45
  | _ => 0

/-- The trap ENGINE of a streamer word (R163, R234): it has no number in the engine's sequence. -/
def streamTrapOf (o : POp) (va : Nat) : Trap :=
  { cause := 0x0F, kind := 3, addr := BitVec.ofNat 64 va, lanes := o.act
    detail := BitVec.ofNat 64 (streamOpc o.instr + 256 * o.flag.getD 15) }

/-- What a move that did not end well does to a copy: it suspends, or it completes with error. -/
def State.copyStop (s : State) (gid : Nat) (o : POp) (r : Ran) : State :=
  match r with
  | .absent va w rep => s.suspend gid o va w rep
  | .failed va => s.copyFailed gid o (streamTrapOf o va)
  | .poison va key => s.copyFailed gid o (s.poisonTrap va key o.act)
  | _ => s.updGroup gid (fun g => g.setOp o)

/-! ### The record check and the check-out (R232 steps 3 and 4, R233, R316) -/

/-- What CHKIN names an entry by: layout record, origin and box (R233). -/
def copyKey (l : Layout) (a : CopyArgs) : List Nat :=
  a.va :: ((List.range 4).map (fun k => l.origin a k) ++ (List.range 4).map l.box)

/-- Must a span wait for an entry: they overlap, they belong to different teams of one context, and one is exclusive;
a CPYS conflicts with every such entry (R233)? -/
def conflicts (e : Span) (ctx team lo hi : Nat) (excl store : Bool) : Bool :=
  decide (e.ctx = ctx) && decide (e.team ≠ team) && decide (e.lo < hi) && decide (lo < e.hi) && (store || excl || e.excl)

/-- An earlier copy of the same team still waits on a span that overlaps this one: entries are made in issue order. -/
def State.earlierWaits (s : State) (team : Nat) (o : POp) (lo hi : Nat) : Bool :=
  s.groups.any (fun e => decide (e.2.team = team) && e.2.ops.any (fun a =>
    isCopy a.instr && decide (a.id < o.id) && decide (a.stage = 0) && !a.copy.notrack &&
      (match a.layout.span a.copy with | some sp => decide (sp.1 < hi) && decide (lo < sp.2) | none => false)))

/-- STREAMER_RECORD_CHECK (R232, R233): seal, version and fields, then the check-out. A copy that conflicts, or finds its
slice's table full, waits, or fails at once with FAILFAST. -/
def execStreamerRecordCheck (_core op : Nat) (s : State) : Res :=
  match s.ownerOf op with
  | none => .next s
  | some (gid, o) =>
    if !isCopy o.instr || decide (o.stage ≠ 0) || o.suspended.isSome then .next s
    else
      let l := o.layout
      let a := o.copy
      let g := s.group gid
      let bad := (if l.sealOk then 0 else 2 ^ 16) + (if l.version = a.version then 0 else 2 ^ 17)
      let checked := s.updGroup gid (fun g => g.setOp { o with stage := 1 })
      let store := match o.instr with | .cpys _ => true | _ => false
      let gather := match o.instr with | .cpyg _ => true | _ => false
      if bad ≠ 0 ∨ !l.ok then
        finish (s.copyFailed gid o { cause := 0x06, kind := 3, addr := BitVec.ofNat 64 a.va, lanes := o.act
                                     detail := BitVec.ofNat 64 (a.ctr + bad) })
      else if gather || (a.notrack && !store) then .next checked
      else match l.span a with
        | none => .next checked
        | some (lo, hi) =>
          let r := s.reach g.core g.ctx o.copyUser false (if store then .write else .read) (vaWrap lo) true
          match r.1 with
          | .absent rep => finish (r.2.copyStop gid o (.absent (vaWrap lo) store rep))
          | .access => finish (r.2.copyStop gid o (.failed (vaWrap lo)))
          | .ok key =>
            let s := r.2
            let full := !store && decide (256 ≤ (s.ranges.filter (fun e => decide (e.slice = sliceOf key))).length)
            if s.ranges.any (fun e => conflicts e g.ctx g.team lo hi a.excl store) || full then
              if a.failfast then
                finish (s.copyFailed gid o { cause := 0x0D, kind := 3, addr := BitVec.ofNat 64 lo, lanes := o.act
                                             detail := BitVec.ofNat 64 a.ctr })
              else finish s
            else if s.earlierWaits g.team o lo hi then finish s
            else
              let s := s.updGroup gid (fun g => g.setOp { o with stage := 1 })
              if store then finish s
              else finish { s with ranges := s.ranges ++ [{ slice := sliceOf key, ctx := g.ctx, team := g.team, lo := lo
                                                            hi := hi, excl := a.excl, key := copyKey l a }] }

/-- CHKIN_COMPLETE (R233): the team's entry of that record, origin and box is gone; copies that wait are checked again
by their next STREAMER_RECORD_CHECK. -/
def execChkinComplete (gid op : Nat) (s : State) : Res :=
  let g := s.group gid
  match g.op? op with
  | none => .next s
  | some o =>
    match o.instr with
    | .chkin _ =>
      let l := o.layout
      let s := if l.ok then
          { s with ranges := s.ranges.eraseP (fun e => decide (e.team = g.team) && decide (e.key = copyKey l o.copy)) }
        else s
      .next (s.opDone gid o)
    | _ => .next s

/-! ### Transfer and landing (R231, R232 steps 5 to 7, R235, R321, R323) -/

/-- The index of row `j` of CPYG: read once (R235). -/
def State.copyIndex (s : State) (gid : Nat) (o : POp) (j : Nat) : Except Ran Nat × POp × State :=
  match tget? o.vals (markIndex j) with
  | some v => (.ok v, o, s)
  | none =>
    let g := s.group gid
    let va := vaWrap (o.copy.list + 4 * j)
    let r := s.cRead g.core g.ctx o.copyUser va 4 (va + 4)
    match r.1.stop false with
    | some e => (.error e, o, r.2)
    | none => (.ok (leNat r.1.bytes), o.mark (markIndex j) (leNat r.1.bytes), r.2)

/-- Coordinates of packed element `p` of a load copy; none for a null row of CPYG. -/
def State.copyCoords (s : State) (gid : Nat) (o : POp) (p : Nat) : Except Ran (Option (List Nat)) × POp × State :=
  let l := o.layout
  match o.instr with
  | .cpyg _ =>
    let r := s.copyIndex gid o (p / l.box 0)
    match r.1 with
    | .error e => (.error e, r.2)
    | .ok y =>
      if 2 ^ 31 ≤ y ∨ l.dim 1 ≤ y then (.ok none, r.2)
      else (.ok (some [l.origin o.copy 0 + p % l.box 0, y, l.origin o.copy 2, l.origin o.copy 3]), r.2)
  | _ => (.ok (some (boxCoords l o.copy p)), o, s)

/-- Read packed elements from the tensor; an element outside it is zero (R231). -/
def State.readElems (s : State) (gid : Nat) (o : POp) : List Nat → Except Ran (List Byte) × POp × State
  | [] => (.ok [], o, s)
  | p :: ps =>
    let c := s.copyCoords gid o p
    match c.1 with
    | .error e => (.error e, c.2)
    | .ok none =>
      let q := c.2.2.readElems gid c.2.1 ps
      match q.1 with
      | .error e => (.error e, q.2)
      | .ok bs => (.ok (List.replicate o.layout.ez 0#8 ++ bs), q.2)
    | .ok (some xs) =>
      let g := c.2.2.group gid
      let ez := o.layout.ez
      let va := o.layout.va xs
      let r := if o.layout.inside xs then c.2.2.cRead g.core g.ctx o.copyUser va ez (va + ez)
        else (.ok (List.replicate ez 0#8) false, c.2.2)
      match r.1.stop false with
      | some e => (.error e, c.2.1, r.2)
      | none =>
        let q := r.2.readElems gid c.2.1 ps
        match q.1 with
        | .error e => (.error e, q.2)
        | .ok bs => (.ok (r.1.bytes ++ bs), q.2)

/-- Packed elements of a copy that lie in a scratchpad line: the first one, and how many. -/
def lineElems (i : Instr) (l : Layout) (a : CopyArgs) (line : Nat) : Nat × Nat :=
  let lo := (max a.off (line * 128) - a.off) / l.ez
  let hi := min (copyElems i l a) ((line * 128 + 128 - a.off) / l.ez)
  (lo, hi - lo)

/-- A copy of the same destination that was accepted earlier has still to land this line: its bytes come first (R321). -/
def State.landsFirst (s : State) (team seq line : Nat) : Bool :=
  s.groups.any (fun e => e.2.ops.any (fun a => isLoadCopy a.instr && a.ranks.any (fun r =>
    decide (tget? a.vals (markTeam r) = some team) && decide (tget a.vals (markAccept r) 0 < seq)
      && decide (line ∈ a.toLand r))))

/-- Earlier path C operations of the group whose bytes a copy shares (R288 row 2); of the rows of a CPYG those that it may
name. -/
def Group.cEarlier (g : Group) (o : POp) : Bool :=
  (g.earlier o).any (fun a => a.cSpans.any (fun x => o.cSpans.any (fun y => overlap x.1 x.2 y.1 y.2)))

/-- A path C operation of the group may not perform yet: an earlier one shares its bytes, or an acquire that issued before it
has not performed (R288, R292). -/
def Group.cHeld (g : Group) (o : POp) : Bool := g.cEarlier o || g.acquiringFor o

/-- The bytes of a line as the copy delivers them: read once, and kept for the other destinations of a CPYM. -/
def State.lineBytes (s : State) (gid : Nat) (o : POp) (line : Nat) : Except Ran (List Byte) × POp × State :=
  let e := lineElems o.instr o.layout o.copy line
  match tget? o.vals (markBytes line) with
  | some v => (.ok (natLe (e.2 * o.layout.ez) v), o, s)
  | none =>
    let r := s.readElems gid o ((List.range e.2).map (fun i => e.1 + i))
    match r.1 with
    | .error e => (.error e, r.2)
    | .ok bs => (.ok bs, (match o.instr with | .cpym .. => r.2.1.mark (markBytes line) (leNat bs) | _ => r.2.1), r.2.2)

/-- CPYM_ACCEPT (R232 step 1, R323): the core of a destination rank accepts the box while the team is resident, and its
lines are cleared; for a team that has vacated the delivery waits until it is restored (R437). -/
def execCpymAccept (_core op rank : Nat) (s : State) : Res :=
  match s.ownerOf op with
  | none => .next s
  | some (gid, o) =>
    match o.instr with
    | .cpym .. =>
      let g := s.group gid
      let dest := if g.origin = .grid then
          s.teams.find? (fun e => decide (e.2.ctx = g.ctx) && decide (e.2.grid = g.grid) && !e.2.ended
            && !e.2.groups.isEmpty
            && decide (e.2.tidx = s.rankTeam g rank))
        else some (g.team, s.team g.team)
      if o.stage = 0 ∨ rank ∉ o.ranks ∨ o.acceptedAt rank then .next s
      else match dest with
        | none => .next s
        | some (t, _) =>
          let seq := s.nextOp
          let s := { s with nextOp := s.nextOp + 1 }
          let s := s.updTeam t (fun x => { x.clearLines (copyLines o.instr o.layout o.copy) with inbound := x.inbound + 1 })
          .next (s.updGroup gid (fun g => g.setOp ((o.mark (markAccept rank) (seq + 1)).mark (markTeam rank) t)))
    | _ => .next s

/-- What the landing of the last line at a destination does: one inbound copy less, and under CPYM the release and the
arrival counter (R231, R232 step 7, R299). -/
def State.landed (s : State) (gid : Nat) (o : POp) (rank : Nat) : State :=
  let t := tget o.vals (markTeam rank) 0
  let s := (s.updTeam t (fun t => { t with inbound := t.inbound - 1 })).freeTeam t
  match o.instr with
  | .cpym .. => s.dcDec (dieOf (s.group gid).core) o.copy.arrival
  | _ => s

/-- COPY_LANDING (R232 step 6): the bytes of one line land at one destination, and the line is present once every copy
that cleared it has landed. -/
def execCopyLanding (_core op rank line : Nat) (s : State) : Res :=
  match s.ownerOf op with
  | none => .next s
  | some (gid, o) =>
    if !isLoadCopy o.instr || decide (o.stage = 0) || o.suspended.isSome || !o.acceptedAt rank
        || !decide (line ∈ o.toLand rank) then .next s
    else
      let team := tget o.vals (markTeam rank) 0
      if s.landsFirst team (tget o.vals (markAccept rank) 0) line || (s.group gid).cHeld o then .next s
      else
        let r := s.lineBytes gid o line
        match r.1 with
        | .error e => finish (r.2.2.copyStop gid r.2.1 e)
        | .ok bs =>
          let e := lineElems o.instr o.layout o.copy line
          let o := r.2.1.mark (markLanded rank line) 1
          let s := r.2.2.updTeam team (fun t =>
            { t.landLine line with spad := putBytes t.spad (o.copy.off + e.1 * o.layout.ez) bs })
          let s := { s with poison := clearPoison s.poison (spadKey team (o.copy.off + e.1 * o.layout.ez)) bs.length }
          let s := s.updGroup gid (fun g => g.setOp o)
          finish (if (o.toLand rank).isEmpty then s.landed gid o rank else s)

/-- Write the elements of a CPYS from element `p` on: how it ended, and the next element to write. Poison in the scratchpad is named
by its offset (log entry 75). -/
def State.storeElems (s : State) (gid : Nat) (o : POp) : List Nat → Ran × Nat × State
  | [] => (.done, 0, s)
  | p :: ps =>
    let g := s.group gid
    let l := o.layout
    let c := boxCoords l o.copy p
    if !l.inside c then s.storeElems gid o ps
    else
      let va := l.va c
      let bs := bytesAt (s.team g.team).spad (o.copy.off + p * l.ez) l.ez
      let at_ := spadKey g.team (o.copy.off + p * l.ez)
      if s.hHeld gid o va then (.limit, p, s)
      else if s.poisoned at_ l.ez then (.poison (o.copy.off + p * l.ez) at_, p, s)
      else
        let r := s.cWrite gid o.copyUser va bs (va + l.ez)
        match r.1.stop true with
        | some e => (e, p, r.2)
        | none => r.2.storeElems gid o ps

/-- The end of a copy that went well (R320): its release, its flag, its dependence counter, −1 at what it carried. -/
def State.copyDone (s : State) (gid : Nat) (o : POp) : State :=
  let g := s.group gid
  let beyond := match o.instr with
    | .cpyg _ => (List.range o.copy.count).any (fun j =>
        let y := tget o.vals (markIndex j) 0
        decide (y < 2 ^ 31) && decide (o.layout.dim 1 ≤ y))
    | _ => false
  let s := if beyond then s.updGroup gid (fun g => g.setStatus 2 (s.core g.core).cycles) else s
  let s := s.opDone gid o
  let s := s.dcDec (dieOf g.core) o.copy.ctr
  s.count g.core g.ctx o.copyNode o.copyStamp (-1)

/-- COPY_COMPLETE (R232 step 7, R320): every byte has landed everywhere; a CPYS has performed, reading each scratchpad
line once it is present. -/
def execCopyComplete (_core op : Nat) (s : State) : Res :=
  match s.ownerOf op with
  | none => .next s
  | some (gid, o) =>
    if !isCopy o.instr || decide (o.stage = 0) || o.suspended.isSome then .next s
    else match o.instr with
      | .cpys _ =>
        let l := o.layout
        let g := s.group gid
        let n := copyElems o.instr l o.copy
        if !(s.team g.team).present o.copy.off (n * l.ez) || g.cHeld o then .next s
        else
          let r := s.storeElems gid o ((List.range n).drop (o.stage - 1))
          match r.1 with
          | .done => finish (r.2.2.copyDone gid o)
          | e => finish (r.2.2.copyStop gid { o with stage := r.2.1 + 1 } e)
      | _ =>
        if o.ranks.all (fun r => o.acceptedAt r && (o.toLand r).isEmpty) then finish (s.copyDone gid o) else .next s

/-- LAYSEAL_COMPLETE (R229): the CRC of bytes 0 to 59 is in bytes 60 to 63. Faults of its page follow the copies (R234). -/
def execLaysealComplete (gid op : Nat) (s : State) : Res :=
  let g := s.group gid
  match g.op? op with
  | none => .next s
  | some o =>
    match o.instr with
    | .layseal _ =>
      if o.suspended.isSome || g.cHeld o || s.hHeld gid o (o.arg 0) then .next s
      else
        let user := decide (o.arg 1 = 1)
        let va := o.arg 0
        let r := s.cRead g.core g.ctx user va 60 (va + 60)
        let stop := fun (e : Ran) (s : State) => match e with
          | .absent va w rep => s.suspend gid o va w rep
          | .failed va => s.opFailed gid o (streamTrapOf o va)
          | .poison va key => s.opFailed gid o (s.poisonTrap va key o.act)
          | _ => s
        match r.1.stop false with
        | some e => finish (stop e r.2)
        | none =>
          let w := r.2.cWrite gid user (vaWrap (va + 60)) (natLe 4 (crc32c r.1.bytes).toNat) (va + 64)
          match w.1.stop true with
          | some e => finish (stop e w.2)
          | none => finish (w.2.opDone gid o)
    | _ => .next s

end Sys2Proof.Machine
end

