-- ==== Sys2Proof/Machine/Keeper.lean ====
section
/-! DEFINITION. Machine/Keeper.lean: the Keepers of the two dies: batches, announcements, waiting KWAIT words and the
exchange between the dies (R325, R326, R330 to R335), and the words STAMP, KCNT, KWAIT and KPROBE (R245, R246). -/
namespace Sys2Proof.Machine

/-! ### The graph (R326, R333) -/

/-- VALID of a summary word. -/
def sumValid (e : DWord) : Bool := e.getLsbD 0
/-- POPS. -/
def sumPops (e : DWord) : Nat := (e.extractLsb' 1 2).toNat
/-- PUSHES. -/
def sumPushes (e : DWord) : Nat := (e.extractLsb' 3 2).toNat

/-- A word that reaches every stamp from a stamp of depth `d` (R326). -/
def sumAll (e : DWord) (d : Nat) : Bool :=
  decide (sumPops e = 3) || decide (sumPushes e = 3) || decide (e.extractLsb' 5 3 ≠ 0#3)
    || decide (d < sumPops e + 1) || decide (3 + sumPops e < d + sumPushes e)

/-- Apply(e, t): the kept counters with their increments, then the appended ones. -/
def sumApply (e : DWord) (t : DWord) : DWord :=
  let kept := stampDepth t - sumPops e
  let inc := fun (j : Nat) => (e.extractLsb' (8 + 12 * j) 12).toNat
  let app := fun (j : Nat) => (e.extractLsb' (44 + 10 * j) 10).toNat
  let ctr := fun (j : Nat) =>
    if j < kept then min (stampCtr t j + inc j) (ctrMax j)
    else if j < kept + sumPushes e then app (j - kept) else 0
  mkStamp (kept + sumPushes e) (ctr 0) (ctr 1) (ctr 2)

/-- Could pointstamp (m, t) reach (n, s) (R333)? -/
def State.couldReach (s : State) (die ctx m : Nat) (t : DWord) (n : Nat) (st : DWord) : Bool :=
  let e := tget (s.die die).graphs (ctx * 4096 + 64 * m + n) (0, 0)
  [e.1, e.2].any (fun w => sumValid w && (sumAll w (stampDepth t) || stampLe (sumApply w t) st))

/-- Count of a pointstamp in a table. -/
def countIn (t : List KEntry) (ctx node : Nat) (st : DWord) : Int :=
  ((t.filter (fun e => e.is ctx node st)).map (·.count)).sum

/-- No pointstamp of positive count, over both tables, could reach (n, st) (R333). -/
def State.clearOf (s : State) (die ctx n : Nat) (st : DWord) : Bool :=
  let d := s.die die
  (d.keeper ++ d.view).all (fun e => decide (e.ctx ≠ ctx)
    || decide (countIn d.keeper ctx e.node e.stamp + countIn d.view ctx e.node e.stamp ≤ 0)
    || !s.couldReach die ctx e.node e.stamp n st)

/-- Is a pointstamp covered by a recorded announcement (R334)? -/
def Die.announcedAt (d : Die) (ctx node : Nat) (st : DWord) : Bool :=
  d.announced.any (fun a => decide (a.1 = ctx) && decide (a.2.1 = node) && stampLe st a.2.2)

/-! ### Rounds and waiters (R334, R335) -/

/-- Start an exchange round unless one is open: FlushReq goes to the other die. -/
def State.startRound (s : State) (die : Nat) : State :=
  if (s.die die).roundOpen then s
  else
    let s := s.updDie die (fun d => { d with
      roundOpen := true, roundStale := false, roundTarget := none
      waiters := d.waiters.map (fun w => { w with covered := true }) })
    s.updDie (1 - die) (fun d => { d with inbox := d.inbox ++ [.flushReq] })

/-- A decrement for a context has reached the Keeper: rounds begun before it count no longer for what it could
release. -/
def Die.decremented (d : Die) (ctx : Nat) : Die :=
  { d with roundStale := true, roundFresh := false
           waiters := d.waiters.map (fun w => if w.ctx = ctx then { w with covered := false, fresh := false } else w) }

/-- Evaluate the waiters of a die: those that a completed round covers and nothing could reach are released, with the
announcement recorded; for those that no completed round covers a round is started (R334, R335). -/
def State.evalWaiters (s : State) (die : Nat) : State :=
  let d := s.die die
  let go := fun (w : Waiter) => d.announcedAt w.ctx w.node w.stamp || (w.fresh && s.clearOf die w.ctx w.node w.stamp)
  let out := d.waiters.filter go
  let s := s.updDie die (fun d => { d with
    waiters := d.waiters.filter (fun w => !go w)
    announced := d.announced ++ (out.filter (fun w => !d.announcedAt w.ctx w.node w.stamp)).map (fun w => (w.ctx, w.node, w.stamp)) })
  let s := out.foldl (fun s w => s.unpark w.gid w.wid) s
  let s := if out.isEmpty then s else s.serveKwaits die
  if (s.die die).waiters.any (fun w => !w.fresh) then s.startRound die else s

/-- The open round completes once the view has every Delta that its Done named (R335). -/
def State.closeRound (s : State) (die : Nat) : State :=
  let d := s.die die
  match d.roundTarget with
  | some m =>
    if d.roundOpen && decide (m ≤ d.viewNo) then
      (s.updDie die (fun d => { d with
        roundOpen := false, roundTarget := none, roundFresh := !d.roundStale
        waiters := d.waiters.map (fun w => { w with fresh := w.fresh || w.covered, covered := false }) })).evalWaiters die
    else s
  | none => s

/-! ### Batches and messages (R330, R331, R335) -/

/-- DELTA_FLUSH_TIMER (R330): 250 ns after its oldest unsent delta the core sends its buffer. -/
def execDeltaFlushTimer (core : Nat) (s : State) : Res :=
  if !(s.core core).deltas.isEmpty && decide ((s.core core).deltaSince + 250 ≤ s.ns) then .next (s.flushDeltas core)
  else .next s

/-- A count as an entry holds it: a signed 32-bit number (R332). -/
def count32 (x : Int) : Int := (BitVec.ofInt 32 x).toInt

/-- Apply deltas to a table; `held` says that each was one of a core's buffered pointstamps. -/
def applyDeltas (t : List KEntry) (held : Bool) (ds : List Delta) : List KEntry :=
  freeEntries (ds.foldl (fun t d => updEntry t d.ctx d.node d.stamp
    (fun e => { e with count := count32 (e.count + d.d), buffers := if held then e.buffers - 1 else e.buffers })) t)

/-- Note the contexts that a list of deltas decrements. -/
def Die.noteDecrements (d : Die) (ds : List Delta) : Die :=
  ds.foldl (fun d x => if x.d < 0 then d.decremented x.ctx else d) d

/-- Apply the oldest batch of a die: atomically, with the next number, to be sent to the other die (R331, R335). -/
def State.applyBatch (s : State) (die : Nat) : State :=
  match (s.die die).batches with
  | [] => s
  | (_, ds) :: rest =>
    let n := (s.die die).batchNo + 1
    let s := s.updDie die (fun d =>
      { d.noteDecrements ds with
        keeper := applyDeltas d.keeper true ds, batches := rest, batchNo := n, toSend := d.toSend ++ [(n, ds)] })
    s.unparkAll (fun _ g why => decide (why = .keeper) && decide (dieOf g.core = die))

/-- KEEPER_BATCH_APPLY (R331, R334). -/
def execKeeperBatchApply (die : Nat) (s : State) : Res :=
  match (s.die die).batches with
  | [] => .next s
  | _ => .next ((s.applyBatch die).evalWaiters die)

/-- Send the oldest applied batch that has not been sent as a Delta (R300, R335). -/
def State.sendDelta (s : State) (die : Nat) : State :=
  match (s.die die).toSend with
  | [] => s
  | (n, ds) :: rest =>
    let s := s.updDie die (fun d => { d with toSend := rest })
    s.updDie (1 - die) (fun d => { d with inbox := d.inbox ++ [.delta n ds] })

/-- DELTA_SEND (R335). -/
def execDeltaSend (die : Nat) (s : State) : Res := .next (s.sendDelta die)

/-- Take the first message of a die's inbox. -/
def State.popMsg (s : State) (die : Nat) : State := s.updDie die (fun d => { d with inbox := d.inbox.drop 1 })

/-- DELTA (R335): the view follows in order, the Ack goes back, waiters are evaluated, and an open round may complete. -/
def execDelta (die : Nat) (s : State) : Res :=
  match (s.die die).inbox with
  | .delta n ds :: _ =>
    let s := (s.popMsg die).updDie die (fun d =>
      { d.noteDecrements ds with view := applyDeltas d.view false ds, viewNo := n })
    let s := s.updDie (1 - die) (fun d => { d with inbox := d.inbox ++ [.ack n] })
    .next ((s.closeRound die).evalWaiters die)
  | _ => .next s

/-- ACK (R335). -/
def execAck (die : Nat) (s : State) : Res :=
  match (s.die die).inbox with
  | .ack n :: _ => .next ((s.popMsg die).updDie die (fun d => { d with acked := n }))
  | _ => .next s

/-- FLUSHREQ (R335): every core of the die flushes, the batches are applied and their Deltas sent, and Done names the
last batch. -/
def execFlushreq (die : Nat) (s : State) : Res :=
  match (s.die die).inbox with
  | .flushReq :: _ =>
    let s := (coresOf die).foldl State.flushDeltas (s.popMsg die)
    let s := (s.die die).batches.foldl (fun s _ => s.applyBatch die) s
    let s := (s.die die).toSend.foldl (fun s _ => s.sendDelta die) s
    let m := (s.die die).batchNo
    let s := s.updDie (1 - die) (fun d => { d with inbox := d.inbox ++ [.done m] })
    .next (s.evalWaiters die)
  | _ => .next s

/-- DONE (R335): the round completes once the view has caught up. -/
def execDone (die : Nat) (s : State) : Res :=
  match (s.die die).inbox with
  | .done m :: _ => .next (((s.popMsg die).updDie die (fun d => { d with roundTarget := some m })).closeRound die)
  | _ => .next s

/-! ### The words (R245, R246) -/

/-- STAMP (R245). A cast-off group, which holds no count of its own, traps ILLEGAL (R329). -/
def execStamp (a : BitVec 6) (f : StampFn) (s : State) : Res :=
  let ok := if f = .set then decide (a.toNat % 2 = 0) else decide (a = 0)
  .next (s.uWord ok (fun s =>
    let g := s.cg
    let t := g.stamp
    let d := stampDepth t
    let c := stampCtr t
    let inc := fun (i : Nat) =>
      if d ≤ i ∨ c i = ctrMax i then s.illegal
      else s.newStamp (mkStamp d (c 0 + if i = 0 then 1 else 0) (c 1 + if i = 1 then 1 else 0) (c 2 + if i = 2 then 1 else 0))
    if g.origin = .castoff then s.illegal
    else match f with
      | .set =>
        let n := g.spair a.toNat
        if stampSetOk g n then s.newStamp n else s.illegal
      | .inc0 => inc 0
      | .inc1 => inc 1
      | .inc2 => inc 2
      | .push => if d = 3 then s.illegal else s.newStamp (mkStamp (d + 1) (c 0) (c 1) (c 2))
      | .pop =>
        if d = 1 then s.illegal
        else s.newStamp (mkStamp (d - 1) (c 0) (if d = 3 then c 1 else 0) 0)))

/-- The stamp pair of a Keeper word: even, and a valid stamp (R227, R246). -/
def State.kWord (s : State) (a : BitVec 6) (ok : Bool) (k : DWord → State → State) : State :=
  s.uWord (ok && decide (a.toNat % 2 = 0)) (fun s =>
    let t := s.cg.spair a.toNat
    if stampOk t then k t s else s.illegal)

/-- KCNT (R246): a delta of 0 changes nothing. -/
def execKcnt (a n d : BitVec 6) (s : State) : Res :=
  .next (s.kWord a true (fun t s =>
    let g := s.cg
    if d.toInt = 0 then s.nextWord
    else if !s.canCount g.core g.ctx n.toNat t then s.park .keeper
    else (s.count g.core g.ctx n.toNat t d.toInt).nextWord))

/-- KWAIT (R246, R334): goes on, acquiring at die scope on path L, once the pointstamp is announced; else it waits at
the Keeper, or for a slot there. -/
def execKwait (a n : BitVec 6) (s : State) : Res :=
  .next (s.kWord a true (fun t s =>
    let g := s.cg
    let die := dieOf g.core
    if (s.die die).announcedAt g.ctx n.toNat t then (s.invalidate g.core .l1).nextWord
    else
      let mine := fun (w : Waiter) => decide (w.gid = s.curGroup) && decide (w.wid = s.curWave)
      let ws := (s.die die).waiters.filter (fun w => !mine w)
      if 256 ≤ ws.length then s.park .kwait
      else
        let w : Waiter := { ctx := g.ctx, node := n.toNat, stamp := t, gid := s.curGroup, wid := s.curWave }
        ((s.updDie die (fun d => { d with waiters := ws ++ [w] })).startRound die).park .kwait))

/-- KPROBE (R246, R334): 1 when announced or when the announcement succeeds now; 0 starts an exchange round. -/
def execKprobe (d a n : BitVec 6) (s : State) : Res :=
  .next (s.kWord a true (fun t s =>
    let g := s.cg
    let die := dieOf g.core
    let x := s.die die
    let put := fun (v : Word) (s : State) => (s.updCur (fun g => g.setS d.toNat v)).nextWord
    if x.announcedAt g.ctx n.toNat t then put 1 s
    else if x.roundFresh && s.clearOf die g.ctx n.toNat t then
      put 1 ((s.updDie die (fun d => { d with announced := d.announced ++ [(g.ctx, n.toNat, t)] })).evalWaiters die)
    else put 0 (s.startRound die)))

end Sys2Proof.Machine
end

