-- ==== Sys2Proof/Machine/Tasks.lean ====
section
/-! DEFINITION. Machine/Tasks.lean: posting work: LAUNCH, TENQ, MOOR, CASTOFF and the dependence counters, with bins and
record pools (R236 to R243, R324, R391 to R402). -/
namespace Sys2Proof.Machine

/-! ### Shared checks -/

/-- Path L accesses of the group that have still to perform, as operations: a word that releases them acts at its issue,
and what it posted may start once they are done (R237, R299). -/
def Group.lPending (g : Group) : List Nat := (g.ops.filter (fun o => o.onPath pathL)).map (·.id)

/-- Has every one of these operations performed? -/
def State.released (s : State) (waits : List Nat) : Bool :=
  waits.all (fun id => s.groups.all (fun e => (e.2.op? id).isNone))

/-- The trap of a value that a rule gives a cause of its own: ILLEGAL, or an address trap on a path. -/
def State.valueTrap (s : State) (cause va path : Nat) : State :=
  if cause = 1 then s.illegal else s.addrTrap cause va path false 0 s.cw.en

/-- A task record of 16 words, as TENQ reads it (R237). -/
def taskOf (ws : List Word) (ctx grid cap : Nat) : Task :=
  let w := fun (i : Nat) => ws.getD i 0
  { ctx := ctx, grid := grid, entry := (w 1 ++ w 0).toNat, stamp := w 3 ++ w 2, node := ((w 4).extractLsb' 16 6).toNat
    prio := min cap ((w 4).extractLsb' 0 7).toNat, done := ((w 5).extractLsb' 0 16).toNat
    payload := (List.range 10).map (fun i => w (6 + i)) }

/-- The limits of R237, in the record's order: the cause and address of the first that fails (R225, R242). -/
def taskFault (c : Ctx) (ws : List Word) : Option (Nat × Nat) :=
  let w := fun (i : Nat) => ws.getD i 0
  let t := taskOf ws 0 0 127
  if t.entry % 8 ≠ 0 then some (cALIGN, t.entry)
  else if 2 ^ 52 ≤ t.entry then some (cACCESS, t.entry)
  else if !stampOk t.stamp then some (1, 0)
  else if (w 4).extractLsb' 7 9 ≠ 0#9 ∨ (w 4).extractLsb' 22 10 ≠ 0#10 then some (1, 0)
  else if (w 5).extractLsb' 16 16 ≠ 0#16 ∨ !ctrFormOk t.done then some (1, 0)
  else if !ctrInRange c t.done then some (cACCESS, 0)
  else none

/-! ### Queues (R357, R401) -/

/-- Entries of a core queue and of a die queue. -/
def coreQueueMax : Nat := 256
/-- Entries of a die queue. -/
def dieQueueMax : Nat := 4096

/-- An entry joins a core queue. -/
def State.toCore (s : State) (core : Nat) (w : Work) (prio : Nat) (waits : List Nat := []) : State :=
  s.updCore core (fun c => { c with queue := c.queue ++ [{ work := w, prio := prio, since := s.ns, waits := waits }] })
/-- An entry joins a die queue. -/
def State.toDie (s : State) (die : Nat) (w : Work) (prio : Nat) (waits : List Nat := []) : State :=
  s.updDie die (fun d => { d with queue := d.queue ++ [{ work := w, prio := prio, since := s.ns, waits := waits }] })

/-- Cast-off groups take core queue entries, oldest first, while there is room; their bins are then free (R401). -/
def State.serveBins (s : State) (core : Nat) : State :=
  let c := s.core core
  let room := coreQueueMax - c.queue.length
  let out := (c.bins.filter (fun b => b.cast.isSome)).take room
  if out.isEmpty then s
  else
    let s := s.updCore core (fun c => { c with
      bins := out.foldl List.erase c.bins
      queue := c.queue ++ out.map (fun b => { work := .cast b, prio := b.prio, since := s.ns, waits := b.waits }) })
    s.unparkAll (fun _ g why => decide (why = .moorBin) && decide (g.core = core))

/-- Cast off the bins of a core that `p` names and that still fill (R241, R398). -/
def State.castOff (s : State) (core s1 : Nat) (p : Bin → Bool) : State :=
  (s.updCore core (fun c => { c with bins := c.bins.map (fun b =>
    if b.cast.isNone && p b then { b with cast := some s1 } else b) })).serveBins core

/-- The record of a fired task as the scheduler reads it again (R324): what the arming read stands where the page can no
longer be read. -/
def State.firedTask (s : State) (die : Nat) (a : Armed) : Task × State :=
  let t := a.task
  let r := s.walk die t.ctx a.va
  match classify r.1 .read a.user a.va with
  | .ok key =>
    let s := r.2.checkPa key 64
    let x := taskOf (wordsOf (s.homeBytes key 64)) t.ctx t.grid a.cap
    ({ x with node := t.node, stamp := t.stamp, armedBy := t.armedBy }, s)
  | _ => (t, r.2)

/-- One batch of deltas that a unit of a die makes for a pointstamp (R331, R374). -/
def State.unitCount (s : State) (die ctx node : Nat) (st : DWord) (ds : List Int) : State :=
  let more := fun (e : KEntry) => { e with buffers := e.buffers + 1 }
  let ds := ds.filter (fun x => decide (x ≠ 0))
  if ds.isEmpty then s
  else s.updDie die (fun x => { x with
    keeper := updEntry (freeEntries x.keeper) ctx node st more
    batches := x.batches ++ [(die * 16, [{ ctx := ctx, node := node, stamp := st, d := ds.sum }])] })

/-- The state with the display units of a die changed. -/
def State.updDisp (s : State) (die : Nat) (f : Display → Display) : State :=
  s.updDie die (fun d => { d with disp := f d.disp })

/-- Waves of the Sluice that wait, counted when they were launched, enter the die queue while there is room (R375); so do
reconstruction tasks, which are counted as they enter (R379, R329). -/
def State.placeWaves (s : State) (die : Nat) : State :=
  let s := (s.die die).disp.bands.foldl (fun s e =>
    e.2.waiting.foldl (fun s p =>
      let b := tget (s.die die).disp.bands e.1 {}
      if b.waiting.head? = some p ∧ (s.die die).queue.length < dieQueueMax then
        let s := s.updDisp die (fun d => { d with bands := tset d.bands e.1 { b with waiting := b.waiting.drop 1 } })
        s.toDie die (.probe p) (tget s.grids p.grid {}).lr.prio
      else s) s) s
  (s.die die).disp.recons.foldl (fun s t =>
    if (s.die die).disp.recons.head? = some t ∧ (s.die die).queue.length < dieQueueMax
        ∧ s.keeperRoom die t.ctx t.node t.stamp then
      ((s.updDisp die (fun d => { d with recons := d.recons.drop 1 })).unitCount die t.ctx t.node t.stamp [1]).toDie die
        (.task t) t.prio
    else s) s

/-- The scheduler reads the records of tasks whose counters have fired (R324). -/
def State.readFired (s : State) (die : Nat) : State :=
  (s.die die).fired.foldl (fun s a =>
    if a.fresh then s
    else
      let r := s.firedTask die a
      r.2.updDie die (fun d => { d with fired := d.fired.map (fun x => if x = a then { a with task := r.1, fresh := true } else x) })) s

/-- Fired tasks enter the die queue in the order they fired, while there is room (R337, R357), and then the waves of the
Sluice that wait. -/
def State.placeFired (s : State) (die : Nat) : State :=
  let s := s.readFired die
  let s := (s.die die).fired.foldl (fun s a =>
    if dieQueueMax ≤ (s.die die).queue.length then s
    else (s.updDie die (fun d => { d with fired := d.fired.drop 1 })).toDie die (.task a.task) a.task.prio) s
  s.placeWaves die

/-! ### LAUNCH (R236) -/

/-- LAUNCH (R236). -/
def execLaunch (a b n : BitVec 6) (s : State) : Res :=
  finish (s.uWord (sspanOk a.toNat 2 && decide (b.toNat % 2 = 0)) (fun s =>
    let g := s.cg
    let va := (g.spair a.toNat).toNat
    let t := g.spair b.toNat
    if va % 64 ≠ 0 then s.valueTrap cALIGN va pathL
    else if 2 ^ 52 ≤ va then s.valueTrap cACCESS va pathL
    else if !stampOk t then s.illegal
    else if !s.canCount g.core g.ctx n.toNat t then s.park .keeper
    else
      let s := s.count g.core g.ctx n.toNat t 1
      let q : LaunchReq := { ctx := g.ctx, va := va, stamp := t, node := n.toNat, cap := g.prio, core := g.core
                             waits := g.lPending }
      (s.updDie (dieOf g.core) (fun d => { d with launches := d.launches ++ [q] })).nextWord))

/-! ### TENQ (R237, R238) -/

/-- A clause of these kinds never runs a task inline (R238). -/
def neverInline (h : DWord) : Bool :=
  match decodeSeq (hdrSeq h) (hdrTgt h) with
  | .ok (.call _) | .ok (.calli _) | .ok .ret | .ok .exit | .ok (.trapif _) => true
  | _ => false

/-- The lanes of E pass the CALL checks of R84: the trap at the word, if one is due. -/
def State.callCheck (s : State) : Option State × State :=
  let g := s.cg
  let en := s.cw.en
  match faulting en (fun l => decide ((g.lane l).csp.toNat = g.callLimit)) with
  | some (_, m) =>
    (some (s.trapWord { cause := 0x09, kind := 0, addr := s.cw.addr.setWidth 64, lanes := m
                        detail := BitVec.ofNat 64 (g.callLimit + 64) }), s)
  | none =>
    let r := s.slotCheck s.curGroup true (lanesOf en)
    match r.1 with
    | some t => (some (r.2.trapWord { t with kind := 0, detail := t.detail ||| BitVec.ofNat 64 s.cw.idx }), r.2)
    | none => (none, r.2)

/-- TENQ (R237): its queue takes the record, which may start once its release has performed, or the wave runs it inline
or parks (R238). A record that leaves the core does so once the core has sent its counts (R330). -/
def execTenq (a b : BitVec 6) (q : BitVec 2) (s : State) : Res :=
  finish (s.uWord (sspanOk a.toNat 16 && decide (q.toNat ≠ 3) && (decide (q.toNat = 2) || decide (b = 0))) (fun s =>
    let g := s.cg
    let ws := (List.range 16).map (fun i => g.sreg (a.toNat + i))
    let die := dieOf g.core
    match taskFault (s.ctx g.ctx) ws with
    | some (cause, va) => s.valueTrap cause va pathS
    | none =>
      let t := taskOf ws g.ctx g.grid g.prio
      let s := if q.toNat = 1 then s.placeFired die else s
      let core := if q.toNat = 2 then die * 16 + (g.sreg b.toNat).toNat % 16 else g.core
      let room := if q.toNat = 1 then decide ((s.die die).queue.length < dieQueueMax && (s.die die).fired.isEmpty)
        else decide ((s.core core).queue.length < coreQueueMax)
      if room then
        if !s.canCount g.core g.ctx t.node t.stamp then s.park .keeper
        else
          let s := s.count g.core g.ctx t.node t.stamp 1
          let s := if q.toNat = 1 ∨ core ≠ g.core then s.flushDeltas g.core else s
          (if q.toNat = 1 then s.toDie die (.task t) t.prio g.lPending
            else s.toCore core (.task t) t.prio g.lPending).nextWord
      else if g.inlines.length < g.inlineLimit ∧ !neverInline s.cw.hdr ∧ s.cw.inl.isNone then
        let c := s.callCheck
        match c.1 with
        | some tr => tr
        | none =>
          let x : InlineTask := { entry := BitVec.ofNat 52 t.entry, payload := t.payload, done := t.done }
          (c.2.updWave (fun w => { w with inl := some x })).nextWord
      else s.park .tenqFull))

/-! ### MOOR and CASTOFF (R240, R241, R391 to R401) -/

/-- The valid mooring entry that a context holds for an entry VA on a die (R393). -/
def State.mooring (s : State) (die ctx va : Nat) : Option MoorEntry :=
  (tget (s.die die).moorings ctx []).find? (fun e => decide (e.entry = va))

/-- Is a bin the filling one of a key (R398)? -/
def Bin.fills (b : Bin) (ctx entry : Nat) (st : DWord) : Bool :=
  b.cast.isNone && decide (b.ctx = ctx) && decide (b.entry.entry = entry) && decide (b.stamp = st)

/-- Lanes that the core's bins can hold for a key (R240). -/
def Core.binRoom (c : Core) (ctx : Nat) (e : MoorEntry) (st : DWord) : Nat :=
  let fill := match c.bins.find? (fun b => b.fills ctx e.entry st) with
    | some b => e.cap - b.lanes.length
    | none => 0
  fill + e.cap * (256 - c.bins.length)

/-- One lane enters its bin, and a bin that is full stops filling (R398); its group waits for the release of the lane's
MOOR too (R299). -/
def Core.moorLane (c : Core) (b0 : Bin) (l : MoorLane) (waits : List Nat) : Core :=
  let key := fun (b : Bin) => b.fills b0.ctx b0.entry.entry b0.stamp
  let bins := if c.bins.any key then c.bins else c.bins ++ [b0]
  { c with bins := bins.map (fun b =>
      if key b then
        let ls := b.lanes ++ [l]
        { b with lanes := ls, waits := b.waits ++ waits, cast := if ls.length = b0.entry.cap then some 0 else none }
      else b) }

/-- The number of a block that no lane holds: the lowest one (log entry 42). -/
def Pool.spare (p : Pool) : Nat :=
  ((List.range (p.store.length + 1)).find? (fun i => (tget? p.store i).isNone)).getD 0

/-- Where a block of a pool lies: in the context's memory at BASEd, through the die's page table, as the device's own access; none
where the page can not be written (R394, log entry 42). -/
def State.blockKey (s : State) (die ctx pool b : Nat) : Option Nat :=
  let va := vaWrap ((tget (s.die die).pools (ctx * 16 + pool) {}).base + 32 * b)
  match classify (s.walk die ctx va).1 .write false va with
  | .ok key => some key
  | _ => none

/-- A lane takes a block of a pool, and its payload is written there (R394, R395): the block's number. Where the block lies is looked
up in `base`, the state as the MOOR was accepted; a block that can not be written is kept in the pool. -/
def State.poolTake (s base : State) (die ctx pool : Nat) (payload : List Word) : Nat × State :=
  let p := tget (s.die die).pools (ctx * 16 + pool) {}
  let at_ := base.blockKey die ctx pool p.spare
  let kept := if at_.isSome then [] else payload
  let s := match at_ with
    | some key => s.putHome key (payload.flatMap (fun (w : Word) => natLe 4 w.toNat))
    | none => s
  (p.spare, s.updDie die (fun d =>
    { d with pools := tset d.pools (ctx * 16 + pool) { p with free := p.free - 1, store := tset p.store p.spare kept } }))

/-- The step in which a MOOR is accepted: blocks, counts, join counter and lanes, in ascending order (R240, R398). -/
def State.moorAccept (s : State) (e : MoorEntry) (v n join scope : Nat) : State :=
  let g := s.cg
  let en := s.cw.en
  let die := dieOf g.core
  let b0 : Bin := { ctx := g.ctx, entry := e, stamp := g.stamp, timer := (s.core g.core).cycles + e.timer, grid := g.grid
                    prio := min (tget s.grids g.grid {}).prio g.prio }
  let base := s
  let s := (lanesOf en).foldl (fun s l =>
    let b := s.poolTake base die g.ctx e.pool ((List.range n).map (fun i => g.vreg (v + i) l))
    let s := b.2.count g.core g.ctx e.node g.stamp 1
    let s := if join = 0xFFFF then s else s.dcApply die join (fun x => x + 1)
    let x : MoorLane := { count := n, owes := { join := join, scope := scope, pool := e.pool, block := b.1 } }
    s.updCore g.core (fun c => c.moorLane b0 x g.lPending)) s
  s.serveBins g.core

/-- A MOOR joins the line of its pool unless it stands in it (R396). -/
def State.joinLine (s : State) (ctx pool : Nat) : State :=
  let me := (ctx, pool, s.curGroup, s.curWave)
  s.updDie (dieOf s.cg.core) (fun d => if me ∈ d.moorLine then d else { d with moorLine := d.moorLine ++ [me] })

/-- MOOR (R240, R393 to R398): it parks until its pool, the Keeper and the core's bins can take every lane. -/
def State.moorWord (s : State) (v : BitVec 8) (a : BitVec 6) (c n : BitVec 3) : State :=
  let k := n.toNat + 1
  s.uWord (dstOk s.cg.n v.toNat k && sspanOk a.toNat 3 && decide (1 ≤ c.toNat) && decide (c.toNat ≤ 5)) (fun s =>
    let g := s.cg
    let die := dieOf g.core
    let va := (g.spair a.toNat).toNat
    let w := (g.sreg (a.toNat + 2)).toNat
    let lanes := (lanesOf s.cw.en).length
    if 2 ^ 16 ≤ w ∨ !ctrFormOk w then s.illegal
    else match s.mooring die g.ctx va with
      | none => s.valueTrap cACCESS va pathS
      | some e =>
        let p := tget (s.die die).pools (g.ctx * 16 + e.pool) {}
        if p.blocks < lanes then s.valueTrap cACCESS va pathS
        else if !ctrInRange (s.ctx g.ctx) w then s.valueTrap cACCESS 0 pathL
        else
          let line := (s.die die).moorLine.filter (fun x => decide (x.1 = g.ctx) && decide (x.2.1 = e.pool))
          let mine := decide (line.head?.map (fun x => (x.2.2.1, x.2.2.2)) = some (s.curGroup, s.curWave))
          if p.free < lanes ∨ !(line.isEmpty || mine) then (s.joinLine g.ctx e.pool).park .moorPool
          else if (s.core g.core).binRoom g.ctx e g.stamp < lanes then (s.joinLine g.ctx e.pool).park .moorBin
          else if !s.canCount g.core g.ctx e.node g.stamp then (s.joinLine g.ctx e.pool).park .keeper
          else
            let me := (g.ctx, e.pool, s.curGroup, s.curWave)
            let s := s.updDie die (fun d => { d with moorLine := d.moorLine.filter (fun x => decide (x ≠ me)) })
            (s.moorAccept e v.toNat k w c.toNat).nextWord)

/-- MOOR (R240). -/
def execMoor (v : BitVec 8) (a : BitVec 6) (c n : BitVec 3) (s : State) : Res := finish (s.moorWord v a c n)

/-- MOOR_POOL_SERVE (R396): the oldest MOOR parked on a pool takes its blocks once enough are free. -/
def execMoorPoolServe (die ctx pool : Nat) (s : State) : Res :=
  match (s.die die).moorLine.find? (fun x => decide (x.1 = ctx) && decide (x.2.1 = pool)) with
  | none => .next s
  | some (_, _, gid, wid) =>
    let w := (s.group gid).wave wid
    let need := (lanesOf w.en).length
    match w.phase, decodeWord w.word none with
    | .parked .moorPool, .ok (.moor v a c n) =>
      if (tget (s.die die).pools (ctx * 16 + pool) {}).free < need then .next s
      else finish ((s.unpark gid wid).runSeen gid wid (fun s => s.moorWord v a c n))
    | _, _ => .next s

/-- CASTOFF (R241): the filling bin of the entry and the group's stamp, if there is one. -/
def execCastoff (a : BitVec 6) (s : State) : Res :=
  .next (s.uWord (sspanOk a.toNat 2) (fun s =>
    let g := s.cg
    let va := (g.spair a.toNat).toNat
    (s.castOff g.core 1 (fun b => b.fills g.ctx va g.stamp)).nextWord))

/-- CASTOFF.ALL (R241): every non-empty bin of the context on the core. -/
def execCastoffAll (s : State) : Res :=
  .next (s.uWord true (fun s => (s.castOff s.cg.core 1 (fun b => decide (b.ctx = s.cg.ctx))).nextWord))

/-- BIN_TIMER (R398, R402): a filling bin's timer has run out: the cycle in which it reached 0 is over, with its arrivals (R399).
The passing of time makes this step for every such bin at once (`State.expireBins`). -/
def execBinTimer (core bin : Nat) (s : State) : Res :=
  match (s.core core).bins[bin]? with
  | none => .next s
  | some b =>
    if b.cast.isNone && decide (b.timer ≤ (s.core core).cycles) then
      .next ((s.updCore core (fun c => { c with bins := c.bins.set bin { b with cast := some 1 } })).serveBins core)
    else .next s

/-! ### Dependence counters (R242, R243, R324) -/

/-- A counter word: the id must lie in the context's range (R242). -/
def State.dcWord (s : State) (ok : Bool) (id : Nat) (k : State → State) : State :=
  s.uWord ok (fun s => if ctrInRange (s.ctx s.cg.ctx) id then k s else s.valueTrap cACCESS 0 pathL)

/-- Set a counter's value and what is armed on it; the counter that was armed counts −1 where its arming counted. -/
def State.dcSet (s : State) (core die id : Nat) (v : Word) (a : Option Armed) : State :=
  let old := (tget (s.die die).dcs id {}).armed
  let s := match old with
    | some x => s.count core x.task.ctx x.task.node x.task.stamp (-1)
    | none => s
  (s.updDie die (fun d => { d with dcs := tset d.dcs id { value := (tget d.dcs id {}).value, armed := a } })).dcApply die id (fun _ => v)

/-- DCSET (R243, R324). -/
def execDcset (d a : BitVec 6) (i : BitVec 12) (s : State) : Res :=
  let id := i.toNat
  finish (s.dcWord (decide (d = 0) || sspanOk d.toNat 2) id (fun s =>
    let g := s.cg
    let die := dieOf g.core
    let v := g.sreg a.toNat
    if d = 0 then (s.dcSet g.core die id v none).nextWord
    else if !g.lPending.isEmpty || g.acquiring || g.fencing pathL then s
    else
      let va := (g.spair d.toNat).toNat
      if va % 64 ≠ 0 then s.valueTrap cALIGN va pathL
      else if 2 ^ 52 ≤ va then s.valueTrap cACCESS va pathL
      else
        let r := s.reach g.core g.ctx (!g.sup) false .read va true
        let s := r.2
        match r.1 with
        | .access => s.valueTrap cACCESS va pathL
        | .absent rep => s.addrTrap cABSENT va pathL false 0 s.cw.en rep
        | .ok key =>
          let b := s.readThrough g.core .l1 key 64
          let s := b.2
          let ws := wordsOf b.1
          -- the look becomes an access when the word does not trap (R412)
          let used := fun (s : State) => (s.reach g.core g.ctx (!g.sup) false .read va).2
          if s.poisoned key 64 then (used s).recordBad va key
          else match taskFault (s.ctx g.ctx) ws with
          | some (cause, va) => s.valueTrap cause va pathS
          | none =>
            let t := taskOf ws g.ctx g.grid g.prio
            if !s.canCount g.core g.ctx t.node t.stamp then s.park .keeper
            else
              let s := (used s).count g.core g.ctx t.node t.stamp 1
              let t := { t with armedBy := some g.core }
              (s.dcSet g.core die id v (some { va := va, cap := g.prio, user := !g.sup, task := t })).nextWord))

/-- DCADD (R243). -/
def execDcadd (a : BitVec 6) (i : BitVec 12) (s : State) : Res :=
  .next (s.dcWord true i.toNat (fun s =>
    (s.dcApply (dieOf s.cg.core) i.toNat (fun x => x + s.cg.sreg a.toNat)).nextWord))

/-- DCWAIT (R243): parks until it reads 0, then acquires at die scope on path L. -/
def execDcwait (i : BitVec 12) (s : State) : Res :=
  .next (s.dcWord true i.toNat (fun s =>
    if (tget (s.die (dieOf s.cg.core)).dcs i.toNat {}).value = 0#32 then (s.invalidate s.cg.core .l1).nextWord
    else s.park .dcwait))

end Sys2Proof.Machine
end

