-- ==== Sys2Proof/Machine/Sched.lean ====
section
/-! DEFINITION. Machine/Sched.lean: launch records and submission queues, placing work on cores, stealing, and the end of
groups, teams and grids (R44 to R47, R69, R236, R299, R349 to R365). -/
namespace Sys2Proof.Machine

/-! ### Room on a core (R30, R46, R47, R202) -/

/-- What a team asks for. -/
structure Shape where
  groups : Nat := 1
  lanes : Nat := 32
  vregs : Nat := 16
  scratch : Nat := 0
  accum : Nat := 0
  chambers : Nat := 0
  deriving DecidableEq, Repr

/-- Bytes of a group's vector registers (R30). -/
def groupBytes (lanes n : Nat) : Nat := lanes / 4 * n * 16

/-- A size rounded up to a granule (R47). -/
def roundUp (n g : Nat) : Nat := (n + g - 1) / g * g

/-- Register file places in use on a core: partition, index within it, bytes. -/
def State.places (s : State) (core : Nat) : List (Nat × Nat × Nat) :=
  s.groups.filterMap (fun e =>
    if e.2.core = core then some (e.2.part, e.2.slot % 16, groupBytes e.2.width e.2.n) else none)

/-- The partition that has room for a group with the fewest bytes in use, and its lowest free index (R46, R431, R473). -/
def choosePlace (occ : List (Nat × Nat × Nat)) (need : Nat) : Option (Nat × Nat) :=
  let used := fun (p : Nat) => ((occ.filter (fun e => decide (e.1 = p))).map (fun e => e.2.2)).sum
  let ok := (List.range 4).filter (fun p =>
    decide ((occ.filter (fun e => decide (e.1 = p))).length < 16) && decide (used p + need ≤ 2 ^ 18))
  match ok with
  | [] => none
  | p :: ps =>
    let best := ps.foldl (fun b q => if used q < used b then q else b) p
    ((List.range 16).find? (fun i => !occ.any (fun e => decide (e.1 = best) && decide (e.2.1 = i)))).map (fun i => (best, i))

/-- Places for `k` groups, or none when they do not all fit. -/
def placeAll (occ : List (Nat × Nat × Nat)) (need : Nat) : Nat → Option (List (Nat × Nat))
  | 0 => some []
  | k + 1 =>
    match choosePlace occ need with
    | none => none
    | some p => (placeAll ((p.1, p.2, need) :: occ) need k).map (fun ps => p :: ps)

/-- Teams that hold allocations on a core. -/
def State.teamsOn (s : State) (core : Nat) : List Team := (s.teams.filter (fun e => decide (e.2.core = core))).map (·.2)

/-- Does a team fit on a core now (R46, R202)? A core without power takes nothing (R472). -/
def State.fits (s : State) (core : Nat) (h : Shape) : Bool :=
  let ts := s.teamsOn core
  let c := s.core core
  !c.gated && c.gateAt.isNone && c.wakeAt.isNone && !(s.die (dieOf core)).halted
    && (placeAll (s.places core) (groupBytes h.lanes h.vregs) h.groups).isSome
    && decide ((ts.map (·.spadLen)).sum + roundUp h.scratch 128 ≤ 2 ^ 21)
    && decide ((ts.map (·.accLen)).sum + roundUp h.accum 2048 ≤ 2 ^ 23)
    && decide ((ts.map (·.reserved)).sum + h.chambers ≤ 96)

/-- The shape of a team of a grid, and of a task group that takes its limits from it (R239). -/
def LaunchRec.shape (l : LaunchRec) : Shape :=
  { groups := l.groups, lanes := l.lanes, vregs := l.vregs, scratch := l.scratch, accum := l.accum, chambers := l.chambers }
/-- The shape of a task group: one group of its source grid's shape (R239). -/
def LaunchRec.taskShape (l : LaunchRec) : Shape := { l.shape with groups := 1 }
/-- The shape of a cast-off group (R400). -/
def Bin.shape (b : Bin) (l : LaunchRec) : Shape :=
  { groups := 1, lanes := b.entry.cap, vregs := l.vregs }

/-- Launch record of a grid. -/
def State.lr (s : State) (grid : Nat) : LaunchRec := (tget s.grids grid {}).lr

/-! ### Creating groups and teams (R44, R45, R68, R148) -/

/-- Seed the generators of a group's lanes from free values that are not zero (R68, R148, log entry 1). -/
def State.seedLanes (s : State) (g : Group) : List Nat → Group × State
  | [] => (g, s)
  | l :: ls =>
    let a := s.takeFree
    let b := a.2.takeFree
    let seed := fun (n : Nat) => BitVec.ofNat 32 (n % (2 ^ 32 - 1) + 1)
    b.2.seedLanes (g.setLane l { g.lane l with gen := seed a.1, selGen := seed b.1 }) ls

/-- A new team on a core: scratchpad zero and present, accumulators zero, h-handles unbound (R45). A core that starts work
asks for work again after 64 cycles (R363). -/
def State.newTeam (s : State) (core : Nat) (h : Shape) (t : Team) : Nat × State :=
  let id := s.nextTeam
  let t := { t with core := core, size := h.groups, spadLen := roundUp h.scratch 128, accLen := roundUp h.accum 2048
                    reserved := h.chambers }
  (id, { s with nextTeam := id + 1, teams := tset s.teams id t }.updCore core (fun x => { x with
    backoff := 64, stealAt := min x.stealAt (x.cycles + 64) }))

/-- A new group of a team, as one wave of its live lanes (R44, R268); its first access acquires (R299). -/
def State.newGroup (s : State) (team : Nat) (place : Nat × Nat) (g : Group) : Nat × State :=
  let id := s.nextGroup
  let t := s.team team
  let c := s.core t.core
  let g := { g with
    team := team, core := t.core, part := place.1, slot := place.1 * 16 + place.2, issuePrio := g.prio
    clockLatch := BitVec.ofNat 32 (c.cycles / 2 ^ 32), nsLatch := BitVec.ofNat 32 (s.ns / 2 ^ 32)
    staging := g.stamp.extractLsb' 0 32
    waves := if g.live = 0#32 then [] else tset [] (lowLane g.live) { lanes := g.live, readyAt := c.cycles } }
  let r := s.seedLanes g (List.range 32)
  let s := { r.2 with nextGroup := id + 1, groups := tset r.2.groups id r.1 }
  (id, (s.updTeam team (fun t => { t with groups := t.groups ++ [id] })).invalidate t.core .l1)

/-- Every lane of a group at an entry clause. -/
def lanesAt (pc : Nat) : Vector Lane 32 := Vector.replicate 32 { pc := BitVec.ofNat 52 pc }

/-- A group of a grid (R44). -/
def gridGroup (ctx grid : Nat) (gr : Grid) (tidx rank i : Nat) : Group :=
  let l := gr.lr
  { ctx := ctx, grid := grid, origin := .grid, width := l.lanes, n := l.vregs, live := lowLanes l.lanes
    lanes := lanesAt l.entry
    s := Vector.ofFn (fun (j : Fin 64) => if j.val < 15 then vecGet l.s j.val 0
      else if j.val = 15 then (if l.mcast then BitVec.ofNat 32 rank else vecGet l.s 15 0) else 0)
    b := Vector.ofFn (fun (j : Fin 16) => vecGet l.b j.val 0)
    stamp := l.stamp, node := l.node, prio := gr.prio, launchPrio := gr.prio, gidx := i, tidx := tidx
    cidx := tidx / max 1 (l.cols * l.rows), rank := rank, producer := l.producer, inlineLimit := l.inlineLimit
    callLimit := l.callDepth }

/-- The values that a team of one group outside every grid's numbering reads (R239). -/
def soloGroup (ctx grid : Nat) (l : LaunchRec) (prio : Nat) : Group :=
  { ctx := ctx, grid := grid, n := l.vregs, prio := prio, launchPrio := prio, gidx := 0, tidx := 0xFFFFFFFF
    cidx := 0xFFFFFFFF, rank := 0, producer := 0, inlineLimit := l.inlineLimit, callLimit := l.callDepth }

/-- Start one team of a grid on a core: its groups with their counts (R44, R329). -/
def State.startTeam (s : State) (grid tidx core : Nat) : State :=
  let gr := tget s.grids grid {}
  let l := gr.lr
  let size := max 1 (l.cols * l.rows)
  let rank := if l.mcast then tidx else tidx % size
  let places := (placeAll (s.places core) (groupBytes l.lanes l.vregs) l.groups).getD []
  let gang := if l.gang && decide (1 < size) then some (grid * 2 ^ 32 + tidx / size) else none
  let t := s.newTeam core l.shape { ctx := gr.ctx, grid := grid, tidx := tidx, producer := l.producer, rank := rank
                                    prio := gr.prio, gang := gang }
  let s := (List.range l.groups).foldl (fun s i =>
    let s := (s.newGroup t.1 (places.getD i (0, 0)) (gridGroup gr.ctx grid gr tidx rank i)).2
    s.count core gr.ctx l.node l.stamp 1) t.2
  let left := gr.toStart.filter (fun x => decide (x ≠ tidx))
  { s with grids := tset s.grids grid { tget s.grids grid {} with toStart := left, pending := !left.isEmpty } }

/-- Start a task's group on a core (R44, R237, R239): its count is the record's. -/
def State.startTask (s : State) (core : Nat) (t : Task) : State :=
  let l := s.lr t.grid
  let places := (placeAll (s.places core) (groupBytes l.lanes l.vregs) 1).getD []
  let m := s.newTeam core l.taskShape { ctx := t.ctx, grid := t.grid, tidx := 0xFFFFFFFF, prio := t.prio }
  (m.2.newGroup m.1 (places.getD 0 (0, 0)) { soloGroup t.ctx t.grid l t.prio with
    origin := .task, width := l.lanes, live := lowLanes l.lanes, lanes := lanesAt t.entry
    s := Vector.ofFn (fun (j : Fin 64) => t.payload.getD j.val 0)
    stamp := t.stamp, node := t.node, doneCtr := t.done }).2

/-- The payload of a moored lane, read back from its block (R394); where that page is gone, what is read is not stated: a free value
(log entry 42). -/
def State.blockWords (s : State) (die ctx : Nat) (x : MoorLane) : List Word × State :=
  match tget (tget (s.die die).pools (ctx * 16 + x.owes.pool) {}).store x.owes.block [] with
  | [] =>
    match s.blockKey die ctx x.owes.pool x.owes.block with
    | some key => ((List.range x.count).map (fun i => BitVec.ofNat 32 (s.homeNat (key + 4 * i) 4)), s)
    | none => let f := s.takeFree; ((List.range x.count).map (fun i => BitVec.ofNat 32 (f.1 / 2 ^ (32 * i))), f.2)
  | ws => (ws.take x.count, s)

/-- Start a cast-off group on a core (R44, R400). -/
def State.startCast (s : State) (core : Nat) (b : Bin) : State :=
  let l := s.lr b.grid
  let places := (placeAll (s.places core) (groupBytes b.entry.cap l.vregs) 1).getD []
  let m := s.newTeam core (b.shape l) { ctx := b.ctx, grid := b.grid, tidx := 0xFFFFFFFF, prio := b.prio }
  let k := b.lanes.length
  let r := b.lanes.foldl (fun (a : List (List Word) × State) x =>
    let q := a.2.blockWords (dieOf core) b.ctx x
    (a.1 ++ [q.1], q.2)) ([], m.2)
  let v := (r.1.mapIdx (fun j ws => ws.mapIdx (fun i w => (i * 32 + j, w)))).flatten
  (r.2.newGroup m.1 (places.getD 0 (0, 0)) { soloGroup b.ctx b.grid l b.prio with
    origin := .castoff, width := b.entry.cap, live := lowLanes k, lanes := lanesAt b.entry.entry
    v := v.foldl (fun t e => tset t e.1 e.2) []
    s := Vector.ofFn (fun (j : Fin 64) =>
      if j.val = 0 then BitVec.ofNat 32 k else if j.val = 1 then BitVec.ofNat 32 (b.cast.getD 0) else 0)
    stamp := b.stamp, node := b.entry.node
    spawns := (b.lanes.mapIdx (fun j x => (j, x.owes))).foldl (fun t e => tset t e.1 e.2) [] }).2

/-- The shape of a probe wave's group: the record's, with one group of 32 lanes (R374). -/
def LaunchRec.probeShape (l : LaunchRec) : Shape := { l.shape with groups := 1, lanes := 32 }

/-- Start the group of a probe wave on a core (R44, R374): its count was made when the wave was launched. -/
def State.startProbe (s : State) (core : Nat) (p : ProbeWave) : State :=
  let l := s.lr p.grid
  let places := (placeAll (s.places core) (groupBytes 32 l.vregs) 1).getD []
  let m := s.newTeam core l.probeShape { ctx := p.ctx, grid := p.grid, tidx := 0xFFFFFFFF, prio := l.prio }
  let v := (p.samples.mapIdx (fun j x => [(j, x.1), (32 + j, x.2)])).flatten
  (m.2.newGroup m.1 (places.getD 0 (0, 0)) { soloGroup p.ctx p.grid l l.prio with
    origin := .probe, live := lowLanes p.samples.length, lanes := lanesAt l.entry
    v := v.foldl (fun t e => tset t e.1 e.2) []
    s := Vector.ofFn (fun (j : Fin 64) => if j.val < 16 then vecGet l.s j.val 0 else 0)
    b := Vector.ofFn (fun (j : Fin 16) => vecGet l.b j.val 0)
    stamp := p.stamp, node := l.node }).2

/-- The shape that a restored team asks for. -/
def Restore.fitShape (r : Restore) : Shape :=
  let g := (r.kept.map (·.group)).headD {}
  { groups := r.kept.length, lanes := g.width, vregs := g.n, scratch := r.shape.spadLen, accum := r.shape.accLen
    chambers := r.shape.reserved }

/-- A kept group as it is restored (R439): in its PREEMPT handler, as one wave of the lanes that were live. -/
def Kept.restored (k : Kept) (c : Ctx) : Group :=
  let g := k.group
  { ctx := g.ctx, grid := g.grid, origin := g.origin, width := g.width, n := g.n, live := g.live
    lanes := Vector.replicate 32 { pc := handlerPc c 0x0B }
    stamp := g.stamp, node := g.node, prio := g.prio, launchPrio := g.launchPrio, gidx := g.gidx, tidx := g.tidx
    cidx := g.cidx, rank := g.rank, producer := g.producer, inlineLimit := g.inlineLimit, callLimit := g.callLimit
    inlines := g.inlines, spawns := g.spawns, doneCtr := g.doneCtr, errors := g.errors
    sup := true, tcause := 0x0B, tkind := 4, tmask := g.live, tdetail := k.detail ||| 0x100#64 }

/-- Put a vacated team back on a core (R438, R439). Its counts still stand. -/
def State.startRestore (s : State) (core : Nat) (r : Restore) : State :=
  let h := r.fitShape
  let places := (placeAll (s.places core) (groupBytes h.lanes h.vregs) h.groups).getD []
  let x := r.shape
  let m := s.newTeam core h { ctx := x.ctx, grid := x.grid, tidx := x.tidx, producer := x.producer, rank := x.rank
                              prio := x.prio, gang := x.gang }
  let s := m.2.seeContext core x.ctx
  (r.kept.zip places).foldl (fun s e => (s.newGroup m.1 e.2 (e.1.restored (s.ctx x.ctx))).2) s

/-! ### Choosing what to start (R359, R360) -/

/-- Something that Pick may start on a core. -/
inductive Cand where
  | coreEntry (i : Nat) (e : QEntry)
  | dieEntry (i : Nat) (e : QEntry)
  | restore (i : Nat) (e : QEntry)
  | team (grid tidx : Nat)
  deriving DecidableEq, Repr

/-- Core of a rank of a rectangle with its origin at a core index of the die; none when it leaves the mesh (R360). -/
def rectCore (origin cols rows rank : Nat) : Option Nat :=
  if origin % 4 + cols ≤ 4 ∧ origin / 4 + rows ≤ 4 then some (origin + rank % cols + 4 * (rank / cols)) else none

/-- Core index of the `r`-th set bit of a multicast mask. -/
def maskCore (mask r : Nat) : Nat := ((List.range 16).filter (fun i => decide (mask / 2 ^ i % 2 = 1))).getD r 0

/-- Where a waiting team of a grid may stand: bound to one core of the die, free to stand anywhere, or not yet. -/
inductive Stand where
  | bound (core : Nat)
  | free
  | later
  deriving DecidableEq, Repr

/-- Where a team of a grid may stand (R360). -/
def Grid.stand (g : Grid) (t : Nat) : Stand :=
  let l := g.lr
  let size := max 1 (l.cols * l.rows)
  if l.mcast then .bound (maskCore l.mask t)
  else if size = 1 ∨ t % size = 0 then .free
  else if l.gang then .later
  else match tget? g.rects (t / size) with
    | some o => .bound (o + t % size % l.cols + 4 * (t % size / l.cols))
    | none => .later

/-- The lowest-indexed waiting team of a grid that may stand on a core of its die (R359). -/
def Grid.offer (g : Grid) (idx : Nat) : Option Nat :=
  let l := g.lr
  let first := g.toStart.find? (fun t => decide (g.stand t = .free))
  g.toStart.find? (fun t =>
    match g.stand t with
    | .bound c => decide (c = idx)
    | .free => decide (first = some t) && (rectCore idx l.cols l.rows 0).isSome
    | .later => false)

/-- Cores that a gang starts on together, with the teams, when `t` starts on core `idx` of the die; the team alone when
it is in no gang (R282, R360). -/
def Grid.together (g : Grid) (t idx : Nat) : List (Nat × Nat) :=
  let l := g.lr
  let size := max 1 (l.cols * l.rows)
  if l.gang && l.mcast then g.toStart.map (fun x => (x, maskCore l.mask x))
  else if l.gang then (List.range size).map (fun r => (t / size * size + r, (rectCore idx l.cols l.rows r).getD 0))
  else [(t, idx)]

/-- Priority of a candidate (R358). -/
def State.candPrio (s : State) : Cand → Nat
  | .coreEntry _ e | .dieEntry _ e | .restore _ e => e.prio
  | .team g _ => (tget s.grids g {}).prio

/-- Since when a candidate waits. -/
def State.candSince (s : State) : Cand → Nat
  | .coreEntry _ e | .dieEntry _ e | .restore _ e => e.since
  | .team g _ => (tget s.grids g {}).since

/-- The core of a vacated team that comes back through a core: that one, or for a team of a gang cluster, be it the last one left, its
rank's core in the rectangle with that origin (R360, R438). -/
def State.restoreCore (s : State) (core : Nat) (r : Restore) : Option Nat :=
  if r.shape.gang.isNone then some core
  else
    let l := s.lr r.shape.grid
    (rectCore (core % 16) l.cols l.rows r.shape.rank).map (fun i => dieOf core * 16 + i)

/-- Does the work of an entry fit on a core? A gang's teams take the cores of the rectangle with that origin. -/
def State.workFits (s : State) (core : Nat) : Work → Bool
  | .task t => s.fits core (s.lr t.grid).taskShape
  | .cast b => s.fits core (b.shape (s.lr b.grid))
  | .probe p => s.fits core (s.lr p.grid).probeShape
  | .restore rs => rs.all (fun r => (s.restoreCore core r).any (fun c => s.fits c r.fitShape))

/-- Cores that the start of a candidate takes room on. -/
def State.candCores (s : State) (core : Nat) : Cand → List Nat
  | .coreEntry _ e | .dieEntry _ e | .restore _ e =>
    (match e.work with
     | .restore rs => rs.filterMap (s.restoreCore core)
     | _ => [core])
  | .team g t => ((tget s.grids g {}).together t (core % 16)).map (fun x => dieOf core * 16 + x.2)

/-- The oldest entry of each priority, as candidates. An entry whose record still awaits its release is no record yet
(R237). -/
def State.oldest (s : State) (mk : Nat → QEntry → Cand) (q : List QEntry) : List Cand :=
  ((q.mapIdx (fun i e => (i, e))).filter (fun x => s.released x.2.waits)).foldl (fun (acc : List (Nat × Cand)) x =>
    if acc.any (fun a => decide (a.1 = x.2.prio)) then acc else acc ++ [(x.2.prio, mk x.1 x.2)]) [] |>.map (·.2)

/-- The entries of a die queue: task records and the entries of the restore list, which stand in it in the order they
came (R438). Of two that are the oldest of one priority the older is the die queue's. -/
def State.dieCands (s : State) (die : Nat) : List Cand :=
  let tasks := s.oldest .dieEntry (s.die die).queue
  let teams := s.oldest .restore (s.die die).restores
  let beats := fun (late : Bool) (a b : Cand) => decide (s.candPrio a = s.candPrio b)
    && (decide (s.candSince a < s.candSince b) || (late && decide (s.candSince a = s.candSince b)))
  tasks.filter (fun c => !teams.any (fun r => beats false r c)) ++ teams.filter (fun r => !tasks.any (fun c => beats true c r))

/-- Pending grids of a die in validation order. -/
def State.pendingGrids (s : State) (die : Nat) : List (Nat × Grid) :=
  let l := s.grids.filter (fun e => decide (e.2.die = die) && e.2.pending)
  l.foldl (fun acc e => (acc.takeWhile (fun x => decide (x.2.order ≤ e.2.order))) ++ [e]
    ++ (acc.dropWhile (fun x => decide (x.2.order ≤ e.2.order)))) []

/-- K of Pick for a core, in the order of its sources (R359). -/
def State.candidates (s : State) (core : Nat) : List Cand :=
  let die := dieOf core
  s.oldest .coreEntry (s.core core).queue ++ s.dieCands die
    ++ (s.pendingGrids die).filterMap (fun e => (e.2.offer (core % 16)).map (fun t => .team e.1 t))

/-- The entry for which a core holds room, as long as it waits (R361). -/
def State.held_ (s : State) (core : Nat) : Option (Nat × Nat) :=
  (s.core core).hold.filter (fun h => (s.candidates core).any (fun c =>
    decide (s.candPrio c = h.1) && decide (s.candSince c = h.2)))

/-- May an entry of a priority that waits since a time take room on a core: the room is not held, or it is held for this
entry or for one of lower priority (R361)? A core with a store that stayed behind a later write starts nothing until it has
performed, since every group of the core sees the two in their order (R289, log entry 66). -/
def State.mayTake (s : State) (core prio since : Nat) : Bool :=
  !s.lagging core && (match s.held_ core with
  | none => true
  | some h => decide (h.1 < prio) || decide (h = (prio, since)))

/-- Does a candidate fit on a core now (R359)? -/
def State.candFits (s : State) (core : Nat) (c : Cand) : Bool :=
  (s.candCores core c).all (fun x => s.mayTake x (s.candPrio c) (s.candSince c)) && (match c with
    | .coreEntry _ e | .dieEntry _ e | .restore _ e => s.workFits core e.work
    | .team g t =>
      let gr := tget s.grids g {}
      (gr.together t (core % 16)).all (fun x => s.fits (dieOf core * 16 + x.2) gr.lr.shape))

/-- Pick (R359): the candidate to start, if any. A priority at which something has waited more than 2 µs for room holds
the core's room. -/
def State.choose (s : State) (core : Nat) (k : List Cand) : Nat → Option Cand
  | 0 => none
  | fuel + 1 =>
    match k with
    | [] => none
    | _ =>
      let p := (k.map s.candPrio).foldl max 0
      let x := k.filter (fun c => decide (s.candPrio c = p))
      match x.find? (s.candFits core) with
      | some c => some c
      | none =>
        if x.any (fun c => decide (s.candSince c + 2000 < s.ns)) then none
        else s.choose core (k.filter (fun c => decide (s.candPrio c ≠ p))) fuel

/-- Start the work of a queue entry on a core. -/
def State.startWork (s : State) (core : Nat) : Work → State
  | .task t => s.startTask core t
  | .cast b => s.startCast core b
  | .probe p => s.startProbe core p
  | .restore rs => rs.foldl (fun s r => s.startRestore ((s.restoreCore core r).getD core) r) s

/-- Room in a queue of a die: fired tasks, cast-off groups and parked TENQ words may go on (R237, R357, R401). -/
def State.queueRoom (s : State) (core : Nat) : State :=
  let die := dieOf core
  let s := (s.placeFired die).serveBins core
  s.unparkAll (fun _ g why => decide (why = .tenqFull) && decide (dieOf g.core = die))

/-- An armed task that is about to start on another core than the one that armed it: that core sends its counts first
(R330). -/
def State.flushArming (s : State) (core : Nat) : Work → State
  | .task t =>
    match t.armedBy with
    | some c => if c = core then s else s.flushDeltas c
    | none => s
  | _ => s

/-- Start a candidate. A task that another core armed leaves the queue after that core's counts have been sent (R330). -/
def State.startCand (s : State) (core : Nat) (c : Cand) : State :=
  let die := dieOf core
  match c with
  | .coreEntry i e =>
    let s := s.updCore core (fun x => { x with queue := x.queue.eraseIdx i })
    (s.startWork core e.work).queueRoom core
  | .dieEntry i e =>
    let s := (s.updDie die (fun x => { x with queue := x.queue.eraseIdx i })).flushArming core e.work
    (s.startWork core e.work).queueRoom core
  | .restore i e =>
    let s := s.updDie die (fun x => { x with restores := x.restores.eraseIdx i })
    s.startWork core e.work
  | .team g t =>
    let gr := tget s.grids g {}
    let l := gr.lr
    let size := max 1 (l.cols * l.rows)
    let fixed := if !l.mcast && decide (t % size = 0) then tset gr.rects (t / size) (core % 16) else gr.rects
    let s := { s with grids := tset s.grids g { gr with rects := fixed } }
    (gr.together t (core % 16)).foldl (fun s x => s.startTeam g x.1 (die * 16 + x.2)) s

/-- PICK (R359): the core chooses what to start. -/
def execPick (core : Nat) (s : State) : Res :=
  let s := s.placeFired (dieOf core)
  match s.choose core (s.candidates core) 129 with
  | some c => finish (s.startCand core c)
  | none => finish s

/-! ### Preemption by the scheduler (R361) -/

/-- Is a team already being preempted? -/
def State.teamPreempting (s : State) (t : Nat) : Bool :=
  (s.die (dieOf (s.team t).core)).preempts.any (fun r => decide (t ∈ r.teams))
    || (s.team t).groups.any (fun g =>
      let x := s.group g
      x.preempt.isSome || decide (x.vacate ≠ 0) || (x.sup && decide (x.tcause = 0x0B)))

/-- Context of a candidate. -/
def State.candCtx (s : State) : Cand → Nat
  | .coreEntry _ e | .dieEntry _ e | .restore _ e =>
    (match e.work with
     | .task t => t.ctx
     | .cast b => b.ctx
     | .probe p => p.ctx
     | .restore rs => (rs.map (·.shape.ctx)).headD 0)
  | .team g _ => (tget s.grids g {}).ctx

/-- May a candidate start on a core: a team of a grid where it may stand (R360), other work anywhere? -/
def State.candStands (s : State) (core : Nat) : Cand → Bool
  | .team g t => decide ((tget s.grids g {}).offer (core % 16) = some t)
  | _ => true

/-- The teams of the lowest launch priority on a core: that priority, and the teams (R361). -/
def State.lowTeams (s : State) (core : Nat) : Option (Nat × List Nat) :=
  match s.teams.filter (fun e => decide (e.2.core = core) && !e.2.ended) with
  | [] => none
  | (i, t0) :: ts =>
    let low := ts.foldl (fun m e => min m e.2.prio) t0.prio
    some (low, (((i, t0) :: ts).filter (fun e => decide (e.2.prio = low))).map (·.1))

/-- The teams on a core whose preemption would give a waiting entry room there: those of the lowest launch priority, if
that lies below the entry's, no core of the die has room for it, and none of them is being preempted (R361). -/
def State.preemptFor (s : State) (core : Nat) (c : Cand) : Option (List Nat) :=
  let anyRoom := (coresOf (dieOf core)).any (fun x => s.candStands x c && s.candFits x c)
  (s.lowTeams core).bind (fun t =>
    let without := { s with
      teams := s.teams.filter (fun e => !t.2.contains e.1), groups := s.groups.filter (fun e => !t.2.contains e.2.team) }
    if anyRoom || decide (s.candPrio c ≤ t.1) || !without.candFits core c || t.2.any s.teamPreempting then none else some t.2)

/-- SCHEDULER_PREEMPT (R361): for a waiting entry at or above the threshold that has waited 2 µs and finds no room, the
teams of the lowest launch priority of a core whose room would fit it are preempted, and the room is held for it. -/
def execSchedulerPreempt (die core : Nat) (s : State) : Res :=
  let k := (s.candidates core).filter (fun c => decide (s.host.preemptAt ≤ s.candPrio c)
    && decide (s.candSince c + 2000 ≤ s.ns) && !s.candFits core c)
  if dieOf core ≠ die then .next s
  else match k.findSome? (fun c => (s.preemptFor core c).map (fun out => (c, out))) with
    | none => .next s
    | some (c, out) =>
      let r : PreemptReq := { ctx := s.candCtx c, bound := 0, cores := [core], teams := out
                              detail := BitVec.ofNat 64 (s.candCtx c + 0x200) }
      .next ((s.updDie die (fun d => { d with preempts := d.preempts ++ [r] })).updCore core (fun x =>
        { x with hold := some (s.candPrio c, s.candSince c) }))

/-! ### Stealing (R362, R363) -/

/-- One step of a core's LFSR. -/
def lfsrStep (x : BitVec 16) : BitVec 16 := (x >>> 1) ^^^ (if x.getLsbD 0 then 0xB400#16 else 0)

/-- A core has room for at least one group and Pick finds nothing that fits (R362). -/
def State.idle (s : State) (core : Nat) : Bool :=
  s.fits core { groups := 1, lanes := 4, vregs := 16 } && (s.choose core (s.candidates core) 129).isNone

/-- What a core's steal request says of its free room (R362). -/
def State.thief (s : State) (core : Nat) : Thief :=
  let occ := s.places core
  let ts := s.teamsOn core
  { core := core, slots := 64 - occ.length
    regs := (List.range 4).map (fun p => 2 ^ 18 - ((occ.filter (fun e => decide (e.1 = p))).map (fun e => e.2.2)).sum)
    spad := 2 ^ 21 - (ts.map (·.spadLen)).sum, acc := 2 ^ 23 - (ts.map (·.accLen)).sum
    chambers := 96 - (ts.map (·.reserved)).sum }

/-- Does a team of one group fit the room that a request names (R362)? -/
def Thief.fits (t : Thief) (h : Shape) : Bool :=
  decide (h.groups ≤ t.slots) && t.regs.any (fun r => decide (groupBytes h.lanes h.vregs ≤ r))
    && decide (roundUp h.scratch 128 ≤ t.spad) && decide (roundUp h.accum 2048 ≤ t.acc) && decide (h.chambers ≤ t.chambers)

/-- STEAL_BACKOFF (R362, R363): an idle core whose wait is over sends its next request. -/
def execStealBackoff (core : Nat) (s : State) : Res :=
  let c := s.core core
  if c.asked.isSome || c.answer.isSome || decide (c.cycles < c.stealAt) || !s.idle core then .next s
  else
    let x := lfsrStep c.lfsr
    let v := x.toNat % 15
    let v := dieOf core * 16 + (if core % 16 ≤ v then v + 1 else v)
    let s := s.updCore core (fun c => { c with lfsr := x, asked := some v })
    .next (s.updCore v (fun c => { c with thieves := c.thieves ++ [s.thief core] }))

/-- What the work of a core queue entry asks for: tasks and cast-off groups (R357). -/
def State.workShape (s : State) : Work → Shape
  | .task t => (s.lr t.grid).taskShape
  | .cast b => b.shape (s.lr b.grid)
  | .probe p => (s.lr p.grid).probeShape
  | .restore rs => ((rs.map (·.fitShape)).headD {})

/-- The entry a victim gives up: nearest the tail among those of the highest priority that fit the thief, by what its
request says (R362). -/
def State.stealChoice (s : State) (victim : Nat) (thief : Thief) : Option (Nat × QEntry) :=
  let q : List (Nat × QEntry) := ((s.core victim).queue.mapIdx (fun i e => (i, e))).filter (fun x =>
    s.released x.2.waits && thief.fits (s.workShape x.2.work))
  let p : Nat := (q.map (fun x => x.2.prio)).foldl max 0
  (q.filter (fun (x : Nat × QEntry) => decide (x.2.prio = p))).getLast?

/-- A core that has no power, or that is on its way back to it (R472). -/
def Core.off (c : Core) : Bool := c.gated || c.wakeAt.isSome

/-- An entry that the victim's own Pick takes in the cycle of an answer goes to the victim (R363). -/
def State.victimFirst (s : State) (core : Nat) : State :=
  match s.choose core (s.candidates core) 129 with
  | some (.coreEntry i e) => s.startCand core (.coreEntry i e)
  | _ => s

/-- STEAL_REQUEST (R362): the victim sends its counts, then answers its oldest request; a gated one wakes first
(R472). -/
def execStealRequest (core : Nat) (s : State) : Res :=
  if (s.core core).off || (s.core core).gateAt.isSome then .next s
  else match (s.core core).thieves with
  | [] => .next s
  | thief :: rest =>
    let s := ((s.flushDeltas core).updCore core (fun c => { c with thieves := rest })).victimFirst core
    match s.stealChoice core thief with
    | none => finish (s.updCore thief.core (fun c => { c with asked := none, answer := some none }))
    | some (i, e) =>
      let s := s.updCore core (fun c => { c with queue := c.queue.eraseIdx i })
      finish ((s.updCore thief.core (fun c => { c with asked := none, answer := some (some e) })).queueRoom core)

/-- STEAL_ANSWER (R363): an entry starts on the thief; an empty answer doubles its wait. -/
def execStealAnswer (core : Nat) (s : State) : Res :=
  let c := s.core core
  match c.answer with
  | none => .next s
  | some none =>
    .next (s.updCore core (fun c => { c with
      answer := none, stealAt := c.cycles + c.backoff, backoff := min 4096 (2 * c.backoff) }))
  | some (some e) =>
    if s.workFits core e.work && s.mayTake core e.prio e.since then
      finish ((s.updCore core (fun c => { c with answer := none })).startWork core e.work)
    else .next s

/-! ### Launch records (R349 to R352) -/

/-- Bits of a launch record's 256 bytes, from byte `i`. -/
def recField (raw i bits lo : Nat) : Nat := raw / 2 ^ (8 * i + lo) % 2 ^ bits

/-- The fault code of a launch record, checked in the order of R349; 0 for a valid one. -/
def launchFault (c : Ctx) (raw : Nat) : Nat :=
  let f := recField raw
  let cols := f 0xC 4 0
  let rows := f 0xC 4 4
  let mcast := f 0xC 1 9
  let teams := f 8 32 0
  let mask := f 0xD0 16 0
  let bits := ((List.range 16).filter (fun i => decide (mask / 2 ^ i % 2 = 1))).length
  if f 0 3 0 ≠ 0 ∨ f 0 12 52 ≠ 0 then 1
  else if teams = 0 ∨ teams % (cols * rows) ≠ 0 then 2
  else if cols = 0 ∨ 4 < cols ∨ rows = 0 ∨ 4 < rows ∨ 12 < cols * rows then 3
  else if mcast = 1 ∧ cols * rows ≠ 1 then 3
  else if f 0xC 22 10 ≠ 0 then 10
  else if f 0x10 5 0 = 0 ∨ 16 < f 0x10 5 0 then 4
  else if f 0x10 6 5 < 4 ∨ 32 < f 0x10 6 5 ∨ f 0x10 6 5 % 4 ≠ 0 then 4
  else if f 0x10 8 11 < 16 ∨ 192 < f 0x10 8 11 ∨ f 0x10 8 11 % 16 ≠ 0 then 4
  else if f 0x10 13 19 ≠ 0 then 10
  else if 2 ^ 21 < f 0x14 32 0 then 5
  else if 2 ^ 23 < f 0x18 32 0 then 5
  else if f 0x10 5 0 ≤ f 0x1C 4 0 then 6
  else if 8 < f 0x1C 4 11 then 7
  else if 96 < f 0x1C 7 21 then 8
  else if f 0x1C 4 28 ≠ 0 then 10
  else if !stampOk (BitVec.ofNat 64 (f 0xC0 64 0)) then 11
  else if 64 ≤ f 0xC8 16 0 then 12
  else if !ctrFormOk (f 0xCA 16 0) || !ctrInRange c (f 0xCA 16 0) then 13
  else if f 0xCC 32 0 ≠ 0 then 10
  else if (mcast = 1 ∧ (mask = 0 ∨ bits ≠ teams)) ∨ (mcast = 0 ∧ mask ≠ 0) then 9
  else if f 0xD0 16 16 ≠ 0 ∨ raw / 2 ^ (8 * 0xD4) ≠ 0 then 10
  else 0

/-- The fields of a launch record. -/
def launchRec (raw : Nat) : LaunchRec :=
  let f := recField raw
  { entry := f 0 52 0, teams := f 8 32 0, cols := f 0xC 4 0, rows := f 0xC 4 4, gang := decide (f 0xC 1 8 = 1)
    mcast := decide (f 0xC 1 9 = 1), groups := f 0x10 5 0, lanes := f 0x10 6 5, vregs := f 0x10 8 11
    scratch := f 0x14 32 0, accum := f 0x18 32 0, producer := f 0x1C 4 0, prio := f 0x1C 7 4, inlineLimit := f 0x1C 4 11
    callDepth := f 0x1C 6 15, chambers := f 0x1C 7 21
    fs := Vector.ofFn (fun (i : Fin 8) => BitVec.ofNat 32 (f (0x20 + 4 * i.val) 32 0))
    s := Vector.ofFn (fun (i : Fin 16) => BitVec.ofNat 32 (f (0x40 + 4 * i.val) 32 0))
    b := Vector.ofFn (fun (i : Fin 4) => BitVec.ofNat 128 (f (0x80 + 16 * i.val) 128 0))
    stamp := BitVec.ofNat 64 (f 0xC0 64 0), node := f 0xC8 16 0, done := f 0xCA 16 0, mask := f 0xD0 16 0 }

/-- How the scheduler's read of a record's page ended (R351). -/
inductive RecRead where
  | ok (raw : Nat)
  | bad
  | absent (va : Nat) (replica : Bool)
  deriving DecidableEq, Repr

/-- Read the parts of a range through a die's page table, as a user access or as the display units do: at the home. -/
def State.dieSpans (s : State) (die ctx : Nat) (user : Bool) : List (Nat × Nat) → RecRead × State
  | [] => (.ok 0, s)
  | (va, n) :: rest =>
    let r := s.walk die ctx va
    match classify r.1 .read user va with
    | .ok key =>
      let s := r.2.checkPa key n
      let q := s.dieSpans die ctx user rest
      match q.1 with
      | .ok raw => (.ok (s.homeNat key n + 2 ^ (8 * n) * raw), q.2)
      | e => (e, q.2)
    | .access => (.bad, r.2)
    | .absent rep => (.absent va rep, r.2)

/-- Read `n` bytes at a VA through a die's page table, whichever pages they lie in (R351, R353). -/
def State.dieRead (s : State) (die ctx va n : Nat) : RecRead × State := s.dieSpans die ctx true (pageSpans va n)

/-- Write bytes at a VA through a die's page table; nothing where the page cannot be written. -/
def State.dieWrite (s : State) (die ctx va n v : Nat) : State :=
  let r := s.walk die ctx va
  match classify r.1 .write true va with
  | .ok key => r.2.putHomeNat key n v
  | _ => r.2

/-- Ask for an absent page from a core, as a suspended operation does (R219). -/
def State.askPage (s : State) (core ctx va : Nat) (replica : Bool) : Susp × State :=
  let r := s.ringAppend core ctx (pageEntry 2 va replica)
  ({ va := va, replica := replica, retryAt := s.ns + 4000, again := if r.1 = .logged then none else some s.ns }, r.2)

/-- Ask again where the last request was filtered or dropped 16 µs ago, and set the time of the next read. -/
def State.askAgain (s : State) (core ctx : Nat) (p : Susp) : Susp × State :=
  match p.again with
  | some t =>
    if t + 16000 ≤ s.ns then s.askPage core ctx p.va p.replica else ({ p with retryAt := s.ns + 4000 }, s)
  | none => ({ p with retryAt := s.ns + 4000 }, s)

/-- Ask for the page at which a read stopped: anew where it is not the page that was asked for before (R219, R351). -/
def State.askFor (s : State) (core ctx : Nat) (wait : Option Susp) (va : Nat) (replica : Bool) : Susp × State :=
  match wait with
  | some p => if p.va / 2 ^ 16 = va / 2 ^ 16 then s.askAgain core ctx p else s.askPage core ctx va replica
  | none => s.askPage core ctx va replica

/-- A record that passed enters the pending grid table of a die (R350, R357). -/
def State.addGrid (s : State) (die ctx prio : Nat) (l : LaunchRec) : State :=
  let id := s.nextGrid
  let g : Grid := { ctx := ctx, die := die, lr := l, prio := min l.prio prio, pending := true, toStart := List.range l.teams
                    since := s.ns, order := (s.die die).validated, groupsLeft := l.teams * l.groups }
  { s with nextGrid := id + 1, grids := tset s.grids id g }.updDie die (fun d => { d with validated := d.validated + 1 })

/-- Room in the pending grid table of a die: 256 grids (R357). -/
def State.gridRoom (s : State) (die : Nat) : Bool := decide ((s.pendingGrids die).length < 256)

/-- A rejected record: its count, DONE, and the launch fault record (R352, R467). -/
def State.rejectLaunch (s : State) (die ctx va code : Nat) (raw : Option Nat) (counted : Option (Nat × Nat × DWord)) : State :=
  let s := match counted with
    | some (core, node, st) => s.count core ctx node st (-1)
    | none => s
  let done := (raw.map (fun r => recField r 0xCA 16 0)).getD 0xFFFF
  let s := if ctrFormOk done && ctrInRange (s.ctx ctx) done then s.dcDec die done else s
  s.errorRecord die 6 0xFF ctx false va code

/-- Take a LAUNCH's record: read, validate, and enter or reject it (R236, R349 to R352). Its stamp and node stand in
place of those of the record. -/
def State.takeLaunch (s : State) (die : Nat) (q : LaunchReq) : State :=
  let s := s.updDie die (fun d => { d with launches := d.launches.erase q })
  let counted := some (q.core, q.node, q.stamp)
  let r := s.dieRead die q.ctx q.va 256
  let s := r.2
  match r.1 with
  | .bad => s.rejectLaunch die q.ctx q.va 14 none counted
  | .absent va rep =>
    let a := s.askFor q.core q.ctx q.wait va rep
    a.2.updDie die (fun d => { d with launches := { q with wait := some a.1 } :: d.launches })
  | .ok raw0 =>
    let raw := raw0 % 2 ^ (8 * 0xC0) + q.stamp.toNat * 2 ^ (8 * 0xC0) + q.node * 2 ^ (8 * 0xC8)
      + raw0 / 2 ^ (8 * 0xCA) * 2 ^ (8 * 0xCA)
    let f := launchFault (s.ctx q.ctx) raw
    if f ≠ 0 then s.rejectLaunch die q.ctx q.va f (some raw) counted
    else if !s.gridRoom die then s.rejectLaunch die q.ctx q.va 16 (some raw) counted
    else s.addGrid die q.ctx q.cap (launchRec raw)

/-- LAUNCH_RECORD_TAKE (R236, R349 to R352): the oldest launch whose record has not been read and whose release has
performed (R299). -/
def execLaunchRecordTake (die : Nat) (s : State) : Res :=
  match (s.die die).launches.find? (fun q => q.wait.isNone && s.released q.waits) with
  | none => .next s
  | some q => finish (s.takeLaunch die q)

/-! ### Submission queues (R353 to R356) -/

/-- Bytes 0 to 63 of a queue's status line (R356). -/
def State.writeStatus (s : State) (die ctx : Nat) (q : HostQueue) : State :=
  s.dieWrite die ctx q.statVa 64 (q.head + 2 ^ 32 * q.rej + 2 ^ 64 * q.lastIdx + 2 ^ 96 * q.lastCode)

/-- Die whose pending grid table a record taken from a queue enters (R353). -/
def State.queueDie (s : State) (q : HostQueue) (serving : Nat) : Nat :=
  if q.dieSel < 2 then serving
  else if (s.pendingGrids 1).length < (s.pendingGrids 0).length then 1 else 0

/-- Take records of a queue in ring order while there are any and there is room (R355). -/
def State.takeRecords (s : State) (die ctx n : Nat) : Nat → State
  | 0 => s
  | k + 1 =>
    let key := ctx * 16 + n
    match tget? (s.die die).hostQueues key with
    | none => s
    | some q =>
      let home := s.queueDie q die
      if q.head = q.tail ∨ !s.gridRoom home then s
      else
        let va := vaWrap (q.ring + 256 * (q.head % 2 ^ q.log2n))
        let r := s.dieRead die ctx va 256
        let s := r.2
        let put := fun (q : HostQueue) (s : State) =>
          (s.updDie die (fun d => { d with hostQueues := tset d.hostQueues key q })).writeStatus die ctx q
        let reject := fun (code : Nat) (raw : Option Nat) =>
          let q := { q with head := (q.head + 1) % 2 ^ 32, rej := (q.rej + 1) % 2 ^ 32, lastIdx := q.head, lastCode := code
                            wait := none }
          (put q (s.rejectLaunch die ctx va code raw none)).takeRecords die ctx n k
        match r.1 with
        | .bad => reject 14 none
        | .absent va rep =>
          let a := s.askFor (die * 16) ctx q.wait va rep
          a.2.updDie die (fun d => { d with hostQueues := tset d.hostQueues key { q with wait := some a.1 } })
        | .ok raw =>
          let f := launchFault (s.ctx ctx) raw
          if f ≠ 0 then reject f (some raw)
          else
            let l := launchRec raw
            if !s.keeperRoom home ctx l.node l.stamp then s
            else
              let s := (s.unitCount home ctx l.node l.stamp [1]).addGrid home ctx q.pcap l
              (put { q with head := (q.head + 1) % 2 ^ 32, wait := none } s).takeRecords die ctx n k

/-- TAIL_WAKE (R355): on a write of TAIL the scheduler reads it and takes what lies between HEAD and it; a malformed tail
is reported, and the next write of TAIL is waited for. A queue that stopped for want of room goes on with the tail that
was read (R357). -/
def execTailWake (die ctx queue : Nat) (s : State) : Res :=
  let key := ctx * 16 + queue
  match tget? (s.die die).hostQueues key with
  | none => .next s
  | some q0 =>
    if !q0.woken then
      finish (if q0.wait.isSome then s else s.takeRecords die ctx queue ((q0.tail + 2 ^ 32 - q0.head) % 2 ^ 32))
    else
    let q := { q0 with woken := false }
    let s := s.updDie die (fun d => { d with hostQueues := tset d.hostQueues key q })
    let r := s.dieRead die ctx q.tailVa 4
    match r.1 with
    | .ok tail =>
      let dist := (tail + 2 ^ 32 - q.head) % 2 ^ 32
      if 2 ^ q.log2n < dist then
        let q := { q with lastCode := 15, lastIdx := tail, tail := q.head, wait := none }
        let s := r.2.updDie die (fun d => { d with hostQueues := tset d.hostQueues key q })
        finish ((s.writeStatus die ctx q).errorRecord die 6 0xFF ctx false q.tailVa 15)
      else
        let s := r.2.updDie die (fun d => { d with hostQueues := tset d.hostQueues key { q with tail := tail } })
        finish (if q.wait.isSome then s else s.takeRecords die ctx queue dist)
    | _ => finish r.2

/-- RECORD_READ_RETRY (R351): the reads that met an absent page and are due are made again. -/
def execRecordReadRetry (die : Nat) (s : State) : Res :=
  let due := fun (p : Option Susp) => match p with | some p => decide (p.retryAt ≤ s.ns) | none => false
  let s := ((s.die die).launches.filter (fun q => due q.wait)).foldl (fun s q => s.takeLaunch die q) s
  finish (((s.die die).hostQueues.filter (fun e => due e.2.wait)).foldl (fun s e =>
    s.takeRecords die (e.1 / 16) (e.1 % 16) ((e.2.tail + 2 ^ 32 - e.2.head) % 2 ^ 32)) s)

/-! ### The end of a group (R85, R299, R329, R365) -/

/-- A team whose last group has gone gives back its accumulators, chambers and check-outs, and its scratchpad unless a
copy to it is inbound (R233, R365, R437). -/
def State.endTeam (s : State) (t : Nat) : State :=
  let s := { s with ranges := s.ranges.filter (fun e => decide (e.team ≠ t)) }
  (s.updTeam t (fun x => { x with
    ended := true, accLen := 0, acc := [], reserved := 0, chambers := [], h := Vector.replicate 32 none })).freeTeam t

/-- A grid counts one group fewer; with its last one its pointstamp falls and then its completion counter (R236). -/
def State.gridGroupEnd (s : State) (grid core : Nat) : State :=
  let g := tget s.grids grid {}
  let s := { s with grids := tset s.grids grid { g with groupsLeft := g.groupsLeft - 1 } }
  if g.groupsLeft = 1 then
    (s.count core g.ctx g.lr.node g.lr.stamp (-1)).dcDec g.die g.lr.done
  else s

/-- Stopped operations of a group that exits are discarded; rows keep the blocks added so far (R221). -/
def State.dropStopped (s : State) (gid : Nat) : State :=
  let core := (s.group gid).core
  let ops := (s.group gid).ops.filter (fun o => o.stopped)
  let s := ops.foldl (fun s o => s.flushWide gid o) s
  let s := s.updCore core (fun c => { c with engine := c.engine.filter (fun e => decide (e.1 ≠ gid)) })
  (s.updGroup gid (fun g => { g with ops := [] })).returnChambers (s.group gid).team

/-- GROUP_EXIT (R85, R299, R329, R365): once every operation of the group has completed, its counts fall, its completion
counter falls, and its registers and slot are free. -/
def execGroupExit (gid : Nat) (s : State) : Res :=
  let g := s.group gid
  if !g.exiting || !g.ops.all (fun o => o.stopped) then .next s
  else
    let core := g.core
    let s := s.dropStopped gid
    let s := (g.spawns.map (·.1)).foldl (fun s l => s.spawnExit gid l) s
    let s := if g.origin = .castoff then s else s.count core g.ctx g.node g.stamp (-1)
    let s := s.dcDec (dieOf core) g.doneCtr
    let s := s.leaveLines gid
    let s := { s with groups := tdel s.groups gid }
    let s := s.updTeam g.team (fun t => { t with groups := t.groups.filter (fun x => decide (x ≠ gid)) })
    let s := if g.origin = .grid then s.gridGroupEnd g.grid core else s
    let s := if (s.team g.team).groups.isEmpty then s.endTeam g.team else s
    finish s

end Sys2Proof.Machine
end

