-- ==== Sys2Proof/Machine/Traverse.lean ====
section
/-! DEFINITION. Machine/Traverse.lean: VTRAV and VTRAVC: ray structures, exact hit tests, the two stacks, suspended
walks and what a traversal delivers (R249 to R256). -/
namespace Sys2Proof.Machine

/-! ### Exact geometry (R250, R252, R254) -/

/-- A finite FP32 value in units of 2⁻¹⁴⁹; none for an infinity or a NaN. -/
def fix32 (b : Nat) : Option Int :=
  match fp32.decode b with
  | .fin neg n d => some (if neg then -((n * 2 ^ 149 / d : Nat) : Int) else ((n * 2 ^ 149 / d : Nat) : Int))
  | _ => none

/-- A vector of three integers. -/
structure V3 where
  x : Int := 0
  y : Int := 0
  z : Int := 0
  deriving DecidableEq, Repr

/-- Difference of two vectors. -/
def V3.sub (a b : V3) : V3 := ⟨a.x - b.x, a.y - b.y, a.z - b.z⟩
/-- Cross product. -/
def V3.cross (a b : V3) : V3 := ⟨a.y * b.z - a.z * b.y, a.z * b.x - a.x * b.z, a.x * b.y - a.y * b.x⟩
/-- Dot product. -/
def V3.dot (a b : V3) : Int := a.x * b.x + a.y * b.y + a.z * b.z

/-- Three FP32 values from a list as a vector; none unless all are finite. -/
def vec3 (l : List Nat) : Option V3 :=
  match fix32 (l.getD 0 0), fix32 (l.getD 1 0), fix32 (l.getD 2 0) with
  | some x, some y, some z => some ⟨x, y, z⟩
  | _, _, _ => none

/-- The exact value `a / b`. -/
def ratioNum (a b : Int) : Num := .fin (decide (a ≠ 0) && (decide (a < 0) != decide (b < 0))) a.natAbs b.natAbs

/-- t, the weights of v1 and v2, and whether the back is seen, for a ray that meets a triangle inside it or on an edge
(R254): exact, so that no ray passes between triangles that share an edge. The front is the side from which the vertices
run counter-clockwise in right-handed axes (log entry 8). -/
def triTest (o d v0 v1 v2 : V3) : Option (Num × Num × Num × Bool) :=
  let e1 := v1.sub v0
  let e2 := v2.sub v0
  let p := d.cross e2
  let det := e1.dot p
  if det = 0 then none
  else
    let m := o.sub v0
    let sg : Int := if det < 0 then -1 else 1
    let u := sg * m.dot p
    let q := m.cross e1
    let v := sg * d.dot q
    if u < 0 ∨ v < 0 ∨ sg * det < u + v then none
    else some (ratioNum (e2.dot q) det, ratioNum (m.dot p) det, ratioNum (d.dot q) det, decide (det < 0))

/-- The larger of two values that are no NaN. -/
def Num.most (a b : Num) : Num := if a.lt b then b else a
/-- The smaller of two values that are no NaN. -/
def Num.least (a b : Num) : Num := if b.lt a then b else a

/-- Narrow an interval of t to where a ray is between two planes of an axis. -/
def slab (o d lo hi : Int) (iv : Option (Num × Num)) : Option (Num × Num) :=
  match iv with
  | none => none
  | some (a, b) =>
    if d = 0 then (if lo ≤ o ∧ o ≤ hi then some (a, b) else none)
    else
      let n := ratioNum (lo - o) d
      let f := ratioNum (hi - o) d
      let r := if 0 < d then (a.most n, b.least f) else (a.most f, b.least n)
      if r.2.lt r.1 then none else some r

/-- FP32 bits for an exact result: the candidate where it lies within 2 ulp, else the nearest value (R254). -/
def deliver2 (x : Num) (cand : Nat) : Nat :=
  match x with
  | .fin s n d =>
    if n = 0 then 0
    else
      let p := pow2 (fp32.ulpExp n d)
      (fp32.round (withinOr s n d (2 * p.1) p.2 cand) {}).1
  | x => (fp32.round x {}).1

/-! ### Nodes (R249 to R252) -/

/-- Field of a node's bytes, held as a number: `bits` bits from bit `lo` of byte `i`. -/
def nodeField (raw i bits : Nat) (lo : Nat := 0) : Nat := raw / 2 ^ (8 * i + lo) % 2 ^ bits

/-- `n` FP32 values from byte `i`. -/
def nodeFloats (raw i n : Nat) : List Nat := (List.range n).map (fun k => nodeField raw (i + 4 * k) 32)

/-- What a child reference names; none for one that R249 does not allow. -/
def childOf (r : Nat) : Option Todo :=
  let va := r / 2 ^ 7 % 2 ^ 45 * 2 ^ 7
  let count := r / 2 ^ 3 % 2 ^ 4
  if r / 2 ^ 52 ≠ 0 then none
  else match r % 8 with
    | 0 => if count = 0 then some (.box va) else none
    | 1 => some (.tri va (count + 1))
    | 2 => if count = 0 then some (.inst va) else none
    | _ => none

/-- Slots of a box node that are present. -/
def boxSlots (raw : Nat) : List Nat := (List.range 8).filter (fun c => decide (nodeField raw 15 1 c = 1))

/-- A box node that R250 allows. -/
def boxOk (raw : Nat) : Bool :=
  (List.range 3).all (fun a => decide (nodeField raw (12 + a) 8 ≠ 0xFF))
    && (boxSlots raw).all (fun c => (childOf (nodeField raw (64 + 8 * c) 64)).isSome)

/-- Does the ray enter the box of a slot within its interval? Where a coordinate is not finite the box is accepted
(R250). -/
def boxHit (w : Walk) (raw c : Nat) : Bool :=
  match vec3 (w.ray.take 3), vec3 (w.ray.drop 3), vec3 (nodeFloats raw 0 3) with
  | some o, some d, some org =>
    let at_ := fun (k : Nat) (base : Int) (axis : Nat) =>
      base + (nodeField raw (16 + 6 * c + k) 8 : Int) * 2 ^ (nodeField raw (12 + axis) 8 + 22)
    let iv := slab o.x d.x (at_ 0 org.x 0) (at_ 3 org.x 0) (some (w.tmin, w.tmax))
    let iv := slab o.y d.y (at_ 1 org.y 1) (at_ 4 org.y 1) iv
    (slab o.z d.z (at_ 2 org.z 2) (at_ 5 org.z 2) iv).isSome
  | _, _, _ => true

/-- A triangle record that R251 allows. -/
def triOk (raw : Nat) : Bool := decide (nodeField raw 42 15 1 = 0) && decide (nodeField raw 44 32 = 0)

/-- An instance node that R252 allows. -/
def instOk (raw : Nat) : Bool :=
  decide (nodeField raw 48 7 = 0) && decide (nodeField raw 48 12 52 = 0) && decide (nodeField raw 61 536 = 0)

/-- One component of a transformed ray: the dot product with a matrix row, rounded once (R252). -/
def rowDot (raw row : Nat) (v : List Nat) (point : Bool) : Nat :=
  let m := nodeFloats raw (16 * row) 4
  let x := (List.range 3).map (fun k => (fp32.decode (m.getD k 0)).mul (fp32.decode (v.getD k 0)))
  let x := if point then x ++ [fp32.decode (m.getD 3 0)] else x
  (fp32.round (x.foldl (fun a b => a.add false b) (.fin false 0 1)) {}).1

/-- The ray in an instance's own space (R252). -/
def instRay (raw : Nat) (ray : List Nat) : List Nat :=
  (List.range 3).map (fun r => rowDot raw r (ray.take 3) true) ++ (List.range 3).map (fun r => rowDot raw r (ray.drop 3) false)

/-! ### Reads and spills of the unit (R249, R255) -/

/-- Read 16-byte pieces of a structure on path S, through the record of its walk (R410, R411). -/
def State.tRead (s : State) (gid : Nat) (w : Walk) (va : Nat) : Nat → Except Ran (List Byte) × State
  | 0 => (.ok [], s)
  | n + 1 =>
    let g := s.group gid
    let r := s.reach g.core g.ctx w.user true .read (vaWrap va)
    match r.1 with
    | .access => (.error (.failed va), r.2)
    | .absent rep => (.error (.absent va false rep), r.2)
    | .ok key =>
      let key := r.2.loadKey gid w.br w.recd (vaWrap va) key
      let b := (r.2.noteUse gid w.br w.recd true (vaWrap va)).readShown g.core .sampler key 16
      if b.2.poisoned key 16 then (.error (.poison va key), b.2)
      else
        let q := b.2.tRead gid w (va + 16) n
        match q.1 with
        | .ok l => (.ok (b.1 ++ l), q.2)
        | .error e => (.error e, q.2)

/-- Is a node's 128 bytes inside the record's span (R249)? -/
def nodeIn (r : QWord) (va : Nat) : Bool :=
  decide (recBase r ≤ va) && decide (va + 128 ≤ recBase r + recExtent r * recEz r)

/-- A spill waits: it is a write on path L, which follows every earlier access of the group on that path, and on a host or peer
page the earlier writes on path H (R288 rows 1 and 3, R289). -/
def State.spillHeld (s : State) (gid va : Nat) : Bool :=
  match (s.group gid).ops.find? (fun o => spills o.instr) with
  | none => false
  | some o =>
    ((s.group gid).earlier o).any (fun a => a.onPath pathL && a.stacked && !readsAtWill a.instr) || s.hHeld gid o va

/-- Spill entries of the node stack to the lane's traversal area, from entry `i` (R255): 16 bytes each from byte 512 of
the lane's area, whose contents the manual does not give (log entry 9). -/
def State.spill (s : State) (gid lane : Nat) (user : Bool) (i : Nat) : Nat → Ran × State
  | 0 => (.done, s)
  | n + 1 =>
    let g := s.group gid
    let va := vaWrap (s.privArea g lane + 512 + 16 * i)
    if (s.ctx g.ctx).privSize < 512 + 16 * (i + 1) then (.failed va, s)
    else if s.spillHeld gid va then (.limit, s)
    else
      let r := s.claimWrite g.core g.ctx user [(va, 16)]
      match r.1.stop true with
      | some e => (e, r.2.2)
      | none =>
        let f := r.2.2.takeFree
        let key := (r.2.1.map (·.1)).headD 0
        ((f.2.drainH gid key).writeThrough g.core key (natLe 16 f.1)).spill gid lane user (i + 1) n

/-- Bring a spilled entry of the node stack back on chip (R255): it is read through path L, and it can meet what any
read can meet. What it holds is the entry that was spilled. -/
def State.refill (s : State) (gid lane : Nat) (user : Bool) (i : Nat) : Ran × State :=
  let g := s.group gid
  let va := vaWrap (s.privArea g lane + 512 + 16 * i)
  let r := s.reach g.core g.ctx user false .read va
  match r.1 with
  | .access => (.failed va, r.2)
  | .absent rep => (.absent va false rep, r.2)
  | .ok key =>
    let b := r.2.readThrough g.core .l1 key 16
    if b.2.poisoned key 16 then (.poison va key, b.2) else (.done, b.2)

/-- An order of the children to visit: the manual gives none, so each next one is a free choice. -/
def State.anyOrder (s : State) (l : List Todo) : Nat → List Todo × State
  | 0 => ([], s)
  | n + 1 =>
    match l with
    | [] => ([], s)
    | _ =>
      let f := s.takeFree
      let i := f.1 % l.length
      let r := f.2.anyOrder (l.eraseIdx i) n
      (l.getD i .leave :: r.1, r.2)

/-! ### One step of a walk -/

/-- Push what a node holds over the rest of the stack, spilling past 24 entries and ending past 280 (R255). -/
def State.pushTodo (s : State) (gid lane : Nat) (w : Walk) (kids rest : List Todo) : Ran × Walk × State :=
  let w' := { w with todo := kids ++ rest }
  let have_ := { w with todo := rest }.depth - 24
  let need := w'.depth - 24
  if 256 < need then (.done, { w with status := some 4 }, s)
  else
    let r := s.spill gid lane w.user have_ (need - have_)
    match r.1 with
    | .done => (.done, w', r.2)
    | e => (e, w, r.2)

/-- The order that settles equal t (R254). -/
def Hit.before (a b : Hit) : Bool :=
  decide (a.inst < b.inst) || (decide (a.inst = b.inst)
    && (decide (a.geom < b.geom) || (decide (a.geom = b.geom) && decide (a.prim < b.prim))))

/-- Does a hit come before the closest so far: of equal t the one that stands first in the order counts (R254)? -/
def Walk.closer (w : Walk) (h : Hit) : Bool :=
  match w.best with
  | none => true
  | some b => h.t.lt b.t || (h.t.eqv b.t && h.before b)

/-- A hit becomes the closest so far, if it is (R254). -/
def Walk.accept (w : Walk) (h : Hit) : Walk := if w.closer h then { w with best := some h, tmax := h.t } else w

/-- STATUS of a walk that has ended. -/
def Walk.final (w : Walk) : Walk := { w with status := some (if w.best.isSome then 1 else 0) }

/-- A triangle record against the ray (R251, R254). -/
def State.visitTri (s : State) (w : Walk) (raw : Nat) (next : Walk) : Walk × State :=
  match vec3 (w.ray.take 3), vec3 (w.ray.drop 3), vec3 (nodeFloats raw 0 3), vec3 (nodeFloats raw 12 3),
    vec3 (nodeFloats raw 24 3) with
  | some o, some d, some v0, some v1, some v2 =>
    match triTest o d v0 v1 v2 with
    | none => (next, s)
    | some (t, u, v, back) =>
      if t.lt w.tmin || w.tmax.lt t || (w.cull && back) then (next, s)
      else
        let a := s.takeFree
        let b := a.2.takeFree
        let c := b.2.takeFree
        let h : Hit := { t := t, t32 := deliver2 t a.1, w1 := deliver2 u b.1, w2 := deliver2 v c.1
                         prim := nodeField raw 36 32, inst := w.inst, geom := nodeField raw 40 16, back := back }
        if !next.closer h then (next, c.2)
        else if w.stopAny && decide (nodeField raw 42 1 = 0) then ({ next with cand := some h, status := some 2 }, c.2)
        else
          let n := next.accept h
          (if w.first then n.final else n, c.2)
  | _, _, _, _, _ => (next, s)

/-- One step of a walk: what stands on top of its stack. -/
def State.walkStep (s : State) (gid lane : Nat) (w : Walk) : Ran × Walk × State :=
  match w.todo with
  | [] => (.done, w.final, s)
  | .leave :: rest =>
    (.done, { w with
      ray := (w.frames.headD {}).ray, inst := (w.frames.headD {}).inst, frames := w.frames.drop 1, todo := rest }, s)
  | .box va :: rest =>
    if !nodeIn w.recd va then (.failed va, w, s)
    else
      let r := s.tRead gid w va 8
      match r.1 with
      | .error e => (e, w, r.2)
      | .ok bs =>
        let raw := leNat bs
        if !boxOk raw then (.failed va, w, r.2)
        else
          let kids := ((boxSlots raw).filter (boxHit w raw)).filterMap (fun c => childOf (nodeField raw (64 + 8 * c) 64))
          let o := r.2.anyOrder kids kids.length
          o.2.pushTodo gid lane w o.1 rest
  | .tri va left :: rest =>
    let next := { w with todo := if 1 < left then .tri (va + 48) (left - 1) :: rest else rest }
    let r := s.tRead gid w va 3
    match r.1 with
    | .error e => (e, w, r.2)
    | .ok bs =>
      if !triOk (leNat bs) then (.failed va, w, r.2)
      else
        let v := r.2.visitTri w (leNat bs) next
        (.done, v.1, v.2)
  | .inst va :: rest =>
    if !nodeIn w.recd va then (.failed va, w, s)
    else
      let r := s.tRead gid w va 8
      match r.1 with
      | .error e => (e, w, r.2)
      | .ok bs =>
        let raw := leNat bs
        if !instOk raw then (.failed va, w, r.2)
        else if Nat.land (nodeField raw 60 8) w.mask = 0 then (.done, { w with todo := rest }, r.2)
        else if 8 ≤ w.frames.length then
          (.done, { w with status := some 3, deep := va, deepId := nodeField raw 56 32 }, r.2)
        else
          let inner := { w with
            frames := { ray := w.ray, inst := w.inst } :: w.frames
            ray := instRay raw w.ray, inst := nodeField raw 56 32 }
          let p := r.2.pushTodo gid lane inner [.box (nodeField raw 48 64), .leave] rest
          -- a walk that waits for its traversal area enters the instance again
          match p.1 with
          | .done => p
          | e => (e, w, p.2.2)

/-- A step of a walk whose stack reaches into its traversal area first brings the entry below those on chip back
(R255). -/
def State.walkTurn (s : State) (gid lane : Nat) (w : Walk) : Ran × Walk × State :=
  let r := if w.status.isNone && decide (24 < w.depth) then s.refill gid lane w.user (w.depth - 25) else (.done, s)
  match r.1 with
  | .done => r.2.walkStep gid lane w
  | e => (e, w, r.2)

/-- Steps of one lane's walk until it ends or stops. -/
def State.walkRun (s : State) (gid lane : Nat) (w : Walk) : Nat → Ran × Walk × State
  | 0 => (.limit, w, s)
  | n + 1 =>
    if w.status.isSome then (.done, w, s)
    else
      let r := s.walkTurn gid lane w
      match r.1 with
      | .done => r.2.2.walkRun gid lane r.2.1 n
      | e => (e, r.2.1, r.2.2)

/-! ### Issue (R247, R249, R253, R256) -/

/-- A V-set word of this pipe that takes a flag: a fence of the group or a full flag holds it back (R86, R196). -/
def State.laneEWord (s : State) (ok : Bool) (fl : Bool) (k : VIn → State → State) : State :=
  s.vWord {} ok 0 false (fun x s => if s.held (s.cw.flagOf fl) then s else k x s)

/-- An operation of this pipe whose work is done at its completion. -/
def State.laneEIssue (s : State) (i : Instr) (fl : Bool) (x : VIn) (recd : QWord) (vals : Tab Nat) (args : List Nat) : State :=
  (s.issueOp { instr := i, pfx := s.cw.pfx, flag := s.cw.flagOf fl, act := x.act, zero := x.zero, recd := recd
               vals := vals, args := args }).nextWord

/-- VTRAV (R249, R253). -/
def execVtrav (d a : BitVec 8) (r : BitVec 4) (l : Bool) (o : BitVec 3) (s : State) : Res :=
  finish (s.laneEWord (dstOk s.cg.n d.toNat 7 && srcOk s.cg.n a.toNat 9) l (fun x s =>
    let g := s.cg
    let b := g.brec r.toNat
    if !recOk (s.ctx g.ctx) b [4] recPs || decide (recBase b % 128 ≠ 0) then s.recordTrap pathS false r.toNat x.act
    else s.laneEIssue (.vtrav d a r l o) l x b (laneArgs g x.act a.toNat 9) [userArg g]))

/-- VTRAVC (R256). -/
def execVtravc (d a : BitVec 8) (l : Bool) (o : BitVec 3) (s : State) : Res :=
  finish (s.laneEWord (dstOk s.cg.n d.toNat 7 && srcOk s.cg.n a.toNat 1) l (fun x s =>
    -- bits [31:16] of a token are zero (R247, R253)
    if (lanesOf x.act).any (fun n => decide (2 ^ 16 ≤ (s.cg.src a.toNat n).toNat)) then s.illegal
    else s.laneEIssue (.vtravc d a l o) l x 0 (laneArgs s.cg x.act a.toNat 1) [userArg s.cg]))

/-! ### Completion -/

/-- The b-register that VTRAV names. -/
def POp.walkRecord (o : POp) : Nat :=
  match o.instr with
  | .vtrav _ _ r _ _ => r.toNat
  | _ => 0

/-- The walk that a lane of VTRAV begins (R253). -/
def POp.newWalk (o : POp) (opt : BitVec 3) (lane : Nat) : Walk :=
  let v := fun (i : Nat) => tget o.vals (lane * 64 + i) 0
  let tmin := fp32.decode (v 3)
  let tmax := fp32.decode (v 7)
  let w : Walk := { recd := o.recd, br := o.walkRecord, first := opt.getLsbD 0, stopAny := opt.getLsbD 1, cull := opt.getLsbD 2
                    user := decide (o.args.getD 0 1 = 1), ray := [v 0, v 1, v 2, v 4, v 5, v 6], tmin := tmin, tmax := tmax
                    mask := v 8 % 256, todo := [.box (recBase o.recd)] }
  if (List.range 8).any (fun i => (fp32.decode (v i)).isNan) || tmax.lt tmin then { w with status := some 0 } else w

/-- What VTRAVC makes of a saved walk (R256). -/
def Walk.continued (w : Walk) (opt : BitVec 3) : Walk :=
  match w.status with
  | some 2 =>
    let w := match w.cand, opt.getLsbD 0 with
      | some h, true => let x := { w.accept h with cand := none, status := none }
                        if w.first then x.final else x
      | _, _ => { w with cand := none, status := none }
    if opt.getLsbD 1 then w.final else w
  | some 3 =>
    if opt.getLsbD 1 then w.final
    else if opt.getLsbD 2 then { w with todo := w.todo.drop 1, status := none }
    else { w with status := none }
  | _ => w

/-- Take up the saved walk of a lane whose token matches, out of its slot; otherwise the lane is STALE (R256). -/
def Lane.takeWalk (l : Lane) (token : Nat) (opt : BitVec 3) : Walk × Lane :=
  match l.walk with
  | some w => if w.gen = token then (w.continued opt, { l with walk := none }) else ({ status := some 5 }, l)
  | none => ({ status := some 5 }, l)

/-- The walks of an operation as it begins. -/
def State.beginWalks (s : State) (gid : Nat) (o : POp) : POp × State :=
  match o.instr with
  | .vtrav _ _ _ _ opt =>
    ({ o with stage := 1, walks := (lanesOf o.act).foldl (fun t l => tset t l (o.newWalk opt l)) [] }, s)
  | .vtravc _ _ _ opt =>
    let r := (lanesOf o.act).foldl (fun (a : Tab Walk × State) l =>
      let x := ((a.2.group gid).lane l).takeWalk (tget o.vals (l * 64) 0) opt
      (tset a.1 l x.1, a.2.updGroup gid (fun g => g.setLane l x.2))) ([], s)
    ({ o with stage := 1, walks := r.1 }, r.2)
  | _ => (o, s)

/-- Run every lane of an operation, in ascending order, until one stops. -/
def State.runWalks (s : State) (gid : Nat) (o : POp) : List Nat → Ran × POp × State
  | [] => (.done, o, s)
  | l :: ls =>
    let r := s.walkRun gid l (tget o.walks l {}) 65536
    let o := { o with walks := tset o.walks l r.2.1 }
    match r.1 with
    | .done => r.2.2.runWalks gid o ls
    | e => (e, o, r.2.2)

/-- The six words of a result before its token (R253 to R256). What the manual gives no value for is free. -/
def Walk.words (w : Walk) (free : Nat) : List Nat :=
  let st := w.status.getD 0
  let f := fun (i : Nat) => free / 2 ^ (32 * i) % 2 ^ 32
  let hit := fun (h : Hit) => [h.t32, h.w1, h.w2, h.prim, h.inst, h.geom + st * 2 ^ 16 + (if h.back then 2 ^ 24 else 0)]
  let miss := [0x7F800000, 0, 0, 0, 0, st * 2 ^ 16]
  let tail := f 5 % 2 ^ 16 + st * 2 ^ 16 + f 5 / 2 ^ 16 % 2 * 2 ^ 24
  match st with
  | 2 => (w.cand.map hit).getD miss
  | 3 => [w.deep % 2 ^ 32, w.deep / 2 ^ 32, f 2, f 3, w.deepId, tail]
  | 5 => [f 0, f 1, f 2, f 3, f 4, tail]
  | _ => (w.best.map hit).getD miss

/-- Write one lane's result; a walk of STATUS 2 or 3 is saved under a new GEN (R256). -/
def State.putWalk (s : State) (gid d l : Nat) (w : Walk) : State :=
  let f := s.takeFree
  let ln := (s.group gid).lane l
  let saved := decide (w.status = some 2) || decide (w.status = some 3)
  let gen := if saved then ln.walkGen % 65535 + 1 else 0
  let ln := if saved then { ln with walk := some { w with gen := gen }, walkGen := gen } else ln
  let ws := w.words f.1 ++ [gen]
  f.2.updGroup gid (fun g =>
    (ws.mapIdx (fun i v => (i, v))).foldl (fun g e => g.setV (d + e.1) l (BitVec.ofNat 32 e.2)) (g.setLane l ln))

/-- The results of a traversal and the traps that they call for: TRAVDEPTH before TRAVSTACK (R255). -/
def State.endWalks (s : State) (gid : Nat) (o : POp) (d : Nat) : State :=
  let s := (lanesOf o.act).foldl (fun s l => s.putWalk gid d l (tget o.walks l {})) s
  let named := fun (st : Nat) => maskOf (fun l => inMask o.act l && decide ((tget o.walks l {}).status = some st))
  let base := (((lanesOf o.act).map (fun l => recBase (tget o.walks l {}).recd)).find? (fun x => decide (x ≠ 0))).getD 0
  let trap := fun (cause : Nat) (m : Mask) =>
    if m = 0#32 then [] else [({ cause := cause, kind := 3, addr := BitVec.ofNat 64 base, detail := m.setWidth 64, lanes := o.act } : Trap)]
  let s := s.updGroup gid (fun g =>
    { (g.zeroLanes o.zero d 7).endOp o with errors := g.errors ++ trap 0x08 (named 3) ++ trap 0x14 (named 4) })
  s.report gid

/-- A traversal that completes with error: ENGINE or ECCPOISON (R252, R255, R464). What its lanes then hold is not
stated: lanes whose walks had ended get their results, and the others free values. -/
def State.failWalks (s : State) (gid : Nat) (o : POp) (d : Nat) (t : Trap) : State :=
  let s := (lanesOf o.act).foldl (fun (s : State) l =>
    let w := tget o.walks l {}
    if w.status.isSome then s.putWalk gid d l w
    else
      let f := s.takeFree
      f.2.updGroup gid (fun g => g.setVs d l 7 f.1)) s
  (s.updGroup gid (fun g => g.zeroLanes o.zero d 7)).opFailed gid o t

/-- Destination of a traversal word, and its opcode. -/
def travWord : Instr → Option (Nat × Nat)
  | .vtrav d .. => some (d.toNat, 0x60)
  | .vtravc d .. => some (d.toNat, 0x61)
  | _ => none

/-- TRAVERSAL_COMPLETE (R249 to R256): the group's oldest traversal runs on, and completes once every lane's walk has
ended or stopped. -/
def execTraversalComplete (gid op : Nat) (s : State) : Res :=
  let g := s.group gid
  match g.op? op with
  | none => .next s
  | some o =>
    match travWord o.instr with
    | none => .next s
    | some (d, opc) =>
      if !g.ready o || o.suspended.isSome || (g.earlier o).any (fun a => (travWord a.instr).isSome) then .next s
      else
        let b := if o.stage = 0 then s.beginWalks gid o else (o, s)
        let r := b.2.runWalks gid b.1 (lanesOf o.act)
        let o := r.2.1
        let s := r.2.2
        let engine := fun (va : Nat) => ({ cause := 0x0F, kind := 3, addr := BitVec.ofNat 64 va, lanes := o.act
                                           detail := BitVec.ofNat 64 (opc + 256 * o.flag.getD 15) } : Trap)
        match r.1 with
        | .done => finish (s.endWalks gid o d)
        | .limit => finish (s.updGroup gid (fun g => g.setOp o))
        | .absent va w rep => finish (s.suspend gid o va w rep)
        | .failed va => finish (s.failWalks gid o d (engine va))
        | .poison va key => finish (s.failWalks gid o d (s.poisonTrap va key o.act))

end Sys2Proof.Machine
end

