-- ==== Sys2Proof/Machine/Basin.lean ====
section
/-! DEFINITION. Machine/Basin.lean: the display control block and display times, the rasteriser, the Basin with its
mirrors, and the words VRAST, VSEMIT, VSBG, PRIOW, ROWOUT and SBSTAT (R257 to R267, R366 to R369, R376, R378). -/
namespace Sys2Proof.Machine

/-! ### The display control block (R367) -/

/-- SWEEP0. -/
def bSweep0 (b : Nat) : Nat := recField b 0x10 64 0
/-- SWEEPNS. -/
def bSweepNs (b : Nat) : Nat := recField b 0x18 32 0
/-- ROWS. -/
def bRows (b : Nat) : Nat := recField b 0x1C 16 0
/-- WIDTH. -/
def bWidth (b : Nat) : Nat := recField b 0x1E 16 0
/-- LEAD. -/
def bLead (b : Nat) : Nat := recField b 0x20 32 0
/-- TICK. -/
def bTick (b : Nat) : Nat := recField b 0x24 16 0
/-- SENDROWS. -/
def bSend (b : Nat) : Nat := recField b 0x28 4 0
/-- Entry of a band: cap in slots, half-life and expiry in µs. -/
def bBand (b band : Nat) : Nat × Nat × Nat :=
  let e := recField b (0x400 + 8 * band) 64 0
  (4 * (e % 128 + 1), e / 2 ^ 8 % 2 ^ 16, e / 2 ^ 24 % 2 ^ 16)

/-- Light time L(n, y) (R369). -/
def lightTime (b n y : Nat) : Nat := bSweep0 b + n * bSweepNs b + y * bSweepNs b / bRows b
/-- Send time S(n, y) (R369). -/
def sendTime (b n y : Nat) : Nat := lightTime b n y - bSend b * bSweepNs b / bRows b
/-- Cutoff C(n, b) (R369). -/
def cutoffTime (b n band : Nat) : Nat := lightTime b n (16 * band) - bLead b

/-- Sample TIME of a module time (R367). -/
def sampleTime (b t : Nat) : Word := BitVec.ofInt 32 ((2 * ((t : Int) - (recField b 8 64 0 : Int))) / 125)

/-- Age of a sample in half nanoseconds, not below 0: module time minus TIME, whose differences are signed modulo 2³²
(R258, R260). -/
def sampleAge (b now : Nat) (time : Word) : Nat :=
  let d := (2 * ((now : Int) - (recField b 8 64 0 : Int)) - 125 * (time.toNat : Int)) % (125 * 2 ^ 32)
  if 125 * 2 ^ 31 ≤ d then 0 else d.toNat

/-- The display units of a die. -/
def State.disp (s : State) (die : Nat) : Display := (s.die die).disp
/-- A tile of a die, by index TY × 384 + TX. -/
def Display.tile (d : Display) (i : Nat) : TileState := tget d.tiles i {}
/-- The display with a tile replaced. -/
def Display.setTile (d : Display) (i : Nat) (t : TileState) : Display := { d with tiles := tset d.tiles i t }

/-- Read `n` bytes in the memory of the context that holds the display right, as the units do, whichever pages they lie in. -/
def State.unitRead (s : State) (die ctx va n : Nat) : Option Nat × State :=
  let r := s.dieSpans die ctx false (pageSpans va n)
  (match r.1 with | .ok raw => some raw | _ => none, r.2)

/-- Write bytes in the memory of the context that holds the display right; nothing where the page cannot be written. -/
def State.unitWrite (s : State) (die ctx va : Nat) (bs : List Byte) : State :=
  let r := s.walk die ctx va
  match classify r.1 .write false va with
  | .ok key => r.2.putHome key bs
  | _ => r.2

/-- The blue-noise table of a tile: 256 entries (R373); free values where the units hold no block, or where the table
cannot be read. -/
def State.noiseTable (s : State) (die tx ty : Nat) : Nat × State :=
  let d := s.disp die
  match d.block, d.granted with
  | some b, some ctx =>
    let k := (ty % 8 * 8 + tx % 8) % max 1 (recField b 0x28 6 4)
    let r := s.unitRead die ctx (recField b 0x38 64 0 + 512 * k) 512
    match r.1 with
    | some v => (v, r.2)
    | none => r.2.takeFree
  | _, _ => s.takeFree

/-- Entry of a table: x and y in eighths of a pixel within the tile. A set bit [7] or [15] leaves them free (R8, R373). -/
def State.noiseEntry (s : State) (table j : Nat) : Nat × Nat × State :=
  let e := table / 2 ^ (16 * j) % 2 ^ 16
  let f := if e / 2 ^ 7 % 2 = 1 ∨ e / 2 ^ 15 = 1 then s.takeFree else (e, s)
  (f.1 % 128, f.1 / 2 ^ 8 % 128, f.2)

/-! ### The rasteriser (R257) -/

/-- Quotient rounded to an integer, ties to even; the divisor is above zero. -/
def rneDiv (n : Int) (d : Nat) : Int :=
  let q := n / (d : Int)
  let r := 2 * (n - q * (d : Int))
  if (d : Int) < r ∨ (r = (d : Int) ∧ q % 2 = 1) then q + 1 else q

/-- A vertex coordinate snapped to 1/256 pixel; none for one that makes the triangle cover nothing. -/
def snap (b : Nat) : Option Int :=
  match fp32.decode b with
  | .fin neg n d => if 16384 * d < n then none else some (rneDiv (if neg then -(256 * n : Int) else 256 * n) d)
  | _ => none

/-- Edge function of the edge from a to c at p. -/
def edge (ax ay cx cy px py : Int) : Int := (cx - ax) * (py - ay) - (cy - ay) * (px - ax)

/-- A point on an edge belongs to the triangle when the edge is a top or a left one, y running down; the edge is taken
with the inside at its positive side. -/
def topLeft (sg ax ay cx cy : Int) : Bool :=
  let dx := sg * (cx - ax)
  let dy := sg * (cy - ay)
  decide (dy < 0) || (decide (dy = 0) && decide (0 < dx))

/-- E₀, E₁ and E₂ at a covered position, in units of 1/256 pixel; none for one that is not covered. -/
def covers (v : List Int) (px py : Int) : Option (Int × Int × Int) :=
  let x := fun (i : Nat) => v.getD (2 * i) 0
  let y := fun (i : Nat) => v.getD (2 * i + 1) 0
  let area := edge (x 0) (y 0) (x 1) (y 1) (x 2) (y 2)
  if area = 0 then none
  else
    let sg : Int := if area < 0 then -1 else 1
    let inside := fun (i j : Nat) =>
      let e := edge (x i) (y i) (x j) (y j) px py
      (e, decide (0 < sg * e) || (decide (e = 0) && topLeft sg (x i) (y i) (x j) (y j)))
    let e0 := inside 1 2
    let e1 := inside 2 0
    let e2 := inside 0 1
    if e0.2 && e1.2 && e2.2 then some (e0.1, e1.1, e2.1) else none

/-- Test lattice positions from `j`: the covered ones found, and the index after the last one tested. -/
def State.rasterWalk (s : State) (v : Option (List Int)) (table tx ty size j want : Nat) :
    Nat → List (Nat × Nat × Nat × Nat × Nat) × Nat × State
  | 0 => ([], j, s)
  | n + 1 =>
    if want = 0 ∨ size ≤ j then ([], j, s)
    else
      let e := s.noiseEntry table j
      let x := 128 * tx + e.1
      let y := 128 * ty + e.2.1
      match v.bind (fun v => covers v (32 * (x : Int)) (32 * (y : Int))) with
      | none => e.2.2.rasterWalk v table tx ty size (j + 1) want n
      | some (e0, e1, e2) =>
        let lam := fun (a : Int) => (fp32.round (ratioNum a (e0 + e1 + e2)) {}).1
        let r := e.2.2.rasterWalk v table tx ty size (j + 1) (want - 1) n
        ((x, y, lam e1, lam e2, j) :: r.1, r.2)

/-- All six coordinates snapped. -/
def snapAll (l : List Nat) : Option (List Int) := l.mapM snap

/-- VRAST (R257). -/
def execVrast (d a b : BitVec 8) (s : State) : Res :=
  let ok := dstOk s.cg.n d.toNat 4 && decide (192 ≤ a.toNat) && decide (a.toNat + 6 ≤ 256) && decide (192 ≤ b.toNat)
  finish (s.laneEWord ok false (fun x s =>
    let g := s.cg
    let tok := (g.sreg (b.toNat - 192)).toNat
    if tok % 512 > 383 ∨ tok / 2 ^ 9 % 512 > 383 ∨ tok / 2 ^ 18 % 512 > 256 ∨ 2 ^ 31 ≤ tok then s.illegal
    else s.laneEIssue (.vrast d a b) false x 0 [] ((List.range 6).map (fun i => (g.sreg (a.toNat - 192 + i)).toNat) ++ [tok])))

/-- VRAST_COMPLETE (R257): covered positions to active lanes in order; the token moves on. -/
def execVrastComplete (gid op : Nat) (s : State) : Res :=
  let g := s.group gid
  match g.op? op with
  | none => .next s
  | some o =>
    match o.instr with
    | .vrast d _ b =>
      let tok := o.args.getD 6 0
      let tx := tok % 512
      let ty := tok / 2 ^ 9 % 512
      let t := s.noiseTable (dieOf g.core) tx ty
      let ls := lanesOf o.act
      let r := t.2.rasterWalk (snapAll (o.args.take 6)) t.1 tx ty (16 * (tok / 2 ^ 27 % 16 + 1)) (tok / 2 ^ 18 % 512)
        ls.length 257
      let put := fun (g : Group) (e : Nat × Nat) =>
        match r.1[e.1]? with
        | some (x, y, l1, l2, j) =>
          ((g.setVs d.toNat e.2 1 (x + 2 ^ 16 * y)).setVs (d.toNat + 1) e.2 2 (l1 + 2 ^ 32 * l2)).setVs (d.toNat + 3) e.2 1 j
        | none => (g.setVs d.toNat e.2 3 0).setVs (d.toNat + 3) e.2 1 0x80000000
      let tok' := tok % 2 ^ 18 + r.2.1 * 2 ^ 18 + tok / 2 ^ 27 * 2 ^ 27
      finish ((r.2.2.updGroup gid (fun g =>
        (((ls.mapIdx (fun i l => (i, l))).foldl put g).zeroLanes o.zero d.toNat 4).setS (b.toNat - 192)
          (BitVec.ofNat 32 tok'))).opDone gid o)
    | _ => .next s

/-! ### Retention (R260) -/

/-- Odd part of a number and the power of two taken out, by at most `fuel` halvings. -/
def oddPart : Nat → Nat → Nat → Nat × Nat
  | 0, m, e => (m, e)
  | fuel + 1, m, e => if m ≠ 0 ∧ m % 2 = 0 then oddPart fuel (m / 2) (e + 1) else (m, e)

/-- What a retention is made of: −∞, a positive CONF as `m × 2^e` with m odd, or +∞; the age in half ns; FOREIGN. -/
structure Retention where
  cls : Nat := 0
  m : Nat := 0
  e : Int := 0
  age : Nat := 0
  foreign : Nat := 0
  deriving DecidableEq, Repr

/-- Retention of a stored sample at a module time. -/
def retention (b now : Nat) (w : List Word) : Retention :=
  let age := sampleAge b now (w.getD 1 0)
  let fo := ((w.getD 7 0).extractLsb' 16 1).toNat
  match fp16.decode ((w.getD 2 0).extractLsb' 16 16).toNat with
  | .fin false n d =>
    if n = 0 then { age := age }
    else
      let o := oddPart 64 n 0
      { cls := 1, m := o.1, e := (o.2 : Int) - (Nat.log2 d : Int), age := age, foreign := fo }
  | .inf false => { cls := 2, age := age }
  | _ => { age := age }

/-- Order of two retentions for a half-life `h` in µs, exact: with K = 2000 h, CONF^K × 2^−(age + K × FOREIGN) is compared
as integers. -/
def Retention.cmp (h : Nat) (a b : Retention) : Ordering :=
  if a.cls ≠ b.cls then compare a.cls b.cls
  else if a.cls ≠ 1 then .eq
  else
    let k := 2000 * h
    let x : Int := (k : Int) * (a.e - a.foreign) - a.age
    let y : Int := (k : Int) * (b.e - b.foreign) - b.age
    if a.m = b.m then compare x y
    else compare (a.m ^ k * 2 ^ (x - min x y).toNat) (b.m ^ k * 2 ^ (y - min x y).toNat)

/-- Does a slot go before another when one must be replaced: lower retention, then older, then the lower slot. -/
def goesBefore (h : Nat) (a b : Nat × Retention) : Bool :=
  match a.2.cmp h b.2 with
  | .lt => true
  | .gt => false
  | .eq => decide (b.2.age < a.2.age) || (decide (a.2.age = b.2.age) && decide (a.1 < b.1))

/-! ### Insertion (R259, R376) -/

/-- Count a dropped sample. -/
def Display.drop (d : Display) : Display := { d with dropped := d.dropped + 1 }

/-- Place a record whose word 7 is as the Basin has made it: the display, and whether it was stored. -/
def Display.place (d : Display) (now : Nat) (w : List Word) : Display × Bool :=
  match d.block with
  | none => (d.drop, false)
  | some b =>
    let x := ((w.getD 0 0).extractLsb' 0 16).toNat
    let y := ((w.getD 0 0).extractLsb' 16 16).toNat
    if bWidth b ≤ x / 8 ∨ bRows b ≤ y / 8 then (d.drop, false)
    else
      let i := y / 128 * 384 + x / 128
      let t := d.tile i
      let band := bBand b (y / 128)
      let cap := band.1
      let have_ := 16 * t.pages
      match (List.range (min cap have_)).find? (fun k => (tget? t.slots k).isNone) with
      | some k => (d.setTile i { t with slots := tset t.slots k w }, true)
      | none =>
        if have_ < cap ∧ 0 < d.freePages then
          ({ d with freePages := d.freePages - 1 }.setTile i
            { t with pages := t.pages + 1, slots := tset t.slots have_ w }, true)
        else
          match (t.slots.filter (fun e => decide (e.1 < cap))).map (fun e => (e.1, retention b now e.2)) with
          | [] => (d.drop, false)
          | r :: rs =>
            let out := rs.foldl (fun a e => if goesBefore band.2.1 e a then e else a) r
            ({ d with evicted := d.evicted + 1 }.setTile i { t with slots := tset t.slots out.1 w }, true)

/-- Word 7 of a local sample: VALID, EYE, OVERLAP, FOREIGN clear (R259). -/
def localWord7 (b : Option Nat) (die : Nat) (w0 w7 : Word) : Word :=
  let col := (w0.extractLsb' 0 16).toNat / 8
  let ov := match b with
    | some b => decide (recField b 0x4A 16 0 ≤ col) && decide (col ≤ recField b 0x4C 16 0)
    | none => false
  (w7 &&& 0xFFFF#32) ||| 0x80000#32 ||| (if die = 1 then 0x40000#32 else 0) ||| (if ov then 0x20000#32 else 0)

/-- The mirror of a sample with OVERLAP set (R261): its reprojected X; none when IDEPTH is infinite or NaN. -/
def mirrorX (b : Nat) (w : List Word) : Option Int :=
  let x : Int := ((w.getD 0 0).extractLsb' 0 16).toNat
  match fp32.decode (recField b 0x50 32 0), fp16.decode ((w.getD 2 0).extractLsb' 0 16).toNat with
  | .fin s n d, .fin t m e =>
    let p : Int := 8 * (n : Int) * (m : Int)
    some (rneDiv (x * ((d * e : Nat) : Int) - (if s = t then p else -p)) (d * e))
  | _, _ => none

/-- One local insertion, and the mirror that it sends: every sample with OVERLAP set is mirrored, whether the own die
stores it or drops it (R259, R261). -/
def State.insertSample (s : State) (die ctx : Nat) (w : List Word) : State :=
  let d := s.disp die
  let w := w.set 7 (localWord7 d.block die (w.getD 0 0) (w.getD 7 0))
  let r := d.place s.ns w
  let s := s.updDisp die (fun _ => r.1)
  if (w.getD 7 0).getLsbD 17 then
    match d.block.bind (fun b => mirrorX b w) with
    | some x => s.updDisp (1 - die) (fun e => { e with inbox := e.inbox ++ [{ ctx := ctx, x := x, words := w }] })
    | none => s
  else s

/-- MIRROR_RECEIVE (R261, R378): a mirror of a context without the grant, or one that arrives while ENABLE is 0, is
dropped and counted nowhere. -/
def execMirrorReceive (die : Nat) (s : State) : Res :=
  match (s.disp die).inbox with
  | [] => .next s
  | m :: rest =>
    let s := s.updDisp die (fun d => { d with inbox := rest })
    let d := s.disp die
    if d.granted ≠ some m.ctx ∨ !d.enableBit then .next s
    else if m.x < 0 ∨ 65535 < m.x then .next (s.updDisp die Display.drop)
    else
      let w0 := ((m.words.getD 0 0) &&& 0xFFFF0000#32) ||| BitVec.ofNat 32 m.x.toNat
      let r := d.place s.ns ((m.words.set 0 w0).set 7 ((m.words.getD 7 0) ||| 0x10000#32))
      .next (s.updDisp die (fun _ => if r.2 then { r.1 with mirrorIn := r.1.mirrorIn + 1 } else r.1))

/-! ### VSEMIT and VSBG (R259, R262, R263) -/

/-- Does the group's context hold the display right on the issuing die (R247)? -/
def State.displayRight (s : State) (g : Group) : Bool := (s.ctx g.ctx).disp.getLsbD (dieOf g.core)

/-- Without the display right the word traps ACCESS (R247); no address has been formed, and the path is B (log entry 10). -/
def State.rightTrap (s : State) (write : Bool) : State := s.addrTrap cACCESS 0 pathB write 0 s.cw.en

/-- VSEMIT (R259). -/
def execVsemit (d : BitVec 8) (l : Bool) (s : State) : Res :=
  finish (s.laneEWord (srcOk s.cg.n d.toNat 8) l (fun x s =>
    if !s.displayRight s.cg then s.rightTrap true
    else s.laneEIssue (.vsemit d l) l x 0 (laneArgs s.cg x.act d.toNat 8) []))

/-- Tiles that a VSEMIT inserts into or a VSBG reads, over its lanes. -/
def POp.tiles (o : POp) : List Nat :=
  (lanesOf o.act).map (fun l =>
    let v := fun (i : Nat) => tget o.vals (l * 64 + i) 0
    match o.instr with
    | .vsemit .. => v 0 / 2 ^ 16 % 2 ^ 16 / 128 * 384 + v 0 % 2 ^ 16 / 128
    | _ => v 1 / 2 ^ 9 % 512 * 384 + v 1 % 512)

/-- Must an operation of path B wait for an earlier one of its group: insertions apply in issue order, and a gather and
an insertion that share a tile perform in the group's order (R263, R286, R288 row 2)? -/
def Group.basinWaits (g : Group) (o : POp) : Bool :=
  (g.earlier o).any (fun a =>
    match a.instr, o.instr with
    | .vsemit .., .vsemit .. => true
    | .vsemit .., .vsbg .. => a.tiles.any (fun t => decide (t ∈ o.tiles))
    | .vsbg .., .vsemit .. => a.tiles.any (fun t => decide (t ∈ o.tiles))
    | _, _ => false)

/-- VSEMIT_COMPLETE (R259, R263): a group's insertions apply in issue order, lanes ascending. -/
def execVsemitComplete (gid op : Nat) (s : State) : Res :=
  let g := s.group gid
  match g.op? op with
  | none => .next s
  | some o =>
    match o.instr with
    | .vsemit _ _ =>
      if !g.ready o || g.basinWaits o then .next s
      else
        let put := fun (s : State) (l : Nat) =>
          s.insertSample (dieOf g.core) g.ctx ((List.range 8).map (fun i => BitVec.ofNat 32 (tget o.vals (l * 64 + i) 0)))
        finish (((lanesOf o.act).foldl put s).opDone gid o)
    | _ => .next s

/-- VSBG (R262): a pair of v-registers at a, whose second the token is written back to. -/
def execVsbg (d a b : BitVec 8) (s : State) : Res :=
  let ok := dstOk s.cg.n d.toNat 8 && dstOk s.cg.n a.toNat 2 && srcOk s.cg.n b.toNat 1
  finish (s.laneEWord ok false (fun x s =>
    let g := s.cg
    if !s.displayRight g then s.rightTrap false
    else if (lanesOf x.act).any (fun l => decide (2 ^ 28 ≤ (g.vreg (a.toNat + 1) l).toNat)) then s.illegal
    else
      let vals := (lanesOf x.act).foldl (fun t l => tset t (l * 64 + 2) (g.src b.toNat l).toNat) (laneArgs g x.act a.toNat 2)
      s.laneEIssue (.vsbg d a b) false x 0 vals []))

/-- A position reprojected to a display time: rounded, clamped to 16 bits, and whether it was clamped (R262). -/
def reproject (p v : Nat) (delta : Int) : Nat × Bool :=
  let x := match fp16.decode v with
    | .fin s n d => rneDiv ((p : Int) * 2000 * d + (if s then -(n : Int) else n) * delta) (2000 * d)
    | _ => p
  if x < 0 then (0, true) else if 65535 < x then (65535, true) else (x.toNat, false)

/-- One lane's gather: the eight words and the token after it (R262). -/
def Display.gather (d : Display) (td tok limit : Nat) : List Word × Nat :=
  let none_ := (List.replicate 8 (0#32), tok % 2 ^ 18 + 512 * 2 ^ 18)
  let tx := tok % 512
  let ty := tok / 2 ^ 9 % 512
  let slot := tok / 2 ^ 18
  match d.block with
  | none => none_
  | some b =>
    if 512 ≤ slot ∨ bWidth b ≤ 16 * tx ∨ bRows b ≤ 16 * ty then none_
    else
      let delta := fun (w : List Word) => (BitVec.ofNat 32 td - w.getD 1 0).toInt
      match (d.tile (ty * 384 + tx)).slots.find? (fun e =>
          decide (slot ≤ e.1) && (decide (limit = 0) || decide (delta e.2 ≤ (limit : Int)))) with
      | none => none_
      | some (k, w) =>
        let f := fun (i lo : Nat) => ((w.getD i 0).extractLsb' lo 16).toNat
        let x := reproject (f 0 0) (f 3 0) (delta w)
        let y := reproject (f 0 16) (f 3 16) (delta w)
        let w7 := (w.getD 7 0) ||| (if x.2 || y.2 then 0x100000#32 else 0)
        ((w.set 0 (BitVec.ofNat 32 (x.1 + 2 ^ 16 * y.1))).set 7 w7, tok % 2 ^ 18 + (k + 1) * 2 ^ 18)

/-- VSBG_COMPLETE (R262). -/
def execVsbgComplete (gid op : Nat) (s : State) : Res :=
  let g := s.group gid
  match g.op? op with
  | none => .next s
  | some o =>
    match o.instr with
    | .vsbg d a _ =>
      if !g.ready o || g.basinWaits o then .next s
      else
        let dp := s.disp (dieOf g.core)
        let put := fun (g : Group) (l : Nat) =>
          let v := fun (i : Nat) => tget o.vals (l * 64 + i) 0
          let r := dp.gather (v 0) (v 1) (v 2)
          let g := (r.1.mapIdx (fun i w => (i, w))).foldl (fun g e => g.setV (d.toNat + e.1) l e.2) g
          g.setV (a.toNat + 1) l (BitVec.ofNat 32 r.2)
        .next ((s.updGroup gid (fun g => ((lanesOf o.act).foldl put g).zeroLanes o.zero d.toNat 8)).opDone gid o)
    | _ => .next s

/-! ### PRIOW, ROWOUT and SBSTAT (R264 to R266) -/

/-- PRIOW (R265). -/
def execPriow (a b : BitVec 6) (c : BitVec 4) (s : State) : Res :=
  finish (s.umWord (sspanOk b.toNat (c.toNat / 4 + 1)) (fun s =>
    let g := s.cg
    if !s.displayRight g then s.rightTrap true
    else
      let p := fun (k : Nat) => (g.sreg (b.toNat + k / 4)).toNat / 2 ^ (8 * (k % 4)) % 256
      s.issueLater (.priow a b c) false s.cw.en 0 [] ((g.sreg a.toNat).toNat :: (List.range (c.toNat + 1)).map p)))

/-- PRIOW_COMPLETE (R265). -/
def execPriowComplete (gid op : Nat) (s : State) : Res :=
  let g := s.group gid
  match g.op? op with
  | none => .next s
  | some o =>
    match o.instr with
    | .priow .. =>
      let es := (o.args.drop 1).mapIdx (fun k p => (o.args.getD 0 0 + k, p))
      let s := s.updDisp (dieOf g.core) (fun d =>
        es.foldl (fun d e => if e.1 < 384 * 384 then d.setTile e.1 { d.tile e.1 with prio := e.2 } else d) d)
      let oob : Mask := if es.any (fun e => decide (384 * 384 ≤ e.1)) then 1 else 0
      .next ((s.updGroup gid (fun g => g.noteOob oob (s.core g.core).cycles)).opDone gid o)
    | _ => .next s

/-- ROWOUT (R264). -/
def execRowout (v : BitVec 8) (r : BitVec 6) (s : State) : Res :=
  finish (s.umWord (dstOk s.cg.n v.toNat 1 && sspanOk r.toNat 2) (fun s =>
    let g := s.cg
    let w := g.sreg r.toNat
    if !s.displayRight g then s.rightTrap true
    else if w &&& 0xE000E000#32 ≠ 0#32 then s.illegal
    else s.issueLater (.rowout v r) false s.cw.en 0 (laneArgs g s.cw.en v.toNat 1) [w.toNat, (g.sreg (r.toNat + 1)).toNat]))

/-- Put one pixel into the row feeder's ring, or count it as ROWREJ (R264, R381). -/
def Display.pixel (d : Display) (now n y x p : Nat) : Display :=
  let rej := { d with rowRej := d.rowRej + 1 }
  match d.block with
  | none => rej
  | some b =>
    let m := n * bRows b + y
    if bRows b ≤ y ∨ bWidth b ≤ x ∨ m < d.nextRow ∨ d.nextRow + 64 ≤ m ∨ sendTime b n y ≤ now then rej
    else { d with ring := tset d.ring (m * 2 ^ 13 + x) (p % 2 ^ 30) }

/-- ROWOUT_COMPLETE (R264): a group's writes apply in issue order. -/
def execRowoutComplete (gid op : Nat) (s : State) : Res :=
  let g := s.group gid
  match g.op? op with
  | none => .next s
  | some o =>
    match o.instr with
    | .rowout .. =>
      if (g.earlier o).any (fun a => match a.instr with | .rowout .. => true | _ => false) then .next s
      else
        let w := o.args.getD 0 0
        let put := fun (d : Display) (e : Nat × Nat) =>
          d.pixel s.ns (o.args.getD 1 0) (w % 2 ^ 13) (w / 2 ^ 16 % 2 ^ 13 + e.1) (tget o.vals (e.2 * 64) 0)
        .next ((s.updDisp (dieOf g.core) (fun d => ((lanesOf o.act).mapIdx (fun k l => (k, l))).foldl put d)).opDone gid o)
    | _ => .next s

/-- SBSTAT (R266). -/
def execSbstat (d a : BitVec 6) (f : StatFn) (s : State) : Res :=
  finish (s.umWord true (fun s =>
    s.issueLater (.sbstat d a f) false s.cw.en 0 [] [(s.cg.sreg a.toNat).toNat]))

/-- The counter that SBSTAT reads (R266). -/
def Display.counter (d : Display) (tile : Nat) : StatFn → Word
  | .missed => d.missed
  | .dropped => d.dropped
  | .evicted => d.evicted
  | .freepages => BitVec.ofNat 32 d.freePages
  | .mirrin => d.mirrorIn
  | .rowrej => d.rowRej
  | .tileocc => BitVec.ofNat 32 (d.tile tile).slots.length

/-- SBSTAT_COMPLETE (R266). -/
def execSbstatComplete (gid op : Nat) (s : State) : Res :=
  let g := s.group gid
  match g.op? op with
  | none => .next s
  | some o =>
    match o.instr with
    | .sbstat d _ f =>
      let v := (s.disp (dieOf g.core)).counter (o.args.getD 0 0) f
      .next ((s.updGroup gid (fun g => g.setS d.toNat v)).opDone gid o)
    | _ => .next s

end Sys2Proof.Machine
end

