-- ==== Sys2Proof/Machine/Crypto.lean ====
section
/-! DEFINITION. Machine/Crypto.lean: SHA-256, and the HSS/LMS signature that a firmware image carries: one level,
LMS_SHA256_M32_H20 with LMOTS_SHA256_N32_W8, as RFC 8554 and NIST SP 800-208 define them (R457). -/
namespace Sys2Proof.Machine

/-! ### SHA-256 -/

/-- The round constants. -/
def shaK : List Word :=
  [0x428a2f98, 0x71374491, 0xb5c0fbcf, 0xe9b5dba5, 0x3956c25b, 0x59f111f1, 0x923f82a4, 0xab1c5ed5,
   0xd807aa98, 0x12835b01, 0x243185be, 0x550c7dc3, 0x72be5d74, 0x80deb1fe, 0x9bdc06a7, 0xc19bf174,
   0xe49b69c1, 0xefbe4786, 0x0fc19dc6, 0x240ca1cc, 0x2de92c6f, 0x4a7484aa, 0x5cb0a9dc, 0x76f988da]
  ++
  [0x983e5152, 0xa831c66d, 0xb00327c8, 0xbf597fc7, 0xc6e00bf3, 0xd5a79147, 0x06ca6351, 0x14292967,
   0x27b70a85, 0x2e1b2138, 0x4d2c6dfc, 0x53380d13, 0x650a7354, 0x766a0abb, 0x81c2c92e, 0x92722c85,
   0xa2bfe8a1, 0xa81a664b, 0xc24b8b70, 0xc76c51a3, 0xd192e819, 0xd6990624, 0xf40e3585, 0x106aa070]
  ++
  [0x19a4c116, 0x1e376c08, 0x2748774c, 0x34b0bcb5, 0x391c0cb3, 0x4ed8aa4a, 0x5b9cca4f, 0x682e6ff3,
   0x748f82ee, 0x78a5636f, 0x84c87814, 0x8cc70208, 0x90befffa, 0xa4506ceb, 0xbef9a3f7, 0xc67178f2]

/-- The eight working variables. -/
structure ShaState where
  a : Word := 0x6a09e667
  b : Word := 0xbb67ae85
  c : Word := 0x3c6ef372
  d : Word := 0xa54ff53a
  e : Word := 0x510e527f
  f : Word := 0x9b05688c
  g : Word := 0x1f83d9ab
  h : Word := 0x5be0cd19
  deriving DecidableEq, Repr

/-- One round, with its constant and message word. -/
def ShaState.round (s : ShaState) (kw : Word × Word) : ShaState :=
  let s1 := s.e.rotateRight 6 ^^^ s.e.rotateRight 11 ^^^ s.e.rotateRight 25
  let ch := (s.e &&& s.f) ^^^ (~~~s.e &&& s.g)
  let t1 := s.h + s1 + ch + kw.1 + kw.2
  let s0 := s.a.rotateRight 2 ^^^ s.a.rotateRight 13 ^^^ s.a.rotateRight 22
  let maj := (s.a &&& s.b) ^^^ (s.a &&& s.c) ^^^ (s.b &&& s.c)
  { a := t1 + (s0 + maj), b := s.a, c := s.b, d := s.c, e := s.d + t1, f := s.e, g := s.f, h := s.g }

/-- `n` further words of the message schedule, the newest first. -/
def shaExtend : Nat → List Word → List Word
  | 0, ws => ws
  | n + 1, ws =>
    let x := ws.getD 14 0
    let y := ws.getD 1 0
    let s0 := x.rotateRight 7 ^^^ x.rotateRight 18 ^^^ (x >>> 3)
    let s1 := y.rotateRight 17 ^^^ y.rotateRight 19 ^^^ (y >>> 10)
    shaExtend n ((s1 + ws.getD 6 0 + s0 + ws.getD 15 0) :: ws)

/-- Big-endian words of bytes. -/
def beWords : List Byte → List Word
  | a :: b :: c :: d :: t => (a ++ b ++ c ++ d) :: beWords t
  | _ => []

/-- The state after one block of 64 bytes. -/
def ShaState.block (s : ShaState) (bs : List Byte) : ShaState :=
  let ws := (shaExtend 48 (beWords bs).reverse).reverse
  let t := (shaK.zip ws).foldl ShaState.round s
  { a := s.a + t.a, b := s.b + t.b, c := s.c + t.c, d := s.d + t.d
    e := s.e + t.e, f := s.f + t.f, g := s.g + t.g, h := s.h + t.h }

/-- The blocks of a padded message, `n` of them. -/
def ShaState.blocks (s : ShaState) : Nat → List Byte → ShaState
  | 0, _ => s
  | n + 1, bs => (s.block (bs.take 64)).blocks n (bs.drop 64)

/-- The low `n` bytes of a number, the most significant first. -/
def natBe (n v : Nat) : List Byte := (natLe n v).reverse

/-- Bytes of a word, the most significant first. -/
def beBytes (w : Word) : List Byte := natBe 4 w.toNat

/-- SHA-256 of a message. -/
def sha256 (m : List Byte) : List Byte :=
  let p := m ++ [0x80#8] ++ List.replicate ((119 - m.length % 64) % 64) 0#8 ++ natBe 8 (8 * m.length)
  let s := ({} : ShaState).blocks (p.length / 64) p
  [s.a, s.b, s.c, s.d, s.e, s.f, s.g, s.h].flatMap beBytes

/-! ### LM-OTS and LMS (RFC 8554) -/

/-- `n` bytes from byte `i` of a list. -/
def cut (bs : List Byte) (i n : Nat) : List Byte := (bs.drop i).take n

/-- A big-endian number. -/
def beNat (bs : List Byte) : Nat := leNat bs.reverse

/-- `n` steps of a chain of LMOTS_SHA256_N32_W8: element `i` from position `j` on. -/
def otsChain (key : List Byte) (q i : Nat) : Nat → Nat → List Byte → List Byte
  | 0, _, x => x
  | n + 1, j, x => otsChain key q i n (j + 1) (sha256 (key ++ natBe 4 q ++ natBe 2 i ++ natBe 1 j ++ x))

/-- The digits of a message hash with those of its checksum: a byte each at w = 8. -/
def otsDigits (h : List Byte) : List Nat :=
  let ds := h.map (·.toNat)
  let sum := (ds.map (fun d => 255 - d)).sum
  ds ++ [sum / 256 % 256, sum % 256]

/-- The public key of leaf `q` that a one-time signature of 1124 bytes yields for a message. -/
def otsKey (key : List Byte) (q : Nat) (sig msg : List Byte) : List Byte :=
  let h := sha256 (key ++ natBe 4 q ++ natBe 2 0x8181 ++ cut sig 4 32 ++ msg)
  let z := (otsDigits h).mapIdx (fun i d => otsChain key q i (255 - d) d (cut sig (36 + 32 * i) 32))
  sha256 (key ++ natBe 4 q ++ natBe 2 0x8080 ++ z.flatten)

/-- From a node of the tree to its root, by way of the siblings in `path`. -/
def lmsRoot (key : List Byte) : Nat → Nat → List Byte → List Byte → List Byte
  | 0, _, x, _ => x
  | n + 1, node, x, path =>
    let y := path.take 32
    let pair := if node % 2 = 1 then y ++ x else x ++ y
    lmsRoot key n (node / 2) (sha256 (key ++ natBe 4 (node / 2) ++ natBe 2 0x8383 ++ pair)) (path.drop 32)

/-- An HSS signature of one level under a public key of R457, over a message. -/
def hssVerifies (pub sig msg : List Byte) : Bool :=
  let key := cut pub 12 16
  let q := beNat (cut sig 4 4)
  let leaf := sha256 (key ++ natBe 4 (2 ^ 20 + q) ++ natBe 2 0x8282 ++ otsKey key q (cut sig 8 1124) msg)
  decide (pub.length = 60) && decide (beNat (cut pub 0 4) = 1) && decide (beNat (cut pub 4 4) = 8)
    && decide (beNat (cut pub 8 4) = 4)
    && decide (sig.length = 1776) && decide (beNat (cut sig 0 4) = 0) && decide (q < 2 ^ 20)
    && decide (beNat (cut sig 8 4) = 4) && decide (beNat (cut sig 1132 4) = 8)
    && decide (lmsRoot key 20 (2 ^ 20 + q) leaf (cut sig 1136 640) = cut pub 28 32)

end Sys2Proof.Machine
end

