-- ==== Sys2Proof/Machine/Sluice.lean ====
section
/-! DEFINITION. Machine/Sluice.lean: the display units over time: reading the control block, bands and sweep ticks of the
Sluice, ageing of the Basin, the row feeder, the Sirric link and the host's pattern (R366 to R386, R456). -/
namespace Sys2Proof.Machine

/-! ### The report ring (R386) -/

/-- Append an entry of 32 bytes to the report ring of the block that the units hold; none while they hold no timing. -/
def State.report_ (s : State) (die : Nat) (flit : List Byte) : State :=
  let d := s.disp die
  match d.block, d.granted with
  | some b, some ctx =>
    let i := d.reportSeq
    let va := recField b 0x60 52 0 + 64 * (i % 2 ^ recField b 0x60 4 52)
    (s.unitWrite die ctx va (flit ++ natLe 8 s.ns ++ natLe 8 i ++ natLe 16 0)).updDisp die
      (fun d => { d with reportSeq := i + 1 })
  | _, _ => s

/-- A status entry of the row feeder. -/
def State.reportStatus (s : State) (die code : Nat) : State := s.report_ die (natLe 32 (0x00FF + code * 2 ^ 32))

/-! ### Limits of the block (R367, R374) -/

/-- Are `n` bytes of the block from `i` zero? -/
def blockZero (b i n : Nat) : Bool := decide (b / 2 ^ (8 * i) % 2 ^ (8 * n) = 0)

/-- The limits of R367, but for the record at RECONLR. -/
def blockOk (c : Ctx) (b : Nat) : Bool :=
  let f := recField b
  let dc := f 0x48 16 0
  decide (f 0 63 1 = 0) && decide (8333333 ≤ bSweepNs b)
    && decide (16 ≤ bRows b) && decide (bRows b ≤ 6144) && decide (bRows b % 16 = 0)
    && decide (16 ≤ bWidth b) && decide (bWidth b ≤ 6144) && decide (bWidth b % 16 = 0)
    && decide (bLead b ≤ bSweepNs b / 2) && decide (1000 ≤ bTick b) && decide (250 ≤ f 0x26 16 0)
    && decide (2 ≤ bSend b) && decide (bSend b ≤ 8) && decide (1 ≤ f 0x28 6 4) && decide (f 0x28 6 4 ≤ 64)
    && decide (f 0x28 2 10 ≤ 2) && decide (f 0x28 52 12 = 0)
    && decide (f 0x30 64 0 % 64 = 0) && decide (f 0x38 64 0 % 512 = 0) && decide (f 0x40 64 0 % 64 = 0)
    && (decide (f 0x28 2 10 ≠ 1) || decide (f 0x40 64 0 ≠ 0))
    && decide (dc < 4096) && (decide (f 0x28 2 10 ≠ 2) || (decide (c.dcFirst ≤ dc) && decide (dc + 15 < c.dcFirst + c.dcCount)))
    && decide (f 0x4A 16 0 < bWidth b) && decide (f 0x4A 16 0 ≤ f 0x4C 16 0) && decide (f 0x4C 16 0 < bWidth b)
    && decide (f 0x4E 16 0 = 0)
    && (match fp32.decode (f 0x50 32 0) with | .fin .. => true | _ => false) && decide (f 0x54 32 0 = 0)
    && decide (f 0x58 64 0 % 2 ^ 16 = 0) && decide (f 0x60 52 0 % 64 = 0)
    && decide (4 ≤ f 0x60 4 52) && decide (f 0x60 4 52 ≤ 14) && decide (f 0x60 8 56 = 0) && decide (f 0x68 64 0 % 64 = 0)
    && blockZero b 0x140 0x2C0
    && (List.range (bRows b / 16)).all (fun k =>
      let e := f (0x400 + 8 * k) 64 0
      decide (e / 2 ^ 7 % 2 = 0) && decide (e / 2 ^ 8 % 2 ^ 16 ≠ 0) && decide (e / 2 ^ 24 % 2 ^ 16 ≠ 0)
        && decide (e / 2 ^ 40 = 0))

/-- A sample shader record that R374 allows. -/
def shaderOk (raw : Nat) : Bool :=
  let l := launchRec raw
  decide (recField raw 0 3 0 = 0) && decide (recField raw 0 12 52 = 0) && decide (l.groups = 1) && decide (l.lanes = 32)
    && decide (16 ≤ l.vregs) && decide (l.vregs ≤ 192) && decide (l.vregs % 16 = 0) && decide (l.node < 64)
    && decide (1 ≤ stampDepth l.stamp)

/-- The grid that stands for a record (R239): the one that already does, or a new one with no teams to start. -/
def State.sourceGrid (s : State) (die ctx old : Nat) (l : LaunchRec) : Nat × State :=
  match tget? s.grids old with
  | some g => if g.lr = l ∧ g.ctx = ctx then (old, s) else
      (s.nextGrid, { s with nextGrid := s.nextGrid + 1
                            grids := tset s.grids s.nextGrid { ctx := ctx, die := die, lr := l, prio := l.prio } })
  | none =>
    (s.nextGrid, { s with nextGrid := s.nextGrid + 1
                          grids := tset s.grids s.nextGrid { ctx := ctx, die := die, lr := l, prio := l.prio } })

/-! ### Bands (R369, R370, R374, R379) -/

/-- A band of a die. -/
def Display.band (d : Display) (b : Nat) : Band := tget d.bands b {}
/-- The display with a band replaced. -/
def Display.setBand (d : Display) (b : Nat) (x : Band) : Display := { d with bands := tset d.bands b x }

/-- The stamp (n, b) (R369). -/
def bandStamp (n b : Nat) : DWord := mkStamp 2 n b 0

/-- Has the Keeper room for the count of a band's gathering wave (R332)? -/
def State.waveRoom (s : State) (die b : Nat) : Bool :=
  let d := s.disp die
  match d.granted with
  | some ctx => s.keeperRoom die ctx (s.lr d.shader).node (bandStamp (d.band b).sweep b)
  | none => true

/-- Launch a band's gathering wave, counted for its group; it enters the die queue when there is room (R374, R375). A
wave that the Keeper has no room to count waits where it is (R332). -/
def State.launchWave (s : State) (die b : Nat) : State :=
  let d := s.disp die
  let x := d.band b
  match x.gather, d.granted with
  | [], _ => s
  | _, none => s
  | ws, some ctx =>
    if !s.waveRoom die b then s
    else
    let p : ProbeWave := { ctx := ctx, grid := d.shader, stamp := bandStamp x.sweep b, samples := ws }
    let s := s.unitCount die ctx (s.lr d.shader).node p.stamp [1]
    (s.updDisp die (fun d => d.setBand b { x with gather := [], waiting := x.waiting ++ [p] })).placeWaves die

/-- The action of RECONMODE at a cutoff (R379). A record that cannot be read or breaks R237 places nothing (log entry
12). -/
def State.startRecon (s : State) (die n b : Nat) : State :=
  let d := s.disp die
  match d.block, d.granted with
  | some k, some ctx =>
    let mode := recField k 0x28 2 10
    if mode = 2 then s.dcApply die (recField k 0x48 16 0 + b % 16) (fun v => v - 1)
    else if mode = 1 then
      let r := s.unitRead die ctx (recField k 0x40 64 0) 64
      match r.1 with
      | none => r.2
      | some raw =>
        let st := bandStamp n b
        let ws := (((wordsOf (natLe 64 raw)).set 2 (st.extractLsb' 0 32)).set 3 (st.extractLsb' 32 32)).set 6
          (BitVec.ofNat 32 (b + n % 2 ^ 16 * 2 ^ 16))
        if (taskFault (s.ctx ctx) ws).isSome then r.2
        else (r.2.updDisp die (fun d => { d with recons := d.recons ++ [taskOf ws ctx d.recon 127] })).placeWaves die
    else s
  | _, _ => s

/-- Close an open band: its wave launches and its hold is released in one batch, and reconstruction starts (R374, R379).
Samples that wait to be emitted are none: a tick emits at once. A band whose last wave the Keeper has no room to count
waits (R332). -/
def State.closeBand (s : State) (die b : Nat) : State :=
  let d := s.disp die
  let x := d.band b
  match d.granted with
  | none => s
  | some ctx =>
    let node := (s.lr d.shader).node
    if !x.gather.isEmpty && decide (node ≠ x.node) && !s.waveRoom die b then s
    else
    let st := bandStamp x.sweep b
    let p : ProbeWave := { ctx := ctx, grid := d.shader, stamp := st, samples := x.gather }
    let wave := !x.gather.isEmpty
    let s := if wave && decide (node = x.node) then s.unitCount die ctx node st [1, -1]
      else
        let s := if wave then s.unitCount die ctx node st [1] else s
        s.unitCount die ctx x.node st [-1]
    let s := s.updDisp die (fun d => d.setBand b { x with
      isOpen := false, sweep := x.sweep + 1, gather := [], waiting := if wave then x.waiting ++ [p] else x.waiting })
    (s.placeWaves die).startRecon die x.sweep b

/-- Every open band closes, as at its cutoff (R370). -/
def State.closeBands (s : State) (die : Nat) : State :=
  ((s.disp die).bands.filter (fun e => e.2.isOpen)).foldl (fun s e => s.closeBand die e.1) s

/-! ### Reading the block (R366 to R370, R381) -/

/-- First sweep whose row 0 is lit at `t` or later. -/
def firstSweep (b t : Nat) : Nat :=
  if t ≤ bSweep0 b then 0 else (t - bSweep0 b + bSweepNs b - 1) / bSweepNs b

/-- First row, as sweep × ROWS + row, whose send time is `t` or later (R381). -/
def firstRow (b t : Nat) : Nat :=
  let lo := ((t - bSweep0 b) / bSweepNs b - 1) * bRows b
  (((List.range (4 * bRows b)).map (fun i => lo + i)).find? (fun m =>
    decide (t ≤ sendTime b (m / bRows b) (m % bRows b)))).getD lo

/-- Do two blocks give one timing (R381)? -/
def sameTiming (a b : Nat) : Bool :=
  decide (bSweep0 a = bSweep0 b) && decide (bSweepNs a = bSweepNs b) && decide (bRows a = bRows b) && decide (bSend a = bSend b)

/-- Enable: sweeps start at the first whose row 0 is lit 1 ms from now or later; accumulators and cursors are zero, no
gaze has been reported, and report entries count from 0 (R370 to R373, R386). -/
def State.enableDisplay (s : State) (die b : Nat) : State :=
  let n := firstSweep b (s.ns + 1000000)
  if 2 ^ 22 ≤ n then (s.updDisp die (fun d => { d with reportSeq := 0 })).reportStatus die 2
  else
    s.updDisp die (fun d => { d with
      run := true, gaze := none, reportSeq := 0
      tickAt := (s.ns / bTick b + 1) * bTick b
      tiles := d.tiles.map (fun e => (e.1, { e.2 with accum := 0, cursor := 0 }))
      bands := (List.range (bRows b / 16)).foldl (fun t i =>
        tset t i { (tget t i ({} : Band)) with sweep := n, isOpen := false, gather := [] }) d.bands })

/-- Take the timing of a block: the row feeder's window restarts, and ageing follows it (R377, R381). -/
def Display.retime (d : Display) (now b : Nat) : Display :=
  let age := fun (i : Nat) =>
    let off := lightTime b 0 (16 * i)
    if now < off then off else off + ((now - off) / bSweepNs b + 1) * bSweepNs b
  { d with
    nextRow := firstRow b (now + 1000000), ring := []
    tickAt := (now / max 1 (bTick b) + 1) * bTick b
    bands := (List.range (bRows b / 16)).foldl (fun t i => tset t i { (tget t i ({} : Band)) with ageAt := age i }) d.bands }

/-- When a band opens for its next sweep (R369): for sweep 0 at enable. -/
def openTime (b n band : Nat) : Nat := if n = 0 then 0 else lightTime b (n - 1) (16 * band)

/-- The sweep that a band is open for, or opens for next, at a time: the first whose cutoff has not come (R369). -/
def sweepAt (b now band : Nat) : Nat :=
  let first := cutoffTime b 0 band
  if now < first then 0 else (now - first) / bSweepNs b + 1

/-- A new timing while the Sluice runs (R368, R369): a band that is open for a sweep for which the new times do not have
it open closes as at its cutoff, and every band that is not open takes the sweep that the new times give (log entry
54). -/
def State.resweep (s : State) (die b : Nat) : State :=
  let now := s.ns
  let outside := fun (i n : Nat) => decide (now < openTime b n i) || decide (cutoffTime b n i ≤ now)
  let s := ((s.disp die).bands.filter (fun e => e.2.isOpen && outside e.1 e.2.sweep)).foldl
    (fun s e => s.closeBand die e.1) s
  s.updDisp die (fun d => (List.range (bRows b / 16)).foldl (fun d i =>
    let x := d.band i
    if x.isOpen then d else d.setBand i { x with sweep := sweepAt b now i }) d)

/-- The units take a block that meets every limit: its timing, its history image, its records (R367, R374). The answer
says whether the sample shader record is a good one. -/
def State.holdBlock (s : State) (die ctx b : Nat) : Bool × State :=
  let d := s.disp die
  let sh := s.unitRead die ctx (recField b 0x30 64 0) 256
  let ok := match sh.1 with | some raw => shaderOk raw | none => false
  let g1 := match sh.1 with
    | some raw => if ok then sh.2.sourceGrid die ctx d.shader (launchRec raw) else (d.shader, sh.2)
    | none => (d.shader, sh.2)
  let lr := recField b 0x68 64 0
  let rc := if lr = 0 then (none, g1.2) else g1.2.unitRead die ctx lr 256
  let g2 := match rc.1 with
    | some raw => rc.2.sourceGrid die ctx d.recon (launchRec raw)
    | none => (g1.1, rc.2)
  let keepTime := match d.block with | some o => sameTiming o b | none => false
  let keepTick := match d.block with | some o => decide (bTick o = bTick b) | none => false
  let keepHist := match d.block with | some o => decide (recField o 0x58 64 0 = recField b 0x58 64 0) | none => false
  (ok, g2.2.updDisp die (fun d =>
    let d := { d with block := some b, shader := g1.1, recon := g2.1, history := if keepHist then d.history else [] }
    if !keepTime then d.retime s.ns b
    else if !keepTick then { d with tickAt := (s.ns / max 1 (bTick b) + 1) * bTick b }
    else d))

/-- Does the record at RECONLR keep R349? -/
def State.reconOk (s : State) (die ctx b : Nat) : Bool × State :=
  let lr := recField b 0x68 64 0
  if lr = 0 then (true, s)
  else
    let r := s.unitRead die ctx lr 256
    match r.1 with
    | some raw => (decide (launchFault (s.ctx ctx) raw = 0), r.2)
    | none => (false, r.2)

/-- Read the block and act on what it says (R366 to R370). -/
def State.readBlock (s : State) (die : Nat) : State :=
  match (s.disp die).granted with
  | none => s
  | some ctx =>
    let c := s.ctx ctx
    let r := s.unitRead die ctx (if die = 0 then c.dispVa0 else c.dispVa1) 4096
    let ok := match r.1 with
      | some b => if blockOk c b then r.2.reconOk die ctx b else (false, r.2)
      | none => (false, r.2)
    let h : Bool × State := match r.1, ok.1 with
      | some b, true =>
        let h := ok.2.holdBlock die ctx b
        (h.1 && decide (b % 2 = 1), if h.1 then h.2 else h.2.reportStatus die 1)
      | _, _ => (false, ok.2.reportStatus die 1)
    let was := (s.disp die).enableBit
    let moved := match (s.disp die).block, (h.2.disp die).block with
      | some o, some b => !sameTiming o b || decide (bLead o ≠ bLead b)
      | _, _ => false
    let s := h.2.updDisp die (fun d => { d with enableBit := h.1 })
    match (s.disp die).block with
    | none => s.updDisp die (fun d => { d with retryAt := s.ns + 1000000 })
    | some b =>
      let n := if s.ns < bSweep0 b then 0 else (s.ns - bSweep0 b) / bSweepNs b + 1
      let s := s.updDisp die (fun d => { d with nextSweep := n })
      if !h.1 then (if (s.disp die).run then (s.closeBands die).updDisp die (fun d => { d with run := false }) else s)
      else if !was then s.enableDisplay die b
      else if (s.disp die).run ∧ 2 ^ 22 < n then
        ((s.closeBands die).updDisp die (fun d => { d with run := false })).reportStatus die 2
      else if (s.disp die).run && moved then s.resweep die b
      else s

/-- SWEEP_BOUNDARY (R368, R370, R456): at the light time of row 0 the units read the block again; the host's pattern
ends once ENABLE is set. -/
def execSweepBoundary (die : Nat) (s : State) : Res :=
  match (s.disp die).block with
  | none => .next s
  | some b =>
    if s.ns < lightTime b (s.disp die).nextSweep 0 then .next s
    else
      let s := s.readBlock die
      finish (if (s.disp die).enableBit then s.updDisp die (fun d => { d with pattern := none, patternNext := none, patternRow := 0 }) else s)

/-- BLOCK_RETRY (R367): while no block has met every limit, it is read again every 1 ms. -/
def execBlockRetry (die : Nat) (s : State) : Res :=
  let d := s.disp die
  if d.granted.isSome && d.block.isNone && decide (d.retryAt ≤ s.ns) then finish (s.readBlock die) else .next s

/-- The display right is granted to a context (R366). -/
def State.grantDisplay (s : State) (die ctx : Nat) : State :=
  (s.updDisp die (fun d => { d with granted := some ctx })).readBlock die

/-- The display right is withdrawn: the Sluice stops, every slot and page is free, no row is sent (R366). The link, the
counters and the pattern stay. -/
def State.withdrawDisplay (s : State) (die : Nat) : State :=
  s.updDisp die (fun d => {
    linkUp := d.linkUp, sent := d.sent, pattern := d.pattern, patternNext := d.patternNext, patternAt := d.patternAt
    patternSweep := d.patternSweep, patternSince := d.patternSince, patternRow := d.patternRow
    missed := d.missed, dropped := d.dropped, evicted := d.evicted, mirrorIn := d.mirrorIn, rowRej := d.rowRej
    inbox := d.inbox })

/-! ### The Sluice (R369 to R375) -/

/-- BAND_OPEN (R369, R374): the band hold is counted; a band whose cutoff has passed goes on to its next sweep. The
Sluice stays idle while no headset is attached (R16). -/
def execBandOpen (die band : Nat) (s : State) : Res :=
  let d := s.disp die
  match d.block, d.granted with
  | some b, some ctx =>
    let x := d.band band
    let n := x.sweep
    if !d.run || !d.linkUp || x.isOpen || decide (bRows b ≤ 16 * band) || decide (2 ^ 22 ≤ n)
        || decide (s.ns < openTime b n band) then .next s
    else if cutoffTime b n band ≤ s.ns then .next (s.updDisp die (fun d => d.setBand band { x with sweep := n + 1 }))
    else
      let node := (s.lr d.shader).node
      if !s.keeperRoom die ctx node (bandStamp n band) then .next s
      else .next ((s.unitCount die ctx node (bandStamp n band) [1]).updDisp die
        (fun d => d.setBand band { x with isOpen := true, node := node }))
  | _, _ => .next s

/-- BAND_CUTOFF (R374, R375, R379); the cutoff of a band that was open when its link went down acts as any other (log
entry 53). -/
def execBandCutoff (die band : Nat) (s : State) : Res :=
  let d := s.disp die
  match d.block with
  | none => .next s
  | some b =>
    let x := d.band band
    if x.isOpen && decide (cutoffTime b x.sweep band ≤ s.ns) then finish (s.closeBand die band) else .next s

/-- WAVEWAIT (R374): the first sample of the gathering wave has waited its time; a full wave that the Keeper had no room to count
launches once it has (R332). -/
def execWavewait (die band : Nat) (s : State) : Res :=
  let d := s.disp die
  match d.block with
  | none => .next s
  | some b =>
    let x := d.band band
    if !x.gather.isEmpty && (decide (32 ≤ x.gather.length) || decide (x.since + recField b 0x26 16 0 ≤ s.ns)) then
      finish (s.launchWave die band)
    else .next s

/-- Distance of two numbers. -/
def dist (a b : Nat) : Nat := max a b - min a b

/-- Effective priority of a tile (R371). -/
def Display.effective (d : Display) (b i : Nat) : Nat :=
  let f := match d.gaze with
    | none => 128
    | some (gx, gy) => recField b (0x100 + min 63 (max (dist (i % 384) gx) (dist (i / 384) gy))) 8 0
  min 255 ((d.tile i).prio * f / 128)

/-- Emit one sample of a tile at a tick (R373). -/
def State.emitSample (s : State) (die i t : Nat) : State :=
  let d := s.disp die
  let tx := i % 384
  let ty := i / 384
  let x := d.tile i
  let tb := s.noiseTable die tx ty
  let e := tb.2.noiseEntry tb.1 x.cursor
  let w0 := BitVec.ofNat 32 (128 * tx + e.1 + 2 ^ 16 * (128 * ty + e.2.1))
  let w1 := sampleTime (d.block.getD 0) t
  let s := e.2.2.updDisp die (fun d =>
    let b := d.band ty
    (d.setTile i { x with accum := x.accum - 256, cursor := (x.cursor + 1) % 256 }).setBand ty
      { b with gather := b.gather ++ [(w0, w1)], since := if b.gather.isEmpty then t else b.since })
  if 32 ≤ ((s.disp die).band ty).gather.length then s.launchWave die ty else s

/-- A band's wave is due, and the Keeper has no room to count it (R332). -/
def State.waveStuck (s : State) (die band t : Nat) : Bool :=
  let d := s.disp die
  let x := d.band band
  !x.gather.isEmpty && decide (x.since + recField (d.block.getD 0) 0x26 16 0 ≤ t) && !s.waveRoom die band

/-- Emit while the accumulator stands at 256 or more; a band whose wave waits for room, in a queue or in the Keeper, emits nothing
(R332, R372, R375). -/
def State.emitTile (s : State) (die i t : Nat) : Nat → State
  | 0 => s
  | n + 1 =>
    let d := s.disp die
    if (d.tile i).accum < 256 ∨ !(d.band (i / 384)).waiting.isEmpty ∨ 32 ≤ (d.band (i / 384)).gather.length
        ∨ s.waveStuck die (i / 384) t then s
    else (s.emitSample die i t).emitTile die i t n

/-- Bands that are open at a tick, by rising cutoff (R369, R372). -/
def Display.openAt (d : Display) (b t : Nat) : List Nat :=
  let l := d.bands.filter (fun e => e.2.isOpen && decide (t < cutoffTime b e.2.sweep e.1)
    && decide (openTime b e.2.sweep e.1 ≤ t))
  (l.map (fun e => (cutoffTime b e.2.sweep e.1, e.1))).foldl (fun acc e =>
    acc.takeWhile (fun x => decide (x.1 ≤ e.1)) ++ [e] ++ acc.dropWhile (fun x => decide (x.1 ≤ e.1))) [] |>.map (·.2)

/-- SWEEP_TICK (R371 to R373): tiles of open bands, by rising cutoff and TX. -/
def execSweepTick (die : Nat) (s : State) : Res :=
  let d := s.disp die
  match d.block with
  | none => .next s
  | some b =>
    if !d.run || decide (s.ns < d.tickAt) then .next s
    else
      let t := d.tickAt
      let s := s.updDisp die (fun d => { d with tickAt := t + bTick b })
      if !d.linkUp then .next s
      else
        let tiles := (d.openAt b t).flatMap (fun k => (d.tiles.filter (fun e =>
          decide (e.1 / 384 = k) && decide (16 * (e.1 % 384) < bWidth b) && decide (16 * k < bRows b))).map (·.1))
        finish (tiles.foldl (fun s i =>
          let d := s.disp die
          let x := d.tile i
          (s.updDisp die (fun d => d.setTile i { x with accum := min 65535 (x.accum + d.effective b i) })).emitTile die i t 256) s)

/-! ### Ageing (R377) -/

/-- Return the last page while its 16 slots are free. -/
def TileState.shrink (t : TileState) : Nat → TileState
  | 0 => t
  | n + 1 =>
    if t.pages = 0 ∨ t.slots.any (fun e => decide (16 * (t.pages - 1) ≤ e.1)) then t
    else { t with pages := t.pages - 1 }.shrink n

/-- BASIN_AGEING (R377): at the band's light time, samples older than EXPIRY are freed and empty last pages return. -/
def execBasinAgeing (die band : Nat) (s : State) : Res :=
  let d := s.disp die
  match d.block with
  | none => .next s
  | some b =>
    let x := d.band band
    if bRows b ≤ 16 * band ∨ s.ns < x.ageAt then .next s
    else
      let old := fun (w : List Word) => decide (2000 * (bBand b band).2.2 < sampleAge b x.ageAt (w.getD 1 0))
      .next (s.updDisp die (fun d =>
        let d := d.setBand band { x with ageAt := x.ageAt + bSweepNs b }
        (d.tiles.filter (fun e => decide (e.1 / 384 = band))).foldl (fun d e =>
          let t := { e.2 with slots := e.2.slots.filter (fun q => !old q.2) }
          let t' := t.shrink t.pages
          { d with freePages := d.freePages + (t.pages - t'.pages) }.setTile e.1 t') d))

/-! ### The row feeder (R381 to R385) -/

/-- Bytes of a row's pixel field. -/
def rowBytes_ : Nat := 23040

/-- Pixels packed 30 bits each, as bytes (R385). -/
def packPixels (px : List Nat) : List Byte := natLe rowBytes_ (px.reverse.foldl (fun a p => a * 2 ^ 30 + p % 2 ^ 30) 0)

/-- A downstream row packet, with the zero bytes that fill its 721 flits (R385). -/
def rowPacket (die : Nat) (replay : Bool) (n y width : Nat) (field : List Byte) : List Byte :=
  let h := natLe 2 1 ++ natLe 1 ((if replay then 1 else 0) + 2 * die) ++ natLe 1 0 ++ natLe 4 (n % 2 ^ 22) ++ natLe 2 y
    ++ natLe 2 width ++ natLe 4 0 ++ field
  h ++ natLe 4 (crc32c h).toNat ++ natLe 12 0

/-- Write a row of the history image, 512 bytes at a time (R383). -/
def State.putHistory (s : State) (die ctx va : Nat) (bs : List Byte) : Nat → State
  | 0 => s
  | n + 1 => (s.unitWrite die ctx va (bs.take 512)).putHistory die ctx (va + 512) (bs.drop 512) n

/-- Read a row of the history image; bytes of a page that cannot be read are zero. -/
def State.getHistory (s : State) (die ctx va : Nat) : Nat → List Byte × State
  | 0 => ([], s)
  | n + 1 =>
    let r := s.unitRead die ctx va 512
    let q := r.2.getHistory die ctx (va + 512) n
    (natLe 512 (r.1.getD 0) ++ q.1, q.2)

/-- Take the next row out of the ring: the window moves on (R381). -/
def Display.advance (d : Display) : Display :=
  { d with ring := d.ring.filter (fun e => decide (e.1 / 2 ^ 13 ≠ d.nextRow)), nextRow := d.nextRow + 1 }

/-- Send a row at its send time (R382, R383); pixels past WIDTH are zero in a row from the history image too (R385). -/
def State.sendRow (s : State) (die ctx b n y : Nat) : State :=
  let d := s.disp die
  let px := (List.range (bWidth b)).map (fun x => tget? d.ring (d.nextRow * 2 ^ 13 + x))
  let va := recField b 0x58 64 0 + rowBytes_ * y
  if d.run && px.all (·.isSome) then
    let field := packPixels (px.map (fun p => p.getD 0))
    (s.putHistory die ctx va field 45).updDisp die (fun d => { d with
      sent := rowPacket die false n y (bWidth b) field, history := if y ∈ d.history then d.history else y :: d.history })
  else
    let r := if y ∈ d.history then s.getHistory die ctx va 45 else (natLe rowBytes_ 0, s)
    r.2.updDisp die (fun d => { d with
      sent := rowPacket die true n y (bWidth b) (natLe rowBytes_ (leNat r.1 % 2 ^ (30 * bWidth b)))
      missed := if d.run then d.missed + 1 else d.missed })

/-- ROW_SEND (R381, R382, R384): nothing is sent or counted while the link is down or the host's pattern is in force. -/
def execRowSend (die : Nat) (s : State) : Res :=
  let d := s.disp die
  match d.block, d.granted with
  | some b, some ctx =>
    let n := d.nextRow / bRows b
    let y := d.nextRow % bRows b
    if s.ns < sendTime b n y then .next s
    else
      let s := if d.linkUp && d.pattern.isNone then s.sendRow die ctx b n y else s
      finish (s.updDisp die Display.advance)
  | _, _ => .next s

/-! ### The Sirric link (R384, R386) -/

/-- An upstream flit of a type: appended to the report ring (R386). -/
def State.upstream (s : State) (die type : Nat) (flit : BitVec 256) (k : Display → Display) : Res :=
  if !(s.disp die).linkUp || decide ((flit.extractLsb' 0 16).toNat ≠ type) then .next s
  else finish ((s.report_ die (natLe 32 flit.toNat)).updDisp die k)

/-- GAZE (R386): a valid report sets the gaze tile. -/
def execGaze (die : Nat) (flit : BitVec 256) (s : State) : Res :=
  s.upstream die 2 flit (fun d =>
    if flit.getLsbD 96 then
      { d with gaze := some ((flit.extractLsb' 64 16).toNat / 16, (flit.extractLsb' 80 16).toNat / 16) }
    else d)
/-- POSE (R386). -/
def execPose (die : Nat) (flit : BitVec 256) (s : State) : Res := s.upstream die 3 flit id
/-- POSITION (R386). -/
def execPosition (die : Nat) (flit : BitVec 256) (s : State) : Res := s.upstream die 5 flit id
/-- PANEL_STATUS (R386). -/
def execPanelStatus (die : Nat) (flit : BitVec 256) (s : State) : Res := s.upstream die 4 flit id

/-- SIRRIC_LINK_DOWN (R384). -/
def execSirricLinkDown (die : Nat) (s : State) : Res :=
  if (s.disp die).linkUp then finish ((s.updDisp die (fun d => { d with linkUp := false })).reportStatus die 3) else .next s
/-- SIRRIC_LINK_UP (R384): no link trains while the module is in Reset (R455). -/
def execSirricLinkUp (die : Nat) (s : State) : Res :=
  if (s.disp die).linkUp || decide (s.host.service = .reset) then .next s
  else finish ((s.updDisp die (fun d => { d with linkUp := true })).reportStatus die 4)

/-! ### The host's pattern (R456) -/

/-- The ten bits that an eight-bit value goes out as. -/
def ten (v : Nat) : Nat := 4 * (v % 256) + v % 256 / 64

/-- Pixels of a row pattern: its spans end to end, zero after the last, none past 6144. -/
def patternPixels (spans : List Nat) : List Nat :=
  let px := spans.flatMap (fun e => List.replicate (e % 2 ^ 16)
    (ten (e / 2 ^ 16) + 2 ^ 10 * ten (e / 2 ^ 24) + 2 ^ 20 * ten (e / 2 ^ 32)))
  (px ++ List.replicate 6144 0).take 6144

/-- PATTERN_SWEEP (R456): the next row of the pattern, at 30 sweeps/s of 6144 rows; a new PATTERN takes the place of the old one at
the first row of a sweep. Every row carries the same pixels. The number of a sweep is not stated: a free value (log entry 13). -/
def execPatternSweep (die : Nat) (s : State) : Res :=
  let d := s.disp die
  match if d.patternRow = 0 then d.patternNext.or d.pattern else d.pattern.or d.patternNext with
  | none => .next s
  | some spans =>
    if !d.linkUp || decide (s.ns < d.patternAt) then .next s
    else
      let f := if d.patternRow = 0 then s.takeFree else (d.patternSweep, s)
      let since := if d.patternRow = 0 then s.ns else d.patternSince
      let y := d.patternRow
      .next (f.2.updDisp die (fun d => { d with
        pattern := some spans, patternNext := if y = 0 then none else d.patternNext, patternSweep := f.1, patternSince := since
        patternRow := (y + 1) % 6144, patternAt := since + (y + 1) * 33333333 / 6144
        sent := rowPacket die false f.1 y 6144 (packPixels (patternPixels spans)) }))

end Sys2Proof.Machine
end

