-- ==== Sys2Proof/Machine/Context.lean ====
section
/-! DEFINITION. Machine/Context.lean: delivering a preemption, vacating a team, and loading and unloading contexts
(R172, R282, R391 to R394, R402, R430 to R439, R451). -/
namespace Sys2Proof.Machine

/-! ### Delivering a preemption (R172, R282, R433) -/

/-- Is a team named by a posted preemption: one by one, or by context, cores and priority (R172)? -/
def PreemptReq.names (r : PreemptReq) (id : Nat) (t : Team) : Bool :=
  decide (id ∈ r.teams)
    || (r.teams.isEmpty && decide (t.ctx = r.ctx) && decide (t.core ∈ r.cores) && decide (t.prio < r.bound))

/-- The teams that a posted preemption reaches: those it names, and the other teams of their gang clusters that are of
the context and below the priority bound (R282). -/
def State.reached (s : State) (r : PreemptReq) : List Nat :=
  let named := s.teams.filter (fun e => r.names e.1 e.2)
  let gangs := named.filterMap (fun e => e.2.gang)
  (s.teams.filter (fun e => r.names e.1 e.2
    || ((e.2.gang.map (fun g => decide (g ∈ gangs))).getD false
      && (!r.teams.isEmpty || (decide (e.2.ctx = r.ctx) && decide (e.2.prio < r.bound)))))).map (·.1)

/-- PREEMPT reaches one group: it is held pending until the next clause boundary outside a handler (R166, R433). A group
that ends, or whose team has begun to vacate, discards it (R435). A second one is merged with one that is pending (log entry 74). -/
def State.preemptGroup (s : State) (detail : DWord) (gid : Nat) : State :=
  let g := s.group gid
  if g.exiting || (s.team g.team).groups.any (fun x => decide ((s.group x).vacate ≠ 0)) then s
  else (s.updGroup gid (fun g => { g with preempt := g.preempt.or (some detail) })).report gid

/-- PREEMPT_DELIVERY (R172, R433, R472): the oldest posted preemption of a die wakes the cores it names and reaches the groups of
its teams. -/
def execPreemptDelivery (die : Nat) (s : State) : Res :=
  match (s.die die).preempts with
  | [] => .next s
  | r :: rest =>
    let s := r.cores.foldl State.wakeCore (s.updDie die (fun d => { d with preempts := rest }))
    finish ((s.reached r).foldl (fun s t => (s.team t).groups.foldl (fun s g => s.preemptGroup r.detail g) s) s)

/-! ### Vacating (R434 to R437) -/

/-- Entries of a restore list (R436). -/
def restoreMax : Nat := 256

/-- What is kept of a group (R434, R435): its error completions not yet reported among it. -/
def Group.kept (g : Group) : Kept :=
  { group := { g with v := [], s := Vector.replicate 64 0, k := Vector.replicate 8 0, b := Vector.replicate 16 0, waves := [] }
    detail := g.tdetail &&& 0x2FF#64 }

/-- Steps 3 to 5 of R435 for a team whose groups have all reached step 2: its stores have performed, the core sends its
counts, registers, slots, handles, chambers, check-outs and accumulators are free. -/
def State.vacateTeam (s : State) (t : Nat) : State :=
  let x := s.team t
  let r : Restore := { team := t, shape := { x with spad := [], acc := [], chambers := [] }, prio := x.prio
                       kept := x.groups.map (fun g => (s.group g).kept) }
  let s := s.flushDeltas x.core
  let s := { s with groups := s.groups.filter (fun e => !x.groups.contains e.1)
                    ranges := s.ranges.filter (fun e => decide (e.team ≠ t)) }
  let s := s.updTeam t (fun x => { x with
    groups := [], accLen := 0, acc := [], reserved := 0, chambers := [], h := Vector.replicate 32 none })
  s.updDie (dieOf x.core) (fun d => { d with leaving := d.leaving ++ [r] })

/-- A team that is leaving has passed step 5 of R435: no copy that its core accepted is still inbound, so that its scratchpad
is free (R437). -/
def State.quiet (s : State) (r : Restore) : Bool := decide ((s.team r.team).inbound = 0)

/-- Entries that may enter the restore list: a team alone, or a gang cluster of which no team is resident, each of them past
step 5 (R435). -/
def State.readyToList (s : State) (die : Nat) (r : Restore) : List Restore :=
  match r.shape.gang with
  | none => if s.quiet r then [r] else []
  | some g =>
    let rs := (s.die die).leaving.filter (fun x => decide (x.shape.gang = some g))
    if s.teams.any (fun e => decide (e.2.gang = some g) && !e.2.groups.isEmpty) || rs.any (fun x => !s.quiet x) then [] else rs

/-- Step 6 of R435: teams enter the restore list while it has room; their scratchpads are given back (R437). -/
def State.enterList (s : State) (die : Nat) : State :=
  (s.die die).leaving.foldl (fun s r =>
    let rs := s.readyToList die r
    if !(s.die die).leaving.contains r || rs.isEmpty || decide (restoreMax ≤ (s.die die).restores.length) then s
    else
      let s := s.updDie die (fun d => { d with
        leaving := d.leaving.filter (fun x => !rs.contains x)
        restores := d.restores ++ [{ work := .restore rs, prio := r.prio, since := s.ns }] })
      rs.foldl (fun s x => (s.updTeam x.team (fun t => { t with ended := true })).freeTeam x.team) s) s

/-- VACATE (R435): a group whose PREEMPT handler ended an EXIT clause goes on from step to step: stopped operations
restart, every flag falls, the siblings follow, and the team leaves its core. -/
def execVacate (gid : Nat) (s : State) : Res :=
  let g := s.group gid
  let die := dieOf g.core
  match g.vacate with
  | 0 => .next ((s.enterList 0).enterList 1)
  | 1 => .next (s.updGroup gid (fun g => { g.restartOps with vacate := 2 }))
  | 2 =>
    if g.flagsZero && g.ops.isEmpty then .next (s.updGroup gid (fun g => { g with vacate := 3 })) else .next s
  | _ =>
    if (s.team g.team).groups.all (fun x => decide ((s.group x).vacate = 3)) then
      .next ((s.vacateTeam g.team).enterList die)
    else .next s

/-! ### The context descriptor (R430) -/

/-- A device's address of 52 bits, aligned: no bit outside [51:k]. -/
def fieldOk (v k : Nat) : Bool := decide (v % 2 ^ k = 0) && decide (v < 2 ^ 52)

/-- The byte offset of the first descriptor field that breaks its limits, checked in rising offset and from the lowest
bit (R430, R168, R423). -/
def descFault (raw : Nat) : Option Nat :=
  let f := recField raw
  let q := fun (o : Nat) => f o 64 0
  let wh := fun (o : Nat) => f o 16 0 + f (o + 2) 16 0
  if f 0 1 0 ≠ 1 ∨ f 0 60 4 ≠ 0 then some 0
  else if q 0x08 % 2 ^ 15 ≠ 0 ∨ 2 ^ 48 ≤ q 0x08 then some 0x08
  else if q 0x10 % 2 ^ 15 ≠ 0 ∨ 2 ^ 48 ≤ q 0x10 then some 0x10
  else if !fieldOk (q 0x18) 12 then some 0x18
  else if !fieldOk (q 0x20) 6 then some 0x20
  else if f 0x28 5 0 < 8 ∨ 20 < f 0x28 5 0 ∨ f 0x28 7 5 ≠ 0 ∨ f 0x28 12 52 ≠ 0 then some 0x28
  else if !fieldOk (q 0x30) 16 then some 0x30
  else if q 0x38 < 512 ∨ q 0x38 % 64 ≠ 0 ∨ 2 ^ 16 ≤ q 0x38 then some 0x38
  else if !fieldOk (q 0x40) 6 then some 0x40
  else if !fieldOk (q 0x48) 5 then some 0x48
  else if 256 < q 0x50 then some 0x50
  else if !fieldOk (q 0x58) 5 then some 0x58
  else if !fieldOk (q 0x60) 6 then some 0x60
  else if !fieldOk (q 0x68) 12 then some 0x68
  else if !fieldOk (q 0x70) 12 then some 0x70
  else if f 0x78 4 12 ≠ 0 then some 0x79
  else if 4096 < f 0x78 12 0 + f 0x78 13 16 then some 0x7A
  else if f 0x78 35 29 ≠ 0 then some 0x7B
  else if 1536 < f 0x80 16 0 then some 0x80
  else if 1536 < wh 0x80 then some 0x82
  else if 1536 < f 0x84 16 0 then some 0x84
  else if 1536 < wh 0x84 then some 0x86
  else (List.range 15).findSome? (fun i => if q (0x88 + 8 * i) ≠ 0 then some (0x88 + 8 * i) else none)

/-- The context that a descriptor describes. -/
def ctxOf (raw descDie descPa : Nat) : Ctx :=
  let f := recField raw
  let w := fun (o : Nat) => BitVec.ofNat 64 (f o 64 0)
  { descDie := descDie, descPa := descPa, sysr := decide (f 0 1 1 = 1), disp := BitVec.ofNat 2 (f 0 2 2)
    root0 := w 0x08, root1 := w 0x10, walkRoot0 := w 0x08, walkRoot1 := w 0x10
    trapBase := w 0x18, saveArea := w 0x20, towpath := w 0x28, privBase := f 0x30 52 0, privSize := f 0x38 16 0
    graphVa := f 0x40 52 0, moorVa := f 0x48 52 0, moorN := f 0x50 9 0, poolVa := f 0x58 52 0, submitVa := f 0x60 52 0
    dispVa0 := f 0x68 52 0, dispVa1 := f 0x70 52 0, dcFirst := f 0x78 12 0, dcCount := f 0x78 13 16
    whBase0 := f 0x80 16 0, whSize0 := f 0x82 16 0, whBase1 := f 0x84 16 0, whSize1 := f 0x86 16 0 }

/-- Is a context loaded on a die? -/
def State.loadedOn (s : State) (die ctx : Nat) : Bool := (s.ctx ctx).dies.getLsbD die

/-! ### What a die reads at a load (R325, R353, R356, R391 to R394) -/

/-- Read `n` bytes of a table that a descriptor names, through the die's page table. What a page holds that cannot be
read is not stated: a free value (log entry 14). -/
def State.tableRead (s : State) (die ctx va n : Nat) : Nat × State :=
  let r := s.walk die ctx va
  match classify r.1 .read false va with
  | .ok key => let s := r.2.checkPa key n; (s.homeNat key n, s)
  | _ => let f := r.2.takeFree; (f.1 % 2 ^ (8 * n), f.2)

/-- Read `k` items of `n` bytes that follow one another from an address. -/
def State.tableItems (s : State) (die ctx va n : Nat) : Nat → List Nat × State
  | 0 => ([], s)
  | k + 1 =>
    let x := s.tableRead die ctx (vaWrap va) n
    let r := x.2.tableItems die ctx (va + n) n k
    (x.1 :: r.1, r.2)

/-- A mooring table entry; none where its limits are broken (R392). -/
def moorEntryOf (raw : Nat) : Option MoorEntry :=
  let f := recField raw
  let e : MoorEntry := { entry := f 0 64 0, cap := f 8 8 0, pool := f 9 8 0, timer := f 10 16 0, node := f 12 8 0 }
  if e.entry % 8 = 0 ∧ e.entry < 2 ^ 52 ∧ 4 ≤ e.cap ∧ e.cap ≤ 32 ∧ e.cap % 4 = 0 ∧ e.pool < 16 ∧ 1 ≤ e.timer ∧ e.node < 64
    ∧ f 13 8 0 = 1 ∧ raw / 2 ^ 112 = 0 then some e else none

/-- The pool of a pool table entry on a die, every block free; one whose limits are broken is disabled (R394, R395). -/
def poolOf (die raw : Nat) : Pool :=
  let f := recField raw
  if f 0 64 0 % 32 = 0 ∧ f 8 64 0 % 32 = 0 ∧ f 16 32 0 ≤ 65536 ∧ raw / 2 ^ 160 = 0 then
    { base := f (8 * die) 64 0, blocks := f 16 32 0, free := f 16 32 0 }
  else {}

/-- An entry with the identity word alone: VALID, no pops, pushes or increments (R326, R430). -/
def identityGraph : List (Nat × (DWord × DWord)) := (List.range 64).map (fun n => (65 * n, (1#64, 0#64)))

/-- The graph block of a context that a die's Keeper reads (R325). -/
def State.readGraph (s : State) (die ctx : Nat) : State :=
  let c := s.ctx ctx
  let r := if c.graphVa = 0 then (identityGraph, s)
    else
      let x := s.tableItems die ctx c.graphVa 16 4096
      (x.1.mapIdx (fun i v => (i, (BitVec.ofNat 64 v, BitVec.ofNat 64 (v / 2 ^ 64)))), x.2)
  r.2.updDie die (fun d => { d with graphs := r.1.foldl (fun t e => tset t (ctx * 4096 + e.1) e.2) d.graphs })

/-- The mooring table and the pools of a context (R391, R394, R395). A table at VA 0 has no entries. -/
def State.readMoorings (s : State) (die ctx : Nat) : State :=
  let c := s.ctx ctx
  let m := s.tableItems die ctx c.moorVa 32 (if c.moorVa = 0 then 0 else c.moorN)
  let p := m.2.tableItems die ctx c.poolVa 32 (if c.poolVa = 0 then 0 else 16)
  p.2.updDie die (fun d => { d with
    moorings := tset d.moorings ctx (m.1.filterMap moorEntryOf)
    pools := (p.1.mapIdx (fun i v => (i, poolOf die v))).foldl (fun t e => tset t (ctx * 16 + e.1) e.2) d.pools })

/-- A submission queue as its descriptor gives it; none for one that is disabled or breaks the rules (R353). -/
def queueOf (raw : Nat) : Option HostQueue :=
  let f := recField raw
  let q : HostQueue := { ring := f 0 64 0, tailVa := f 8 64 0, statVa := f 16 64 0, log2n := f 24 8 0, dieSel := f 25 8 0
                         pcap := f 26 8 0, woken := true }
  if q.ring % 256 = 0 ∧ q.tailVa % 64 = 0 ∧ q.statVa % 64 = 0 ∧ q.ring < 2 ^ 52 ∧ q.tailVa < 2 ^ 52 ∧ q.statVa < 2 ^ 52
    ∧ 2 ≤ q.log2n ∧ q.log2n ≤ 16 ∧ q.dieSel ≤ 2 ∧ q.pcap ≤ 127 ∧ f 27 8 0 = 1 ∧ raw / 2 ^ 224 = 0 then some q else none

/-- The serving die of a queue (R353). -/
def servingDie (c : Ctx) (sel : Nat) : Nat := if sel < 2 then sel else if c.dies.getLsbD 0 then 0 else 1

/-- The submission queues that a die serves for a context and does not hold yet, each with HEAD from its status line (R353, R356). -/
def State.readQueues (s : State) (die ctx : Nat) : State :=
  let c := s.ctx ctx
  let x := s.tableItems die ctx c.submitVa 64 (if c.submitVa = 0 then 0 else 16)
  (x.1.mapIdx (fun i v => (i, v))).foldl (fun s e =>
    let key := ctx * 16 + e.1
    match queueOf e.2 with
    | some q =>
      if servingDie c q.dieSel = die ∧ (tget? (s.die die).hostQueues key).isNone then
        let h := s.tableRead die ctx q.statVa 4
        let s := h.2.updDie die (fun d => { d with hostQueues := tset d.hostQueues key { q with head := h.1, tail := h.1 } })
        if 2 ≤ q.dieSel then s.updDie (1 - die) (fun d => { d with hostQueues := tdel d.hostQueues key }) else s
      else s
    | none => s) x.2

/-! ### Loading and unloading (R402, R430, R432) -/

/-- Remove what a die's cores and tables hold for a context. -/
def State.forgetCtx (s : State) (die ctx : Nat) : State :=
  let s := (coresOf die).foldl (fun s c =>
    (s.dropTlb c (fun t => decide (t.ctx = ctx))).updCore c (fun x => { x with
      views := tdel x.views ctx, filter := x.filter.filter (fun e => decide (e.1 ≠ ctx)) })) s
  let mine := fun (k : Nat) (n : Nat) => decide (k / n = ctx)
  s.updDie die (fun d => { d with
    walks := d.walks.filter (fun w => decide (w.ctx ≠ ctx))
    announced := d.announced.filter (fun a => decide (a.1 ≠ ctx))
    hostQueues := d.hostQueues.filter (fun e => !mine e.1 16)
    moorings := tdel d.moorings ctx
    pools := d.pools.filter (fun e => !mine e.1 16)
    graphs := d.graphs.filter (fun e => !mine e.1 4096) })

/-- Firmware zeroes the Wharf window on a die that it grants (R310). -/
def State.zeroWindow (s : State) (die : Nat) (c : Ctx) : State :=
  let base := if die = 0 then c.whBase0 else c.whBase1
  let size := if die = 0 then c.whSize0 else c.whSize1
  let lo := wharfKey die (base * 2 ^ 16)
  let n := size * 2 ^ 16
  { s with wharf := s.wharf.filter (fun e => !(decide (lo ≤ e.1) && decide (e.1 < lo + n)))
           wharfPoison := s.wharfPoison.filter (fun e => !(decide (lo ≤ e.1 * 4) && decide (e.1 * 4 < lo + n))) }

/-- The fields of a descriptor that belong to one die, taken into a context that is loaded on the other (R430). The windows on
both dies are granted with the first load and stay as they are (R310). -/
def Ctx.withDie (c n : Ctx) (die : Nat) : Ctx :=
  let c := { c with dies := c.dies ||| (1#2 <<< die), disp := (c.disp &&& ~~~(1#2 <<< die)) ||| (n.disp &&& (1#2 <<< die)) }
  if die = 0 then
    { c with root0 := n.root0, walkRoot0 := n.root0, dispVa0 := n.dispVa0 }
  else
    { c with root1 := n.root1, walkRoot1 := n.root1, dispVa1 := n.dispVa1 }

/-- Load a context on one die: the device reads its tables, and the display units its block (R325, R353, R366, R391,
R394). -/
def State.loadDie (s : State) (ctx die : Nat) : State :=
  let s := s.forgetCtx die ctx
  let s := (coresOf die).foldl (fun s c => s.seeContext c ctx) s
  let s := ((s.readGraph die ctx).readMoorings die ctx).readQueues die ctx
  if (s.ctx ctx).disp.getLsbD die then s.grantDisplay die ctx else s

/-- RESULT and DETAIL of a command (R451). -/
abbrev Reply := Nat × Nat

/-- LOAD_CTX on its payload: the checks in the order of R430, then the load. -/
def State.loadCtx (s : State) (p : Nat) : Reply × State :=
  let ctx := p % 256
  let dies := [0, 1].filter (fun d => decide (p / 2 ^ (8 + d) % 2 = 1))
  let ddie := p / 2 ^ 10 % 2
  let pa := p / 2 ^ 16
  if dies.isEmpty ∨ p / 2 ^ 11 % 32 ≠ 0 ∨ pa % 256 ≠ 0 ∨ lpddrBytes ≤ pa then ((1, 0x8001), s)
  else if dies.any (fun d => s.loadedOn d ctx) then ((1, 0x8002), s)
  else
    let raw := s.homeNat (homeKey ddie pa) 256
    match descFault raw with
    | some off => ((1, off), s)
    | none =>
      let n := ctxOf raw ddie pa
      if dies.any (fun d => n.disp.getLsbD d && (s.disp d).granted.isSome) then ((1, 0x8003), s)
      else
        let first := decide ((s.ctx ctx).dies = 0#2)
        let c := if first then { n with disp := 0, seen := s.descWords n } else s.ctx ctx
        let s := if first then (s.zeroWindow 0 n).zeroWindow 1 n else s
        let s := { s with ctxs := tset s.ctxs ctx (dies.foldl (fun c d => c.withDie n d) c) }
        ((0, 0), dies.foldl (fun s d => s.loadDie ctx d) s)

/-- The count of a pointstamp with every delta on its way to a die's Keeper (R329 to R331). -/
def State.netCount (s : State) (die ctx node : Nat) (st : DWord) : Int :=
  let ds := (s.die die).batches.flatMap (·.2) ++ (coresOf die).flatMap (fun c => (s.core c).deltas)
  countIn (s.die die).keeper ctx node st + ((ds.filter (fun d => d.is ctx node st)).map (·.d)).sum

/-- Work of a context that waits in a queue entry. -/
def Work.ctx : Work → Nat
  | .task t => t.ctx
  | .cast b => b.ctx
  | .probe p => p.ctx
  | .restore rs => (rs.map (·.shape.ctx)).headD 0

/-- A context holds on a die a team, a queue entry, a pending grid or a pointstamp of nonzero count (R432). -/
def State.inUse (s : State) (die ctx : Nat) : Bool :=
  let d := s.die die
  let entry := fun (q : List QEntry) => q.any (fun e => decide (e.work.ctx = ctx))
  s.teams.any (fun e => decide (e.2.ctx = ctx) && decide (dieOf e.2.core = die) && !(e.2.ended && e.2.groups.isEmpty))
    || d.leaving.any (fun r => decide (r.shape.ctx = ctx)) || entry d.queue || entry d.restores
    || d.fired.any (fun a => decide (a.task.ctx = ctx)) || d.launches.any (fun q => decide (q.ctx = ctx))
    || d.disp.recons.any (fun t => decide (t.ctx = ctx))
    || d.disp.bands.any (fun b => b.2.waiting.any (fun p => decide (p.ctx = ctx)))
    || (coresOf die).any (fun c => entry (s.core c).queue || (s.core c).bins.any (fun b => decide (b.ctx = ctx))
      || ((s.core c).answer.bind id).any (fun e => decide (e.work.ctx = ctx)))
    || s.grids.any (fun e => decide (e.2.ctx = ctx) && decide (e.2.die = die) && e.2.pending)
    || d.keeper.any (fun e => decide (e.ctx = ctx) && decide (s.netCount die ctx e.node e.stamp ≠ 0))

/-- Take a context off one die: its display right is withdrawn (R366). A die that stays loaded takes up the queues that it now
serves (R353, log entry 70). -/
def State.unloadDie (s : State) (ctx die : Nat) : State :=
  let s := s.drainAll.forgetCtx die ctx
  let s := if (s.disp die).granted = some ctx then s.withdrawDisplay die else s
  let c := s.ctx ctx
  let c := { c with dies := c.dies &&& ~~~(1#2 <<< die), disp := c.disp &&& ~~~(1#2 <<< die) }
  if c.dies = 0#2 then { s with ctxs := tdel s.ctxs ctx }
  else { s with ctxs := tset s.ctxs ctx c }.readQueues (1 - die) ctx

/-- UNLOAD_CTX on its payload (R402, R432). The DETAIL of its refusal is not stated: a free value (log entry 15). -/
def State.unloadCtx (s : State) (p : Nat) : Reply × State :=
  let ctx := p % 256
  let dies := [0, 1].filter (fun d => decide (p / 2 ^ (8 + d) % 2 = 1) && s.loadedOn d ctx)
  let s := dies.foldl (fun s d => (coresOf d).foldl (fun s c => s.castOff c 1 (fun b => decide (b.ctx = ctx))) s) s
  if dies.any (fun d => s.inUse d ctx) then
    let f := s.takeFree
    ((1, f.1 % 2 ^ 16), f.2)
  else ((0, 0), dies.foldl (fun s d => s.unloadDie ctx d) s)

end Sys2Proof.Machine
end

