-- ==== Sys2Proof/Machine/System.lean ====
section
/-! DEFINITION. Machine/System.lean: the privileged instructions: system registers, save slots, translation
invalidation, preemption and HALT (R168 to R173). -/
namespace Sys2Proof.Machine

/-! ### System registers (R168, R169) -/

/-- Low or high half of a 64-bit register. -/
def halfOf (v : DWord) (hi : Bool) : Word := if hi then v.extractLsb' 32 32 else v.extractLsb' 0 32

/-- A 64-bit register with one half replaced. -/
def withHalf (v : DWord) (hi : Bool) (x : Word) : DWord :=
  if hi then x ++ v.extractLsb' 0 32 else v.extractLsb' 32 32 ++ x

/-- The value SYSRD reads: of a Context register, the one that the core sees (R168, R169, log entry 49). -/
def readSys (s : State) (g : Group) (code : Nat) : Word :=
  let v := s.sysView g.core g.ctx
  match code with
  | 0x00 => BitVec.ofNat 32 (g.tcause + 256 * g.tkind)
  | 0x01 => g.tmask
  | 0x02 => halfOf g.taddr false
  | 0x03 => halfOf g.taddr true
  | 0x04 => halfOf g.tdetail false
  | 0x05 => halfOf g.tdetail true
  | 0x06 => BitVec.ofNat 32 (g.ctx + if v.sysr then 256 else 0)
  | 0x08 => halfOf v.trapBase false
  | 0x09 => halfOf v.trapBase true
  | 0x0A => halfOf v.saveArea false
  | 0x0B => halfOf v.saveArea true
  | 0x0C => halfOf v.root false
  | 0x0D => halfOf v.root true
  | 0x0E => halfOf v.towpath false
  | 0x0F => halfOf v.towpath true
  | 0x10 => vecGet g.scr 0 0
  | 0x11 => vecGet g.scr 1 0
  | 0x12 => vecGet g.scr 2 0
  | 0x13 => vecGet g.scr 3 0
  | _ => 0

/-- A code that R168 does not reserve. -/
def sysCodeOk (code : Nat) : Bool := decide (code < 0x14) && decide (code ≠ 7)

/-- SYSRD (R169). -/
def execSysrd (d : BitVec 6) (c : BitVec 18) (s : State) : Res :=
  finish (s.privWord (sysCodeOk c.toNat)
    (fun s => (s.updCur (fun g => g.setS d.toNat (readSys s g c.toNat))).nextWord))

/-- Bits that a register half marks zero (R168). -/
def sysZero (code : Nat) : Word :=
  match code with
  | 0x08 => 0xFFF#32
  | 0x0A => 0x3F#32
  | 0x0C => 0x7FFF#32
  | 0x0D => 0xFFFF0000#32
  | 0x0E => 0xFE0#32
  | _ => 0xFFF00000#32

/-- May the value be written to the half (R169)? -/
def sysValueOk (code : Nat) (v : Word) : Bool :=
  decide (v &&& sysZero code = 0#32)
    && (decide (code ≠ 0x0E) || (decide (8 ≤ v.toNat % 32) && decide (v.toNat % 32 ≤ 20)))

/-- Offset of a Context register in the descriptor (R430). -/
def sysOffset (code die : Nat) : Nat :=
  match code / 2 with
  | 4 => 0x18
  | 5 => 0x20
  | 6 => if die = 0 then 0x08 else 0x10
  | _ => 0x28

/-- Write half of a Context register: the context's copy and its descriptor (R169, R430). -/
def State.writeSys (s : State) (ctx die code : Nat) (v : Word) : State :=
  let hi := decide (code % 2 = 1)
  let c := s.ctx ctx
  let s := s.updCtx ctx (fun c =>
    match code / 2 with
    | 4 => { c with trapBase := withHalf c.trapBase hi v }
    | 5 => { c with saveArea := withHalf c.saveArea hi v }
    | 6 => if die = 0 then { c with root0 := withHalf c.root0 hi v } else { c with root1 := withHalf c.root1 hi v }
    | _ => { c with towpath := withHalf c.towpath hi v })
  s.putHomeNat (homeKey c.descDie (c.descPa + sysOffset code die + if hi then 4 else 0)) 4 v.toNat

/-- SYSWR (R169): RO registers trap ILLEGAL, SYSR registers need system rights, and bits marked zero trap ILLEGAL. -/
def execSyswr (a : BitVec 6) (c : BitVec 18) (s : State) : Res :=
  let code := c.toNat
  finish (s.privWord (sysCodeOk code && decide (8 ≤ code)) (fun s =>
    let g := s.cg
    let v := g.sreg a.toNat
    if 0x10 ≤ code then (s.updCur (fun g => { g with scr := vecSet g.scr (code - 0x10) v })).nextWord
    else if !s.sysr then s.privTrap
    else if !sysValueOk code v then s.illegal
    else (s.writeSys g.ctx (dieOf g.core) code v).nextWord))

/-! ### Save slots (R170) -/

/-- The four words of a lane's save slot. -/
def Lane.slotWords (l : Lane) : Nat :=
  let mr := (l.saveMr.getD 0).toNat
  l.savePc.toNat + 2 ^ 52 * l.saveCsp.toNat + 2 ^ 58 * l.saveRwi.toNat + 2 ^ 64 * mr
    + if l.saveMr.isNone then 2 ^ 127 else 0

/-- LANEST (R170). -/
def execLanest (v : BitVec 8) (s : State) : Res :=
  finish (s.privWord (dstOk s.cg.n v.toNat 4) (fun s =>
    (s.updCur (fun g => (lanesOf s.cw.en).foldl (fun g l => g.setVs v.toNat l 4 (g.lane l).slotWords) g)).nextWord))

/-- The check of LANELD on the four words of a lane (R170). -/
def slotWordsOk (x callLimit : Nat) : Bool :=
  decide (x % 8 = 0) && decide (x / 2 ^ 62 % 4 = 0) && decide (x / 2 ^ 64 % 8 = 0) && decide (x / 2 ^ 116 % 2 ^ 11 = 0)
    && (decide (x / 2 ^ 127 = 0) || decide (x / 2 ^ 64 % 2 ^ 52 = 0)) && decide (x / 2 ^ 52 % 64 ≤ callLimit)

/-- The save slot that four words describe. -/
def Lane.loadSlot (l : Lane) (x : Nat) : Lane :=
  { l with savePc := BitVec.ofNat 52 x, saveCsp := BitVec.ofNat 6 (x / 2 ^ 52), saveRwi := BitVec.ofNat 4 (x / 2 ^ 58)
           saveMr := if x / 2 ^ 127 = 1 then none else some (BitVec.ofNat 52 (x / 2 ^ 64)) }

/-- LANELD (R170): every enabled lane is checked before any lane is written. -/
def execLaneld (v : BitVec 8) (s : State) : Res :=
  finish (s.privWord (dstOk s.cg.n v.toNat 4) (fun s =>
    let g := s.cg
    let ls := lanesOf s.cw.en
    if !ls.all (fun l => slotWordsOk (g.srcs v.toNat l 4) g.callLimit) then s.illegal
    else (s.updCur (fun g =>
      ls.foldl (fun g l => g.setLane l ((g.lane l).loadSlot (g.srcs v.toNat l 4))) g)).nextWord))

/-! ### TLBINV (R171) -/

/-- Cores that a scope code of TLBINV reaches: 1 core, 3 die, 4 module. -/
def scopeCores (core scope : Nat) : List Nat :=
  match scope with
  | 1 => [core]
  | 3 => coresOf (dieOf core)
  | _ => allCores

/-- Is a 64 KiB page, or any page of a 256 MiB run, among `count` pages from `first`? -/
def pagesHit (vpn : Nat) (big : Bool) (first count : Nat) : Bool :=
  decide ((vpn + 2 ^ 36 - first) % 2 ^ 36 < count)
    || (big && decide (count ≠ 0) && decide ((first + 2 ^ 36 - vpn) % 2 ^ 36 < 4096))

/-- What a TLBINV removes: kind, context, first page, count. -/
structure Inval where
  kind : Nat := 0
  ctx : Nat := 0
  first : Nat := 0
  count : Nat := 0
  deriving DecidableEq, Repr

/-- Does an invalidation cover a context? -/
def Inval.covers (v : Inval) (ctx : Nat) : Bool := decide (v.kind = 2) || decide (v.ctx = ctx)

/-- Does an invalidation name a held translation? -/
def Inval.tlb (v : Inval) (t : TlbEntry) : Bool :=
  v.covers t.ctx && (decide (v.kind ≠ 0) || pagesHit t.vpn t.big v.first v.count)

/-- Does an invalidation name a held table node? A node of level 1 covers 2²⁴ pages and one of level 2 covers 2¹². -/
def Inval.node (v : Inval) (w : WalkEntry) : Bool :=
  let size := if w.level = 1 then 2 ^ 24 else 2 ^ 12
  v.covers w.ctx && (decide (v.kind ≠ 0)
    || (decide (v.count ≠ 0) && (decide ((w.index * size + 2 ^ 36 - v.first) % 2 ^ 36 < v.count)
      || decide ((v.first + 2 ^ 36 - w.index * size) % 2 ^ 36 < size))))

/-- Remove what the invalidation names on the cores in scope, and let walks of the covered contexts use the new root
(R169, R171). -/
def State.invalidateAll (s : State) (v : Inval) (cores : List Nat) : State :=
  let s := cores.foldl (fun s c => s.dropTlb c v.tlb) s
  let dies := (cores.map dieOf).dedup
  let s := dies.foldl (fun s d => s.updDie d (fun x => { x with walks := x.walks.filter (fun w => !v.node w) })) s
  if v.kind = 0 then s
  else
    let setRoot := fun (c : Ctx) =>
      { c with walkRoot0 := if 0 ∈ dies then c.root0 else c.walkRoot0
               walkRoot1 := if 1 ∈ dies then c.root1 else c.walkRoot1 }
    { s with ctxs := s.ctxs.map (fun e => if v.covers e.1 then (e.1, setRoot e.2) else e) }

/-- The invalidation that an operation of TLBINV holds. -/
def POp.inval (o : POp) : Inval :=
  { kind := o.args.getD 0 0, ctx := o.args.getD 1 0, first := o.args.getD 2 0, count := o.args.getD 3 0 }

/-- TLBINV (R171): the wave issues nothing further until it has completed. Of the VA pair bits [51:16] name the first page,
and the run of pages wraps at the top of the 52-bit space (log entry 59). -/
def execTlbinv (a b : BitVec 6) (c : BitVec 3) (k : BitVec 2) (s : State) : Res :=
  let pageOk := if k = 0 then sspanOk a.toNat 2 else decide (a = 0) && decide (b = 0)
  let scopeOk := decide (c = 1) || decide (c = 3) || decide (c = 4)
  finish (s.privWord (pageOk && scopeOk && decide (k ≠ 3)) (fun s =>
    let g := s.cg
    if k = 2 && !s.sysr then s.privTrap
    else
      let first := if k = 0 then (g.spair a.toNat).toNat / 2 ^ 16 % 2 ^ 36 else 0
      let count := if k = 0 then (g.sreg b.toNat).toNat else 0
      let op := s.nextOp
      let s := s.issueOp { instr := .tlbinv a b c k, args := [k.toNat, g.ctx, first, count, c.toNat] }
      s.nextWord.updWave (fun w => { w with phase := .fencedTlb op })))

/-- Does an invalidation remove the translation of a VA: its page is named, or lies with a named page in one 256 MiB entry that
the core holds (R171)? -/
def State.usesPage (s : State) (v : Inval) (ctx core va : Nat) : Bool :=
  pagesHit (va / 2 ^ 16) false v.first v.count
    || ((s.core core).tlb ++ (s.core core).stlb).any (fun t => t.hits (dieOf core) ctx (vaWrap va) && v.tlb t)

/-- Has an access in flight used a translation that the invalidation removes, whenever it issued? -/
def State.usesRemoved (s : State) (v : Inval) (ctx core : Nat) (o : POp) : Bool :=
  v.covers ctx && o.pas.any (fun e => decide (e.2 < 2 ^ 15 * 2 ^ 48))
    && (decide (v.kind ≠ 0) || o.vas.isEmpty
      || o.vas.any (fun e => s.usesPage v ctx core e.2 || s.usesPage v ctx core (e.2 + o.size - 1)))

/-- The groups of cores in scope predict no translation any more (R171, R410). -/
def State.dropPreds (s : State) (v : Inval) (cores : List Nat) : State :=
  { s with groups := s.groups.map (fun e =>
      if decide (e.2.core ∈ cores) && v.covers e.2.ctx then (e.1, { e.2 with preds := [] }) else e) }

/-- The contexts that an invalidation covers take up the roots that memory holds in their descriptors (R169). -/
def State.refreshCovered (s : State) (v : Inval) : State :=
  (s.ctxs.filter (fun e => v.covers e.1)).foldl (fun s e => s.refreshCtx e.1) s

/-- TLBINV_COMPLETE (R171): every access that used a removed translation has performed, also one that issued after the
TLBINV; the removal takes effect on every core in scope, and the wave issues on. -/
def execTlbinvComplete (gid op : Nat) (s : State) : Res :=
  let g := s.group gid
  match g.op? op with
  | none => .next s
  | some o =>
    match o.instr with
    | .tlbinv _ _ _ _ =>
      let cores := scopeCores g.core (o.args.getD 4 0)
      if s.groups.any (fun e => decide (e.2.core ∈ cores) && e.2.ops.any (fun x => s.usesRemoved o.inval e.2.ctx e.2.core x)) then
        .next s
      else
        let s := (s.drainAll.refreshCovered o.inval).dropPreds o.inval cores
        let s := (cores.foldl State.abortGate (s.invalidateAll o.inval cores)).opDone gid o
        .next (s.updGroup gid (fun g =>
          match (g.wave o.wid).phase with
          | .fencedTlb x =>
            if x = op then g.setWave o.wid { g.wave o.wid with phase := .body, readyAt := (s.core g.core).cycles } else g
          | _ => g))
    | _ => .next s

/-! ### PREEMPT and HALT (R172, R173) -/

/-- Post a preemption to the dies of the cores it reaches. -/
def State.postPreempt (s : State) (r : PreemptReq) : State :=
  let s := if r.cores.any (fun c => decide (dieOf c = 0)) then
    s.updDie 0 (fun d => { d with preempts := d.preempts ++ [{ r with cores := r.cores.filter (fun c => decide (dieOf c = 0)) }] })
    else s
  if r.cores.any (fun c => decide (dieOf c = 1)) then
    s.updDie 1 (fun d => { d with preempts := d.preempts ++ [{ r with cores := r.cores.filter (fun c => decide (dieOf c = 1)) }] })
  else s

/-- The preemption that a target word and a reach name (R172). -/
def preemptReq (target : Word) (reach issuer : Nat) : PreemptReq :=
  let core := (target.extractLsb' 16 5).toNat
  { ctx := (target.extractLsb' 0 8).toNat, bound := min 128 (target.extractLsb' 8 8).toNat
    detail := BitVec.ofNat 64 issuer
    cores := match reach with | 0 => [core] | 1 => coresOf (dieOf core) | _ => allCores }

/-- PREEMPT (R172): posted, the wave goes on at once. -/
def execPreempt (a : BitVec 6) (r : BitVec 2) (s : State) : Res :=
  finish (s.privWord (decide (r ≠ 3)) (fun s =>
    let g := s.cg
    let q := preemptReq (g.sreg a.toNat) r.toNat g.ctx
    if q.ctx ≠ g.ctx ∧ !s.sysr then s.privTrap
    else (s.postPreempt q).nextWord))

/-- HALT (R173). -/
def execHalt (e : BitVec 8) (s : State) : Res :=
  finish (s.privWord true (fun s => s.haltGroup s.curGroup e.toNat s.cw.addr))

end Sys2Proof.Machine
end

