-- ==== Sys2Proof/Machine/HostPort.lean ====
section
/-! DEFINITION. Machine/HostPort.lean: what the host does through CXL: its accesses to module memory, BAR0 with the
capability table and the mailbox, and the commands of R451 (R442 to R451, R458). -/
namespace Sys2Proof.Machine

/-! ### BAR0: the capability table and the mailbox (R443, R451, R458) -/

/-- State the host side. -/
def State.updHost (s : State) (f : HostSide → HostSide) : State := { s with host := f s.host }

/-- Firmware changes the dynamic region: GEN rises before, and is odd until firmware has ended the update (R458). -/
def State.updTable (s : State) (f : HostSide → HostSide) : State :=
  s.updHost (fun h => { f h with gen := (h.gen + 1 - h.gen % 2) % 2 ^ 32 })

/-- Firmware has ended an update of the dynamic region: GEN rises again (R458). -/
def State.tableDone (s : State) : State := s.updHost (fun h => { h with gen := (h.gen + h.gen % 2) % 2 ^ 32 })

/-- A word of the static region and of the region fixed per module: the values of R458; serial number, key hash,
identity key and signature are those of this module (log entry 2). -/
def tableStatic (off : Nat) : Nat :=
  match off with
  | 0x000 => 0x46415634
  | 0x004 => 1 + 2 ^ 16
  | 0x008 => 0x3F
  | 0x010 => 2 + 2 ^ 8 * 16 + 2 ^ 16 * 96
  | 0x014 => 4 + 2 ^ 16 * 64
  | 0x018 => 2048
  | 0x01C => 8192
  | 0x020 => 98304
  | 0x024 => 524288
  | 0x028 => 0x40000000
  | 0x02C => 0xB
  | 0x030 => 6144 + 2 ^ 16 * 6144
  | 0x034 => 120 + 2 ^ 8 * 10 + 2 ^ 16 * 2
  | 0x038 => 95 + 2 ^ 16 * 300
  | _ =>
    if (0x40 ≤ off ∧ off < 0x68) ∨ (0x100 ≤ off ∧ off < 0x13C) ∨ (0x140 ≤ off ∧ off < 0x830) then
      Config.identity off % 2 ^ 32
    else 0

/-- A word of the dynamic region (R458). -/
def HostSide.tableDynamic (h : HostSide) (off : Nat) : Nat :=
  let one := fun (b : Bool) => if b then 1 else 0
  match off with
  | 0x900 => h.fwLevel + 2 ^ 16 * one h.fwRun + 2 ^ 17 * one (h.service = .verifying) + 2 ^ 18 * one (decide (h.service = .reduced) || decide (h.service = .reset))
      + 2 ^ 24 * h.fwFail
  | 0x904 => h.svn + 2 ^ 8 * h.fused
  | 0x908 => h.envelope
  | 0x90C => h.clk0 % 2 ^ 16 + 2 ^ 16 * (h.clk1 % 2 ^ 16)
  | 0x910 => h.preemptAt
  | 0x9F8 => h.gen
  | _ => tableStatic off

/-- What a host read of an aligned word of BAR0 returns (R443, R451, R458). -/
def State.barRead (s : State) (off : Nat) : Word :=
  let h := s.host
  BitVec.ofNat 32 (
    if off < 0x1000 then h.tableDynamic off
    else if off = 0x1000 then (if h.go then 1 else 0)
    else if off = 0x1004 then h.cmd
    else if off = 0x1008 then h.result + 2 ^ 16 * h.detail
    else if 0x1800 ≤ off ∧ off < 0x2000 then leNat (bytesAt h.payload (off - 0x1800) 4)
    else 0)

/-- MAILBOX_REGISTER_WRITE (R443, R451): a word written to BAR0. While GO is 1, writes of CMD, PAYLOAD and a 1 to GO are
discarded; a register that is RO, and the rest of BAR0, discard every write. Nothing of the module is on the link in
Reset (R452). -/
def execMailboxRegisterWrite (off : Nat) (value : BitVec 32) (s : State) : Res :=
  let h := s.host
  if h.service = .reset ∨ h.go then .next s
  else if off = 0x1000 then .next (s.updHost (fun h => { h with go := value.getLsbD 0 }))
  else if off = 0x1004 then .next (s.updHost (fun h => { h with cmd := value.toNat % 2 ^ 16 }))
  else if 0x1800 ≤ off ∧ off < 0x2000 ∧ off % 4 = 0 then
    .next (s.updHost (fun h => { h with payload := putBytes h.payload (off - 0x1800) (natLe 4 value.toNat) }))
  else .next s

/-- Payload bytes `i` to `i + n - 1` as a number. -/
def State.arg (s : State) (i n : Nat) : Nat := leNat (bytesAt s.host.payload i n)

/-- A command ends: RESULT and DETAIL are written and GO is cleared (R451). -/
def State.reply (s : State) (r : Reply) : State := s.updHost (fun h => { h with go := false, result := r.1, detail := r.2 })

/-- Put result bytes into the payload. -/
def State.putPayload (s : State) (i : Nat) (bs : List Byte) : State :=
  s.updHost (fun h => { h with payload := putBytes h.payload i bs })

/-- Is a command available in a state of R452? -/
def Service.allows (avail : List Service) (x : Service) : Bool := avail.contains x

/-- A mailbox command: the host has set GO with its code in CMD. Where it is not available it ends with RESULT 2 and no
effect (R451); `k` gives its effect with RESULT and DETAIL. -/
def State.command (s : State) (code : Nat) (avail : List Service) (k : State → Reply × State) : State :=
  if !s.host.go || decide (s.host.cmd ≠ code) then s
  else if !avail.contains s.host.service then s.reply (2, 0)
  else
    let r := k s
    r.2.reply r.1

/-- The codes of R451, R454 and R466. -/
def commandCodes : List Nat :=
  [0x01, 0x02, 0x03, 0x04, 0x05, 0x10, 0x11, 0x12, 0x13, 0x14, 0x15, 0x16, 0x20, 0x21]

/-- LOAD_CTX (R430, R451). -/
def execLoadCtx (s : State) : Res := finish (s.command 0x01 [.full] (fun s => s.loadCtx (s.arg 0 8)))
/-- UNLOAD_CTX (R402, R432, R451). -/
def execUnloadCtx (s : State) : Res := finish (s.command 0x02 [.full] (fun s => s.unloadCtx (s.arg 0 2)))

/-- PREEMPT by the host (R172, R433, R451): SYS_TDETAIL [7:0] is 0xFF. -/
def execPreemptCmd (s : State) : Res :=
  finish (s.command 0x03 [.full] (fun s =>
    if 3 ≤ s.arg 4 1 then ((1, 4), s)
    else ((0, 0), s.postPreempt (preemptReq (BitVec.ofNat 32 (s.arg 0 4)) (s.arg 4 1) 0xFF))))

/-- A refusal whose DETAIL the manual does not state: a free value (log entry 15). -/
def State.refuseOpen (s : State) : Reply × State :=
  let f := s.takeFree
  ((1, f.1 % 2 ^ 16), f.2)

/-- SET_INDEX (R444, R451). -/
def execSetIndex (s : State) : Res :=
  finish (s.command 0x04 [.reduced, .full] (fun s =>
    if !s.ctxs.isEmpty then s.refuseOpen
    else ((0, 0), { s with modIndex := s.arg 0 1 % 4 }.updHost (fun h => { h with port := some (s.arg 1 1) }))))

/-- SET_PEER (R444, R451). -/
def execSetPeer (s : State) : Res :=
  finish (s.command 0x05 [.reduced, .full] (fun s =>
    let m := s.arg 0 1 % 4
    if !s.ctxs.isEmpty || decide (m = s.modIndex) then s.refuseOpen
    else
      let f := fun (h : HostSide) =>
        { h with peers := if s.arg 2 1 % 2 = 1 then tset h.peers m (s.arg 1 1) else tdel h.peers m }
      ((0, 0), s.updHost f)))

/-- UNKNOWN_COMMAND (R451): RESULT 3. -/
def execUnknownCommand (s : State) : Res :=
  if s.host.go && !commandCodes.contains s.host.cmd then .next (s.reply (3, 0)) else .next s

/-! ### Host accesses to module memory (R443 to R447) -/

/-- HDM_DECODER_PROGRAM (R443, R444): the host gives one of the two decoders its base, through CXL.io. -/
def execHdmDecoderProgram (decoder base : Nat) (s : State) : Res :=
  if decoder < 2 ∧ s.host.service ≠ .reset then
    .next (s.updHost (fun h => { h with decoders := tset h.decoders decoder base }))
  else .next s

/-- The device PA of a host address inside the decoder of a die: what lies above the decoder's base (R443); none for an
address outside the decoder, or before the host has programmed it (R444). -/
def State.devicePa (s : State) (die addr : Nat) : Option Nat :=
  match tget? s.host.decoders die with
  | some base => if base ≤ addr ∧ addr - base < lpddrBytes then some (addr - base) else none
  | none => none

/-- Where an access of the host to `n` bytes at a host address lands: the key of the first, homed on the decoder's die, while
the link is up and the bytes lie inside the decoder (R443, R444). -/
def State.hostKey (s : State) (die addr n : Nat) : Option Nat :=
  match s.devicePa die addr with
  | some pa => if s.host.service ≠ .reset ∧ die < 2 ∧ pa + n ≤ lpddrBytes then some (homeKey die pa) else none
  | none => none

/-- HOST_MEM_READ (R443, R445, R452, R464): a host address inside the decoder of a die; performed at the home slice; before
Full, and from a poisoned atom, it returns poisoned data. -/
def execHostMemRead (die addr len : Nat) (s : State) : Res :=
  match s.hostKey die addr len with
  | none => .next s
  | some key =>
  if s.host.service ≠ .full then .next (s.updHost (fun h => { h with readData := [], readPoison := true }))
  else .next (s.updHost (fun h => { h with readData := s.homeBytes key len, readPoison := s.poisoned key len }))

/-- Does a sealed range of a context, through a die's page table, hold one of `n` bytes at a key (R197, R447)? -/
def State.sealHits (s : State) (die ctx key n : Nat) (r : Nat × Nat) : Bool :=
  let first := r.1 / 2 ^ 16
  (List.range ((r.1 + r.2 - 1) / 2 ^ 16 - first + 1)).any (fun i =>
    let page := (first + i) * 2 ^ 16
    let lo := max r.1 page
    let hi := min (r.1 + r.2) (page + 2 ^ 16)
    match classify (s.walk die ctx lo).1 .read false lo with
    | .ok k => decide (k < key + n) && decide (key < k + (hi - lo))
    | _ => false)

/-- The sealed ranges, with their contexts, that `n` bytes at a key lie in. -/
def State.sealedAt (s : State) (key n : Nat) : List (Nat × (Nat × Nat)) :=
  s.ctxs.flatMap (fun e => (e.2.seals.filter (fun r =>
    decide (0 < r.2) && [0, 1].any (fun d => e.2.dies.getLsbD d && s.sealHits d e.1 key n r))).map (fun r => (e.1, r)))

/-- The scheduler of a die wakes for queues whose tail line has been taken from it: one of the `n` bytes at a key (R355, R450). -/
def State.wakeTail (s : State) (die key n : Nat) : State :=
  let wake := fun (e : Nat × HostQueue) =>
    match classify (s.walk die (e.1 / 16) e.2.tailVa).1 .read false e.2.tailVa with
    | .ok k => if key / 64 ≤ k / 64 ∧ k / 64 ≤ (key + n - 1) / 64 then (e.1, { e.2 with woken := true }) else e
    | _ => e
  s.updDie die (fun d => { d with hostQueues := d.hostQueues.map wake })

/-- The same on both dies. -/
def State.wakeTails (s : State) (key n : Nat) : State := (s.wakeTail 0 key n).wakeTail 1 key n

/-- HOST_MEM_WRITE (R285, R445, R447, R450): performed at the home slice; the write of a tail line wakes the scheduler, and a
write to a sealed range is performed and recorded; before Full it is discarded (R452). -/
def execHostMemWrite (die addr : Nat) (bytes : List Byte) (s : State) : Res :=
  match s.hostKey die addr bytes.length with
  | none => .next s
  | some key =>
  if s.host.service ≠ .full ∨ bytes = [] then .next s
  else
    let hits := s.sealedAt key bytes.length
    let s := (s.putHome key bytes).wakeTails key bytes.length
    finish (hits.foldl (fun s e => s.errorRecord die 7 0xFF e.1 false e.2.1 e.2.2) s)

/-- HOST_SNOOP (R354, R448, R450): the host takes a line of 64 bytes of its own memory away from a die's L2, which gives
back what it changed there; a tail line lost so wakes the scheduler. -/
def execHostSnoop (die line : Nat) (s : State) : Res :=
  let key := homeKey 0x80 (line * 64)
  .next ((s.writeBack key 64).wakeTail die key 64)

/-- The host writes bytes of its own memory (R448, R450): it takes the lines from the module's L2, which give back what was changed
in them, and the write of a tail line wakes the scheduler. -/
def State.hostWrites (s : State) (addr : Nat) (bytes : List Byte) : State :=
  let key := homeKey 0x80 addr
  let s := (s.writeBack key bytes.length).wakeTails key bytes.length
  { s with mem := putBytes s.mem key bytes, poison := clearPoison s.poison key bytes.length }

end Sys2Proof.Machine
end

