-- ==== Sys2Proof/Machine/Bringup.lean ====
section
/-! DEFINITION. Machine/Bringup.lean: power-up, the firmware image, start-up, reset, and the mailbox commands for them
(R452 to R458, R466, R468). -/
namespace Sys2Proof.Machine

/-! ### Reset (R452, R455) -/

/-- The module enters Reset. The fused counter and the repair log are kept, with what lies outside the module: host and
peer memory, the sensors' readings, and the run's own agenda and free values (log entries 1, 3, 4). -/
def State.toReset (s : State) (powered hot : Bool) : State :=
  { State.reset with
    ns := s.ns
    mem := s.mem.filter (fun e => outsideHome e.1)
    dies := s.dies.map (fun e => (e.1, { ({} : Die) with sensors := e.2.sensors }))
    host := { powered := powered, hot := hot, fused := s.host.fused, repairLog := s.host.repairLog, rowDays := s.host.rowDays }
    agenda := s.agenda, free := s.free }

/-- POWER_GOOD (R452): the management controller runs the boot ROM; the module stands in Reset. -/
def execPowerGood (s : State) : Res :=
  if s.host.powered then .next s else .next (s.toReset true false)
/-- POWER_LOSS (R452). -/
def execPowerLoss (s : State) : Res := .next (s.toReset false false)

/-- Every sensor of the module reads below 97 °C (R469). -/
def State.cool (s : State) : Bool := s.dies.all (fun e => e.2.sensors.all (fun t => decide (t < 194)))

/-- CXL_LINK_UP (R452, R469): the link trains; after a thermal shutdown only once every sensor reads below 97 °C. -/
def execCxlLinkUp (s : State) : Res :=
  if s.host.service ≠ .reset ∨ !s.host.powered || (s.host.hot && !s.cool) then .next s
  else .next (s.updHost (fun h => { h with service := .reduced, hot := false }))

/-- LINK_RESET (R455): a hot reset or loss of the link takes the module to Reset. -/
def execLinkReset (s : State) : Res :=
  if s.host.service = .reset then .next s else .next (s.toReset s.host.powered s.host.hot)

/-- MODULE_RESET (R455): RESULT 0 and GO clear first; Reset follows within 1 ms. -/
def execModuleReset (s : State) : Res :=
  .next (s.command 0x16 [.reduced, .verifying, .full] (fun s =>
    ((0, 0), s.updHost (fun h => { h with resetBy := some (s.ns + 1000000) }))))
/-- ENTER_RESET (R455). -/
def execEnterReset (s : State) : Res :=
  if s.host.resetBy.isSome then .next (s.toReset s.host.powered s.host.hot) else .next s

/-! ### The firmware image (R454, R457) -/

/-- Bytes of a firmware image at most. -/
def imageMax : Nat := 2 ^ 24

/-- FW_WRITE (R454). -/
def execFwWrite (s : State) : Res :=
  .next (s.command 0x10 [.reduced] (fun s =>
    let off := s.arg 0 4
    let len := s.arg 4 2
    if len % 4 ≠ 0 ∨ len < 4 ∨ 2016 < len ∨ s.arg 6 26 ≠ 0 then ((1, 0), s)
    else if off ≠ 0 ∧ off ≠ s.host.image.length then ((1, 0), s)
    else if imageMax < off + len then ((1, 4), s)
    else
      let old := if off = 0 then [] else s.host.image
      ((0, 0), s.updHost (fun h => { h with image := old ++ bytesAt h.payload 32 len }))))

/-- Bytes `i` to `i + n - 1` of an image. -/
def imageBytes (img : List Byte) (i n : Nat) : List Byte := (img.drop i).take n

/-- KEYHASH, the fused hash of the firmware's public key (R457, R458; log entry 2). -/
def keyHash : List Byte := (List.range 8).flatMap (fun i => natLe 4 (tableStatic (0x48 + 4 * i)))

/-- The checks of R457 in order: the code of the first that fails, 0 when all pass. A BODYLEN outside its limits fails
check 2 and an SVN above 64 check 5 (log entry 67). -/
def imageFault (img : List Byte) (fused : Nat) : Nat :=
  let f := fun (i n : Nat) => leNat (imageBytes img i n)
  if f 0 4 ≠ 0x52554F4E ∨ f 4 4 ≠ 1 ∨ f 76 4 ≠ 0 ∨ f 1856 192 ≠ 0 then 1
  else if img.length ≠ 2048 + f 12 4 ∨ f 12 4 = 0 ∨ imageMax - 2048 < f 12 4 ∨ f 12 4 % 4 ≠ 0 then 2
  else if sha256 (imageBytes img 16 60) ≠ keyHash then 3
  else if !hssVerifies (imageBytes img 16 60) (imageBytes img 80 1776) (imageBytes img 0 80 ++ img.drop 2048) then 4
  else if f 8 4 < fused ∨ 64 < f 8 4 then 5
  else 0

/-- Back to Reduced with the cause in FWFAIL (R452, R457, R468). -/
def State.startFailed (s : State) (code : Nat) : State :=
  s.updTable (fun h => { h with service := .reduced, verified := false, fwFail := code })

/-- FW_START (R454, R457): accepted; the module is in Verifying. -/
def execFwStart (s : State) : Res :=
  .next (s.command 0x11 [.reduced] (fun s =>
    ((0, 0), s.updTable (fun h => { h with service := .verifying, verified := false }))))

/-- FW_VERIFY_DONE (R457): the checks end. -/
def execFwVerifyDone (s : State) : Res :=
  if s.host.service ≠ .verifying ∨ s.host.verified then .next s
  else
    match imageFault s.host.image s.host.fused with
    | 0 => .next (s.updHost (fun h => { h with verified := true }))
    | c => .next (s.startFailed c)

/-- Seed a list of places with free values that are not zero. -/
def State.seeds (s : State) : List Nat → List (Nat × Nat) × State
  | [] => ([], s)
  | k :: ks =>
    let f := s.takeFree
    let r := f.2.seeds ks
    ((k, f.1) :: r.1, r.2)

/-- Banks of a Wharf (R309). -/
def wharfBanks : Nat := 384

/-- The cores at entry to Full: their steal LFSRs seeded with values that are not zero (R362, R453). -/
def freshCores (seeds : List (Nat × Nat)) : Tab Core :=
  seeds.map (fun e => (e.1, { ({} : Core) with lfsr := BitVec.ofNat 16 (e.2 % (2 ^ 16 - 1) + 1) }))

/-- A die at entry to Full: the generators of its Wharf banks seeded, everything else as at reset but for the display's
link and pattern, the sensors, and the count of records that no ring has taken (R188, R453, R466). -/
def freshDie (d : Die) (now : Nat) (seeds : List (Nat × Nat)) : Die :=
  { ({} : Die) with
    bankGen := seeds.map (fun e => (e.1, BitVec.ofNat 32 (e.2 % (2 ^ 32 - 1) + 1)))
    disp := { linkUp := d.disp.linkUp, sent := d.disp.sent, pattern := d.disp.pattern, patternNext := d.disp.patternNext
              patternAt := d.disp.patternAt - now, patternSweep := d.disp.patternSweep
              patternSince := d.disp.patternSince - now, patternRow := d.disp.patternRow }
    thermal := d.thermal, sensors := d.sensors, errLost := d.errLost }

/-- Core clock of a die at an operating point, in MHz: a higher point has a higher clock (R24, R470). -/
def clockOf (die p : Nat) : Nat := ((List.range (p + 1)).map (fun i => Config.clockStep die i + 1)).sum

/-- A die goes to an operating point, which the table reports (R458, R470). -/
def State.setPoint (s : State) (die p : Nat) : State :=
  (s.updDie die (fun d => { d with point := p })).updTable (fun h =>
    if die = 0 then { h with clk0 := clockOf 0 p } else { h with clk1 := clockOf die p })

/-- Without heat a die's operating point is the one of its envelope, and no chamber rests (R24, R469). -/
def State.envelopePoint (s : State) (die : Nat) : State :=
  (s.updDie die (fun d => { d with chamberLimit := 96 })).setPoint die (Config.pointFor die s.host.envelope)

/-- A new envelope: a hot die takes its point where that is lower than the one it is reduced to, and goes no higher (R24, R25,
R469). -/
def State.selectPoint (s : State) (die : Nat) : State :=
  if (s.die die).thermal = 0 then s.envelopePoint die
  else s.setPoint die (min (s.die die).point (Config.pointFor die s.host.envelope))

/-- Steps 2 to 6 of R453: memory, Wharf, generators, module time, counters, dynamic fields. -/
def State.startUp (s : State) : State :=
  let c := s.seeds allCores
  let b0 := c.2.seeds (List.range wharfBanks)
  let b1 := b0.2.seeds (List.range wharfBanks)
  let img := s.host.image
  let p := fun (d : Nat) => Config.pointFor d s.host.envelope
  { b1.2 with
    ns := 0, cores := freshCores c.1
    dies := [(0, { freshDie (s.die 0) s.ns b0.1 with point := p 0 }), (1, { freshDie (s.die 1) s.ns b1.1 with point := p 1 })]
    mem := s.mem.filter (fun e => outsideHome e.1), l2 := [], l2Tags := [], mq := [], wharf := [], wharfPoison := []
    poison := s.poison.filter (fun e => outsideHome (e.1 * 32)) }.updTable (fun h =>
      { h with
        service := .full, fwLevel := 1, fwRun := true, svn := leNat (imageBytes img 8 4), clk0 := clockOf 0 (p 0)
        clk1 := clockOf 1 (p 1) })

/-- FIRMWARE_STARTUP (R453, R468): firmware has found the rows `failing`, and those of `short` besides that their bank has no spare
for. It replaces the others and each row of the repair log; with any of `short` left start-up stops with FWFAIL 6, and the log keeps
the failing rows. The record of the repair precedes the placement of the ring, and is counted in its OVERFLOW (log entry 16). -/
def execFirmwareStartup (failing short : List Nat) (s : State) : Res :=
  if s.host.service ≠ .verifying ∨ !s.host.verified then .next s
  else
    let rows := (failing ++ s.host.repairLog).dedup.filter (fun r => !short.contains r)
    let left := short.dedup
    let rec_ := fun (s : State) =>
      s.errorRecord 0 9 0xFF 0xFF false 0 (rows.length % 2 ^ 32 + 2 ^ 32 * (left.length % 2 ^ 32))
    if !left.isEmpty then
      .next (((rec_ s).updHost (fun h => { h with repairLog := (h.repairLog ++ failing ++ left).dedup })).startFailed 6)
    else .next ((rec_ s.startUp).updDie 0 (fun d => { d with errSeq := 0 }))

/-- ADVANCE_SVN (R454, R457): burns one fuse toward the SVN of the running image; with the last one, or none to burn,
the command ends and payload byte 0 returns the counter. -/
def execAdvanceSvn (s : State) : Res :=
  let h := s.host
  if h.go && decide (h.cmd = 0x12) && decide (h.service = .full) && decide (h.fused + 1 < h.svn) then
    .next (s.updTable (fun h => { h with fused := h.fused + 1 }))
  else
    .next (s.command 0x12 [.full] (fun s =>
      let n := max s.host.fused s.host.svn
      ((0, 0), (s.updTable (fun h => { h with fused := n })).putPayload 0 (natLe 1 n))))

/-- SET_ENVELOPE (R24, R454): the power in W that the chassis grants, 95 to 300. In Full firmware selects the operating points of
the dies anew. -/
def execSetEnvelope (s : State) : Res :=
  .next (s.command 0x13 [.reduced, .full] (fun s =>
    let w := s.arg 0 2
    if w < 95 ∨ 300 < w then ((1, 0), s)
    else
      let s := s.updTable (fun h => { h with envelope := w })
      ((0, 0), if s.host.service = .full then
          [0, 1].foldl (fun s d => s.selectPoint d) s else s)))

/-! ### Memory test, pattern, error ring, sensors (R454, R456, R466) -/

/-- MEMTEST (R454): the test of the named dies begins; GO stays 1 until it ends. -/
def execMemtest (s : State) : Res :=
  let h := s.host
  if !h.go || decide (h.cmd ≠ 0x14) || h.testing.isSome then .next s
  else if h.service ≠ .reduced then .next (s.reply (2, 0))
  else .next (s.updHost (fun h => { h with testing := some (s.arg 0 1 % 4) }))

/-- The dies that a mask of two bits names. -/
def maskDies (m : Nat) : List Nat := [0, 1].filter (fun d => decide (m / 2 ^ d % 2 = 1))

/-- MEMTEST_COMPLETE (R454): atoms tested, corrected and uncorrectable; the memory of the named dies is zero. -/
def execMemtestComplete (corrected uncorrectable : Nat) (s : State) : Res :=
  match s.host.testing with
  | none => .next s
  | some m =>
    let ds := maskDies m
    let s := { s with
      mem := s.mem.filter (fun e => !ds.contains (e.1 / 2 ^ 48)), l2 := s.l2.filter (fun e => !ds.contains (e.1 / 2 ^ 48))
      l2Tags := s.l2Tags.filter (fun e => !ds.contains (e.1 * 128 / 2 ^ 48))
      poison := s.poison.filter (fun e => !ds.contains (e.1 * 32 / 2 ^ 48)) }
    let s := s.updHost (fun h => { h with testing := none })
    let out := natLe 8 (ds.length * (lpddrBytes / 32)) ++ natLe 8 corrected ++ natLe 8 uncorrectable
    .next ((s.putPayload 0 out).reply (0, 0))

/-- A PATTERN payload's fault: the byte at which a limit of R454 or R456 is broken. -/
def State.patternFault (s : State) (n : Nat) : Option Nat :=
  if n = 0 then some 1
  else (List.range n).findSome? (fun i => if s.arg (8 + 8 * i + 5) 3 ≠ 0 then some (8 + 8 * i + 5) else none)

/-- The display units of a port with a new pattern, which takes effect from the next sweep; once ENABLE governs the port, the
pattern has no place there (R456). -/
def Display.newPattern (x : Display) (now : Nat) (spans : List Nat) : Display :=
  if x.enableBit && x.pattern.isNone && x.patternNext.isNone then x
  else { x with patternNext := some spans, patternAt := if x.pattern.isSome then x.patternAt else now }

/-- PATTERN (R454, R456): the pattern of the named ports, from the next sweep. -/
def execPattern (s : State) : Res :=
  .next (s.command 0x15 [.reduced, .verifying, .full] (fun s =>
    let n := s.arg 1 1
    match s.patternFault n with
    | some b => ((1, b), s)
    | none =>
      let spans := (List.range n).map (fun i => s.arg (8 + 8 * i) 8)
      ((0, 0), (maskDies (s.arg 0 1 % 4)).foldl (fun s d => s.updDisp d (fun x => x.newPattern s.ns spans)) s)))

/-- Bytes of an error ring: its header page and 64 bytes for each entry (R466). -/
def ringBytes (log2n : Nat) : Nat := 4096 + 64 * 2 ^ log2n

/-- ERR_RING (R466): places a die's error ring; records raised before are counted in OVERFLOW. A ring that leaves the
die's memory is refused as its address is (log entry 17). -/
def execErrRing (s : State) : Res :=
  finish (s.command 0x20 [.full] (fun s =>
    let pa := s.arg 0 8
    let die := s.arg 8 1
    let n := s.arg 9 1
    if pa % 4096 ≠ 0 ∨ lpddrBytes ≤ pa then ((1, 0), s)
    else if 2 ≤ die then ((1, 8), s)
    else if n < 4 ∨ 16 < n then ((1, 9), s)
    else if lpddrBytes < pa + ringBytes n then ((1, 0), s)
    else
      let lost := (s.die die).errLost
      let s := s.updDie die (fun d => { d with errRing := some (pa, n), errLost := 0 })
      let k := homeKey die pa + 128
      ((0, 0), if lost = 0 then s else s.putHomeNat k 4 (s.homeNat k 4 + lost))))

/-- SENSORS (R466): the 24 readings of a die in 0.5 °C, as signed 16-bit values. -/
def execSensors (s : State) : Res :=
  .next (s.command 0x21 [.reduced, .full] (fun s =>
    let die := s.arg 0 1
    if 2 ≤ die then ((1, 0), s)
    else ((0, 0), s.putPayload 0 ((s.die die).sensors.flatMap (fun t => natLe 2 (BitVec.ofInt 16 t).toNat)))))

end Sys2Proof.Machine
end

