-- ==== Sys2Proof/Machine/Power.lean ====
section
/-! DEFINITION. Machine/Power.lean: thermal steps, the envelope, droop and core power gating (R24, R25, R469 to R472). -/
namespace Sys2Proof.Machine

/-! ### Temperature and power (R25, R469) -/

/-- The thermal step for the hottest reading, in 0.5 °C, after a step: step 1 lasts until the reading is below 97 °C. -/
def thermalStep (old : Nat) (t : Int) : Nat :=
  if 250 ≤ t then 3 else if 230 ≤ t then 2 else if 200 ≤ t then 1 else if old ≠ 0 ∧ 194 ≤ t then 1 else 0

/-- The hottest of a die's readings, with the lowest sensor that has it. -/
def hottest (ts : List Int) : Nat × Int :=
  (ts.mapIdx (fun i t => (i, t))).foldl (fun m e => if m.2 < e.2 then e else m) (0, ts.headD 0)

/-- One reduction of R25 on a die: firmware lets fewer chambers below the highest priority work, and only once none of them
works and that does not suffice, the clock goes to the next lower operating point. No value that a program computes
changes. -/
def State.reduce (s : State) (die chambers : Nat) (clock : Bool) : State :=
  let d := s.die die
  if d.chamberLimit ≠ 0 then s.updDie die (fun d => { d with chamberLimit := min chambers d.chamberLimit })
  else if clock ∧ d.point ≠ 0 then s.setPoint die (d.point - 1)
  else s

/-- What firmware does with a die at a thermal step below 3 (R469); how far one reduction of step 1 goes is open. -/
def State.thermalAct (s : State) (die old n : Nat) : State :=
  if s.host.service ≠ .full then s
  else match n with
    | 0 => if old = 0 then s else s.envelopePoint die
    | 1 => let f := s.takeFree; f.2.reduce die (f.1 % max 1 (s.die die).chamberLimit) true
    | _ => (s.updDie die (fun d => { d with chamberLimit := 0 })).setPoint die 0

/-- THERMAL_SAMPLE (R469): the readings of a die, and what firmware does at their step; a change of step is recorded, and
step 3 takes the module to Reset, which it leaves only when it is cool. -/
def execThermalSample (die : Nat) (readings : List Int) (s : State) : Res :=
  if 2 ≤ die ∨ readings.length ≠ 24 then .next s
  else
    let old := (s.die die).thermal
    let h := hottest readings
    let n := thermalStep old h.2
    let s := s.updDie die (fun d => { d with sensors := readings })
    if s.host.service = .reset then .next s
    else if n = old then .next (s.thermalAct die old n)
    else
      let s := s.updDie die (fun d => { d with thermal := n })
      let detail := n + 2 ^ 8 * (BitVec.ofInt 16 h.2).toNat + 2 ^ 24 * h.1
      let s := s.errorRecord die 8 0xFF 0xFF false 0 detail
      if n = 3 then
        let s := s.errorRecord die 5 0xFF 0xFF false 0 2
        finish (s.toReset s.host.powered true)
      else finish (s.thermalAct die old n)

/-- SHED_POWER (R24, R25): a reduction on a die; `clock` not zero says that a limit on chambers does not suffice. -/
def execShedPower (die clock chambers : Nat) (s : State) : Res :=
  if s.host.service ≠ .full ∨ 2 ≤ die then .next s
  else
    .next (s.reduce die chambers (decide (clock ≠ 0)))

/-- DROOP (R471): a core's clock is stretched by a number of cycles, which it will not deliver while module time goes on. -/
def execDroop (core cycles : Nat) (s : State) : Res :=
  if core < 32 then .next (s.updCore core (fun c => { c with droop := c.droop + cycles })) else .next s

/-! ### Core power gating (R472) -/

/-- A core holds no resident or vacated team, no queue entry, no occupied bin, no inbound copy and no delta (R472). -/
def State.coreIdle (s : State) (core : Nat) (c : Core) : Bool :=
  !s.teams.any (fun e => decide (e.2.core = core)) && c.queue.isEmpty && c.bins.isEmpty && c.deltas.isEmpty

/-- Note since when each core has been idle. -/
def State.noteIdle (s : State) : State :=
  { s with cores := s.cores.map (fun e =>
      (e.1, { e.2 with idleSince := if s.coreIdle e.1 e.2 then e.2.idleSince.or (some s.ns) else none })) }

/-- CORE_IDLE_GATE (R472): after 20 µs an idle core discards its L1, sampler cache, fetch buffer and TLB, and asks to be
gated. -/
def execCoreIdleGate (core : Nat) (s : State) : Res :=
  let c := s.core core
  match c.idleSince with
  | some t =>
    if c.off || c.gateAt.isSome || !s.coreIdle core c || decide (s.ns < t + 20000) then .next s
    else .next (s.updCore core (fun c => { c with
      l1 := [], sampler := [], fetchBuf := [], tlb := [], stlb := [], gateAt := some c.cycles }))
  | none => .next s

/-- Something has come that wakes a core: it is idle no more, a steal request waits there, or Pick has work for it (R472). -/
def State.wakeDue (s : State) (core : Nat) : Bool :=
  let x := s.core core
  let on := s.updCore core (fun x => { x with gated := false, gateAt := none })
  !s.coreIdle core x || !x.thieves.isEmpty || (on.choose core (on.candidates core) 129).isSome

/-- GATE_ISOLATION (R472): 80 cycles after the request power is removed; a wake that has come by then aborts it. -/
def execGateIsolation (core : Nat) (s : State) : Res :=
  match (s.core core).gateAt with
  | some g =>
    if s.wakeDue core then .next (s.abortGate core)
    else if (s.core core).cycles < g + 80 then .next s
    else .next (s.updCore core (fun c => { c with gateAt := none, gated := true }))
  | none => .next s

/-- CORE_WAKE (R472): a wake before isolation aborts gating, which settles in about 40 ns; a gated core powers up in about
2 µs. -/
def execCoreWake (core : Nat) (s : State) : Res := .next (s.wakeCore core)

/-- CORE_POWERED_UP (R472): the core takes work again. -/
def execCorePoweredUp (core : Nat) (s : State) : Res :=
  match (s.core core).wakeAt with
  | some t => if s.ns < t then .next s else .next (s.updCore core (fun c => { c with wakeAt := none }))
  | none => .next s

end Sys2Proof.Machine
end

