-- ==== Sys2Proof/Machine/Dispatch.lean ====
section
/-! DEFINITION. Machine/Dispatch.lean: one arm per constructor of Instr, each one direct call of its meaning. -/
namespace Sys2Proof.Machine

/-- The meaning of every instruction and step of the table. -/
def exec (i : Instr) (s : State) : Host.Outcome State Fault Refusal :=
  match i with
  | .prefixGeneral c k z m sd n a => Sys2Proof.Machine.execPrefixGeneral c k z m sd n a s
  | .prefixMemory c k sd o => Sys2Proof.Machine.execPrefixMemory c k sd o s
  | .vadd d a b => Sys2Proof.Machine.execVadd d a b s
  | .vsub d a b => Sys2Proof.Machine.execVsub d a b s
  | .vmul d a b => Sys2Proof.Machine.execVmul d a b s
  | .vmulh d a b => Sys2Proof.Machine.execVmulh d a b s
  | .vmulhu d a b => Sys2Proof.Machine.execVmulhu d a b s
  | .vmad d a b => Sys2Proof.Machine.execVmad d a b s
  | .vmin d a b => Sys2Proof.Machine.execVmin d a b s
  | .vmax d a b => Sys2Proof.Machine.execVmax d a b s
  | .vminu d a b => Sys2Proof.Machine.execVminu d a b s
  | .vmaxu d a b => Sys2Proof.Machine.execVmaxu d a b s
  | .vand d a b => Sys2Proof.Machine.execVand d a b s
  | .vor d a b => Sys2Proof.Machine.execVor d a b s
  | .vxor d a b => Sys2Proof.Machine.execVxor d a b s
  | .vandn d a b => Sys2Proof.Machine.execVandn d a b s
  | .vshl d a b => Sys2Proof.Machine.execVshl d a b s
  | .vshr d a b => Sys2Proof.Machine.execVshr d a b s
  | .vsar d a b => Sys2Proof.Machine.execVsar d a b s
  | .vrol d a b => Sys2Proof.Machine.execVrol d a b s
  | .vbfxu d a b => Sys2Proof.Machine.execVbfxu d a b s
  | .vbfxs d a b => Sys2Proof.Machine.execVbfxs d a b s
  | .vbfi d a b => Sys2Proof.Machine.execVbfi d a b s
  | .vperm d a b => Sys2Proof.Machine.execVperm d a b s
  | .vadd64 d a b => Sys2Proof.Machine.execVadd64 d a b s
  | .vmulw d a b => Sys2Proof.Machine.execVmulw d a b s
  | .vaddi d a imm => Sys2Proof.Machine.execVaddi d a imm s
  | .vshli d a imm => Sys2Proof.Machine.execVshli d a imm s
  | .vshri d a imm => Sys2Proof.Machine.execVshri d a imm s
  | .vsari d a imm => Sys2Proof.Machine.execVsari d a imm s
  | .vandi d a imm => Sys2Proof.Machine.execVandi d a imm s
  | .vmovi d imm => Sys2Proof.Machine.execVmovi d imm s
  | .vmovhi d imm => Sys2Proof.Machine.execVmovhi d imm s
  | .viun d a f => Sys2Proof.Machine.execViun d a f s
  | .vicmp k c a b => Sys2Proof.Machine.execVicmp k c a b s
  | .vsel d a b => Sys2Proof.Machine.execVsel d a b s
  | .vshfl d a b => Sys2Proof.Machine.execVshfl d a b s
  | .vshfli d a m imm => Sys2Proof.Machine.execVshfli d a m imm s
  | .vired d a f => Sys2Proof.Machine.execVired d a f s
  | .viscan d a f => Sys2Proof.Machine.execViscan d a f s
  | .vfadd d a b => Sys2Proof.Machine.execVfadd d a b s
  | .vfsub d a b => Sys2Proof.Machine.execVfsub d a b s
  | .vfmul d a b => Sys2Proof.Machine.execVfmul d a b s
  | .vfma d a b => Sys2Proof.Machine.execVfma d a b s
  | .vfmin d a b => Sys2Proof.Machine.execVfmin d a b s
  | .vfmax d a b => Sys2Proof.Machine.execVfmax d a b s
  | .vfcmp k c a b => Sys2Proof.Machine.execVfcmp k c a b s
  | .vfun d a f => Sys2Proof.Machine.execVfun d a f s
  | .vfx d a f => Sys2Proof.Machine.execVfx d a f s
  | .vfred d a f => Sys2Proof.Machine.execVfred d a f s
  | .vfscan d a f => Sys2Proof.Machine.execVfscan d a f s
  | .vflerp d a b => Sys2Proof.Machine.execVflerp d a b s
  | .vhadd d a b => Sys2Proof.Machine.execVhadd d a b s
  | .vhmul d a b => Sys2Proof.Machine.execVhmul d a b s
  | .vhfma d a b => Sys2Proof.Machine.execVhfma d a b s
  | .vhmin d a b => Sys2Proof.Machine.execVhmin d a b s
  | .vhmax d a b => Sys2Proof.Machine.execVhmax d a b s
  | .vbadd d a b => Sys2Proof.Machine.execVbadd d a b s
  | .vbmul d a b => Sys2Proof.Machine.execVbmul d a b s
  | .vbfma d a b => Sys2Proof.Machine.execVbfma d a b s
  | .vhdot d a b => Sys2Proof.Machine.execVhdot d a b s
  | .vcvt d a f => Sys2Proof.Machine.execVcvt d a f s
  | .vcvtin d a e sd => Sys2Proof.Machine.execVcvtin d a e sd s
  | .vcvtout d a e sd => Sys2Proof.Machine.execVcvtout d a e sd s
  | .vrsvu d a b => Sys2Proof.Machine.execVrsvu d a b s
  | .vrsvm d a b => Sys2Proof.Machine.execVrsvm d a b s
  | .vld d a r l w => Sys2Proof.Machine.execVld d a r l w s
  | .vst d a r l w => Sys2Proof.Machine.execVst d a r l w s
  | .vldsp d a l w => Sys2Proof.Machine.execVldsp d a l w s
  | .vstsp d a l w => Sys2Proof.Machine.execVstsp d a l w s
  | .vatom d a r p => Sys2Proof.Machine.execVatom d a r p s
  | .vatom64 d a r p => Sys2Proof.Machine.execVatom64 d a r p s
  | .vcas128 d a r => Sys2Proof.Machine.execVcas128 d a r s
  | .vldl d a r l => Sys2Proof.Machine.execVldl d a r l s
  | .vsmp d a r l => Sys2Proof.Machine.execVsmp d a r l s
  | .vldwh d a r l w => Sys2Proof.Machine.execVldwh d a r l w s
  | .vstwh d a r l w => Sys2Proof.Machine.execVstwh d a r l w s
  | .vwop d a r p => Sys2Proof.Machine.execVwop d a r p s
  | .vwopPosted a r p => Sys2Proof.Machine.execVwopPosted a r p s
  | .vpgreq d a r l w => Sys2Proof.Machine.execVpgreq d a r l w s
  | .vpref a r l w => Sys2Proof.Machine.execVpref a r l w s
  | .vtrav d a r l o => Sys2Proof.Machine.execVtrav d a r l o s
  | .vtravc d a l o => Sys2Proof.Machine.execVtravc d a l o s
  | .vrast d a b => Sys2Proof.Machine.execVrast d a b s
  | .vsemit d l => Sys2Proof.Machine.execVsemit d l s
  | .vsbg d a b => Sys2Proof.Machine.execVsbg d a b s
  | .sadd sd a b => Sys2Proof.Machine.execSadd sd a b s
  | .ssub sd a b => Sys2Proof.Machine.execSsub sd a b s
  | .smul sd a b => Sys2Proof.Machine.execSmul sd a b s
  | .smulh sd a b => Sys2Proof.Machine.execSmulh sd a b s
  | .sand sd a b => Sys2Proof.Machine.execSand sd a b s
  | .sor sd a b => Sys2Proof.Machine.execSor sd a b s
  | .sxor sd a b => Sys2Proof.Machine.execSxor sd a b s
  | .sshl sd a b => Sys2Proof.Machine.execSshl sd a b s
  | .sshr sd a b => Sys2Proof.Machine.execSshr sd a b s
  | .ssar sd a b => Sys2Proof.Machine.execSsar sd a b s
  | .smin sd a b => Sys2Proof.Machine.execSmin sd a b s
  | .smax sd a b => Sys2Proof.Machine.execSmax sd a b s
  | .sminu sd a b => Sys2Proof.Machine.execSminu sd a b s
  | .smaxu sd a b => Sys2Proof.Machine.execSmaxu sd a b s
  | .saddi sd a imm => Sys2Proof.Machine.execSaddi sd a imm s
  | .sandi sd a imm => Sys2Proof.Machine.execSandi sd a imm s
  | .sori sd a imm => Sys2Proof.Machine.execSori sd a imm s
  | .sxori sd a imm => Sys2Proof.Machine.execSxori sd a imm s
  | .sshli sd a imm => Sys2Proof.Machine.execSshli sd a imm s
  | .sshri sd a imm => Sys2Proof.Machine.execSshri sd a imm s
  | .smovi sd imm => Sys2Proof.Machine.execSmovi sd imm s
  | .slui sd imm => Sys2Proof.Machine.execSlui sd imm s
  | .sun sd a f => Sys2Proof.Machine.execSun sd a f s
  | .scmp q c a b => Sys2Proof.Machine.execScmp q c a b s
  | .ssel sd a b q => Sys2Proof.Machine.execSsel sd a b q s
  | .sadd64 sd a b => Sys2Proof.Machine.execSadd64 sd a b s
  | .sfadd sd a b m => Sys2Proof.Machine.execSfadd sd a b m s
  | .sfmul sd a b m => Sys2Proof.Machine.execSfmul sd a b m s
  | .sffma sd a b m => Sys2Proof.Machine.execSffma sd a b m s
  | .sfcmp q c a b => Sys2Proof.Machine.execSfcmp q c a b s
  | .sfun sd a f => Sys2Proof.Machine.execSfun sd a f s
  | .srdlane v sd l => Sys2Proof.Machine.execSrdlane v sd l s
  | .swrlane v sd l => Sys2Proof.Machine.execSwrlane v sd l s
  | .sballot sd n => Sys2Proof.Machine.execSballot sd n s
  | .skmov sd n => Sys2Proof.Machine.execSkmov sd n s
  | .skmovK a n => Sys2Proof.Machine.execSkmovK a n s
  | .skop d a b f => Sys2Proof.Machine.execSkop d a b f s
  | .sfirst sd n => Sys2Proof.Machine.execSfirst sd n s
  | .sspec sd c => Sys2Proof.Machine.execSspec sd c s
  | .sspecw sd c => Sys2Proof.Machine.execSspecw sd c s
  | .setmr a => Sys2Proof.Machine.execSetmr a s
  | .setmrNone => Sys2Proof.Machine.execSetmrNone s
  | .trap e => Sys2Proof.Machine.execTrap e s
  | .tret k => Sys2Proof.Machine.execTret k s
  | .sleep imm => Sys2Proof.Machine.execSleep imm s
  | .sleepReg a => Sys2Proof.Machine.execSleepReg a s
  | .brk e => Sys2Proof.Machine.execBrk e s
  | .nop => Sys2Proof.Machine.execNop s
  | .sld sd r w o => Sys2Proof.Machine.execSld sd r w o s
  | .sst sd r w o => Sys2Proof.Machine.execSst sd r w o s
  | .sldsp sd r w o => Sys2Proof.Machine.execSldsp sd r w o s
  | .sstsp sd r w o => Sys2Proof.Machine.execSstsp sd r w o s
  | .satom p r w n o => Sys2Proof.Machine.execSatom p r w n o s
  | .brset n a => Sys2Proof.Machine.execBrset n a s
  | .brget sd n => Sys2Proof.Machine.execBrget sd n s
  | .fence c o p d => Sys2Proof.Machine.execFence c o p d s
  | .pgreq sd a b => Sys2Proof.Machine.execPgreq sd a b s
  | .sealPages a b => Sys2Proof.Machine.execSealPages a b s
  | .unsealPages a b => Sys2Proof.Machine.execUnsealPages a b s
  | .cinv a b n => Sys2Proof.Machine.execCinv a b n s
  | .cwb a b n => Sys2Proof.Machine.execCwb a b n s
  | .cpy a x => Sys2Proof.Machine.execCpy a x s
  | .cpym a x => Sys2Proof.Machine.execCpym a x s
  | .cpys a => Sys2Proof.Machine.execCpys a s
  | .cpyg a => Sys2Proof.Machine.execCpyg a s
  | .chkin a => Sys2Proof.Machine.execChkin a s
  | .layseal a => Sys2Proof.Machine.execLayseal a s
  | .launch a b n => Sys2Proof.Machine.execLaunch a b n s
  | .tenq a b q => Sys2Proof.Machine.execTenq a b q s
  | .moor v sd c n => Sys2Proof.Machine.execMoor v sd c n s
  | .castoff a => Sys2Proof.Machine.execCastoff a s
  | .castoffAll => Sys2Proof.Machine.execCastoffAll s
  | .dcset d a imm => Sys2Proof.Machine.execDcset d a imm s
  | .dcadd a imm => Sys2Proof.Machine.execDcadd a imm s
  | .dcwait imm => Sys2Proof.Machine.execDcwait imm s
  | .stamp a f => Sys2Proof.Machine.execStamp a f s
  | .kcnt a n d => Sys2Proof.Machine.execKcnt a n d s
  | .kwait a n => Sys2Proof.Machine.execKwait a n s
  | .kprobe sd a n => Sys2Proof.Machine.execKprobe sd a n s
  | .chload h x y b l => Sys2Proof.Machine.execChload h x y b l s
  | .chrel h l => Sys2Proof.Machine.execChrel h l s
  | .atdef h x y a l => Sys2Proof.Machine.execAtdef h x y a l s
  | .mma h x y a b l => Sys2Proof.Machine.execMma h x y a b l s
  | .mmag h x y a b l => Sys2Proof.Machine.execMmag h x y a b l s
  | .mmav h x y a b l => Sys2Proof.Machine.execMmav h x y a b l s
  | .accz h l => Sys2Proof.Machine.execAccz h l s
  | .accld h x y l => Sys2Proof.Machine.execAccld h x y l s
  | .accst h x y l => Sys2Proof.Machine.execAccst h x y l s
  | .accrd h x y c l => Sys2Proof.Machine.execAccrd h x y c l s
  | .accwr h x y c l => Sys2Proof.Machine.execAccwr h x y c l s
  | .accmap h x y f l => Sys2Proof.Machine.execAccmap h x y f l s
  | .rfil h x y a l => Sys2Proof.Machine.execRfil h x y a l s
  | .rema h x y a l => Sys2Proof.Machine.execRema h x y a l s
  | .mprog e x y l => Sys2Proof.Machine.execMprog e x y l s
  | .mseq x y l => Sys2Proof.Machine.execMseq x y l s
  | .priow a b c => Sys2Proof.Machine.execPriow a b c s
  | .rowout v sd => Sys2Proof.Machine.execRowout v sd s
  | .sbstat sd a f => Sys2Proof.Machine.execSbstat sd a f s
  | .sysrd sd c => Sys2Proof.Machine.execSysrd sd c s
  | .syswr sd c => Sys2Proof.Machine.execSyswr sd c s
  | .lanest v => Sys2Proof.Machine.execLanest v s
  | .laneld v => Sys2Proof.Machine.execLaneld v s
  | .tlbinv a b c k => Sys2Proof.Machine.execTlbinv a b c k s
  | .preempt a r => Sys2Proof.Machine.execPreempt a r s
  | .halt e => Sys2Proof.Machine.execHalt e s
  | .reservedEncoding w => Sys2Proof.Machine.execReservedEncoding w s
  | .clauseStart => Sys2Proof.Machine.execClauseStart s
  | .next => Sys2Proof.Machine.execNext s
  | .jump off => Sys2Proof.Machine.execJump off s
  | .branch off => Sys2Proof.Machine.execBranch off s
  | .loop c off => Sys2Proof.Machine.execLoop c off s
  | .call off => Sys2Proof.Machine.execCall off s
  | .calli op => Sys2Proof.Machine.execCalli op s
  | .ret => Sys2Proof.Machine.execRet s
  | .jumpi op => Sys2Proof.Machine.execJumpi op s
  | .meet off => Sys2Proof.Machine.execMeet off s
  | .exit => Sys2Proof.Machine.execExit s
  | .yield => Sys2Proof.Machine.execYield s
  | .trapif code => Sys2Proof.Machine.execTrapif code s
  | .meetingRelease gid pc => Sys2Proof.Machine.execMeetingRelease gid pc s
  | .wavePromotion gid wid => Sys2Proof.Machine.execWavePromotion gid wid s
  | .sleepExpiry gid wid => Sys2Proof.Machine.execSleepExpiry gid wid s
  | .groupExit gid => Sys2Proof.Machine.execGroupExit gid s
  | .trapEntry gid => Sys2Proof.Machine.execTrapEntry gid s
  | .vfxComplete gid op => Sys2Proof.Machine.execVfxComplete gid op s
  | .memoryAccessComplete gid op => Sys2Proof.Machine.execMemoryAccessComplete gid op s
  | .scratchpadPresenceResume gid wid => Sys2Proof.Machine.execScratchpadPresenceResume gid wid s
  | .fenceComplete gid op => Sys2Proof.Machine.execFenceComplete gid op s
  | .sealComplete gid op => Sys2Proof.Machine.execSealComplete gid op s
  | .unsealComplete gid op => Sys2Proof.Machine.execUnsealComplete gid op s
  | .cinvComplete gid op => Sys2Proof.Machine.execCinvComplete gid op s
  | .cwbComplete gid op => Sys2Proof.Machine.execCwbComplete gid op s
  | .tlbinvComplete gid op => Sys2Proof.Machine.execTlbinvComplete gid op s
  | .engineOpComplete core op => Sys2Proof.Machine.execEngineOpComplete core op s
  | .chloadComplete core op => Sys2Proof.Machine.execChloadComplete core op s
  | .chrelComplete core op => Sys2Proof.Machine.execChrelComplete core op s
  | .mprogComplete gid op => Sys2Proof.Machine.execMprogComplete gid op s
  | .mseqComplete gid op => Sys2Proof.Machine.execMseqComplete gid op s
  | .pageRetry core op => Sys2Proof.Machine.execPageRetry core op s
  | .feedbackReappend core op => Sys2Proof.Machine.execFeedbackReappend core op s
  | .engineStop core op upto => Sys2Proof.Machine.execEngineStop core op upto s
  | .streamerRecordCheck core op => Sys2Proof.Machine.execStreamerRecordCheck core op s
  | .cpymAccept core op rank => Sys2Proof.Machine.execCpymAccept core op rank s
  | .copyLanding core op rank line => Sys2Proof.Machine.execCopyLanding core op rank line s
  | .copyComplete core op => Sys2Proof.Machine.execCopyComplete core op s
  | .laysealComplete gid op => Sys2Proof.Machine.execLaysealComplete gid op s
  | .chkinComplete gid op => Sys2Proof.Machine.execChkinComplete gid op s
  | .traversalComplete gid op => Sys2Proof.Machine.execTraversalComplete gid op s
  | .vrastComplete gid op => Sys2Proof.Machine.execVrastComplete gid op s
  | .vsemitComplete gid op => Sys2Proof.Machine.execVsemitComplete gid op s
  | .mirrorReceive die => Sys2Proof.Machine.execMirrorReceive die s
  | .vsbgComplete gid op => Sys2Proof.Machine.execVsbgComplete gid op s
  | .rowoutComplete gid op => Sys2Proof.Machine.execRowoutComplete gid op s
  | .priowComplete gid op => Sys2Proof.Machine.execPriowComplete gid op s
  | .sbstatComplete gid op => Sys2Proof.Machine.execSbstatComplete gid op s
  | .deltaFlushTimer core => Sys2Proof.Machine.execDeltaFlushTimer core s
  | .keeperBatchApply die => Sys2Proof.Machine.execKeeperBatchApply die s
  | .deltaSend die => Sys2Proof.Machine.execDeltaSend die s
  | .delta die => Sys2Proof.Machine.execDelta die s
  | .ack die => Sys2Proof.Machine.execAck die s
  | .flushreq die => Sys2Proof.Machine.execFlushreq die s
  | .done die => Sys2Proof.Machine.execDone die s
  | .pick core => Sys2Proof.Machine.execPick core s
  | .tailWake die ctx queue => Sys2Proof.Machine.execTailWake die ctx queue s
  | .launchRecordTake die => Sys2Proof.Machine.execLaunchRecordTake die s
  | .recordReadRetry die => Sys2Proof.Machine.execRecordReadRetry die s
  | .schedulerPreempt die core => Sys2Proof.Machine.execSchedulerPreempt die core s
  | .stealRequest core => Sys2Proof.Machine.execStealRequest core s
  | .stealAnswer core => Sys2Proof.Machine.execStealAnswer core s
  | .stealBackoff core => Sys2Proof.Machine.execStealBackoff core s
  | .binTimer core bin => Sys2Proof.Machine.execBinTimer core bin s
  | .moorPoolServe die ctx pool => Sys2Proof.Machine.execMoorPoolServe die ctx pool s
  | .preemptDelivery die => Sys2Proof.Machine.execPreemptDelivery die s
  | .vacate gid => Sys2Proof.Machine.execVacate gid s
  | .sweepBoundary die => Sys2Proof.Machine.execSweepBoundary die s
  | .blockRetry die => Sys2Proof.Machine.execBlockRetry die s
  | .bandOpen die band => Sys2Proof.Machine.execBandOpen die band s
  | .sweepTick die => Sys2Proof.Machine.execSweepTick die s
  | .wavewait die band => Sys2Proof.Machine.execWavewait die band s
  | .bandCutoff die band => Sys2Proof.Machine.execBandCutoff die band s
  | .basinAgeing die band => Sys2Proof.Machine.execBasinAgeing die band s
  | .rowSend die => Sys2Proof.Machine.execRowSend die s
  | .gaze die flit => Sys2Proof.Machine.execGaze die flit s
  | .pose die flit => Sys2Proof.Machine.execPose die flit s
  | .position die flit => Sys2Proof.Machine.execPosition die flit s
  | .panelStatus die flit => Sys2Proof.Machine.execPanelStatus die flit s
  | .sirricLinkDown die => Sys2Proof.Machine.execSirricLinkDown die s
  | .sirricLinkUp die => Sys2Proof.Machine.execSirricLinkUp die s
  | .patternSweep die => Sys2Proof.Machine.execPatternSweep die s
  | .hostMemRead die pa len => Sys2Proof.Machine.execHostMemRead die pa len s
  | .hostMemWrite die pa bytes => Sys2Proof.Machine.execHostMemWrite die pa bytes s
  | .hostSnoop die line => Sys2Proof.Machine.execHostSnoop die line s
  | .mailboxRegisterWrite off value => Sys2Proof.Machine.execMailboxRegisterWrite off value s
  | .loadCtx => Sys2Proof.Machine.execLoadCtx s
  | .unloadCtx => Sys2Proof.Machine.execUnloadCtx s
  | .preemptCmd => Sys2Proof.Machine.execPreemptCmd s
  | .setIndex => Sys2Proof.Machine.execSetIndex s
  | .setPeer => Sys2Proof.Machine.execSetPeer s
  | .fwWrite => Sys2Proof.Machine.execFwWrite s
  | .fwStart => Sys2Proof.Machine.execFwStart s
  | .fwVerifyDone => Sys2Proof.Machine.execFwVerifyDone s
  | .firmwareStartup failing short => Sys2Proof.Machine.execFirmwareStartup failing short s
  | .advanceSvn => Sys2Proof.Machine.execAdvanceSvn s
  | .setEnvelope => Sys2Proof.Machine.execSetEnvelope s
  | .memtest => Sys2Proof.Machine.execMemtest s
  | .pattern => Sys2Proof.Machine.execPattern s
  | .moduleReset => Sys2Proof.Machine.execModuleReset s
  | .enterReset => Sys2Proof.Machine.execEnterReset s
  | .errRing => Sys2Proof.Machine.execErrRing s
  | .sensors => Sys2Proof.Machine.execSensors s
  | .powerGood => Sys2Proof.Machine.execPowerGood s
  | .powerLoss => Sys2Proof.Machine.execPowerLoss s
  | .cxlLinkUp => Sys2Proof.Machine.execCxlLinkUp s
  | .linkReset => Sys2Proof.Machine.execLinkReset s
  | .thermalSample die readings => Sys2Proof.Machine.execThermalSample die readings s
  | .droop core cycles => Sys2Proof.Machine.execDroop core cycles s
  | .coreIdleGate core => Sys2Proof.Machine.execCoreIdleGate core s
  | .gateIsolation core => Sys2Proof.Machine.execGateIsolation core s
  | .coreWake core => Sys2Proof.Machine.execCoreWake core s
  | .shedPower die clock chambers => Sys2Proof.Machine.execShedPower die clock chambers s
  | .corePoweredUp core => Sys2Proof.Machine.execCorePoweredUp core s
  | .memtestComplete corrected uncorrectable => Sys2Proof.Machine.execMemtestComplete corrected uncorrectable s
  | .unknownCommand => Sys2Proof.Machine.execUnknownCommand s
  | .hdmDecoderProgram decoder base => Sys2Proof.Machine.execHdmDecoderProgram decoder base s

end Sys2Proof.Machine
end

