-- ==== Sys2Proof/Machine/Incidents.lean ====
section
/-! DEFINITION. Machine/Incidents.lean: what the check codes find and what the module then does (R462 to R467), and
firmware's changes of a frame's owner (R315) and of the preemption threshold (R361), and what caches and the queue of path M
do when they like (R297, R312). No instruction and no step of the table brings these about: a turn of the
agenda names them (log entry 18). -/
namespace Sys2Proof.Machine

/-- Append a record of type 2, which charges the context that owns what is poisoned (R465, R467; log entry 18): store, whether it
was found on write-back, and the die's total of corrections. -/
def State.chargedRecord (s : State) (die core ctx addr detail : Nat) : State :=
  s.errorRecord die 2 core ctx (decide (ctx ≠ 0xFF)) addr (detail + 2 ^ 32 * ((s.die die).corrected % 2 ^ 32))

/-- A correction (R462, R463, R467): the die's total rises; a record only when none was made of the frame or bank in the
last second. -/
def State.correct (s : State) (die core store bank pa : Nat) : State :=
  let d := s.die die
  let s := s.updDie die (fun d => { d with corrected := d.corrected + 1 })
  if d.recorded.any (fun e => decide (e.1 = store) && decide (e.2.1 = bank) && decide (s.ns < e.2.2 + 1000000000)) then s
  else
    (s.updDie die (fun d => { d with
      recorded := (store, bank, s.ns) :: d.recorded.filter (fun e => !(decide (e.1 = store) && decide (e.2.1 = bank))) })).errorRecord
      die 1 core 0xFF false pa (store + 2 ^ 32 * ((d.corrected + 1) % 2 ^ 32))

/-- The management controller notes a day on which a row carried corrected errors; with the third its log lists the row (R468). -/
def HostSide.noteRow (h : HostSide) (row day : Nat) : HostSide :=
  let days := if h.rowDays.contains (row, day) then h.rowDays else h.rowDays ++ [(row, day)]
  if h.repairLog.contains row then h
  else if 3 ≤ (days.filter (fun e => decide (e.1 = row))).length then
    { h with repairLog := h.repairLog ++ [row], rowDays := days.filter (fun e => decide (e.1 ≠ row)) }
  else { h with rowDays := days }

/-- Mark `n` atoms from a key as poisoned (R463). -/
def State.markAtoms (s : State) (key n : Nat) : State :=
  { s with poison := (List.range n).foldl (fun p i => tset p (key / 32 + i) 0) s.poison }

/-- A poison mark in a core's store, charged to the context of the team that holds it (R463, R465). -/
def State.teamRecord (s : State) (team store : Nat) : State :=
  let t := s.team team
  s.chargedRecord (dieOf t.core) (t.core % 16) t.ctx 0 store

/-- A core's cache gives up a line: its L1, its sampler cache or its fetch buffer (R297, R312). -/
def Core.giveUp (c : Core) (cache line : Nat) : Core :=
  match cache with
  | 0 => { c with l1 := tdel c.l1 line }
  | 1 => { c with sampler := tdel c.sampler line }
  | _ => { c with fetchBuf := tdel c.fetchBuf line }

/-- What an incident does (R304, R315, R448, R450, R458, R463, R468). -/
def State.incident (s : State) (e : Incident) : State :=
  match e with
  | .corrected die store bank pa row day =>
    let s := s.correct die 0xFF store bank pa
    if store = 0 then s else s.updHost (fun h => h.noteRow row day)
  | .cleanLine core cache bank line =>
    (s.updCore core (fun c => c.giveUp cache line)).correct (dieOf core) (core % 16) 7 (core * 2 ^ 16 + bank) 0
  | .l2Atom die pa wb =>
    let key := homeKey die (pa / 32 * 32)
    if (List.range 32).all (fun i => (tget? s.l2 (key + i)).isNone) then s.correct die 0xFF 1 (pa / 2 ^ 16) 0
    else
      let s := if wb then s.writeBack key 32 else s
      let owner := ((s.l2Tags.find? (fun e => decide (e.1 = key / 128))).map (·.2)).getD (s.ownerAt key)
      (s.markAtoms key 1).chargedRecord die 0xFF owner pa (1 + if wb then 2 ^ 8 else 0)
  | .lpddrAtom die pa =>
    let key := homeKey die (pa / 32 * 32)
    (s.markAtoms key 1).chargedRecord die 0xFF (s.ownerAt key) pa 0
  | .wharfElement die off =>
    ({ s with wharfPoison := tset s.wharfPoison (wharfKey die off / 4) 0 }).chargedRecord die 0xFF (s.ownerAt (bankKey die off)) off 2
  | .basinRecord die tile slot =>
    let d := s.disp die
    let t := d.tile tile
    if (tget? t.slots slot).isNone then s
    else
      (s.updDisp die (fun d => (d.setTile tile { t with slots := tdel t.slots slot }).drop)).errorRecord die 3 0xFF 0xFF false tile slot
  | .scratchpadLine team line =>
    if (tget? s.teams team).isNone then s
    else (s.markAtoms (spadKey team (128 * line)) 4).teamRecord team 3
  | .accElement team off n =>
    if (tget? s.teams team).isNone then s
    else (s.markAtoms (accKey team off) (n / 2)).teamRecord team 4
  | .chamberRow team c =>
    match (tget? s.teams team).bind (fun t => tget? t.chambers c) with
    | none => s
    | some x => (s.updTeam team (fun t => { t with chambers := tset t.chambers c { x with poisoned := true } })).teamRecord team 6
  | .register gid reg l =>
    if (tget? s.groups gid).isNone ∨ 32 ≤ l ∨ (s.group gid).n ≤ reg then s
    else (s.updGroup gid (fun g =>
      let g := g.setV reg l 0
      { g with bad := g.bad ++ [reg * 32 + l] })).teamRecord (s.group gid).team 5
  | .schedulerStore die => (s.updDie die (fun d => { d with halted := true })).errorRecord die 5 0xFF 0xFF false 0 1
  | .frameOwner home frame ctx => { s with frameOwner := tset s.frameOwner (home * 2 ^ 32 + frame) (ctx % 2 ^ 8) }
  | .preemptThreshold value => s.updTable (fun h => { h with preemptAt := value % 2 ^ 7 })
  | .lineLeaves core cache line => s.updCore core (fun c => c.giveUp cache line)
  | .drainM => s.drainOne
  | .spadLine gid op line => s.spadLine gid op line
  | .lineFails line fails =>
    { s with failing := if fails then line :: s.failing else s.failing.filter (fun l => decide (l ≠ line)) }
  | .hostWrite addr bytes => s.hostWrites addr bytes
  | .tableDone => s.tableDone

/-- Does an incident happen outside the module, or to firmware's table: it can in every state of R452. -/
def Incident.always : Incident → Bool
  | .lineFails .. | .hostWrite .. | .tableDone => true
  | _ => false

/-- An incident of a module in Full; in the other states nothing that software can reach is held (R452). -/
def State.meetIncident (s : State) (e : Incident) : Res :=
  if s.host.service = .full || e.always then finish (s.incident e) else .next s

end Sys2Proof.Machine
end

