-- ==== Sys2Proof/Machine/Moves.lean ====
section
/-! DEFINITION. Machine/Moves.lean: which instruction a wave runs next, the passing of time, the model's own order of
moves, and the group that holds a placed word (log entry 4). -/
namespace Sys2Proof.Machine

/-! ### What moves -/

/-- The instruction that a wave runs next (R79): the start of its clause, the word at its index, or the end of its
clause. A word that names no instruction is a reserved encoding (R95). -/
def State.waveInstr (s : State) (gid wid : Nat) : Option Instr :=
  let w := (s.group gid).wave wid
  match w.phase with
  | .start | .waiting | .waited => some .clauseStart
  | .body | .draining =>
    match w.words[w.idx]? with
    | some x =>
      match decodeWord x w.words[w.idx + 1]? with
      | .ok i => some i
      | .error _ => some (.reservedEncoding x)
    | none =>
      match decodeSeq (hdrSeq w.hdr) (hdrTgt w.hdr) with
      | .ok i => some i
      | .error _ => none
  | _ => none

/-- A step of the device or an act of what lies outside it, and no word of a program. -/
def isDevice (i : Instr) : Bool :=
  match i with
  | .clauseStart | .reservedEncoding _ => false
  | i => (encode i).isNone && (encodeSeq i).isNone

/-- Time passes: module time, and the cycles that each core delivers; a core in droop delivers fewer (R49, R50, R471). -/
def State.passTime (s : State) (ns cycles : Nat) : State :=
  { s with
    ns := s.ns + ns
    cores := s.cores.map (fun e => (e.1, { e.2 with
      cycles := e.2.cycles + (cycles - min cycles e.2.droop), droop := e.2.droop - min cycles e.2.droop })) }

/-! ### The model's own order (log entry 4) -/

/-- A meaning that the machine may run by itself. -/
abbrev Act := State → Res

/-- Steps that may complete or advance an operation of a group. -/
def opMoves (gid : Nat) (core : Nat) (o : POp) : List Act :=
  [execVfxComplete gid o.id, execMemoryAccessComplete gid o.id, execFenceComplete gid o.id, execSealComplete gid o.id,
   execUnsealComplete gid o.id, execCinvComplete gid o.id, execCwbComplete gid o.id, execTlbinvComplete gid o.id,
   execMprogComplete gid o.id, execMseqComplete gid o.id, execLaysealComplete gid o.id, execChkinComplete gid o.id,
   execTraversalComplete gid o.id, execVrastComplete gid o.id, execVsemitComplete gid o.id, execVsbgComplete gid o.id,
   execRowoutComplete gid o.id, execPriowComplete gid o.id, execSbstatComplete gid o.id,
   execEngineStop core o.id o.stage, execEngineOpComplete core o.id, execChloadComplete core o.id,
   execChrelComplete core o.id, execPageRetry core o.id, execFeedbackReappend core o.id, execStreamerRecordCheck core o.id]
  ++ o.ranks.flatMap (fun r => execCpymAccept core o.id r :: (o.toLand r).map (fun l => execCopyLanding core o.id r l))
  ++ [execCopyComplete core o.id]

/-- Steps that a group may take by itself. -/
def groupMoves (gid : Nat) (g : Group) : List Act :=
  [execTrapEntry gid] ++ (lanesOf g.live).filterMap (fun l => (g.lane l).mr.map (fun pc => execMeetingRelease gid pc))
    ++ g.waves.flatMap (fun w => [execSleepExpiry gid w.1, execWavePromotion gid w.1, execScratchpadPresenceResume gid w.1])
    ++ g.ops.flatMap (opMoves gid g.core) ++ [execVacate gid, execGroupExit gid]

/-- A core that is gated or about to be wakes where something waits for it (R472). -/
def wakeWhereDue (c : Nat) : Act := fun s =>
  if s.wakeDue c then execCoreWake c s else .next s

/-- Steps of a core. -/
def coreMoves (c : Nat) (x : Core) : List Act :=
  [execDeltaFlushTimer c] ++ (List.range x.bins.length).map (fun b => execBinTimer c b)
    ++ [execPick c, execStealRequest c, execStealAnswer c, execSchedulerPreempt (dieOf c) c, execStealBackoff c,
        wakeWhereDue c, execCorePoweredUp c, execGateIsolation c, execCoreIdleGate c]

/-- Steps of a die. -/
def dieMoves (d : Nat) (x : Die) : List Act :=
  [execKeeperBatchApply d, execDeltaSend d, execDelta d, execAck d, execFlushreq d, execDone d, execPreemptDelivery d,
   execLaunchRecordTake d, execRecordReadRetry d]
    ++ (if x.leaving.isEmpty then [] else [fun s => execVacate s.nextGroup s])
    ++ (x.hostQueues.filter (fun e => e.2.woken || (decide (e.2.head ≠ e.2.tail) && e.2.wait.isNone))).map (fun e => execTailWake d (e.1 / 16) (e.1 % 16))
    ++ x.moorLine.map (fun m => execMoorPoolServe d m.1 m.2.1)
    ++ [execSweepBoundary d, execBlockRetry d, execSweepTick d, execRowSend d, execMirrorReceive d, execPatternSweep d]
    ++ x.disp.bands.flatMap (fun b => [execBandOpen d b.1, execWavewait d b.1, execBandCutoff d b.1, execBasinAgeing d b.1])

/-- The mailbox and the firmware. -/
def hostMoves : List Act :=
  [fun s => .next s.tableDone, execFwVerifyDone, execFirmwareStartup [] [], execMemtestComplete 0 0, execEnterReset, execLoadCtx, execUnloadCtx,
   execPreemptCmd, execSetIndex, execSetPeer, execFwWrite, execFwStart, execAdvanceSvn, execSetEnvelope, execMemtest,
   execPattern, execModuleReset, execErrRing, execSensors, execUnknownCommand]

/-- Everything that may move by itself beside waves: what groups, dies and cores do, then firmware. -/
def State.deviceMoves (s : State) : List Act :=
  s.groups.flatMap (fun e => groupMoves e.1 e.2) ++ s.dies.flatMap (fun e => dieMoves e.1 e.2)
    ++ s.cores.flatMap (fun e => coreMoves e.1 e.2) ++ hostMoves

/-! ### Placing a word -/

/-- The words of a clause that a word is placed in: a prefix needs a word to apply to. -/
def fetchWords (w : Word) : List Word := if opByte w = 0x7F then [w, 0#32] else [w]

/-- A running group of 32 lanes with one wave, whose latched clause has the word next: a clause of kind NEXT, its flags
A and B being f0 (R75, R79). -/
def fetchGroup (w : Word) : Group :=
  { live := lowLanes 32
    waves := [(0, { lanes := lowLanes 32, phase := .body, hdr := BitVec.ofNat 64 ((fetchWords w).length - 1)
                    words := fetchWords w, en := lowLanes 32 })] }

end Sys2Proof.Machine
end

