-- ==== Sys2Proof/Machine/Poison.lean ====
section
/-! DEFINITION. Machine/Poison.lean: the vector registers that words read and write, and what a word that meets a poisoned one
does (R28, R115, R118, R463, R464; log entry 69). -/
namespace Sys2Proof.Machine

/-- Vector registers that a word reads and writes in each of its lanes, as first operand field and number of registers (R28,
R29); the k-register that it writes; whether it runs once for the wave. -/
structure Uses where
  reads : List (Nat × Nat) := []
  writes : List (Nat × Nat) := []
  kd : Option Nat := none
  uniform : Bool := false
  deriving DecidableEq, Repr

/-- A word with one destination and sources at two fields. -/
def uses2 (d a b : BitVec 8) : Uses := { reads := [(a.toNat, 1), (b.toNat, 1)], writes := [(d.toNat, 1)] }
/-- A word with one destination and one source. -/
def uses1 (d a : BitVec 8) : Uses := { reads := [(a.toNat, 1)], writes := [(d.toNat, 1)] }
/-- The same with a third source at a field. -/
def Uses.third (u : Uses) (c k : Nat) : Uses := { u with reads := u.reads ++ [(c, k)] }

/-- Functions of VCVT that write one half of the destination, which they read at issue (R146). -/
def cvtHalf : CvtFn → Bool
  | .f2hhi | .f2bhi | .f2hlo | .f2blo => true
  | _ => false

/-- What an instruction reads and writes of the vector registers; `c` is the field of a prefix, which stands for d without
one (R91). -/
def usesOf (i : Instr) (c : Option Nat) : Uses :=
  match i with
  | .vadd d a b | .vsub d a b | .vmul d a b | .vmulh d a b | .vmulhu d a b | .vmin d a b | .vmax d a b | .vminu d a b
  | .vmaxu d a b | .vand d a b | .vor d a b | .vxor d a b | .vandn d a b | .vshl d a b | .vshr d a b | .vsar d a b
  | .vrol d a b | .vbfxu d a b | .vbfxs d a b | .vsel d a b | .vfadd d a b | .vfsub d a b | .vfmul d a b
  | .vfmin d a b | .vfmax d a b | .vhadd d a b | .vhmul d a b | .vhmin d a b | .vhmax d a b | .vbadd d a b | .vbmul d a b => uses2 d a b
  | .vmad d a b | .vbfi d a b | .vperm d a b | .vfma d a b | .vflerp d a b | .vhfma d a b | .vbfma d a b | .vhdot d a b =>
    (uses2 d a b).third (c.getD d.toNat) 1
  | .vadd64 d a b => { reads := [(a.toNat, 2), (b.toNat, 2)], writes := [(d.toNat, 2)] }
  | .vmulw d a b => { reads := [(a.toNat, 1), (b.toNat, 1)], writes := [(d.toNat, 2)] }
  | .vaddi d a _ | .vandi d a _ => uses1 d a
  | .vshli d a _ | .vshri d a _ | .vsari d a _ => uses1 d a
  | .vmovi d _ => { writes := [(d.toNat, 1)] }
  | .vmovhi d _ => uses1 d d
  | .viun d a f => if f = .lane ∨ f = .slice then { writes := [(d.toNat, 1)] } else uses1 d a
  | .vicmp k _ a b => { reads := [(a.toNat, 1), (b.toNat, 1)], kd := some k.toNat }
  | .vfcmp k _ a b => { reads := [(a.toNat, 1), (b.toNat, 1)], kd := some k.toNat }
  | .vshfl d a b => uses2 d a b
  | .vshfli d a _ _ => uses1 d a
  | .vired d a _ => uses1 d a
  | .viscan d a _ => uses1 d a
  | .vfun d a _ => uses1 d a
  | .vfx d a _ => uses1 d a
  | .vfred d a _ => uses1 d a
  | .vfscan d a _ => uses1 d a
  | .vcvt d a f => if cvtHalf f then (uses1 d a).third d.toNat 1 else uses1 d a
  | .vcvtin d a _ _ => uses1 d a
  | .vcvtout d a _ _ => (uses1 d a).third d.toNat 1
  | .vrsvu d a b => { reads := [(a.toNat, 1), (b.toNat, 1), (c.getD d.toNat, 1), (d.toNat, 4)], writes := [(d.toNat, 4)] }
  | .vrsvm d a b => { reads := [(a.toNat, 4), (b.toNat, 1), (c.getD d.toNat, 1), (d.toNat, 4)], writes := [(d.toNat, 4)] }
  | .vld d a _ _ w | .vldwh d a _ _ w => { reads := [(a.toNat, 1)], writes := [(d.toNat, regsOf (memBytes w))] }
  | .vldsp d a _ w => { reads := [(a.toNat, 1)], writes := [(d.toNat, regsOf (memBytes w))] }
  | .vst d a _ _ w | .vstwh d a _ _ w => { reads := [(a.toNat, 1), (d.toNat, regsOf (memBytes w))] }
  | .vstsp d a _ w => { reads := [(a.toNat, 1), (d.toNat, regsOf (memBytes w))] }
  | .vatom d a _ p => usesAtom d a (decide (p = .cas)) 1
  | .vatom64 d a _ p => usesAtom d a (decide (p = .cas)) 2
  | .vcas128 d a _ => usesAtom d a true 4
  | .vwop d a _ p => usesAtom d a (decide (p = .cas)) (wopBytes p / 4)
  | .vwopPosted a _ p => { usesAtom a a (decide (p = .cas)) (wopBytes p / 4) with writes := [] }
  | .vldl d a _ _ | .vsmp d a _ _ => { reads := [(a.toNat, 3)], writes := [(d.toNat, 5)], kd := some 7 }
  | .vpgreq d a _ _ _ => uses1 d a
  | .vpref a _ _ _ => { reads := [(a.toNat, 1)] }
  | .vtrav d a _ _ _ => { reads := [(a.toNat, 9)], writes := [(d.toNat, 7)] }
  | .vtravc d a _ _ => { reads := [(a.toNat, 1)], writes := [(d.toNat, 7)] }
  | .vrast d _ _ => { writes := [(d.toNat, 4)] }
  | .vsemit d _ => { reads := [(d.toNat, 8)] }
  | .vsbg d a b => { reads := [(a.toNat, 2), (b.toNat, 1)], writes := [(d.toNat, 8)] }
  | .rowout v _ => { reads := [(v.toNat, 1)], uniform := true }
  | .moor v _ _ n => { reads := [(v.toNat, n.toNat + 1)], uniform := true }
  | .laneld v => { reads := [(v.toNat, 4)], uniform := true }
  | _ => { uniform := true }
where
  usesAtom (d a : BitVec 8) (cas : Bool) (k : Nat) : Uses :=
    { reads := [(a.toNat, k + 1)] ++ (if cas then [(c.getD d.toNat, k)] else []), writes := [(d.toNat, k)] }

/-- Is one of `k` registers from a field poisoned in a lane? -/
def Group.badAt (g : Group) (f k l : Nat) : Bool :=
  decide (f < 192) && (List.range k).any (fun j => decide ((f + j) * 32 + l ∈ g.bad))

/-- The lanes, of those in which a word acts, that read a poisoned register: their own, a lane that they name, or any of the wave's
for a reduction or a scan (R118). -/
def Group.badLanes (g : Group) (i : Instr) (u : Uses) (act : Mask) : Mask :=
  match i with
  | .vired _ a _ | .viscan _ a _ => across a
  | .vfred _ a _ | .vfscan _ a _ => across a
  | .vshfl _ a b => maskOf (fun l => inMask act l &&
      (g.badAt b.toNat 1 l || g.badAt a.toNat 1 ((g.src b.toNat l).toNat % 32)))
  | .vshfli _ a m j => maskOf (fun l => inMask act l && g.badAt a.toNat 1 (shfliLane m j.toNat g.width l))
  | .srdlane v _ l => if g.badAt v.toNat 1 l.toNat then act else 0
  | _ => maskOf (fun l => inMask act l && u.reads.any (fun p => g.badAt p.1 p.2 l))
where
  across (a : BitVec 8) : Mask := if (lanesOf act).any (fun l => g.badAt a.toNat 1 l) then act else 0

/-- Does an engine operation take poisoned registers along: those whose values it has captured (R211, R215)? -/
def Group.engineMet (g : Group) (o : POp) : Bool :=
  let at_ := fun (x : BitVec 6) (n : Nat) => o.vals.any (fun e => decide (((g.sreg x.toNat).toNat + e.1 % n) * 32 + e.1 / n ∈ g.bad))
  match o.instr with
  | .mmav _ x _ _ _ _ => at_ x 1024
  | .accwr _ x _ _ _ => at_ x 64
  | _ => false

/-- The lanes in which a wave's word acts: those that its prefix mask allows (R10, R92); VSEL's mask selects (R129). -/
def Group.actLanes (g : Group) (w : Wave) (i : Instr) : Mask :=
  match w.pfx, i with
  | _, .vsel .. => w.en
  | some p, _ => w.en &&& g.kmask (p.extractLsb' 13 3).toNat
  | none, _ => w.en

/-- The error of a word that read poisoned registers: SYS_TADDR 0, the owner that of the team (R464, R465). -/
def badTrap (ctx : Nat) (lanes : Mask) : Trap :=
  { cause := 0x0E, kind := 3, addr := 0, detail := BitVec.ofNat 64 ctx, lanes := lanes }

/-- A word that read poisoned registers in the lanes of `met` completes with error: those lanes receive zero in its destinations,
and the group will trap ECCPOISON (R88, R464). -/
def State.badDone (s : State) (gid wid : Nat) (u : Uses) (en met : Mask) : State :=
  (s.updGroup gid (fun g =>
    let g := u.writes.foldl (fun g p => g.zeroLanes met p.1 p.2) g
    let g := match u.kd with | some k => g.mergeK k met 0 | none => g
    { g with errors := g.errors ++ [badTrap g.ctx met] }.setWave wid { g.wave wid with en := en })).report gid

end Sys2Proof.Machine
end

