-- ==== Sys2Proof/Machine/Issue.lean ====
section
/-! DEFINITION. Machine/Issue.lean: which word a partition issues in a clock, what a word sees of unobserved completions, the
passing of time with what it brings about, and what one move does (R38, R39, R269, R275 to R279; log entry 4). -/
namespace Sys2Proof.Machine

/-! ### Pipes (R95, R96, R269, R277) -/

/-- Pipes that may take a word (R95, R96). -/
def wordPipes (w : Word) : List Pipe :=
  let op := opByte w
  let u := op - 0x80
  if op < 0x80 then
    if op = 0x38 then [.x]
    else if 0x50 ≤ op ∧ op ≤ 0x5D then [.m]
    else if 0x60 ≤ op ∧ op ≤ 0x64 then [.e]
    else [.v0, .v1]
  else if (0x30 ≤ u ∧ u ≤ 0x34) ∨ (0x37 ≤ u ∧ u ≤ 0x3C) then [.m]
  else if (0x40 ≤ u ∧ u ≤ 0x45) ∨ (0x58 ≤ u ∧ u ≤ 0x6A) then [.e]
  else [.u]

/-- The word that a wave issues next, looking through a prefix: none at the start and at the end of a clause, which take no
issue slot (R277). -/
def Wave.nextWord (w : Wave) : Option Word :=
  match w.phase with
  | .body =>
    match w.words[w.idx]? with
    | some x => if opByte x = 0x7F then some (w.words.getD (w.idx + 1) x) else some x
    | none => none
  | _ => none

/-- Is the wave's next step the issue of a word? A prefix issues with the word that it precedes. -/
def Wave.atWord (w : Wave) : Bool := w.nextWord.isSome

/-- A word that is skipped issues nothing: a U-set word of a wave with no enabled lane (R80). -/
def Wave.skips (w : Wave) (x : Word) : Bool := x.getLsbD 31 && decide (w.en = 0#32)

/-- The wave past the words that it skips (R80). -/
def Wave.pastSkipped (w : Wave) : Wave :=
  if w.phase = .body ∧ w.en = 0#32 ∧ w.pfx.isNone then
    { w with idx := w.idx + ((w.words.drop w.idx).takeWhile (fun x => x.getLsbD 31)).length }
  else w

/-- Slices of four lanes that a mask touches (R269). -/
def slicesOf (m : Mask) : Nat := ((List.range 8).filter (fun i => decide (m.extractLsb' (4 * i) 4 ≠ 0#4))).length

/-- Clocks for which a word holds its pipe: one, and on pipe X one for each two slices with active lanes (R134, R269). -/
def holds (g : Group) (p : Pipe) : Nat :=
  match p, g.ops.getLast? with
  | .x, some o => max 1 ((slicesOf o.act + 1) / 2)
  | _, _ => 1

/-- A pipe of a partition that no word holds. -/
def Core.pipeFree (c : Core) (part : Nat) (p : Pipe) : Bool :=
  c.issued.all (fun e => decide (e.part ≠ part) || decide (e.pipe ≠ p) || decide (e.till ≤ c.cycles))

/-- A pipe is still busy with a word of an earlier clock, so that a wave that needs it is stalled (R275). -/
def Core.pipeBusy (c : Core) (part : Nat) (p : Pipe) : Bool :=
  c.issued.any (fun e => decide (e.part = part) && decide (e.pipe = p) && decide (e.at_ < c.cycles) && decide (c.cycles < e.till))

/-- Words that a partition has issued in this clock. -/
def Core.issuedNow (c : Core) (part : Nat) : List Issue :=
  c.issued.filter (fun e => decide (e.part = part) && decide (e.at_ = c.cycles))

/-! ### The choice of R278 -/

/-- A wave that may issue: its group and number, its group's SR_PRIO, its ready time, whether it is promoted. -/
structure ReadyWave where
  gid : Nat := 0
  wid : Nat := 0
  prio : Nat := 0
  readyAt : Nat := 0
  promoted : Bool := false
  deriving DecidableEq, Repr

/-- Ready waves of a partition with a word that may issue in this clock (R277, R278): not stalled, not barred by a YIELD, no
word of theirs issued in this clock, and a pipe free. -/
def State.issuable (s : State) (core part : Nat) : List ReadyWave :=
  let c := s.core core
  let now := c.issuedNow part
  if 2 ≤ now.length then []
  else s.groups.flatMap (fun e =>
    if e.2.core = core ∧ e.2.part = part then
      e.2.waves.filterMap (fun w =>
        let old := w.2.promoted || decide (w.2.readyAt + 1024 ≤ c.cycles)
        match w.2.nextWord with
        | some x =>
          if !w.2.stalled && (old || w.2.barred.isEmpty) && now.all (fun i => decide ((i.gid, i.wid) ≠ (e.1, w.1)))
              && (wordPipes x).any (c.pipeFree part) then
            some { gid := e.1, wid := w.1, prio := e.2.issuePrio, readyAt := w.2.readyAt, promoted := old }
          else none
        | none => none)
    else [])

/-- Does one wave go before another (R278)? Promoted waves go first, by ready time; then priority, and ready time. -/
def ReadyWave.precedes (a b : ReadyWave) : Bool :=
  if a.promoted != b.promoted then a.promoted
  else if !a.promoted && decide (a.prio ≠ b.prio) then decide (b.prio < a.prio)
  else if a.readyAt ≠ b.readyAt then decide (a.readyAt < b.readyAt)
  else if a.gid ≠ b.gid then decide (a.gid < b.gid)
  else decide (a.wid < b.wid)

/-- The wave that a partition issues from next in this clock (R278): of equal ones, that of the group created earlier, then the
one that holds the lowest lane. -/
def State.choice (s : State) (core part : Nat) : Option ReadyWave :=
  (s.issuable core part).foldl (fun m x => match m with
    | some y => if x.precedes y then some x else m
    | none => some x) none

/-- May the wave issue now? -/
def State.mayIssue (s : State) (gid wid : Nat) : Bool :=
  let g := s.group gid
  (s.choice g.core g.part).any (fun c => decide (c.gid = gid) && decide (c.wid = wid))

/-! ### What a word sees (R36, R38, R39) -/

/-- Change what an outcome goes on with. -/
def onNext (f : State → State) : Res → Res
  | .next s => .next (f s)
  | r => r

/-- Run an instruction of a wave: on the registers that its word read when it issued, where it has been parked since; else on
registers of which those that a completion wrote unobserved may be old. The end of a clause has observed what was charged to
flag "none". -/
def State.runPlain (s : State) (gid wid : Nat) (i : Instr) : Res :=
  let s := { s with curGroup := gid, curWave := wid }
  let g := s.group gid
  let w := g.wave wid
  if w.snap.isSome then
    onNext (fun t => t.updHeld gid (Group.unseen g wid)) (exec i (s.updGroup gid (fun g => g.seen wid)))
  else if w.phase ≠ .body then exec i s
  else
    let base := if w.nextWord.isSome then g else g.observeNone wid
    let v := s.lateView gid base
    onNext (fun t => t.lateDone gid base) (exec i v.2)

/-- Run an instruction of a wave of a group that holds poisoned registers (R464): in the lanes that read one, the word delivers zero
and completes with error. An engine operation takes the poison along; the targets of a clause's sequencing are read at its
start. A word that traps or parks has read nothing yet. -/
def State.runBad (s : State) (gid wid : Nat) (i : Instr) : Res :=
  let g := s.group gid
  let w := g.wave wid
  let plain := s.runPlain gid wid i
  match i with
  | .clauseStart =>
    onNext (fun t =>
      let x := (t.group gid).wave wid
      let f := match decodeSeq (hdrSeq x.hdr) (hdrTgt x.hdr) with
        | .ok (.calli op) | .ok (.jumpi op) => op.toNat
        | _ => 192
      let met := maskOf (fun l => inMask x.en l && g.badAt f 2 l)
      if x.phase = .body ∧ met ≠ 0#32 then t.badDone gid wid {} x.en met else t) plain
  | i =>
    let u := usesOf i (w.pfx.map (fun p => (p.extractLsb' 16 8).toNat))
    let met := g.badLanes i u (g.actLanes w i)
    let past := fun (t : State) =>
      let x := (t.group gid).wave wid
      decide (x.phase = .body) && decide (x.addr = w.addr) && decide (x.idx = w.idx + 1)
    if w.nextWord.isNone ∨ opByte w.word = 0x7F then plain
    else if met = 0#32 then
      onNext (fun t => t.updHeld gid (fun x => { x with
        ops := x.ops.map (fun o => if !g.ops.any (fun p => decide (p.id = o.id)) && g.engineMet o then { o with bad := true } else o) })) plain
    else
      let r := if u.uniform then plain else
        (s.updGroup gid (fun g => g.setWave wid { w with en := w.en &&& ~~~met })).runPlain gid wid i
      match r with
      | .next t => if past t then .next (t.badDone gid wid u w.en met) else plain
      | _ => plain

/-- Run an instruction of a wave. -/
def State.runWave (s : State) (gid wid : Nat) (i : Instr) : Res :=
  if (s.group gid).bad.isEmpty then s.runPlain gid wid i else s.runBad gid wid i

/-- Run the word that a wave has next, with the prefix that precedes it: the two issue in one clock, or neither does (R277). -/
def State.runIssue (s : State) (gid wid : Nat) (i : Instr) : Res :=
  match s.runWave gid wid i with
  | .next t =>
    if ((s.group gid).wave wid).pfx.isNone && ((t.group gid).wave wid).pfx.isSome then
      match t.waveInstr gid wid with
      | some j => onNext (fun u => if (u.group gid).waves = (t.group gid).waves then s else u) (t.runWave gid wid j)
      | none => .next t
    else .next t
  | r => r

/-- Record that a wave has issued a word: the pipe is taken, and a YIELD waits for the wave no more (R277, R279); a word that is
skipped issues nothing (R80). -/
def State.noteIssue (s t : State) (gid wid : Nat) (x : Word) : State :=
  let g := s.group gid
  let c := s.core g.core
  if (t.group gid).waves = g.waves ∨ (g.wave wid).skips x = true then t
  else
    let p := ((wordPipes x).find? (c.pipeFree g.part)).getD .u
    let e : Issue := { part := g.part, pipe := p, gid := gid, wid := wid, at_ := c.cycles, till := c.cycles + holds (t.group gid) p }
    let t := t.updCore g.core (fun c => { c with issued := c.issued ++ [e] })
    { t with groups := t.groups.map (fun e =>
        (e.1, { e.2 with waves := e.2.waves.map (fun w =>
          (w.1, { w.2 with barred := w.2.barred.filter (fun b => decide (b ≠ (gid, wid))) })) })) }

/-! ### Ready waves (R275) -/

/-- The wave's word can not issue for want of a resource (R275): nothing that it would do now moves a wave of its group, or its
pipe is busy. -/
def State.stalls (s : State) (gid wid : Nat) : Bool :=
  let g := s.group gid
  let w := g.wave wid
  if !w.atWord then false
  else match s.waveInstr gid wid, w.nextWord with
    | some i, some x =>
      (wordPipes x).all ((s.core g.core).pipeBusy g.part)
        || (match s.runIssue gid wid i with
            | .next t => decide ((t.group gid).waves = g.waves)
            | _ => false)
    | _, _ => false

/-- A word that is parked for lines of the scratchpad would go on: they are present (R184, R275). -/
def State.presenceOver (s : State) (gid wid : Nat) : Bool :=
  let s := s.unpark gid wid
  match s.waveInstr gid wid with
  | some i =>
    match s.runWave gid wid i with
    | .next t => decide (((t.group gid).wave wid).phase ≠ .parked .presence)
    | _ => true
  | none => false

/-- A wave as it stands at the end of a step: one whose wait is over is ready in this cycle (R275), and words that it skips are
behind it (R80). -/
def State.readied (s : State) (gid wid : Nat) (w : Wave) : Wave :=
  let g := s.group gid
  let now := (s.core g.core).cycles
  match w.phase with
  | .waiting => if g.waitDone w.hdr then { w with phase := .waited, readyAt := now, promoted := false } else w
  | .draining => if s.endWaits gid wid then w else { w with phase := .body, readyAt := now, promoted := false }
  | .sleeping till => if till ≤ now then { w with phase := .body, readyAt := now, promoted := false }.pastSkipped else w
  | .parked .presence =>
    if s.presenceOver gid wid then { w with phase := .body, readyAt := now, promoted := false } else w
  | .body => w.pastSkipped
  | _ => w

/-- A wave at a word is stalled while that can not issue; once it can, the wave is ready in this cycle (R275). -/
def State.stalled (s : State) (gid wid : Nat) (w : Wave) : Wave :=
  match w.phase with
  | .body =>
    let st := s.stalls gid wid
    if w.stalled && !st then { w with stalled := false, readyAt := (s.core (s.group gid).core).cycles, promoted := false }
    else { w with stalled := st }
  | _ => w

/-- Change every wave of the module. -/
def State.mapWaves (s : State) (f : Nat → Nat → Wave → Wave) : State :=
  { s with groups := s.groups.map (fun e => (e.1, { e.2 with waves := e.2.waves.map (fun w => (w.1, f e.1 w.1 w.2)) })) }

/-- Waves become ready, and a YIELD waits no more for a wave that has stopped being ready (R275, R279). -/
def State.noteReady (s : State) : State :=
  let t := s.mapWaves s.readied
  let t := t.mapWaves t.stalled
  t.mapWaves (fun _ _ w => { w with barred := w.barred.filter (fun b => ((t.group b.1).wave b.2).isReady && ((t.group b.1).wave b.2).lanes != 0#32) })

/-! ### Time (R49, R50, R276, R395, R399) -/

/-- Insert a bin into a list by timer, behind those of the same one. -/
def insertBin (b : Bin) : List Bin → List Bin
  | [] => [b]
  | x :: xs => if x.timer ≤ b.timer then x :: insertBin b xs else b :: x :: xs

/-- Bins whose timer has reached 0 in a cycle that is over are cast off, the earliest first (R398, R399). -/
def State.expireBins (s : State) (core : Nat) : State :=
  let late := (s.core core).bins.filter (fun b => b.cast.isNone && decide (b.timer ≤ (s.core core).cycles))
  if late.isEmpty then s
  else
    let order := late.foldl (fun l b => insertBin b l) []
    let rest := fun (c : Core) => c.bins.filter (fun b => !late.contains b)
    (s.updCore core (fun c => { c with bins := rest c ++ order.map (fun b => { b with cast := some 1 }) })).serveBins core

/-- What comes with new cycles: pipes that are free again, timers that have run out, blocks that have come back to their pools. -/
def State.newCycle (s : State) : State :=
  let s : State := { s with
    cores := s.cores.map (fun e => (e.1, { e.2 with issued := e.2.issued.filter (fun i => decide (e.2.cycles < i.till)) }))
    dies := s.dies.map (fun e => (e.1, { e.2 with pools := e.2.pools.map (fun p => (p.1, p.2.settle)) })) }
  ((s.cores.map (·.1)).foldl State.expireBins s).noteReady

/-- Put a step that comes at a time behind those that come no later. -/
def insertTimed (x : Nat × Act) : List (Nat × Act) → List (Nat × Act)
  | [] => [x]
  | y :: ys => if y.1 ≤ x.1 then y :: insertTimed x ys else x :: y :: ys
/-- Steps by rising time; those of one time keep their order. -/
def sortTimed (l : List (Nat × Act)) : List (Nat × Act) := l.foldl (fun a x => insertTimed x a) []

/-- Steps that the display units of a die take at a time, with that time: the control block is read, bands open, close and age,
samples are emitted, rows are sent (R367 to R377, R381, R456). -/
def Display.timed (d : Display) (die : Nat) : List (Nat × Act) :=
  (match d.block with
    | none => if d.granted.isSome then [(d.retryAt, execBlockRetry die)] else []
    | some b =>
      [(lightTime b d.nextSweep 0, execSweepBoundary die)]
        ++ d.bands.flatMap (fun e =>
          let x := e.2
          (if x.isOpen then [(cutoffTime b x.sweep e.1, execBandCutoff die e.1)]
            else if d.run && decide (16 * e.1 < bRows b) then [(openTime b x.sweep e.1, execBandOpen die e.1)] else [])
          ++ (if x.gather.isEmpty then []
            else [(if 32 ≤ x.gather.length then x.since else x.since + recField b 0x26 16 0, execWavewait die e.1)])
          ++ (if 16 * e.1 < bRows b then [(x.ageAt, execBasinAgeing die e.1)] else []))
        ++ (if d.run then [(d.tickAt, execSweepTick die)] else [])
        ++ (if d.granted.isSome then [(sendTime b (d.nextRow / bRows b) (d.nextRow % bRows b), execRowSend die)] else []))
  ++ (if (d.patternNext.or d.pattern).isSome then [(d.patternAt, execPatternSweep die)] else [])

/-- Steps of the device that come at a module time, with that time: those of the display units, retries of translations and
requests for pages (R219, R351), the flush of a delta buffer (R330), and power gating (R472). -/
def State.timed (s : State) : List (Nat × Act) :=
  s.dies.flatMap (fun e => e.2.disp.timed e.1
      ++ (e.2.launches.filterMap (·.wait) ++ e.2.hostQueues.filterMap (·.2.wait)).map (fun p => (p.retryAt, execRecordReadRetry e.1)))
    ++ s.groups.flatMap (fun e => e.2.ops.flatMap (fun o => match o.suspended with
      | some p => (p.retryAt, execPageRetry e.2.core o.id) :: (match p.again with
        | some t => [(t + 16000, execFeedbackReappend e.2.core o.id)]
        | none => [])
      | none => []))
    ++ s.cores.flatMap (fun e =>
      (if e.2.deltas.isEmpty then [] else [(e.2.deltaSince + 250, execDeltaFlushTimer e.1)])
      ++ (match e.2.wakeAt with | some t => [(t, execCorePoweredUp e.1)] | none => [])
      ++ (match e.2.idleSince with | some t => if e.2.off || e.2.gateAt.isSome then [] else [(t + 20000, execCoreIdleGate e.1)] | none => []))

/-- What comes at a cycle of a core: a sleep that ends (R161), a bin whose timer runs out (R398), the isolation of a core that is to
be gated (R472). -/
def State.cycleTimes (s : State) (core : Nat) (c : Core) : List Nat :=
  (s.groups.filter (fun e => decide (e.2.core = core))).flatMap (fun e => e.2.waves.filterMap (fun w =>
      match w.2.phase with | .sleeping t => some t | _ => none))
    ++ (c.bins.filter (·.cast.isNone)).map (·.timer) ++ (c.gateAt.map (· + 80)).toList

/-- Of `n` units of time after `now`, those up to the first instant that is still to come. -/
def upTo (now n : Nat) (ts : List Nat) : Nat := ts.foldl (fun m t => if now < t then min m (t - now) else m) n

/-- Time passes, with what it brings about. While a wave is ready at most one cycle passes at a time: a partition issues in
every clock in which it has a word to issue (R276, R278). No time passes beyond an instant at which something is to happen: a
step of the device that comes at a time, the end of a sleep, a bin's timer. -/
def State.elapse (s : State) (ns cycles : Nat) : State :=
  let busy := s.groups.any (fun e => e.2.waves.any (fun w => w.2.isReady && w.2.lanes != 0#32))
  let n := if busy then min cycles 1 else cycles
  if ns = 0 ∧ n = 0 then s
  else
    let ns := if ns = 0 then 0 else upTo s.ns ns (s.timed.map (·.1))
    let n := if n = 0 then 0 else s.cores.foldl (fun n e => upTo e.2.cycles n (s.cycleTimes e.1 e.2)) n
    if n = 0 then s.passTime ns 0 else (s.passTime ns n).newCycle

/-! ### One move -/

/-- Run what a move names: the next instruction of a wave, a step of the device, or an incident. A word runs only where its
partition chooses it (R278); a die that has stopped issues nothing (R463). A step of the device that completes an operation
leaves the registers it wrote unobserved (R39). -/
def State.runMove (s : State) : Move → Res
  | .wave g w =>
    if (s.die (dieOf (s.group g).core)).halted then .next s
    else match s.waveInstr g w with
      | some i =>
        if ((s.group g).wave w).atWord then
          if s.mayIssue g w then
            onNext (fun t => s.noteIssue t g w (((s.group g).wave w).nextWord.getD 0)) (s.runIssue g w i)
          else .next s
        else s.runWave g w i
      | none => .next s
  | .dev i =>
    if isDevice i then
      onNext (fun t => { t with groups := t.groups.map (fun e => (e.1, Group.noteLate (s.group e.1) e.2)) }) (exec i s)
    else .next s
  | .incident e => s.meetIncident e

/-- The same for a step that the device takes of its own accord. -/
def State.runAct (s : State) (m : Act) : Res :=
  onNext (fun t => { t with groups := t.groups.map (fun e => (e.1, Group.noteLate (s.group e.1) e.2)) }) (m s)

/-- Does an act change anything but which wave is current? -/
def State.changes (s : State) (m : Act) : Bool :=
  match m s with
  | .next t => decide ({ t with curGroup := s.curGroup, curWave := s.curWave } ≠ s)
  | _ => true

/-- Waves in the order of their groups. -/
def State.waveMoves (s : State) : List Move := s.groups.flatMap (fun e => e.2.waves.map (fun w => .wave e.1 w.1))

/-- Moves that come before time passes (R276, R278): a word that a partition chooses in this clock, the start or the end of the
clause of a wave that has been ready for 1024 cycles, and a step of the device whose time has come, the earliest first. -/
def State.dueMoves (s : State) : List Act :=
  let parts := (s.groups.map (fun e => (e.2.core, e.2.part))).eraseDups
  let words : List Act := parts.filterMap (fun p => (s.choice p.1 p.2).map (fun c s => s.runMove (.wave c.gid c.wid)))
  let starts : List Act := s.groups.flatMap (fun e => (e.2.waves.filter (fun w => w.2.isReady && !w.2.atWord
    && decide (w.2.readyAt + 1024 ≤ (s.core e.2.core).cycles))).map (fun w s => s.runMove (.wave e.1 w.1)))
  let units : List Act := (sortTimed (s.timed.filter (fun e => decide (e.1 ≤ s.ns)))).map (fun e s => s.runAct e.2)
  let gates : List Act := (s.cores.filter (fun e => e.2.gateAt.any (fun g => decide (g + 80 ≤ e.2.cycles)))).map
    (fun e s => s.runAct (execGateIsolation e.1))
  words ++ starts ++ units ++ gates

/-- The first of them that changes anything. -/
def State.due (s : State) : Option Act := s.dueMoves.find? s.changes

/-- Everything that may move when the agenda is empty (log entry 4): waves and the device, of which now the ones and now the
others come first, so that neither waits for ever; then a write in the queue of path M. -/
def State.defaultMoves (s : State) : List Act :=
  let waves : List Act := s.waveMoves.map (fun m s => s.runMove m)
  let device : List Act := s.deviceMoves.map (fun m s => s.runAct m)
  (if s.ns % 2 = 0 then waves ++ device else device ++ waves) ++ [fun s => s.runMove (.incident .drainM)]

/-- The end of a step: the records of fired tasks are read (R324), waves become ready (R275), and idle cores are noted (R472). -/
def State.closeStep (s : State) : State := ((s.readFired 0).readFired 1).noteReady.noteIdle

/-- A group, by core and partition, for a word that is placed: a partition where no group stands, so that it chooses the
word. -/
def State.freePart (s : State) : Nat × Nat :=
  let taken := s.groups.map (fun e => (e.2.core, e.2.part))
  (((List.range 32).flatMap (fun c => (List.range 4).map (fun p => (c, p)))).find? (fun p => !taken.contains p)).getD (0, 0)

end Sys2Proof.Machine
end

