-- ==== Sys2Proof/Machine/Step.lean ====
section
/-! DEFINITION. Machine/Step.lean: one step: what moves, after time has passed, and its instruction; and a program's next
word placed for a run (log entry 4). -/
namespace Sys2Proof.Machine

/-- The end of a step; a physical access that left a die's memory ends in its fault. -/
def settle (r : Res) : Res :=
  match r with
  | .next s => finish s.closeStep
  | r => r

/-- Does time pass before a turn? -/
def Turn.passes (t : Turn) : Bool := decide (t.ns ≠ 0) || decide (t.cycles ≠ 0)

/-- ONE STEP. The first turn of the agenda, after its time has passed; where time is to pass, what is due before it comes first,
and the turn stays. When the agenda is empty, one cycle and one ns pass, and the first of the model's own moves that changes
anything is made (log entry 4). -/
def step (s : State) : Host.Outcome State Fault Refusal :=
  match s.agenda with
  | t :: rest =>
    match if t.passes then s.due else none with
    | some m => settle (m s)
    | none => settle (({ s with agenda := rest }.elapse t.ns t.cycles).runMove t.move)
  | [] =>
    match s.due with
    | some m => settle (m s)
    | none =>
      let s := s.elapse 1 1
      match s.defaultMoves.find? s.changes with
      | some m => settle (m s)
      | none => settle (.next s)

/-- The state with an instruction where the next step fetches it: the module is in Full, a group stands at the word in a
partition of its own, and the agenda names its wave (log entry 4). -/
def State.withFetchWord (s : State) (_nbits w : Nat) : State :=
  let p := s.freePart
  { s with
    groups := tset s.groups s.nextGroup { fetchGroup (BitVec.ofNat 32 w) with core := p.1, part := p.2 }
    nextGroup := s.nextGroup + 1
    host := { s.host with service := .full }, agenda := [{ move := .wave s.nextGroup 0 }] }

end Sys2Proof.Machine
end

