-- ==== Sys2Proof/Safety.lean ====
section
/-! DEFINITION. Safety.lean: the terms that statements about the machine use: what a word leaves unchanged, what a word's
lanes and its prefix are, the results that the manual's tables give, and when an access meets its page. -/
namespace Sys2Proof.Machine

/-! ### What a word leaves unchanged -/

/-- NOTHING OUTSIDE THE CURRENT GROUP CHANGES: no other group, core, die, context, team or grid, and no byte of any memory.
`free` is the model's own count of free values (log entry 1). -/
def State.SameButGroup (s t : State) : Prop :=
  t = { s with groups := t.groups, free := t.free } ∧ (∀ h, h ≠ s.curGroup → t.group h = s.group h)
    ∧ ∀ key, t.homeByte key = s.homeByte key

/-- An unobserved completion without the marks that the running word leaves on it. -/
def Late.base (e : Late) : Late := { e with wr := 0, done := false }

/-- A WORD HAS BEEN DONE. Nothing outside the current group has changed; the group is `g` but for its waves, of which only
the current one has changed: it has moved on to its next word. Of the completions that are still unobserved the model's own
marks alone change: which bits of their registers the word has written, and whether it has observed their flags (R39). -/
def State.WordDone (s t : State) (g : Group) : Prop :=
  s.SameButGroup t ∧ t.cg = { g with waves := t.cg.waves, late := t.cg.late } ∧ t.cg.late.map Late.base = s.cg.late.map Late.base
    ∧ t.cw = { s.cw with idx := s.cw.idx + 1, pfx := none, readyAt := (s.core s.cg.core).cycles, promoted := false }
    ∧ ∀ w, w ≠ s.curWave → t.cg.wave w = s.cg.wave w

/-- A WORD HAS BEEN SKIPPED (R80): the wave stands at its next word, and nothing else has changed. -/
def State.WordSkipped (s t : State) : Prop :=
  s.SameButGroup t ∧ t.cg = { s.cg with waves := t.cg.waves } ∧ t.cw = { s.cw with idx := s.cw.idx + 1, pfx := none }
    ∧ ∀ w, w ≠ s.curWave → t.cg.wave w = s.cg.wave w

/-! ### V-set words (R28, R91, R92, R117) -/

/-- What a V-set word sees of its lanes: `none` when it takes no such prefix, or needs one and has none. `d` is the field
that the third source names without a prefix (R91, R92). -/
def State.laneView (s : State) (h : Honours) (d : Nat) : Option VIn :=
  match s.cw.pfx with
  | none => if h.need then none else some { en := s.cw.en, act := s.cw.en, c := d }
  | some w =>
    let p := gpfx w
    if p.ok h s.cg.n then
      some { en := s.cw.en, act := s.cw.en &&& s.cg.kmask p.km, p := p, c := p.c
             zero := if p.z then s.cw.en &&& ~~~s.cg.kmask p.km else 0 }
    else none

/-- A V-set word that writes `n` v-registers from `d`: what it honours of a prefix, the source fields with the registers
each names, and the value of a lane with its rounding generator afterwards. -/
structure LaneRule where
  h : Honours := {}
  srcs : List (Byte × Nat) := []
  d : Byte := 0
  n : Nat := 1
  val : VIn → Group → Nat → Word → Nat × Word

/-- The fields of a V-set word decode (R28, R29). -/
def LaneRule.fits (r : LaneRule) (g : Group) : Prop :=
  dstOk g.n r.d.toNat r.n = true ∧ ∀ p ∈ r.srcs, srcOk g.n p.1.toNat p.2 = true

/-- WHAT A V-SET WORD DOES (R117): every active lane receives its result, a lane masked under z zero; no other register
of any lane changes, and of the lanes' hidden state only the rounding generator of active lanes. A poisoned register that it
writes is poisoned no more (R464). -/
def LaneRule.Done (r : LaneRule) (x : VIn) (s t : State) : Prop :=
  s.WordDone t { s.cg with v := t.cg.v, bad := t.cg.bad, lanes := t.cg.lanes }
    ∧ (∀ k l, l < 32 → (k * 32 + l ∈ t.cg.bad ↔ k * 32 + l ∈ s.cg.bad
        ∧ ¬ (r.d.toNat ≤ k ∧ k < r.d.toNat + r.n ∧ (inMask x.zero l ∨ inMask x.act l))))
    ∧ (∀ k l, l < 32 → t.cg.vreg k l =
        if r.d.toNat ≤ k ∧ k < r.d.toNat + r.n ∧ inMask x.zero l then 0
        else if r.d.toNat ≤ k ∧ k < r.d.toNat + r.n ∧ inMask x.act l then
          BitVec.ofNat 32 ((r.val x s.cg l (s.cg.lane l).gen).1 / 2 ^ (32 * (k - r.d.toNat)))
        else s.cg.vreg k l)
    ∧ ∀ l, l < 32 → t.cg.lane l =
        if inMask x.act l then { s.cg.lane l with gen := (r.val x s.cg l (s.cg.lane l).gen).2 } else s.cg.lane l

/-- A value that makes no draw. -/
def plain (f : VIn → Group → Nat → Nat) : VIn → Group → Nat → Word → Nat × Word := fun x g l gen => (f x g l, gen)

/-- The least residue of an integer as 32 bits, or its nearest signed 32-bit value when it saturates (R116). -/
def int32 (sat : Bool) (i : Int) : Nat :=
  if sat then (if i < -(2 ^ 31) then 2 ^ 31 else if 2 ^ 31 ≤ i then 2 ^ 31 - 1 else (i % 2 ^ 32).toNat)
  else (i % 2 ^ 32).toNat

/-- The same for 64 bits. -/
def int64 (sat : Bool) (i : Int) : Nat :=
  if sat then (if i < -(2 ^ 63) then 2 ^ 63 else if 2 ^ 63 ≤ i then 2 ^ 63 - 1 else (i % 2 ^ 64).toNat)
  else (i % 2 ^ 64).toNat

/-- A lane integer word of two sources without saturation. -/
def lane2 (d a b : Byte) (f : Word → Word → Nat) : LaneRule :=
  { srcs := [(a, 1), (b, 1)], d := d, val := plain (fun _ g l => f (g.src a.toNat l) (g.src b.toNat l)) }

/-- A lane integer word of one source. -/
def lane1 (d a : Byte) (f : Word → Nat) : LaneRule :=
  { srcs := [(a, 1)], d := d, val := plain (fun _ g l => f (g.src a.toNat l)) }

/-- THE LANE INTEGER WORDS (R120 to R127): each with its result in exact arithmetic on the sources. -/
inductive LaneIntRule : Instr → LaneRule → Prop where
  | vadd {d a b} : LaneIntRule (.vadd d a b)
      ({ h := { sat := true }, srcs := [(a, 1), (b, 1)], d := d,
         val := plain (fun x g l => int32 x.p.sat ((g.src a.toNat l).toInt + (g.src b.toNat l).toInt)) })
  | vsub {d a b} : LaneIntRule (.vsub d a b)
      ({ h := { sat := true }, srcs := [(a, 1), (b, 1)], d := d,
         val := plain (fun x g l => int32 x.p.sat ((g.src a.toNat l).toInt - (g.src b.toNat l).toInt)) })
  | vmul {d a b} : LaneIntRule (.vmul d a b)
      (lane2 d a b (fun x y => x.toNat * y.toNat % 2 ^ 32))
  | vmulh {d a b} : LaneIntRule (.vmulh d a b)
      (lane2 d a b (fun x y => int32 false (x.toInt * y.toInt / 2 ^ 32)))
  | vmulhu {d a b} : LaneIntRule (.vmulhu d a b)
      (lane2 d a b (fun x y => x.toNat * y.toNat / 2 ^ 32))
  | vmad {d a b} : LaneIntRule (.vmad d a b)
      ({ h := { c := 1, sat := true }, srcs := [(a, 1), (b, 1)], d := d,
         val := plain (fun x g l => int32 x.p.sat
        ((g.src a.toNat l).toInt * (g.src b.toNat l).toInt + (g.src x.c l).toInt)) })
  | vmin {d a b} : LaneIntRule (.vmin d a b)
      (lane2 d a b (fun x y => if x.toInt ≤ y.toInt then x.toNat else y.toNat))
  | vmax {d a b} : LaneIntRule (.vmax d a b)
      (lane2 d a b (fun x y => if x.toInt ≤ y.toInt then y.toNat else x.toNat))
  | vminu {d a b} : LaneIntRule (.vminu d a b)
      (lane2 d a b (fun x y => min x.toNat y.toNat))
  | vmaxu {d a b} : LaneIntRule (.vmaxu d a b)
      (lane2 d a b (fun x y => max x.toNat y.toNat))
  | vand {d a b} : LaneIntRule (.vand d a b)
      (lane2 d a b (fun x y => (x &&& y).toNat))
  | vor {d a b} : LaneIntRule (.vor d a b)
      (lane2 d a b (fun x y => (x ||| y).toNat))
  | vxor {d a b} : LaneIntRule (.vxor d a b)
      (lane2 d a b (fun x y => (x ^^^ y).toNat))
  | vandn {d a b} : LaneIntRule (.vandn d a b)
      (lane2 d a b (fun x y => (x &&& ~~~y).toNat))
  | vshl {d a b} : LaneIntRule (.vshl d a b)
      (lane2 d a b (fun x y => if y.toNat < 32 then x.toNat * 2 ^ y.toNat % 2 ^ 32 else 0))
  | vshr {d a b} : LaneIntRule (.vshr d a b)
      (lane2 d a b (fun x y => if y.toNat < 32 then x.toNat / 2 ^ y.toNat else 0))
  | vsar {d a b} : LaneIntRule (.vsar d a b)
      (lane2 d a b (fun x y =>
        if y.toNat < 32 then int32 false (x.toInt / 2 ^ y.toNat) else if x.toInt < 0 then 2 ^ 32 - 1 else 0))
  | vrol {d a b} : LaneIntRule (.vrol d a b)
      (lane2 d a b (fun x y =>
        x.toNat * 2 ^ (y.toNat % 32) % 2 ^ 32 + x.toNat / 2 ^ (32 - y.toNat % 32)))
  | vbfxu {d a b} : LaneIntRule (.vbfxu d a b)
      (lane2 d a b (fun x y => (bfxu x y).toNat))
  | vbfxs {d a b} : LaneIntRule (.vbfxs d a b)
      (lane2 d a b (fun x y => (bfxs x y).toNat))
  | vbfi {d a b} : LaneIntRule (.vbfi d a b)
      ({ h := { c := 1 }, srcs := [(a, 1), (b, 1)], d := d,
         val := plain (fun x g l => (bfi (g.src a.toNat l) (g.src b.toNat l) (g.src x.c l)).toNat) })
  | vperm {d a b} : LaneIntRule (.vperm d a b)
      (lane2 d a b (fun x y => (perm x y).toNat))
  | vadd64 {d a b} : LaneIntRule (.vadd64 d a b)
      ({ h := { sat := true }, srcs := [(a, 2), (b, 2)], d := d, n := 2,
         val := plain (fun x g l => int64 x.p.sat ((g.src64 a.toNat l).toInt + (g.src64 b.toNat l).toInt)) })
  | vmulw {d a b} : LaneIntRule (.vmulw d a b)
      ({ srcs := [(a, 1), (b, 1)], d := d, n := 2,
         val := plain (fun _ g l => int64 false ((g.src a.toNat l).toInt * (g.src b.toNat l).toInt)) })
  | vaddi {d a i} : LaneIntRule (.vaddi d a i)
      ({ h := { sat := true }, srcs := [(a, 1)], d := d,
         val := plain (fun x g l => int32 x.p.sat ((g.src a.toNat l).toInt + i.toInt)) })
  | vshli {d a i} : LaneIntRule (.vshli d a i)
      (lane1 d a (fun x => x.toNat * 2 ^ i.toNat % 2 ^ 32))
  | vshri {d a i} : LaneIntRule (.vshri d a i)
      (lane1 d a (fun x => x.toNat / 2 ^ i.toNat))
  | vsari {d a i} : LaneIntRule (.vsari d a i)
      (lane1 d a (fun x => int32 false (x.toInt / 2 ^ i.toNat)))
  | vandi {d a i} : LaneIntRule (.vandi d a i)
      (lane1 d a (fun x => (x &&& i.setWidth 32).toNat))
  | vmovi {d i} : LaneIntRule (.vmovi d i)
      ({ d := d, val := plain (fun _ _ _ => int32 false i.toInt) })
  | vmovhi {d i} : LaneIntRule (.vmovhi d i)
      ({ d := d, val := plain (fun _ g l => i.toNat * 2 ^ 16 + (g.vreg d.toNat l).toNat % 2 ^ 16) })
  | viunLane {d f} : f = .lane ∨ f = .slice →
      LaneIntRule (.viun d 0 f) { d := d, val := plain (fun _ _ l => if f = .lane then l else l / 4) }
  | viun {d a f} : f ≠ .lane → f ≠ .slice →
      LaneIntRule (.viun d a f) { h := { sat := decide (f = .neg) || decide (f = .abs) }, srcs := [(a, 1)], d := d
                                  val := plain (fun x g l => (iun f x.p.sat l (g.src a.toNat l)).toNat) }
  | vshfl {d a b} : LaneIntRule (.vshfl d a b)
      ({ srcs := [(a, 1), (b, 1)], d := d,
         val := plain (fun _ g l =>
        let j := (g.src b.toNat l).toNat % 32
        if j < g.width then (g.src a.toNat j).toNat else 0) })
  | vshfli {d a m i} : LaneIntRule (.vshfli d a m i)
      ({ srcs := [(a, 1)], d := d,
         val := plain (fun _ g l => (g.src a.toNat (shfliLane m i.toNat g.width l)).toNat) })

/-! ### Integer reductions and scans (R71, R72, R118, R132, R133) -/

/-- Lanes of a mask below `n`. -/
def lanesBelow (m : Mask) (n : Nat) : List Nat := (lanesOf m).filter (fun l => decide (l < n))

/-- The integer reductions and scans, each as the plain fold of its operation over active lanes in ascending order. -/
inductive LaneFoldRule : Instr → LaneRule → Prop where
  | vired {d a f} : LaneFoldRule (.vired d a f)
      ({ srcs := [(a, 1)], d := d,
         val := plain (fun x g _ => (((lanesOf x.act).map (fun l => g.src a.toNat l)).foldl
        (iredOp f).1 (iredOp f).2).toNat) })
  | viscan {d a f} : LaneFoldRule (.viscan d a f)
      ({ srcs := [(a, 1)], d := d,
         val := plain (fun x g l => (((lanesBelow x.act (if f = .addexc then l else l + 1)).map
        (fun l => g.src a.toNat l)).foldl (iscanOp f).1 (iscanOp f).2).toNat) })


/-! ### Clause ends -/

/-- The twelve ends of a clause (R81). -/
inductive ClauseEnd : Instr → Prop where
  | next : ClauseEnd .next
  | jump {off} : ClauseEnd (.jump off)
  | branch {off} : ClauseEnd (.branch off)
  | loop {c off} : ClauseEnd (.loop c off)
  | call {off} : ClauseEnd (.call off)
  | calli {op} : ClauseEnd (.calli op)
  | ret : ClauseEnd .ret
  | jumpi {op} : ClauseEnd (.jumpi op)
  | meet {off} : ClauseEnd (.meet off)
  | exit : ClauseEnd .exit
  | yield : ClauseEnd .yield
  | trapif {code} : ClauseEnd (.trapif code)

/-! ### U-set words (R151 to R158) -/

/-- A uniform word that writes one s-register: its number and its value, in exact arithmetic on what it reads (R152 to
R154, R158). -/
inductive UniformRule (en : Mask) : Instr → BitVec 6 → (Group → Nat) → Prop where
  | sadd {d a b} : UniformRule en (.sadd d a b) d (fun g => ((g.sreg a.toNat).toNat + (g.sreg b.toNat).toNat) % 2 ^ 32)
  | ssub {d a b} : UniformRule en (.ssub d a b) d (fun g => int32 false ((g.sreg a.toNat).toInt - (g.sreg b.toNat).toInt))
  | smul {d a b} : UniformRule en (.smul d a b) d (fun g => (g.sreg a.toNat).toNat * (g.sreg b.toNat).toNat % 2 ^ 32)
  | smulh {d a b} : UniformRule en (.smulh d a b) d (fun g => int32 false ((g.sreg a.toNat).toInt * (g.sreg b.toNat).toInt / 2 ^ 32))
  | sand {d a b} : UniformRule en (.sand d a b) d (fun g => (g.sreg a.toNat &&& g.sreg b.toNat).toNat)
  | sor {d a b} : UniformRule en (.sor d a b) d (fun g => (g.sreg a.toNat ||| g.sreg b.toNat).toNat)
  | sxor {d a b} : UniformRule en (.sxor d a b) d (fun g => (g.sreg a.toNat ^^^ g.sreg b.toNat).toNat)
  | sshl {d a b} : UniformRule en (.sshl d a b) d (fun g =>
      if (g.sreg b.toNat).toNat < 32 then (g.sreg a.toNat).toNat * 2 ^ (g.sreg b.toNat).toNat % 2 ^ 32 else 0)
  | sshr {d a b} : UniformRule en (.sshr d a b) d (fun g =>
      if (g.sreg b.toNat).toNat < 32 then (g.sreg a.toNat).toNat / 2 ^ (g.sreg b.toNat).toNat else 0)
  | ssar {d a b} : UniformRule en (.ssar d a b) d (fun g =>
      if (g.sreg b.toNat).toNat < 32 then int32 false ((g.sreg a.toNat).toInt / 2 ^ (g.sreg b.toNat).toNat)
      else if (g.sreg a.toNat).toInt < 0 then 2 ^ 32 - 1 else 0)
  | smin {d a b} : UniformRule en (.smin d a b) d (fun g =>
      if (g.sreg a.toNat).toInt ≤ (g.sreg b.toNat).toInt then (g.sreg a.toNat).toNat else (g.sreg b.toNat).toNat)
  | smax {d a b} : UniformRule en (.smax d a b) d (fun g =>
      if (g.sreg a.toNat).toInt ≤ (g.sreg b.toNat).toInt then (g.sreg b.toNat).toNat else (g.sreg a.toNat).toNat)
  | sminu {d a b} : UniformRule en (.sminu d a b) d (fun g => min (g.sreg a.toNat).toNat (g.sreg b.toNat).toNat)
  | smaxu {d a b} : UniformRule en (.smaxu d a b) d (fun g => max (g.sreg a.toNat).toNat (g.sreg b.toNat).toNat)
  | saddi {d a i} : UniformRule en (.saddi d a i) d (fun g => int32 false ((g.sreg a.toNat).toInt + i.toInt))
  | sandi {d a i} : UniformRule en (.sandi d a i) d (fun g => (g.sreg a.toNat &&& i.setWidth 32).toNat)
  | sori {d a i} : UniformRule en (.sori d a i) d (fun g => (g.sreg a.toNat ||| i.setWidth 32).toNat)
  | sxori {d a i} : UniformRule en (.sxori d a i) d (fun g => (g.sreg a.toNat ^^^ i.setWidth 32).toNat)
  | sshli {d a i} : UniformRule en (.sshli d a i) d (fun g => (g.sreg a.toNat).toNat * 2 ^ i.toNat % 2 ^ 32)
  | sshri {d a i} : UniformRule en (.sshri d a i) d (fun g => (g.sreg a.toNat).toNat / 2 ^ i.toNat)
  | smovi {d i} : UniformRule en (.smovi d i) d (fun _ => int32 false i.toInt)
  | slui {d i} : UniformRule en (.slui d i) d (fun g => i.toNat * 2 ^ 14 + (g.sreg d.toNat).toNat % 2 ^ 14)
  | sun {d a f} : UniformRule en (.sun d a f) d (fun g => (sunFn f (g.sreg a.toNat)).toNat)
  | ssel {d a b q} : UniformRule en (.ssel d a b q) d (fun g => (if g.qbit q.toNat then g.sreg a.toNat else g.sreg b.toNat).toNat)
  | sballot {d n} : UniformRule en (.sballot d n) d (fun g => (en &&& g.kmask n.toNat).toNat)
  | skmov {d n} : UniformRule en (.skmov d n) d (fun g => (g.kmask n.toNat).toNat % 2 ^ min g.width 32)
  | sfirst {d n} : UniformRule en (.sfirst d n) d (fun g =>
      ((List.range 32).find? (fun l => en.getLsbD l && (g.kmask n.toNat).getLsbD l)).getD 32)

/-- The word runs: the wave has an enabled lane (R80, R151). -/
def State.Enabled (s : State) : Prop := s.cw.en ≠ 0#32

/-- Only s-registers `d` to `d + n − 1` of the group may have changed. -/
def State.WroteS (s t : State) (d n : Nat) : Prop :=
  s.WordDone t { s.cg with s := t.cg.s } ∧ ∀ r, ¬ (d ≤ r ∧ r < d + n) → t.cg.sreg r = s.cg.sreg r

/-! ### Lane floating point (R134 to R147) -/

/-- What a lane arithmetic word of FP32 honours of a prefix (R136). -/
def fArith (c : Nat) : Honours := { c := c, rm := true, sat := true, mods := true }

/-- FP32 value of the first source after its sign changes, and of another source (R137). -/
def numA (x : VIn) (g : Group) (a : Byte) (l : Nat) : Machine.Num := fp32.decode (fmods x.p fp32 (g.src a.toNat l).toNat)
/-- The exact value of a source. -/
def numB (g : Group) (f l : Nat) : Machine.Num := fp32.decode (g.src f l).toNat
/-- The exact value of element `e` of a packed source. -/
def elemNum (fmt : Fmt) (w : Word) (e : Nat) : Machine.Num := fmt.decode (w.toNat / 2 ^ (16 * e) % 2 ^ 16)
/-- The same after the sign changes of the first source (R137, R144). -/
def elemNumA (fmt : Fmt) (p : GPfx) (w : Word) (e : Nat) : Machine.Num :=
  fmt.decode (fmods p fmt (w.toNat / 2 ^ (16 * e) % 2 ^ 16))

/-- An exact value rounded once as the prefix asks (R137). -/
def rounded (fmt : Fmt) (x : VIn) (v : Machine.Num) (gen : Word) : Nat × Word :=
  fmt.round v { mode := x.p.rm, sat := x.p.sat, gen := gen }

/-- Element 0 rounded first, then element 1 with the generator that is left (R69, R144). -/
def roundedPair (fmt : Fmt) (x : VIn) (v : Nat → Machine.Num) (gen : Word) : Nat × Word :=
  let lo := rounded fmt x (v 0) gen
  let hi := rounded fmt x (v 1) lo.2
  (lo.1 + 2 ^ 16 * hi.1, hi.2)

/-- THE LANE FLOATING-POINT WORDS (R138 to R146): each with the exact value that it rounds once. -/
inductive LaneFloatRule : Instr → LaneRule → Prop where
  | vfadd {d a b} : LaneFloatRule (.vfadd d a b)
      { h := fArith 0, srcs := [(a, 1), (b, 1)], d := d
        val := fun x g l => rounded fp32 x ((numA x g a l).add x.p.rdn (numB g b.toNat l)) }
  | vfsub {d a b} : LaneFloatRule (.vfsub d a b)
      { h := fArith 0, srcs := [(a, 1), (b, 1)], d := d
        val := fun x g l => rounded fp32 x ((numA x g a l).add x.p.rdn (numB g b.toNat l).neg) }
  | vfmul {d a b} : LaneFloatRule (.vfmul d a b)
      { h := fArith 0, srcs := [(a, 1), (b, 1)], d := d
        val := fun x g l => rounded fp32 x ((numA x g a l).mul (numB g b.toNat l)) }
  | vfma {d a b} : LaneFloatRule (.vfma d a b)
      { h := fArith 1, srcs := [(a, 1), (b, 1)], d := d
        val := fun x g l => rounded fp32 x (((numA x g a l).mul (numB g b.toNat l)).add x.p.rdn (numB g x.c l)) }
  | vfmin {d a b} : LaneFloatRule (.vfmin d a b)
      { h := { mods := true }, srcs := [(a, 1), (b, 1)], d := d
        val := plain (fun x g l => fp32.minNum (fmods x.p fp32 (g.src a.toNat l).toNat) (g.src b.toNat l).toNat) }
  | vfmax {d a b} : LaneFloatRule (.vfmax d a b)
      { h := { mods := true }, srcs := [(a, 1), (b, 1)], d := d
        val := plain (fun x g l => fp32.maxNum (fmods x.p fp32 (g.src a.toNat l).toNat) (g.src b.toNat l).toNat) }
  | vflerp {d a b} : LaneFloatRule (.vflerp d a b)
      { h := fArith 1, srcs := [(a, 1), (b, 1)], d := d
        val := fun x g l gen => lerp x.p.rdn (fmods x.p fp32 (g.src a.toNat l).toNat) (g.src b.toNat l).toNat
          (g.src x.c l).toNat { mode := x.p.rm, sat := x.p.sat, gen := gen } }
  | vfun {d a f} : LaneFloatRule (.vfun d a f)
      { h := { rm := decide (f = .rint), mods := true }, srcs := [(a, 1)], d := d
        val := fun x g l gen => funFn f (fmods x.p fp32 (g.src a.toNat l).toNat) { mode := x.p.rm, sat := x.p.sat, gen := gen } }
  | vhadd {d a b} : LaneFloatRule (.vhadd d a b)
      { h := fArith 0, srcs := [(a, 1), (b, 1)], d := d
        val := fun x g l => roundedPair fp16 x (fun e =>
          (elemNumA fp16 x.p (g.src a.toNat l) e).add x.p.rdn (elemNum fp16 (g.src b.toNat l) e)) }
  | vhmul {d a b} : LaneFloatRule (.vhmul d a b)
      { h := fArith 0, srcs := [(a, 1), (b, 1)], d := d
        val := fun x g l => roundedPair fp16 x (fun e =>
          (elemNumA fp16 x.p (g.src a.toNat l) e).mul (elemNum fp16 (g.src b.toNat l) e)) }
  | vhfma {d a b} : LaneFloatRule (.vhfma d a b)
      { h := fArith 1, srcs := [(a, 1), (b, 1)], d := d
        val := fun x g l => roundedPair fp16 x (fun e =>
          ((elemNumA fp16 x.p (g.src a.toNat l) e).mul (elemNum fp16 (g.src b.toNat l) e)).add x.p.rdn
            (elemNum fp16 (g.src x.c l) e)) }
  | vhmin {d a b} : LaneFloatRule (.vhmin d a b)
      { h := { mods := true }, srcs := [(a, 1), (b, 1)], d := d
        val := plain (fun x g l =>
          let m := fun (e : Nat) => fp16.minNum (fmods x.p fp16 ((g.src a.toNat l).toNat / 2 ^ (16 * e) % 2 ^ 16))
            ((g.src b.toNat l).toNat / 2 ^ (16 * e) % 2 ^ 16)
          m 0 + 2 ^ 16 * m 1) }
  | vhmax {d a b} : LaneFloatRule (.vhmax d a b)
      { h := { mods := true }, srcs := [(a, 1), (b, 1)], d := d
        val := plain (fun x g l =>
          let m := fun (e : Nat) => fp16.maxNum (fmods x.p fp16 ((g.src a.toNat l).toNat / 2 ^ (16 * e) % 2 ^ 16))
            ((g.src b.toNat l).toNat / 2 ^ (16 * e) % 2 ^ 16)
          m 0 + 2 ^ 16 * m 1) }
  | vbadd {d a b} : LaneFloatRule (.vbadd d a b)
      { h := fArith 0, srcs := [(a, 1), (b, 1)], d := d
        val := fun x g l => roundedPair bf16 x (fun e =>
          (elemNumA bf16 x.p (g.src a.toNat l) e).add x.p.rdn (elemNum bf16 (g.src b.toNat l) e)) }
  | vbmul {d a b} : LaneFloatRule (.vbmul d a b)
      { h := fArith 0, srcs := [(a, 1), (b, 1)], d := d
        val := fun x g l => roundedPair bf16 x (fun e =>
          (elemNumA bf16 x.p (g.src a.toNat l) e).mul (elemNum bf16 (g.src b.toNat l) e)) }
  | vbfma {d a b} : LaneFloatRule (.vbfma d a b)
      { h := fArith 1, srcs := [(a, 1), (b, 1)], d := d
        val := fun x g l => roundedPair bf16 x (fun e =>
          ((elemNumA bf16 x.p (g.src a.toNat l) e).mul (elemNum bf16 (g.src b.toNat l) e)).add x.p.rdn
            (elemNum bf16 (g.src x.c l) e)) }
  | vhdot {d a b} : LaneFloatRule (.vhdot d a b)
      { h := fArith 0, srcs := [(a, 1), (b, 1)], d := d
        val := fun x g l =>
          let p := fun (e : Nat) => (elemNumA fp16 x.p (g.src a.toNat l) e).mul (elemNum fp16 (g.src b.toNat l) e)
          rounded fp32 x (((fp32.decode (g.vreg d.toNat l).toNat).add x.p.rdn (p 0)).add x.p.rdn (p 1)) }

/-- THE CONVERSIONS of VCVT (R146) to and from integers and between FP32 and the half of a register. -/
inductive LaneCvtRule : Instr → LaneRule → Prop where
  | toInt {d a f lo hi} : (f, lo, hi) ∈ [(CvtFn.f2i, -(2 ^ 31 : Int), (2 ^ 31 - 1 : Int)), (.f2u, 0, 2 ^ 32 - 1)] →
      LaneCvtRule (.vcvt d a f)
        { h := { rm := true, mods := true }, srcs := [(a, 1)], d := d
          val := fun x g l gen =>
            let v := toIntSat (numA x g a l) lo hi { mode := x.p.rm, sat := x.p.sat, gen := gen }
            ((v.1 % 2 ^ 32).toNat, v.2) }
  | ofInt {d a f} : f = .i2f ∨ f = .u2f → LaneCvtRule (.vcvt d a f)
        { h := { rm := true }, srcs := [(a, 1)], d := d
          val := fun x g l => rounded fp32 x
            (if f = .i2f then .ofInt (g.src a.toNat l).toInt else .fin false (g.src a.toNat l).toNat 1) }
  | narrow {d a f fmt hi} : (f, fmt, hi) ∈ [(CvtFn.f2hlo, fp16, false), (.f2hhi, fp16, true), (.f2blo, bf16, false),
      (.f2bhi, bf16, true)] → LaneCvtRule (.vcvt d a f)
        { h := { rm := true, sat := true, mods := true }, srcs := [(a, 1)], d := d
          val := fun x g l gen =>
            let v := rounded fmt x (numA x g a l) gen
            let old := (g.vreg d.toNat l).toNat
            (if hi then old % 2 ^ 16 + 2 ^ 16 * v.1 else old - old % 2 ^ 16 + v.1, v.2) }
  | widen {d a f fmt e} : (f, fmt, e) ∈ [(CvtFn.h2flo, fp16, 0), (.h2fhi, fp16, 1), (.b2flo, bf16, 0), (.b2fhi, bf16, 1)] →
      LaneCvtRule (.vcvt d a f)
        { h := { mods := true }, srcs := [(a, 1)], d := d
          val := plain (fun x g l => (fp32.round (elemNumA fmt x.p (g.src a.toNat l) e) {}).1) }

/-- A V-set word of three sources and four destination registers, the reservoir (R148): its fields decode. -/
def reservoirFits (g : Group) (d a b : Byte) (ka : Nat) : Prop :=
  dstOk g.n d.toNat 4 = true ∧ srcOk g.n a.toNat ka = true ∧ srcOk g.n b.toNat 1 = true

/-- What the reservoir words honour: the third source, which they need (R149, R150). -/
def reservoirHonours : Honours := { c := 1, z := false, need := true }

/-! ### Accesses that meet their page (R76, R180, R408 to R412) -/

/-- The core holds the translation of a VA, its page is present and allows the access, and the bits that the access would
set are set: the access is made at the physical key `key` and changes no translation. -/
def State.Maps (s : State) (core ctx : Nat) (user sampler : Bool) (want : Want) (va key : Nat) : Prop :=
  ∃ t, ((s.core core).held sampler).find? (fun t => t.hits (dieOf core) ctx va) = some t ∧ pteP t.leaf = true
    ∧ t.leaf.getLsbD 5 = true
    ∧ (want = .write → t.leaf.getLsbD 6 = true ∧ pteW t.leaf = true ∧ pteReplica t.leaf = false)
    ∧ (want = .fetch → pteX t.leaf = true) ∧ (user = true → pteUser t.leaf = true) ∧ t.key va = key

/-- `n` bytes at a physical key lie in memory that the module reaches: inside the LPDDR6 of a die, at the host, or at a
peer that has a port; they are all of one home. -/
def State.Reachable (s : State) (key n : Nat) : Prop :=
  s.unreachable key = false ∧ s.unreachable (key + n - 1) = false ∧ key % 2 ^ 48 + n ≤ if key / 2 ^ 48 < 2 then lpddrBytes else 2 ^ 48

/-- A cache of a core holds every line of `n` bytes at a key, each as its home has it unless the cache is the L1, and `v` is
their value. -/
def State.Cached (s : State) (core : Nat) (k : CacheSel) (key n v : Nat) : Prop :=
  (∀ l ∈ linesOf key n, (tget? ((s.core core).cache k) l).isSome
      ∧ (k ≠ .l1 → tget? ((s.core core).cache k) l = some (s.homeBytes (l * 128) 128))) ∧ s.Reachable key n
    ∧ v = leNat ((List.range n).map (fun i => s.cachedByte core k (key + i)))

/-! ### Clauses (R79, R81, R268) -/

/-- The current wave may start its clause: it has lanes, none of which is at its meeting point or resumes inside it, and
the clause at its PC is fetched whole, whatever else the group holds, and leaves no trace. -/
def State.Fetches (s : State) (h : DWord) (ws : List Word) : Prop :=
  let w := s.cw
  let pc := (s.cg.lane (lowLane w.lanes)).pc
  w.phase = .start ∧ w.lanes ≠ 0#32 ∧ w.resumed = false ∧ s.cg.meetLanes w.lanes pc = 0#32
    ∧ s.fetchClause s.cg.core s.cg.ctx (!s.cg.sup) pc = (.ok (h, ws, none), s) ∧ s.fetchWaits s.curGroup pc.toNat = false ∧ s.cg.late = []

/-- No wave of a group but `wid` is held at a meeting point, and each has lanes of its own. -/
def Group.OthersUnheld (g : Group) (wid : Nat) : Prop :=
  ∀ e ∈ g.waves, e.1 ≠ wid → e.2.phase ≠ .held ∧ e.2.lanes &&& (g.wave wid).lanes = 0#32

/-- Nothing waits for the group's next clause boundary: no trap entry is under way, no error or PREEMPT is pending, no wave is
held at a meeting point, no completion is unobserved, and it is not ending. -/
def Group.Quiet (g : Group) : Prop :=
  g.entering = none ∧ g.errors = [] ∧ g.preempt = none ∧ g.exiting = false ∧ g.late = [] ∧ ∀ e ∈ g.waves, e.2.phase ≠ .held

/-- The current wave stands at the end of its clause with live lanes, the end waits for nothing, no inline task is due, and
nothing waits for the boundary. -/
def State.AtEnd (s : State) : Prop :=
  s.stop = none ∧ s.endWaits s.curGroup s.curWave = false ∧ s.cw.inl = none ∧ s.cg.Quiet ∧ s.cw.lanes ≠ 0#32
    ∧ s.cw.lanes &&& ~~~s.cg.live = 0#32

/-- The waves that lanes form at a clause boundary: one for each PC, in place of the wave they were in (R268). -/
def Group.formed (g : Group) (wid : Nat) (lanes : Mask) (now : Nat) (barred : List (Nat × Nat)) : Tab Wave :=
  (groupLanes (fun l => (g.lane l).pc) lanes).foldl
    (fun t m => tset t (lowLane m) { lanes := m, phase := .start, readyAt := now, barred := barred }) (tdel g.waves wid)

/-- Where a lane goes at the end of a clause (R81, R82, R83): `none` for the ends that say it in another way. -/
def endPc (i : Instr) (s : State) (l : Nat) : Option (BitVec 52) :=
  let w := s.cw
  let seq := seqOf w.addr w.hdr
  let e := inMask w.en l
  match i with
  | .next | .yield | .meet _ => some seq
  | .jump off | .branch off => some (if e then directTarget w.addr off else seq)
  | .loop c off =>
    some (if w.en ≠ 0#32 ∧ s.cg.sreg c.toNat ≠ 1#32 then directTarget w.addr off else seq)
  | .jumpi _ => some (if e then BitVec.ofNat 52 (tget w.ind l 0) else seq)
  | .trapif _ => if w.en = 0#32 then some seq else none
  | _ => none

/-- A lane sent to an address at a clause end. -/
def Lane.sent (l : Lane) (pc : BitVec 52) : Lane := { l with pc := pc, rwi := 0 }

/-! ### Traps (R98, R163 to R167) -/

/-- The group has one wave, the current one, in user mode with nothing waiting, and no MSEQ is pending. -/
def State.OneWave (s : State) : Prop :=
  s.cg.waves = [(s.curWave, s.cw)] ∧ s.cg.sup = false ∧ s.cg.Quiet ∧ s.stop = none
    ∧ ∀ o ∈ s.cg.ops, ∀ x y l, o.instr ≠ .mseq x y l

/-- THE GROUP HAS ENTERED ITS HANDLER for a trap (R164 steps 5 and 6). `at_` is each lane as the trap stopped it: every live
lane's PC, MR, call stack pointer and resume index are in its save slot, and it is sent to the handler's clause for the
cause with MR none (`held` says which lanes were held at a meeting point, R274), where SYS_TRAPBASE lies as the context's descriptor has it now (R169); the trap registers hold what R163
gives the cause; the live lanes form one wave in supervisor mode.
No general, mask, predicate, buffer or accumulator-handle register, no flag and no byte of memory has changed. -/
def State.Entered (s t : State) (gid : Nat) (r : Trap) (at_ : Nat → Lane) (wid : Nat → Nat) (held : Nat → Bool) : Prop :=
  let g := s.group gid
  let pc := (((s.refreshCtx g.ctx).ctx g.ctx).trapBase.extractLsb' 0 52 &&& ~~~0xFFF#52) + BitVec.ofNat 52 (64 * r.cause)
  (t.group gid).sup = true ∧ (t.group gid).entering = none
    ∧ (t.group gid).tcause = r.cause ∧ (t.group gid).tkind = r.kind ∧ (t.group gid).taddr = r.addr
    ∧ (t.group gid).tdetail = r.detail ∧ (t.group gid).tmask = (if r.kind = 4 then g.live else r.lanes)
    ∧ (t.group gid).live = g.live
    ∧ (t.group gid).waves = [(lowLane g.live, { lanes := g.live, readyAt := (s.core g.core).cycles })]
    ∧ (∀ l < 32, (t.group gid).lane l = if inMask g.live l then
          { at_ l with savePc := (at_ l).pc, saveMr := (at_ l).mr, saveCsp := (at_ l).csp, saveRwi := (at_ l).rwi
                       saveWave := wid l, heldMr := if held l then some (at_ l).mr else none
                       pc := pc, mr := none, rwi := 0 }
        else at_ l)
    ∧ (t.group gid).v = g.v ∧ (t.group gid).s = g.s ∧ (t.group gid).k = g.k ∧ (t.group gid).q = g.q
    ∧ (t.group gid).b = g.b ∧ (t.group gid).a = g.a ∧ (t.group gid).flags = g.flags ∧ (t.group gid).scr = g.scr
    ∧ (t.group gid).bad = g.bad
    ∧ ∀ key, t.homeByte key = s.homeByte key

/-- A lane of the current wave as a trap at its word stops it (R164 step 1): an enabled lane at the word, or at its prefix,
another at seq. -/
def State.stoppedLane (s : State) (l : Nat) : Lane :=
  let w := s.cw
  let x := s.cg.lane l
  if !inMask w.lanes l then x
  else if inMask w.en l then { x with pc := w.addr, rwi := BitVec.ofNat 4 (if w.pfx.isSome then w.idx - 1 else w.idx) }
  else { x with pc := seqOf w.addr w.hdr, rwi := 0 }

/-! ### Privileged words (R96, R168 to R173) -/

/-- A supervisor's words of R96 with operands that decode: each, in user mode, traps PRIV. TRET is not among them: outside a
handler it traps ILLEGAL (R167). -/
inductive Privileged (n : Nat) : Instr → Prop where
  | sysrd {d c} : sysCodeOk c.toNat = true → Privileged n (.sysrd d c)
  | syswr {a c} : sysCodeOk c.toNat = true → 8 ≤ c.toNat → Privileged n (.syswr a c)
  | lanest {v} : dstOk n v.toNat 4 = true → Privileged n (.lanest v)
  | laneld {v} : dstOk n v.toNat 4 = true → Privileged n (.laneld v)
  | tlbinv {c k} : k = 1 ∨ k = 2 → c = 1 ∨ c = 3 ∨ c = 4 → Privileged n (.tlbinv 0 0 c k)
  | tlbinvPages {a b c} : a.toNat < 63 → c = 1 ∨ c = 3 ∨ c = 4 → Privileged n (.tlbinv a b c 0)
  | preempt {a r} : r ≠ 3 → Privileged n (.preempt a r)
  | halt {e} : Privileged n (.halt e)

/-- The four words of a lane's save slot (R170): PC [51:0], call stack pointer [57:52], resume index [61:58], MR from bit 64
and its "none" mark in bit 127. -/
def saveSlot (l : Lane) : Nat :=
  l.savePc.toNat + 2 ^ 52 * l.saveCsp.toNat + 2 ^ 58 * l.saveRwi.toNat
    + match l.saveMr with
      | some m => 2 ^ 64 * m.toNat
      | none => 2 ^ 127

/-! ### Operations: their issue and their completion (R36, R38, R39, R86, R181) -/

/-- The wave has moved on to its next word, and no other wave of the group has changed. -/
def State.MovedOn (s t : State) : Prop :=
  t.cw = { s.cw with idx := s.cw.idx + 1, pfx := none, readyAt := (s.core s.cg.core).cycles, promoted := false }
    ∧ ∀ w, w ≠ s.curWave → t.cg.wave w = s.cg.wave w

/-- AN OPERATION HAS BEEN ISSUED from a group whose registers then are those of `g`: it is the group's latest, with the next
number; the flag it is charged to has risen by one; the wave has moved on. No other register of the group, no other flag, no
other group and no byte of memory has changed. -/
def State.IssuedAs (s t : State) (g : Group) (o : POp) : Prop :=
  t.cg = { g with ops := g.ops ++ [o], flags := t.cg.flags, waves := t.cg.waves }
    ∧ (∀ f < 12, vecGet t.cg.flags f 0 = vecGet s.cg.flags f 0 + if o.flag = some f then 1 else 0)
    ∧ o.id = s.nextOp ∧ t.nextOp = s.nextOp + 1 ∧ o.clause = s.cw.addr ∧ o.idx = s.cw.idx ∧ s.MovedOn t
    ∧ (∀ h, h ≠ s.curGroup → t.group h = s.group h) ∧ ∀ key, t.homeByte key = s.homeByte key

/-- The same for an operation that changes no register when it issues. -/
def State.Issued (s t : State) (o : POp) : Prop := s.IssuedAs t s.cg o

/-- Nothing holds back an operation charged to a flag: no FENCE waits, and the flag stands below 63 (R86, R196). -/
def State.PipeFree (s : State) (fl : Option Nat) : Prop := s.cg.fence = none ∧ s.cg.flag fl < 63

/-- What a V-set memory word sees of its lanes and its prefix (R93); `cRegs` registers of compare values need one. -/
def State.memView (s : State) (orders : List Nat) (cRegs : Nat) : Option MIn :=
  match s.cw.pfx with
  | none => if cRegs = 0 then some { en := s.cw.en, act := s.cw.en } else none
  | some p =>
    if mpfxOk p s.cg.n orders cRegs then
      some { en := s.cw.en, act := s.cw.en &&& s.cg.kmask (p.extractLsb' 13 3).toNat, c := (p.extractLsb' 16 8).toNat
             scope := (p.extractLsb' 9 3).toNat, order := (p.extractLsb' 7 2).toNat }
    else none

/-- A V-set memory word: its direction and path, index field, buffer record, bytes, orders and compare registers it takes,
flag bit, record kinds and permission, the fields it needs, and the data it reads at issue. -/
structure MemShape where
  write : Bool := false
  path : Nat := pathL
  a : Byte
  br : BitVec 4
  bytes : Nat
  orders : List Nat := [0, 1, 2, 3]
  cRegs : Nat := 0
  fl : Bool := false
  kinds : List Nat
  perm : QWord → Bool
  fits : Nat → Bool
  data : Group → MIn → Nat → Nat := fun _ _ _ => 0

/-- The data of an atomic: the operand, from the register after the index (R186). -/
def atomData (a : Byte) (k : Nat) (g : Group) (_ : MIn) (l : Nat) : Nat := g.srcs (a.toNat + 1) l k

/-- THE V-SET MEMORY WORDS (R182, R186, R188). -/
inductive MemWord : Instr → MemShape → Prop where
  | vld {d a r l w} : MemWord (.vld d a r l w)
      { a := a, br := r, bytes := memBytes w, orders := [0, 1], fl := l, kinds := [0, 4, 5, 6], perm := recPr
        fits := fun n => dstOk n d.toNat (regsOf (memBytes w)) && srcOk n a.toNat 1 }
  | vst {d a r l w} : MemWord (.vst d a r l w)
      { write := true, a := a, br := r, bytes := memBytes w, orders := [0, 2], fl := l, kinds := [0, 5, 6], perm := recPw
        fits := fun n => srcOk n d.toNat (regsOf (memBytes w)) && srcOk n a.toNat 1
        data := fun g _ l => g.srcs d.toNat l (regsOf (memBytes w)) }
  | vldwh {d a r l w} : MemWord (.vldwh d a r l w)
      { path := pathW, a := a, br := r, bytes := memBytes w, orders := [0, 1], fl := l, kinds := [2], perm := recPr
        fits := fun n => dstOk n d.toNat (regsOf (memBytes w)) && srcOk n a.toNat 1 }
  | vstwh {d a r l w} : MemWord (.vstwh d a r l w)
      { write := true, path := pathW, a := a, br := r, bytes := memBytes w, orders := [0, 2], fl := l, kinds := [2]
        perm := recPw, fits := fun n => srcOk n d.toNat (regsOf (memBytes w)) && srcOk n a.toNat 1
        data := fun g _ l => g.srcs d.toNat l (regsOf (memBytes w)) }
  | vatom {d a r p} : MemWord (.vatom d a r p)
      { write := true, a := a, br := r, bytes := 4, cRegs := if p = .cas then 1 else 0, kinds := [0, 6], perm := recPa
        fits := fun n => dstOk n d.toNat 1 && srcOk n a.toNat 2, data := atomData a 1 }
  | vatom64 {d a r p} : p ≠ .fadd → p ≠ .fmin → p ≠ .fmax → MemWord (.vatom64 d a r p)
      { write := true, a := a, br := r, bytes := 8, cRegs := if p = .cas then 2 else 0, kinds := [0, 6], perm := recPa
        fits := fun n => dstOk n d.toNat 2 && srcOk n a.toNat 3, data := atomData a 2 }
  | vcas128 {d a r} : MemWord (.vcas128 d a r)
      { write := true, a := a, br := r, bytes := 16, cRegs := 4, kinds := [0, 6], perm := recPa
        fits := fun n => dstOk n d.toNat 4 && srcOk n a.toNat 5, data := atomData a 4 }
  | vwop {d a r p} : MemWord (.vwop d a r p)
      { write := true, path := pathW, a := a, br := r, bytes := wopBytes p, cRegs := if p = .cas then 1 else 0
        kinds := [2], perm := recPa, fits := fun n => dstOk n d.toNat (wopBytes p / 4) && srcOk n a.toNat (wopBytes p / 4 + 1)
        data := atomData a (wopBytes p / 4) }
  | vwopPosted {a r p} : MemWord (.vwopPosted a r p)
      { write := true, path := pathW, a := a, br := r, bytes := wopBytes p, cRegs := if p = .cas then 1 else 0
        kinds := [2], perm := recPa, fits := fun n => srcOk n a.toNat (wopBytes p / 4 + 1)
        data := atomData a (wopBytes p / 4) }

/-- The alignment an access of a shape needs (R179, R186): its width for atomics and the Wharf, at most 8 for the rest. -/
def MemShape.align (m : MemShape) (i : Instr) : Nat :=
  match i with
  | .vld .. | .vst .. => min m.bytes 8
  | _ => m.bytes

/-- Where lane `l` of the word accesses, and whether that is in bounds (R178, R182). -/
def MemShape.at_ (m : MemShape) (g : Group) (l : Nat) : Nat × Bool :=
  let r := g.brec m.br.toNat
  let o := laneOffset r (g.src m.a.toNat l).toNat m.bytes
  if m.path = pathW then
    (vaWrap (recWharf r + o.1), o.2 && decide (vaWrap (recWharf r + o.1) + m.bytes ≤ wharfBytes))
  else (vaWrap (recBase r + o.1), o.2)

/-- Every check of R180 passes for the active lanes of a word, and piece `j` of lane `l` meets the key `key l j`: the record
is of the kind and permission it needs; every lane is aligned; and every lane in bounds is mapped, unsealed where it
writes, or, on path W, inside the context's window. -/
def MemShape.Clear (m : MemShape) (i : Instr) (s : State) (act : Mask) (key : Nat → Nat → Nat) : Prop :=
  let g := s.cg
  let r := g.brec m.br.toNat
  recOk (s.ctx g.ctx) r m.kinds m.perm = true
    ∧ ∀ l, inMask act l = true → (m.at_ g l).1 % m.align i = 0 ∧ ((m.at_ g l).2 = true →
        if m.path = pathW then
          let w := (s.ctx g.ctx).window (recDie r)
          w.1 ≤ (m.at_ g l).1 ∧ (m.at_ g l).1 + m.bytes ≤ w.1 + w.2 ∧ key l 0 = bankKey (recDie r) (m.at_ g l).1
            ∧ (8 < m.bytes → key l 1 = bankKey (recDie r) ((m.at_ g l).1 + 8))
        else (m.write = true → (s.ctx g.ctx).sealed (m.at_ g l).1 m.bytes = false)
          ∧ ∀ e ∈ pieces (m.at_ g l).1 m.bytes,
              s.Maps g.core g.ctx (!g.sup) false (if m.write then .write else .read) e.2 (key l e.1))

/-- Every key of an operation is that of its address, through a translation that the core holds and that allows the access, so
that to go through it changes nothing (R412). Pieces of the scratchpad and the Wharf have no translation. -/
def State.Settles (s : State) (gid : Nat) (o : POp) : Prop :=
  let g := s.group gid
  o.pas.Pairwise (fun a b => a.1 < b.1) ∧ ∀ e ∈ o.pas, e.2 / 2 ^ 48 < 2 ^ 15 →
    s.Maps g.core g.ctx (!g.sup) false (if instrWrites o.instr then .write else .read)
      (vaWrap (tget o.vas (e.1 / 64 * 64) 0 + 8 * (e.1 % 64))) e.2

/-- The operation may perform: it is in flight in the group, nothing of the group must come before it, and the scratchpad
lines it touches are present. -/
def State.MayPerform (s : State) (gid : Nat) (o : POp) : Prop :=
  (s.group gid).op? o.id = some o ∧ (s.group gid).ready o = true ∧ s.linesPresent gid o = true ∧ s.stop = none

/-- AN OPERATION HAS COMPLETED in a group that was `g` once its destinations were written: it is no longer in flight, and the
flag it was charged to has fallen by one (R39, R86). -/
def Group.Ended (g h : Group) (o : POp) : Prop :=
  h.ops = g.ops.filter (fun x => decide (x.id ≠ o.id))
    ∧ ∀ f < 12, vecGet h.flags f 0 = vecGet g.flags f 0 - if o.flag = some f then 1 else 0

/-- The keys of a lane's pieces, in order. -/
def POp.keysOf (o : POp) (lane : Nat) : List Nat :=
  [lane * 64, lane * 64 + 1].filterMap (fun i => tget? o.pas i)

/-- WHAT A PIECE OF A LOAD READS: `n` bytes at `key`, which are not poisoned, have the value `v`: in the team's scratchpad, in the
Wharf, or in memory as the L1 holds it (R182, R184, R312). -/
def State.PieceIs (s : State) (gid n key v : Nat) : Prop :=
  let home := key / 2 ^ 48
  let off := key % 2 ^ 48
  if 2 ^ 16 ≤ home then s.poisoned key n = false ∧ v = leNat (bytesAt (s.team (s.group gid).team).spad off n)
  else if 2 ^ 15 ≤ home then s.wharfBad (home - 2 ^ 15) off n = false ∧ v = s.wharfNat (home - 2 ^ 15) off n
  else s.poisoned key n = false ∧ s.Cached (s.group gid).core .l1 key n v

/-- A lane's load in bounds reads the value `v`, piece by piece, lowest first (R182). -/
def State.LaneReads (s : State) (gid : Nat) (o : POp) (l v : Nat) : Prop :=
  ∃ ks : List (Nat × Nat), o.keysOf l = ks.map (·.1) ∧ v = ks.foldr (fun e x => e.2 + 2 ^ (8 * o.unit) * x) 0
    ∧ ∀ e ∈ ks, s.PieceIs gid o.unit e.1 e.2

/-- The vector atomics: destination, operation, bytes (R186). -/
inductive AtomWord : Instr → (d : Byte) → Aop → (n : Nat) → Prop where
  | vatom {d a r p} : AtomWord (.vatom d a r p) d p 4
  | vatom64 {d a r p} : p ≠ .fadd → p ≠ .fmin → p ≠ .fmax → AtomWord (.vatom64 d a r p) d p 8
  | vcas128 {d a r} : AtomWord (.vcas128 d a r) d .cas 16

/-- The operands of lanes combined in their order; none for no lane (R73). -/
def atomJoin (p : Aop) (n : Nat) : List Nat → Option Nat
  | [] => none
  | x :: xs => some (xs.foldl (aopFn p n) x)

/-- R73: WHAT MEMORY ENDS WITH after the lanes of one atomic at one address, whose operands and compare values are `xs` in ascending
lane order and which found `old`. -/
def atomLeaves (p : Aop) (n old : Nat) (xs : List (Nat × Nat)) : Nat :=
  match p with
  | .xchg => (xs.getLast?.map (·.1)).getD old
  | .cas => xs.foldl (fun v e => if v = e.2 then e.1 else v) old
  | .sub => match atomJoin .add n (xs.map (·.1)) with
    | some q => (old + 2 ^ (8 * n) - q) % 2 ^ (8 * n)
    | none => old
  | p => match atomJoin p n (xs.map (·.1)) with
    | some q => aopFn p n old q
    | none => old

/-- R73: WHAT ITS `k`-TH LANE RECEIVES: what the lanes before it would have left; under XCHG the operand of the one before it. -/
def atomGives (p : Aop) (n old : Nat) (xs : List (Nat × Nat)) (k : Nat) : Nat := atomLeaves p n old (xs.take k)

/-- The lanes of an atomic, or of a Wharf operation, that name a key, with operands and compare values; and those below a lane. -/
def POp.at_ (o : POp) (key : Nat) (below : Nat) : List (Nat × Nat) :=
  ((lanesOf o.act).filter (fun l => decide (tget? o.pas (l * 64) = some key) && decide (l < below))).map
    (fun l => (tget o.vals (l * 64) 0, tget o.vals (l * 64 + 1) 0))

/-- R189: an element of the Wharf after operations applied to it one by one, none of which draws. -/
def wharfLeaves (p : Wop) (old : Nat) (xs : List (Nat × Nat)) : Nat := xs.foldl (fun v x => (wopFn p v x.1 x.2 1).1) old

/-- The operands and compare values of an operation of `n` bytes fit them. -/
def POp.Fits (o : POp) (n : Nat) : Prop := ∀ e ∈ o.vals, e.2 < 2 ^ (8 * n)

/-! ### LOD loads, page requests, prefetches (R190 to R195) -/

/-- The V-set words of path S and the page requests: source registers at `a`, destination registers, record kinds, permission,
path. -/
inductive LodWord : Instr → (d a : Byte) → (br : BitVec 4) → (fl : Bool) → (dst src : Nat) → (kinds : List Nat) →
    (QWord → Bool) → (smp : Bool) → Prop where
  | vldl {d a r l} : LodWord (.vldl d a r l) d a r l 5 3 [1] (fun _ => true) true
  | vsmp {d a r l} : LodWord (.vsmp d a r l) d a r l 5 3 [1] (fun _ => true) true
  | vpgreq {d a r l w} : LodWord (.vpgreq d a r l w) d a r l 1 1 [0, 4, 5, 6] (fun b => recPr b || recPw b || recPs b) false

/-- A lane's offsets through a record of memory are aligned for `n` bytes. -/
def State.AlignedLanes (s : State) (br : BitVec 4) (a : Byte) (n : Nat) (act : Mask) : Prop :=
  ∀ l, inMask act l = true →
    vaWrap (recBase (s.cg.brec br.toNat) + (laneOffset (s.cg.brec br.toNat) (s.cg.src a.toNat l).toNat n).1) % min n 8 = 0

/-- One aligned lane access of an atomic alone in its group: its physical key inside one home. -/
def State.AtomKey (s : State) (key n : Nat) : Prop :=
  key % n = 0 ∧ key < 2 ^ 63 ∧ s.Reachable key n ∧ s.poisoned key n = false

/-- The operands of the active, in-bounds lanes of an atomic that name `key`, summed over the lanes that `p` picks. -/
def POp.addends (o : POp) (key : Nat) (p : Nat → Bool) : Nat :=
  (((lanesOf o.act).filter (fun l => decide (tget? o.pas (l * 64) = some key) && p l)).map (fun l => tget o.vals (l * 64) 0)).sum

/-- The numbers of a table rise strictly, as every operation on tables keeps them. -/
def rising {α : Type} (t : Tab α) : Prop := t.Pairwise (fun a b => a.1 < b.1)

/-- Path S serves `n` bytes at a VA at once, from a page that the group may read and from a line as its home has it, and they have
the value `v`. -/
def State.SamplerShows (s : State) (gid va n v : Nat) : Prop :=
  ∃ key, s.Maps (s.group gid).core (s.group gid).ctx (!(s.group gid).sup) true .read va key
    ∧ s.Cached (s.group gid).core .sampler key n v ∧ s.poisoned key n = false

/-- The residency map of image `r` names level `m` for the region that holds a point of level 0, and its header a tail of `tail`
levels (R190, R419). -/
def State.MapShows (s : State) (gid : Nat) (r : QWord) (px py m tail : Nat) : Prop :=
  s.SamplerShows gid (vaWrap (imgMap r + 16 + py / 128 * ((imgW r 0 + 127) / 128) + px / 128)) 1 m
    ∧ s.SamplerShows gid (imgMap r) 1 tail

/-- R191: the status word of a lane that is delivered level `lev` where it asked for `req`, without a request. -/
def lodStatus (r : QWord) (req lev tail : Nat) : Nat :=
  lev - req + (if 0 < tail ∧ imgMips r + 1 ≤ lev + tail then 16 else 0) + 256 * lev

/-- AN LOD LOAD OF ONE LANE HAS COMPLETED with components `cs`, level `lev` where it asked for `req`, and a tail of `tail` levels
(R190, R191). Where the level is coarser and the context has no ring, the lane's request is dropped. -/
def State.LodDone (s t : State) (gid : Nat) (o : POp) (d l req lev tail : Nat) (cs : List Nat) : Prop :=
  (∀ k j, j < 32 → (t.group gid).vreg k j =
      if j = l ∧ d ≤ k ∧ k < d + 4 then BitVec.ofNat 32 (cs.getD (k - d) 0)
      else if j = l ∧ k = d + 4 then BitVec.ofNat 32 (lodStatus o.recd req lev tail + if req < lev then 64 else 0)
      else (s.group gid).vreg k j)
    ∧ (∀ m < 8, ∀ j < 32, ((t.group gid).kmask m).getLsbD j = if m = 7 ∧ j = l then false else ((s.group gid).kmask m).getLsbD j)
    ∧ (t.group gid).status = (s.group gid).status ||| (if req < lev then 2#3 else 0#3)
    ∧ (s.group gid).Ended (t.group gid) o ∧ (t.group gid).s = (s.group gid).s ∧ ∀ key, t.homeByte key = s.homeByte key

/-- An LOD load with one active lane may perform, alone in its group; and a request that it makes finds no ring and no entry of
its context in the core's repeat filter (R424, R425). -/
def State.LodReady (s : State) (gid : Nat) (o : POp) (l d : Nat) : Prop :=
  s.MayPerform gid o ∧ (s.group gid).ops = [o] ∧ o.order = 0 ∧ l < 32 ∧ o.act = 1#32 <<< l ∧ d + 5 ≤ 192
    ∧ (o.args.getD 0 1 = 1 ↔ (s.group gid).sup = false)
    ∧ towBase (tget (s.core (s.group gid).core).views (s.group gid).ctx ((s.ctx (s.group gid).ctx).view (dieOf (s.group gid).core))).towpath = 0
    ∧ ∀ e ∈ (s.core (s.group gid).core).filter, e.1 ≠ (s.group gid).ctx

/-! ### Words that a FENCE holds back (R196) -/

/-- The words of pipes M and E, with operand fields that decode. -/
inductive PipeWord (s : State) : Instr → Prop where
  | mem {i m x} : MemWord i m → m.fits s.cg.n = true → s.memView m.orders m.cRegs = some x → PipeWord s i
  | vldsp {d a l w x} : dstOk s.cg.n d.toNat (regsOf (memBytes w)) = true → srcOk s.cg.n a.toNat 1 = true →
      s.memView [0, 1] 0 = some x → PipeWord s (.vldsp d a l w)
  | vstsp {d a l w x} : srcOk s.cg.n d.toNat (regsOf (memBytes w)) = true → srcOk s.cg.n a.toNat 1 = true →
      s.memView [0, 2] 0 = some x → PipeWord s (.vstsp d a l w)
  | lod {i d a br fl dst src kinds perm smp x} : LodWord i d a br fl dst src kinds perm smp → dstOk s.cg.n d.toNat dst = true →
      srcOk s.cg.n a.toNat src = true → s.memView [0] 0 = some x → PipeWord s i
  | vpref {a r l w x} : srcOk s.cg.n a.toNat 1 = true → s.memView [0] 0 = some x → PipeWord s (.vpref a r l w)
  | sld {d r w o} : d.toNat + umemBytes w / 4 ≤ 64 → PipeWord s (.sld d r w o)
  | sst {d r w o} : d.toNat + umemBytes w / 4 ≤ 64 → PipeWord s (.sst d r w o)
  | sldsp {d r w o} : d.toNat + umemBytes w / 4 ≤ 64 → PipeWord s (.sldsp d r w o)
  | sstsp {d r w o} : d.toNat + umemBytes w / 4 ≤ 64 → PipeWord s (.sstsp d r w o)
  | satom {p r w n o} : (w = .w64 → p ≠ .fadd ∧ p ≠ .fmin ∧ p ≠ .fmax) →
      n.toNat + atomBytes w / 4 * (if p = .cas then 2 else 1) ≤ 64 → PipeWord s (.satom p r w n o)
  | pgreq {d a b} : a.toNat < 63 → PipeWord s (.pgreq d a b)
  | fence {c o p d} : c.toNat ≤ 5 → p ≠ 0 → d ≠ 0 → PipeWord s (.fence c o p d)
  | sealPages {a b} : a.toNat < 63 → PipeWord s (.sealPages a b)
  | unsealPages {a b} : a.toNat < 63 → PipeWord s (.unsealPages a b)
  | cinv {a b n} : PipeWord s (.cinv a b n)
  | cwb {a b n} : PipeWord s (.cwb a b n)
  | cpy {a x} : a.toNat + 8 ≤ 64 → PipeWord s (.cpy a x)
  | cpym {a x} : a.toNat + 9 ≤ 64 → PipeWord s (.cpym a x)
  | cpys {a} : a.toNat + 8 ≤ 64 → PipeWord s (.cpys a)
  | cpyg {a} : a.toNat + 11 ≤ 64 → PipeWord s (.cpyg a)
  | chload {h x y b l} : PipeWord s (.chload h x y b l)
  | chrel {h l} : PipeWord s (.chrel h l)
  | atdef {h x y a l} : PipeWord s (.atdef h x y a l)
  | mma {h x y a b l} : PipeWord s (.mma h x y a b l)
  | mmag {h x y a b l} : PipeWord s (.mmag h x y a b l)
  | mmav {h x y a b l} : PipeWord s (.mmav h x y a b l)
  | accz {h l} : PipeWord s (.accz h l)
  | accld {h x y l} : PipeWord s (.accld h x y l)
  | accst {h x y l} : PipeWord s (.accst h x y l)
  | accrd {h x y c l} : PipeWord s (.accrd h x y c l)
  | accwr {h x y c l} : PipeWord s (.accwr h x y c l)
  | accmap {h x y f l} : (f ≠ .scalebias → y = 0) → (f ≠ .scalebias → f ≠ .leaky → x = 0) → PipeWord s (.accmap h x y f l)
  | rfil {h x y a l} : PipeWord s (.rfil h x y a l)
  | rema {h x y a l} : PipeWord s (.rema h x y a l)
  | mprog {e x y l} : PipeWord s (.mprog e x y l)
  | mseq {x y l} : PipeWord s (.mseq x y l)

/-! ### The matrix engine (R201 to R223) -/

/-- A format slot whose word is valid and whose code a role accepts (R37). -/
def State.SlotIs (s : State) (i : BitVec 3) (role : Nat → Bool) : Prop :=
  slotOk (s.slot i.toNat) = true ∧ role (slotFmt (s.slot i.toNat)) = true

/-- An a-handle of the group is bound to a tile (R34). -/
def State.TileIs (s : State) (h : BitVec 5) (t : Tile) : Prop := vecGet s.cg.a h.toNat none = some t

/-- The rest of a matrix product's operands (R210, R211): the h-handle of `y` is bound to a chamber group of at most the tile's
columns, K fits it, the slots are of the kinds they need, and the fields that the source leaves unused are zero. -/
def State.ProductFits (s : State) (y : BitVec 6) (a b : BitVec 3) (t : Tile) (kb stride br : Nat) : Prop :=
  let v := (s.cg.sreg y.toNat).toNat
  ∃ id c, vecGet (s.team s.cg.team).h (v % 32) none = some id ∧ tget (s.team s.cg.team).chambers id {} = c
    ∧ kb = (if v / 2 ^ 5 % 128 = 0 then c.kBlocks else v / 2 ^ 5 % 128) ∧ kb ≤ c.kBlocks ∧ br = v / 2 ^ 12 % 16
    ∧ stride = v / 2 ^ 16 * 16 ∧ s.SlotIs a isAct ∧ s.SlotIs b (fun f => decide (f = c.fmt)) ∧ c.cols ≤ t.cols

/-- THE ENGINE WORDS with operands that pass their checks (R206, R208 to R217): the word, its fl bit, and the group after
acceptance, when ATDEF binds its handle. -/
inductive EngineWord (s : State) : Instr → Bool → Group → Prop where
  | chload {h : BitVec 5} {x y : BitVec 6} {b : BitVec 3} {l : Bool} {v off kb n : Nat} :
      v = (s.cg.sreg y.toNat).toNat → off = (s.cg.sreg x.toNat).toNat → kb = v / 2 ^ 4 % 2 ^ 8 → n = v / 2 ^ 12 % 2 ^ 12 →
      recOk (s.ctx s.cg.ctx) (s.cg.brec (v % 16)) [5] recPr = true → s.SlotIs b isWeight → 0 < kb → 0 < n → v < 2 ^ 24 →
      off % (if isSparse (slotFmt (s.slot b.toNat)) then 8 else 4) = 0 →
      vecGet (s.team s.cg.team).h h.toNat none = none →
      (kb + 7) / 8 * ((n + chamberCols (slotFmt (s.slot b.toNat)) - 1) / chamberCols (slotFmt (s.slot b.toNat)))
        ≤ (s.team s.cg.team).freeChambers → EngineWord s (.chload h x y b l) l s.cg
  | chrel {h l id} : vecGet (s.team s.cg.team).h h.toNat none = some id → EngineWord s (.chrel h l) l s.cg
  | atdef {h : BitVec 5} {x y : BitVec 6} {a : BitVec 3} {l : Bool} {t : Tile} : t.base = (s.cg.sreg x.toNat).toNat →
      (s.cg.sreg y.toNat).toNat = t.cols + (if t.f16 then 2 ^ 16 else 0) → t.base % 64 = 0 → 16 ≤ t.cols → t.cols ≤ 4096 →
      t.cols % 16 = 0 → t.rows = s.cg.width → t.rnd = slotRnd (s.slot a.toNat) → t.sat = slotSat (s.slot a.toNat) →
      t.base + t.rows * t.cols * (if t.f16 then 2 else 4) ≤ (s.team s.cg.team).accLen →
      s.SlotIs a (fun c => decide (c = if t.f16 then 19 else 18)) →
      EngineWord s (.atdef h x y a l) l { s.cg with a := vecSet s.cg.a h.toNat (some t) }
  | mma {h : BitVec 5} {x y : BitVec 6} {a b : BitVec 3} {l : Bool} {t : Tile} {kb stride : Nat} :
      s.TileIs h t → s.ProductFits y a b t kb stride 0 → (s.cg.sreg x.toNat).toNat % 16 = 0 →
      (∀ r, inMask s.cw.en r = true → (s.cg.sreg x.toNat).toNat + r * stride + rowBytes (slotFmt (s.slot a.toNat)) kb
        ≤ (s.team s.cg.team).spadLen) → EngineWord s (.mma h x y a b l) l s.cg
  | mmag {h : BitVec 5} {x y : BitVec 6} {a b : BitVec 3} {l : Bool} {t : Tile} {kb stride br : Nat} :
      s.TileIs h t → s.ProductFits y a b t kb stride br → (s.cg.sreg x.toNat).toNat % 16 = 0 →
      recOk (s.ctx s.cg.ctx) (s.cg.brec br) [0, 6] recPr = true → EngineWord s (.mmag h x y a b l) l s.cg
  | mmav {h : BitVec 5} {x y : BitVec 6} {a b : BitVec 3} {l : Bool} {t : Tile} {kb : Nat} :
      s.TileIs h t → s.ProductFits y a b t kb 0 0 →
      (s.cg.sreg x.toNat).toNat + (rowBytes (slotFmt (s.slot a.toNat)) kb + 3) / 4 ≤ s.cg.n →
      EngineWord s (.mmav h x y a b l) l s.cg
  | accz {h l t} : s.TileIs h t → EngineWord s (.accz h l) l s.cg
  | accld {h x y l t} : s.TileIs h t → (s.cg.sreg x.toNat).toNat % 16 = 0 → (s.cg.sreg y.toNat).toNat / 2 ^ 4 % 2 ^ 12 = 0 →
      recOk (s.ctx s.cg.ctx) (s.cg.brec ((s.cg.sreg y.toNat).toNat % 16)) [0, 6] recPr = true →
      EngineWord s (.accld h x y l) l s.cg
  | accst {h x y l t} : s.TileIs h t → (s.cg.sreg x.toNat).toNat % 16 = 0 → (s.cg.sreg y.toNat).toNat / 2 ^ 4 % 2 ^ 12 = 0 →
      recOk (s.ctx s.cg.ctx) (s.cg.brec ((s.cg.sreg y.toNat).toNat % 16)) [0, 6] recPw = true →
      EngineWord s (.accst h x y l) l s.cg
  | accrd {h x y c l t} : s.TileIs h t → (s.cg.sreg x.toNat).toNat + (c.toNat + 1) ≤ s.cg.n →
      (s.cg.sreg y.toNat).toNat + (c.toNat + 1) ≤ t.cols → EngineWord s (.accrd h x y c l) l s.cg
  | accwr {h x y c l t} : s.TileIs h t → (s.cg.sreg x.toNat).toNat + (c.toNat + 1) ≤ s.cg.n →
      (s.cg.sreg y.toNat).toNat + (c.toNat + 1) ≤ t.cols → EngineWord s (.accwr h x y c l) l s.cg
  | accmap {h l t f} : s.TileIs h t → f ≠ .scalebias → f ≠ .leaky → EngineWord s (.accmap h 0 0 f l) l s.cg
  | leaky {h x l t} : s.TileIs h t → EngineWord s (.accmap h x 0 .leaky l) l s.cg
  | scalebias {h x y l t} : s.TileIs h t → (s.cg.sreg x.toNat).toNat % 16 = 0 → (s.cg.sreg y.toNat).toNat % 16 = 0 →
      max (s.cg.sreg x.toNat).toNat (s.cg.sreg y.toNat).toNat + 4 * t.cols ≤ (s.team s.cg.team).spadLen →
      EngineWord s (.accmap h x y .scalebias l) l s.cg
  | rfil {h x y a l t} : s.TileIs h t → s.SlotIs a (fun c => decide (c = 2) || decide (c = 3)) →
      (s.cg.sreg x.toNat).toNat % 16 = 0 → (s.cg.sreg y.toNat).toNat % 16 = 0 →
      (∀ r, inMask s.cw.en r = true → (s.cg.sreg x.toNat).toNat + (r + 1) * t.cols * 2 ≤ (s.team s.cg.team).spadLen) →
      (s.cg.sreg y.toNat).toNat + 8 * t.cols ≤ (s.team s.cg.team).spadLen → EngineWord s (.rfil h x y a l) l s.cg
  | rema {h x y a l t} : s.TileIs h t → s.SlotIs a (fun c => decide (c = 2) || decide (c = 3)) →
      (s.cg.sreg x.toNat).toNat % 16 = 0 → (s.cg.sreg y.toNat).toNat % 16 = 0 →
      (∀ r, inMask s.cw.en r = true → (s.cg.sreg x.toNat).toNat + (r + 1) * t.cols * 2 ≤ (s.team s.cg.team).spadLen) →
      (s.cg.sreg y.toNat).toNat + 4 * t.cols ≤ (s.team s.cg.team).spadLen → EngineWord s (.rema h x y a l) l s.cg

/-- The core's engine has room for one more operation of the current group (R203). -/
def State.EngineRoom (s : State) : Prop :=
  (s.core s.cg.core).engine.length < 16
    ∧ ((s.core s.cg.core).engine.filter (fun e => decide (e.1 = s.curGroup))).length < 4

/-- It is an operation's turn in the engine of a core (R203, R204), and PREEMPT has not told it to stop. -/
def State.MayRun (s : State) (core gid : Nat) (o : POp) : Prop :=
  s.stop = none ∧ s.ownerOf o.id = some (gid, o) ∧ s.engineTurn core gid o = true ∧ o.stopReq = false
    ∧ s.engineBad gid o = false

/-- AN ENGINE OPERATION HAS COMPLETED (R39, R203): it has left the engine and its group, its flag has fallen, the group's
sequence number has risen by one, and no s-register, mask or byte of memory has changed. -/
def State.EngineEnded (s t : State) (core gid : Nat) (o : POp) : Prop :=
  (t.core core).engine = (s.core core).engine.filter (fun e => decide (e ≠ (gid, o.id)))
    ∧ (s.group gid).Ended (t.group gid) o ∧ (t.group gid).seq = (s.group gid).seq + 1
    ∧ (t.group gid).s = (s.group gid).s ∧ (t.group gid).k = (s.group gid).k ∧ (t.group gid).a = (s.group gid).a
    ∧ (∀ h, h ≠ gid → t.group h = s.group h) ∧ ∀ key, t.homeByte key = s.homeByte key

/-- PATH M SHOWS a group `n` bytes at a VA: pages it may read, at physical keys that are not poisoned, with the group's own queued
writes before their homes; those from `limit` on are zero (R211, R214, R297). -/
def State.MatrixShows (s : State) (gid : Nat) (user : Bool) (va n limit : Nat) (bs : List Byte) : Prop :=
  ∃ key : Nat → Nat, (∀ e ∈ pageSpans va (min n (limit - va)),
      s.Maps (s.group gid).core (s.group gid).ctx user false .read e.1 (key e.1) ∧ s.Reachable (key e.1) e.2
        ∧ s.poisoned (key e.1) e.2 = false)
    ∧ bs = (pageSpans va (min n (limit - va))).flatMap (fun e => s.mBytes (some { gid := gid }) (key e.1) e.2)
        ++ List.replicate (n - min n (limit - va)) 0

/-- Bytes cut into the parts of a range: where each goes, and its bytes. -/
def cutSpans : List (Nat × Nat) → List Byte → List (Nat × List Byte)
  | [], _ => []
  | (key, n) :: rest, bs => (key, bs.take n) :: cutSpans rest (bs.drop n)

/-- A byte of memory after writes, the later ones above. -/
def overlay (ws : List (Nat × List Byte)) (key : Nat) (b : Byte) : Byte :=
  ws.foldl (fun b w => if w.1 ≤ key ∧ key < w.1 + w.2.length then w.2.getD (key - w.1) 0 else b) b

/-- FP32 results as one row of a tile stores them, in ascending column order: rounded into F16 under the tile's slot, with draws
from the row's generator; and the generator after them (R69, R211, R215, R216). -/
def Tile.stored (t : Tile) (gen : Word) : List Nat → List Nat × Word
  | [] => ([], gen)
  | v :: vs =>
    let r := if t.f16 then fp16.round (fp32.decode v) { mode := t.rnd, sat := t.sat, gen := gen } else (v, gen)
    let q := t.stored r.2 vs
    (r.1 :: q.1, q.2)

/-- Bytes of an element of a tile. -/
def Tile.ez (t : Tile) : Nat := if t.f16 then 2 else 4

/-- THE ROWS OF AN OPERATION ARE UPDATED in `n` columns from `from_` on: element `k` of row `i` is `vs i` at `k`, and the row's
generator `gen i`; no other accumulator byte and no other lane changes. -/
def State.RowsAre (s t : State) (gid : Nat) (o : POp) (from_ n : Nat) (r : Nat → List Nat × Word) : Prop :=
  let tm := s.team (s.group gid).team
  let tm' := t.team (s.group gid).team
  (∀ i < 32, inMask o.act i = true → ((t.group gid).lane i).gen = (r i).2
      ∧ ∀ k < n, tm'.elem o.tile i (from_ + k) = (r i).1.getD k 0 % 2 ^ (8 * o.tile.ez))
    ∧ (∀ i < 32, inMask o.act i = false → (t.group gid).lane i = (s.group gid).lane i)
    ∧ ∀ b, (∀ i < 32, ∀ k < n, inMask o.act i = true →
        b < o.tile.at_ i (from_ + k) ∨ o.tile.at_ i (from_ + k) + o.tile.ez ≤ b) → byteAt tm'.acc b = byteAt tm.acc b

/-- Row `i` of A shows a product the bytes and the scale byte of its block `j`: scratchpad, memory or registers (R61, R211). -/
def State.BlockShows (s : State) (gid : Nat) (o : POp) (i j : Nat) (bs : List Byte) (scale : Nat) : Prop :=
  let bb := blockBytes (o.arg 8)
  let row := o.arg 10 + i * o.arg 11
  let sp := (s.team (s.group gid).team).spad
  let reg := fun (k : Nat) => BitVec.ofNat 8 (tget o.vals (i * 1024 + k / 4) 0 / 2 ^ (8 * (k % 4)))
  if o.arg 9 = 0 then bs = bytesAt sp (row + bb * j) bb ∧ scale = (byteAt sp (row + bb * o.arg 7 + j)).toNat
  else if o.arg 9 = 1 then
    s.MatrixShows gid (decide (o.arg 13 = 1)) (row + bb * j) bb (o.arg 12) bs
      ∧ if o.arg 8 = 4 ∨ o.arg 8 = 5 then
          ∃ b, s.MatrixShows gid (decide (o.arg 13 = 1)) (row + bb * o.arg 7 + j) 1 (o.arg 12) [b] ∧ scale = b.toNat
        else scale = 0
  else bs = (List.range bb).map (fun k => reg (bb * j + k)) ∧ scale = (reg (bb * o.arg 7 + j)).toNat

/-- R211: an element of a product: its blocks added in rising K, each rounded once. -/
def productElem (code : Nat) (ch : Chamber) (blocks : Nat → List Byte × Nat) (kb n e : Nat) : Nat :=
  (List.range kb).foldl (fun e j => accumulate e (blockTerm code (alignBlock code (blocks j).1 (blocks j).2)
    ((List.range 24).map (fun m => tget ch.weights (n * 2 ^ 13 + 24 * j + m) 0)) (scaleNum (tget ch.scales (n * 2 ^ 8 + j) 0)))) e

/-- R217: one element of RFIL or REMA from the accumulator `x`, the state `st` and the coefficients: the new state, the new
element, and the generator after their draws. -/
def recurOne (o : POp) (rema : Bool) (gen : Word) (x st a b : Nat) : (Nat × Nat) × Word :=
  let fmt := if o.arg 8 = 2 then bf16 else fp16
  let rdn := decide (o.arg 9 = 4)
  let x := fp32.decode x
  let a := fp32.decode a
  let st := fmt.decode st
  let v := if rema then st.add rdn (a.mul (x.add rdn st.neg)) else (a.mul st).add rdn ((fp32.decode b).mul x)
  let r := fmt.round v { mode := o.arg 9, sat := decide (o.arg 10 = 1), gen := gen }
  let wide := (fp32.round (fmt.decode r.1) {}).1
  let q := if !o.tile.f16 then (wide, r.2)
    else if o.arg 8 = 3 then (r.1, r.2)
    else fp16.round (fp32.decode wide) { mode := o.tile.rnd, sat := o.tile.sat, gen := r.2 }
  ((r.1, q.1), q.2)

/-- R217: a row of `cols` columns, in ascending order. -/
def recurRow (o : POp) (rema : Bool) (gen : Word) (f : Nat → Nat × Nat × Nat × Nat) (cols : Nat) : List (Nat × Nat) × Word :=
  (List.range cols).foldl (fun acc c =>
    let e := f c
    let r := recurOne o rema acc.2 e.1 e.2.1 e.2.2.1 e.2.2.2
    (acc.1 ++ [r.1], r.2)) ([], gen)

/-! ### Counts of pointstamps (R329 to R332) -/

/-- What a list of deltas adds to a pointstamp. -/
def deltaSum (ds : List Delta) (ctx node : Nat) (st : DWord) : Int :=
  ((ds.filter (fun e => e.is ctx node st)).map (·.d)).sum

/-- THE COUNT OF A POINTSTAMP on a die: what its Keeper's table holds, with what batches and core buffers have still to
add. -/
def State.total (s : State) (die ctx node : Nat) (st : DWord) : Int :=
  countIn (s.die die).keeper ctx node st + ((s.die die).batches.map (fun b => deltaSum b.2 ctx node st)).sum
    + ((coresOf die).map (fun c => deltaSum (s.core c).deltas ctx node st)).sum

/-- A core's buffer holds a pointstamp at most once, as every count keeps it. -/
def State.DistinctDeltas (s : State) (core : Nat) : Prop :=
  ((s.core core).deltas.map (fun e => (e.ctx, e.node, e.stamp))).Nodup

/-- The counts of a die have changed by `f` and by nothing else. -/
def State.Counted (s t : State) (die : Nat) (f : Nat → Nat → DWord → Int) : Prop :=
  ∀ ctx node st, t.total die ctx node st = s.total die ctx node st + f ctx node st

/-- One pointstamp gains `d`. -/
def gain (ctx node : Nat) (st : DWord) (d : Int) : Nat → Nat → DWord → Int :=
  fun c n x => if c = ctx ∧ n = node ∧ x = st then d else 0

/-! ### Copies (R225 to R235) -/

/-- The copy block at s-register `sa` (R230) keeps its rules: its record's VA is aligned and below 2⁵², its counters have a
form and lie in the context's range, and the fields that only CPYM or CPYG uses are zero or valid. -/
def State.BlockFits (s : State) (sa : Nat) (m gth : Bool) : Prop :=
  let r := fun (i : Nat) => (s.cg.sreg (sa + i)).toNat
  (s.cg.spair sa).toNat % 64 = 0 ∧ (s.cg.spair sa).toNat < 2 ^ 52
    ∧ ctrFormOk (r 7 % 2 ^ 16) = true ∧ ctrInRange (s.ctx s.cg.ctx) (r 7 % 2 ^ 16) = true ∧ r 7 / 2 ^ 19 % 2 = 0
    ∧ (m = false → r 7 / 2 ^ 20 = 0)
    ∧ (m = true → r 7 / 2 ^ 20 ≠ 0 ∧ (∀ i < 12, r 7 / 2 ^ 20 / 2 ^ i % 2 = 1 → i ∈ s.clusterRanks s.cg)
        ∧ ctrFormOk (r 8 % 2 ^ 16) = true ∧ ctrInRange (s.ctx s.cg.ctx) (r 8 % 2 ^ 16) = true)
    ∧ (gth = true → 0 < r 10 ∧ r 10 ≤ 65536 ∧ r 8 + 2 ^ 32 * r 9 < 2 ^ 52)

/-- The copies: the word, its block's registers, exclusive at once, CPYM, CPYG, whether it loads at its own team. -/
inductive CopyWord : Instr → (sa n : Nat) → (x m gth load : Bool) → Prop where
  | cpy {a x} : CopyWord (.cpy a x) a.toNat 8 x false false true
  | cpym {a x} : CopyWord (.cpym a x) a.toNat 9 x true false false
  | cpys {a} : CopyWord (.cpys a) a.toNat 8 false false false false
  | cpyg {a} : CopyWord (.cpyg a) a.toNat 11 false false true true

/-- The record that a copy names is read at `key`, where it is not poisoned; nothing of the group has still to write it, and no acquire of the group is in
flight. -/
def State.LayoutAt (s : State) (va key : Nat) : Prop :=
  s.cg.acquiring = false ∧ s.cg.cPending va 64 = false ∧ s.Maps s.cg.core s.cg.ctx (!s.cg.sup) false .read va key ∧ s.Reachable key 64
    ∧ s.poisoned key 64 = false

/-! ### What copies move (R231, R235) -/

/-- Path C reads `n` bytes at a VA, at physical keys that are not poisoned (R231, R297). -/
def State.TensorShows (s : State) (gid : Nat) (user : Bool) (va n : Nat) (bs : List Byte) : Prop :=
  ∃ key : Nat → Nat, (∀ e ∈ pageSpans va n, s.Maps (s.group gid).core (s.group gid).ctx user false .read e.1 (key e.1)
      ∧ s.Reachable (key e.1) e.2 ∧ s.poisoned (key e.1) e.2 = false)
    ∧ bs = (pageSpans va n).flatMap (fun e => s.homeBytes (key e.1) e.2)

/-- The coordinates of packed element `p` of a copy: those of its box; of a CPYG those in the row that the list names, which is read
once; none of a null row, or of one beyond the tensor. -/
def State.CoordsAre (s : State) (gid : Nat) (o : POp) (p : Nat) (c : Option (List Nat)) : Prop :=
  let l := o.layout
  let a := o.copy
  if (match o.instr with | .cpyg _ => true | _ => false) = true then
    ∃ y, (tget? o.vals (markIndex (p / l.box 0)) = some y
        ∨ tget? o.vals (markIndex (p / l.box 0)) = none
          ∧ ∃ bs, s.TensorShows gid o.copyUser (vaWrap (a.list + 4 * (p / l.box 0))) 4 bs ∧ y = leNat bs)
      ∧ c = if 2 ^ 31 ≤ y ∨ l.dim 1 ≤ y then none
          else some [l.origin a 0 + p % l.box 0, y, l.origin a 2, l.origin a 3]
  else c = some (boxCoords l a p)

/-- Packed element `p` of a load copy has the bytes `bs`: those of the tensor, zero outside it (R231, R235). -/
def State.ElemShows (s : State) (gid : Nat) (o : POp) (p : Nat) (bs : List Byte) : Prop :=
  ∃ c, s.CoordsAre gid o p c ∧ match c.filter o.layout.inside with
    | some xs => s.TensorShows gid o.copyUser (o.layout.va xs) o.layout.ez bs
    | none => bs = List.replicate o.layout.ez 0

/-- A line of a load copy has the bytes `bs`: those of its elements, or as they were read for an earlier destination (R323). -/
def State.LineShows (s : State) (gid : Nat) (o : POp) (line : Nat) (bs : List Byte) : Prop :=
  let e := lineElems o.instr o.layout o.copy line
  match tget? o.vals (markBytes line) with
  | some v => bs = natLe (e.2 * o.layout.ez) v
  | none => ∃ el : Nat → List Byte, (∀ p, e.1 ≤ p → p < e.1 + e.2 → s.ElemShows gid o p (el p))
      ∧ bs = (List.range e.2).flatMap (fun i => el (e.1 + i))

/-- Element `p` of a CPYS, its bytes and where they go: nowhere when it lies outside the tensor. -/
def State.elemGoes (s : State) (gid : Nat) (o : POp) (key : Nat → Nat) (p : Nat) : List (Nat × List Byte) :=
  let l := o.layout
  let c := boxCoords l o.copy p
  if l.inside c then
    cutSpans ((pageSpans (l.va c) l.ez).map (fun e => (key e.1, e.2)))
      (bytesAt (s.team (s.group gid).team).spad (o.copy.off + p * l.ez) l.ez)
  else []

/-! ### Posting work (R236 to R243, R391 to R402) -/

/-- The wave has moved on to its next word and the registers of its group are as before; other waves may have been
released. -/
def State.WentPast (s t : State) : Prop :=
  t.cw = { s.cw with idx := s.cw.idx + 1, pfx := none, readyAt := (s.core s.cg.core).cycles, promoted := false }
    ∧ t.cg = { s.cg with waves := t.cg.waves }
/-- The same, and no byte of memory has changed. -/
def State.WentOn (s t : State) : Prop := s.WentPast t ∧ ∀ key, t.homeByte key = s.homeByte key

/-- Lanes that a core holds for cast-off groups, in bins and in its queue. -/
def Core.moored (c : Core) : Nat :=
  (c.bins.map (fun b => b.lanes.length)).sum
    + (c.queue.map (fun q => match q.work with | .cast b => b.lanes.length | _ => 0)).sum

/-- A MOOR and what it names keep their limits (R240, R392, R394): fields that decode, a join counter of the context's range or none, an
entry of the mooring table whose pool could ever hold every enabled lane, and no MOOR before it in the pool's line. -/
def State.MoorFits (s : State) (v : BitVec 8) (a : BitVec 6) (c n : BitVec 3) (e : MoorEntry) : Prop :=
  let die := dieOf s.cg.core
  let w := (s.cg.sreg (a.toNat + 2)).toNat
  let line := (s.die die).moorLine.filter (fun x => decide (x.1 = s.cg.ctx) && decide (x.2.1 = e.pool))
  s.stop = none ∧ s.Enabled ∧ dstOk s.cg.n v.toNat (n.toNat + 1) = true ∧ a.toNat + 3 ≤ 64 ∧ 1 ≤ c.toNat ∧ c.toNat ≤ 5
    ∧ w < 2 ^ 16 ∧ ctrFormOk w = true ∧ ctrInRange (s.ctx s.cg.ctx) w = true
    ∧ s.mooring die s.cg.ctx (s.cg.spair a.toNat).toNat = some e
    ∧ (lanesOf s.cw.en).length ≤ (tget (s.die die).pools (s.cg.ctx * 16 + e.pool) {}).blocks
    ∧ (line = [] ∨ line.head?.map (fun x => (x.2.2.1, x.2.2.2)) = some (s.curGroup, s.curWave))

/-- The bins and the Keeper have room for every enabled lane of a MOOR (R395, R396). -/
def State.MoorServed (s : State) (e : MoorEntry) : Prop :=
  (lanesOf s.cw.en).length ≤ (s.core s.cg.core).binRoom s.cg.ctx e s.cg.stamp
    ∧ s.canCount s.cg.core s.cg.ctx e.node s.cg.stamp = true ∧ s.DistinctDeltas s.cg.core
    ∧ ((s.core s.cg.core).bins.filter (fun b => b.fills s.cg.ctx e.entry s.cg.stamp)).length ≤ 1

/-- EVERY ENABLED LANE HAS BEEN MOORED (R240, R395): the pool has given a block for each, each is counted at the entry's node, the
join counter has risen by their number, the core holds them, the wave has gone on, and no byte outside the pool's blocks has
changed. -/
def State.Moored (s t : State) (a : BitVec 6) (e : MoorEntry) : Prop :=
  let die := dieOf s.cg.core
  let w := (s.cg.sreg (a.toNat + 2)).toNat
  let lanes := (lanesOf s.cw.en).length
  s.WentPast t
    ∧ (∀ key, (∀ b k, s.blockKey die s.cg.ctx e.pool b = some k → key < k ∨ k + 32 ≤ key) → t.homeByte key = s.homeByte key)
    ∧ (tget (t.die die).pools (s.cg.ctx * 16 + e.pool) {}).free = (tget (s.die die).pools (s.cg.ctx * 16 + e.pool) {}).free - lanes
    ∧ s.Counted t die (gain s.cg.ctx e.node s.cg.stamp lanes)
    ∧ (w ≠ 0xFFFF → (tget (t.die die).dcs w {}).value = (tget (s.die die).dcs w {}).value + BitVec.ofNat 32 lanes)
    ∧ (t.core s.cg.core).moored = (s.core s.cg.core).moored + lanes

/-- A word of a uniform task of 16 s-registers (R237). -/
def State.taskWords (s : State) (a : BitVec 6) : List Word := (List.range 16).map (fun i => s.cg.sreg (a.toNat + i))

/-! ### Stamps (R244, R245) -/

/-- The stamps that STAMP and the write of SR_STAMPHI change the current stamp to (R245). -/
inductive StampRule (g : Group) : Instr → DWord → Prop where
  | set {a : BitVec 6} : a.toNat % 2 = 0 → stampSetOk g (g.spair a.toNat) = true → StampRule g (.stamp a .set) (g.spair a.toNat)
  | hi {a : BitVec 6} : stampSetOk g (g.sreg a.toNat ++ g.staging) = true →
      StampRule g (.sspecw a 14) (g.sreg a.toNat ++ g.staging)
  | inc0 : 1 ≤ stampDepth g.stamp → stampCtr g.stamp 0 < 2 ^ 22 - 1 → StampRule g (.stamp 0 .inc0)
      (mkStamp (stampDepth g.stamp) (stampCtr g.stamp 0 + 1) (stampCtr g.stamp 1) (stampCtr g.stamp 2))
  | inc1 : 2 ≤ stampDepth g.stamp → stampCtr g.stamp 1 < 2 ^ 20 - 1 → StampRule g (.stamp 0 .inc1)
      (mkStamp (stampDepth g.stamp) (stampCtr g.stamp 0) (stampCtr g.stamp 1 + 1) (stampCtr g.stamp 2))
  | inc2 : 3 ≤ stampDepth g.stamp → stampCtr g.stamp 2 < 2 ^ 20 - 1 → StampRule g (.stamp 0 .inc2)
      (mkStamp (stampDepth g.stamp) (stampCtr g.stamp 0) (stampCtr g.stamp 1) (stampCtr g.stamp 2 + 1))
  | push : stampDepth g.stamp < 3 → StampRule g (.stamp 0 .push)
      (mkStamp (stampDepth g.stamp + 1) (stampCtr g.stamp 0) (stampCtr g.stamp 1) (stampCtr g.stamp 2))
  | pop2 : stampDepth g.stamp = 2 → StampRule g (.stamp 0 .pop) (mkStamp 1 (stampCtr g.stamp 0) 0 0)
  | pop3 : stampDepth g.stamp = 3 → StampRule g (.stamp 0 .pop) (mkStamp 2 (stampCtr g.stamp 0) (stampCtr g.stamp 1) 0)

/-- A Keeper's table holds a pointstamp at most once. -/
def Die.DistinctEntries (d : Die) : Prop := (d.keeper.map (fun e => (e.ctx, e.node, e.stamp))).Nodup

/-! ### Starting work (R44, R45, R68, R349 to R365) -/

/-- A GROUP STANDS AS IT IS CREATED (R44, R45, R268): its live lanes are one wave at the entry clause with call stacks empty and
generators that are not zero; its masks, predicates, flags and handles are clear; it is in user mode. -/
def Group.Created (g : Group) (core ctx grid entry width n now : Nat) (live : Mask) (st : DWord) (node prio : Nat) : Prop :=
  g.core = core ∧ g.ctx = ctx ∧ g.grid = grid ∧ g.width = width ∧ g.n = n ∧ g.live = live ∧ g.stamp = st ∧ g.node = node
    ∧ g.prio = prio ∧ g.issuePrio = prio ∧ g.launchPrio = prio ∧ g.staging = st.extractLsb' 0 32
    ∧ (∀ l < 32, ∃ a b, a ≠ 0#32 ∧ b ≠ 0#32 ∧ g.lane l = { pc := BitVec.ofNat 52 entry, gen := a, selGen := b })
    ∧ g.waves = (if live = 0#32 then [] else [(lowLane live, { lanes := live, readyAt := now })])
    ∧ g.ops = [] ∧ g.flagsZero = true ∧ (∀ k < 8, k ≠ 0 → g.kmask k = 0#32) ∧ g.q = 0#4 ∧ (∀ h < 32, vecGet g.a h none = none)
    ∧ g.status = 0#3 ∧ g.seq = 0#32 ∧ g.sup = false ∧ g.errors = [] ∧ g.entering = none ∧ g.preempt = none ∧ g.exiting = false

/-- A TEAM STANDS AS IT IS CREATED (R45, R47): scratchpad zero and present, accumulators zero, handles unbound. -/
def Team.Created (t : Team) (core ctx grid tidx scratch accum chambers : Nat) (groups : List Nat) : Prop :=
  t.core = core ∧ t.ctx = ctx ∧ t.grid = grid ∧ t.tidx = tidx ∧ t.groups = groups ∧ t.ended = false ∧ t.inbound = 0
    ∧ t.spadLen = roundUp scratch 128 ∧ t.spad = [] ∧ t.cleared = [] ∧ t.accLen = roundUp accum 2048 ∧ t.acc = []
    ∧ t.reserved = chambers ∧ t.chambers = [] ∧ ∀ h < 32, vecGet t.h h none = none

/-- Nothing waits to enter the queue of a die (R337, R357, R375, R379). -/
def State.NothingWaits (s : State) (die : Nat) : Prop :=
  (s.die die).fired = [] ∧ (s.die die).disp.recons = [] ∧ ∀ b ∈ (s.die die).disp.bands, b.2.waiting = []

/-- A task's group has started on a core (R44, R237, R239), with the number `gid` in the team `tid`. -/
def State.StartedTask (s t : State) (core : Nat) (k : Task) : Prop :=
  let l := s.lr k.grid
  (t.group s.nextGroup).Created core k.ctx k.grid k.entry l.lanes l.vregs (s.core core).cycles (lowLanes l.lanes) k.stamp k.node
      k.prio
    ∧ (t.group s.nextGroup).origin = .task ∧ (t.group s.nextGroup).doneCtr = k.done ∧ (t.group s.nextGroup).team = s.nextTeam
    ∧ (t.group s.nextGroup).tidx = 0xFFFFFFFF ∧ (t.group s.nextGroup).gidx = 0 ∧ (t.group s.nextGroup).producer = 0
    ∧ (∀ j < 64, (t.group s.nextGroup).sreg j = k.payload.getD j 0) ∧ (∀ r l, (t.group s.nextGroup).vreg r l = 0)
    ∧ (t.team s.nextTeam).Created core k.ctx k.grid 0xFFFFFFFF l.scratch l.accum l.chambers [s.nextGroup]
    ∧ t.nextGroup = s.nextGroup + 1 ∧ t.nextTeam = s.nextTeam + 1 ∧ (t.core core).l1 = []

/-! ### Traversals, raster probes and the display words (R247 to R267) -/

/-- The six words that report a closest hit under STATUS 1 (R253). -/
def Hit.words (h : Hit) : List Nat :=
  [h.t32, h.w1, h.w2, h.prim, h.inst, h.geom + 2 ^ 16 + (if h.back then 2 ^ 24 else 0)]

/-- The six words of a MISS (R253). -/
def missWords : List Nat := [0x7F800000, 0, 0, 0, 0, 0]

/-- RAYS WHOSE END NEEDS NO NODE (R253, R256), each with the six words it reports: a ray with a NaN or an empty interval, and a
saved walk that is continued with END. -/
inductive RayEnds (o : POp) (k : Nat) (ln : Lane) : List Nat → Prop where
  | noRay {d a r l opt} : o.instr = .vtrav d a r l opt →
      (∃ i < 8, (fp32.decode (tget o.vals (k * 64 + i) 0)).isNan = true)
        ∨ (fp32.decode (tget o.vals (k * 64 + 7) 0)).lt (fp32.decode (tget o.vals (k * 64 + 3) 0)) = true → RayEnds o k ln missWords
  | accepted {d a l opt w h} : o.instr = .vtravc d a l opt → opt.getLsbD 0 = true → opt.getLsbD 1 = true → ln.walk = some w →
      w.gen = tget o.vals (k * 64) 0 → w.status = some 2 → w.cand = some h → RayEnds o k ln h.words
  | discarded {d a l opt w h} : o.instr = .vtravc d a l opt → opt.getLsbD 0 = false → opt.getLsbD 1 = true → ln.walk = some w →
      w.gen = tget o.vals (k * 64) 0 → w.status = some 2 → w.best = some h → RayEnds o k ln h.words
  | deep {d a l opt w h} : o.instr = .vtravc d a l opt → opt.getLsbD 1 = true → ln.walk = some w →
      w.gen = tget o.vals (k * 64) 0 → w.status = some 3 → w.best = some h → RayEnds o k ln h.words
  | nothing {d a l opt w} : o.instr = .vtravc d a l opt → (opt.getLsbD 0 = false ∨ w.status = some 3) → opt.getLsbD 1 = true →
      ln.walk = some w → w.gen = tget o.vals (k * 64) 0 → w.status = some 2 ∨ w.status = some 3 → w.best = none →
      RayEnds o k ln missWords

/-- A lane of VTRAVC whose token is not that of its saved walk (R256). -/
def StaleLane (o : POp) (k : Nat) (ln : Lane) : Prop :=
  (∃ d a l opt, o.instr = .vtravc d a l opt) ∧ ∀ w, ln.walk = some w → w.gen ≠ tget o.vals (k * 64) 0

/-- An operation of pipe E may complete: it is in flight, nothing earlier that it must follow is, and it does not wait for a
page. -/
def State.MayEnd (s : State) (gid : Nat) (o : POp) : Prop :=
  s.stop = none ∧ (s.group gid).op? o.id = some o ∧ (s.group gid).ops = [o] ∧ o.suspended = none

/-- A group's completion changes nothing of other groups and no byte of memory. -/
def State.OnlyGroup (s t : State) (gid : Nat) : Prop :=
  (∀ h, h ≠ gid → t.group h = s.group h) ∧ ∀ key, t.homeByte key = s.homeByte key

/-- Number of active lanes below one: the place of the lane in ascending order. -/
def rankIn (act : Mask) (l : Nat) : Nat := (lanesBelow act l).length

/-- The record that VSEMIT gives to the Basin for a lane (R258, R259). -/
def State.record (s : State) (gid : Nat) (o : POp) (k : Nat) : List Word :=
  let die := dieOf (s.group gid).core
  let w := (List.range 8).map (fun i => BitVec.ofNat 32 (tget o.vals (k * 64 + i) 0))
  w.set 7 (localWord7 (s.disp die).block die (w.getD 0 0) (w.getD 7 0))

/-- Tile of a record's position, and whether the position is on the display of a block (R257, R259). -/
def recordTile (w : List Word) : Nat :=
  ((w.getD 0 0).extractLsb' 16 16).toNat / 128 * 384 + ((w.getD 0 0).extractLsb' 0 16).toNat / 128
def onDisplay (b : Nat) (w : List Word) : Prop :=
  ((w.getD 0 0).extractLsb' 0 16).toNat / 8 < bWidth b ∧ ((w.getD 0 0).extractLsb' 16 16).toNat / 8 < bRows b

/-- WHERE THE BASIN PUTS A RECORD (R259, R260), from the tile's slots, its pages, the free pages of the pool and the cap and
half-life of the band: the slot, the pages it adds, and the samples it evicts; none when it cannot be stored. -/
inductive SlotFor (b now : Nat) (t : TileState) (free : Nat) (band : Nat × Nat × Nat) : Nat → Nat → Nat → Prop where
  | lowestFree {k} : k < min band.1 (16 * t.pages) → tget? t.slots k = none → (∀ j < k, tget? t.slots j ≠ none) →
      SlotFor b now t free band k 0 0
  | newPage : (∀ j < min band.1 (16 * t.pages), tget? t.slots j ≠ none) → 16 * t.pages < band.1 → 0 < free →
      SlotFor b now t free band (16 * t.pages) 1 0
  | leastRetained {k} : (∀ j < min band.1 (16 * t.pages), tget? t.slots j ≠ none) → (band.1 ≤ 16 * t.pages ∨ free = 0) →
      k < band.1 → tget? t.slots k ≠ none →
      (∀ j < band.1, j ≠ k → tget? t.slots j ≠ none → goesBefore band.2.1 (k, retention b now (tget t.slots k []))
        (j, retention b now (tget t.slots j [])) = true) → SlotFor b now t free band k 0 1

/-! ### The display over time (R366 to R386, R456) -/

/-- Reading `n` bytes of a context's memory through a die yields `v` and leaves everything but the display units as it was, whatever
the units hold meanwhile. -/
def State.UnitReads (s : State) (die ctx va n : Nat) (v : Option Nat) : Prop :=
  s.unitRead die ctx va n = (v, s)
    ∧ ∀ f : Display → Display, (s.updDisp die f).unitRead die ctx va n = (v, s.updDisp die f)

/-- A block that stands in a context's memory as R367 asks, with a sample shader record `raw` that R374 allows and no record for
reconstruction. -/
def State.BlockStands (s : State) (die ctx b raw : Nat) : Prop :=
  s.UnitReads die ctx (if die = 0 then (s.ctx ctx).dispVa0 else (s.ctx ctx).dispVa1) 4096 (some b)
    ∧ blockOk (s.ctx ctx) b = true ∧ recField b 0x68 64 0 = 0
    ∧ s.UnitReads die ctx (recField b 0x30 64 0) 256 (some raw) ∧ shaderOk raw = true

/-- An event of a die's display units changes them alone. -/
def State.OnlyDisplay (s t : State) (die : Nat) : Prop := t = s.updDisp die (fun _ => t.disp die)

/-! ### The host, contexts, bring-up and power (R430 to R472) -/

/-- The host has given a command of a code, in a state of R452. -/
def State.Commanded (s : State) (code : Nat) : Prop := s.stop = none ∧ s.host.go = true ∧ s.host.cmd = code

/-- THE MAILBOX COMMANDS (R451, R454, R466), each with its code and the states in which it runs. -/
inductive MailboxCommand : Instr → Nat → List Service → Prop where
  | loadCtx : MailboxCommand .loadCtx 0x01 [.full]
  | unloadCtx : MailboxCommand .unloadCtx 0x02 [.full]
  | preemptCmd : MailboxCommand .preemptCmd 0x03 [.full]
  | setIndex : MailboxCommand .setIndex 0x04 [.reduced, .full]
  | setPeer : MailboxCommand .setPeer 0x05 [.reduced, .full]
  | fwWrite : MailboxCommand .fwWrite 0x10 [.reduced]
  | fwStart : MailboxCommand .fwStart 0x11 [.reduced]
  | advanceSvn : MailboxCommand .advanceSvn 0x12 [.full]
  | setEnvelope : MailboxCommand .setEnvelope 0x13 [.reduced, .full]
  | memtest : MailboxCommand .memtest 0x14 [.reduced]
  | pattern : MailboxCommand .pattern 0x15 [.reduced, .verifying, .full]
  | moduleReset : MailboxCommand .moduleReset 0x16 [.reduced, .verifying, .full]
  | errRing : MailboxCommand .errRing 0x20 [.full]
  | sensors : MailboxCommand .sensors 0x21 [.reduced, .full]

/-- A command has ended with a RESULT and a DETAIL: GO is clear (R451). -/
def State.Replied (t : State) (result detail : Nat) : Prop :=
  t.host.go = false ∧ t.host.result = result ∧ t.host.detail = detail

/-- Only the host's side of the module has changed. -/
def State.OnlyHost (s t : State) : Prop := t = { s with host := t.host }

/-- Byte `i` of the payload. -/
def State.payloadByte (s : State) (i : Nat) : Nat := (byteAt s.host.payload i).toNat
/-- A halfword, a word and a doubleword of the payload, little-endian (R3). -/
def State.payload16 (s : State) (i : Nat) : Nat := s.payloadByte i + 2 ^ 8 * s.payloadByte (i + 1)
def State.payload32 (s : State) (i : Nat) : Nat := s.payload16 i + 2 ^ 16 * s.payload16 (i + 2)
def State.payload64 (s : State) (i : Nat) : Nat := s.payload32 i + 2 ^ 32 * s.payload32 (i + 4)

/-- A descriptor without a display right, graph, mooring table, pools or submission queues. -/
def PlainDescriptor (c : Ctx) : Prop :=
  c.disp = 0#2 ∧ c.graphVa = 0 ∧ c.moorVa = 0 ∧ c.poolVa = 0 ∧ c.submitVa = 0

/-- THE MODULE IS IN RESET (R452, R455): everything stands as at reset but what lies outside the module, the readings of its sensors,
the fused counter, the repair log and the days of its rows, and the run's own agenda, free values and clock. -/
def State.InReset (s t : State) : Prop :=
  t.host = { powered := t.host.powered, hot := t.host.hot, fused := s.host.fused, repairLog := s.host.repairLog, rowDays := s.host.rowDays }
    ∧ t.groups = [] ∧ t.teams = [] ∧ t.ctxs = [] ∧ t.grids = [] ∧ t.l2 = [] ∧ t.l2Tags = [] ∧ t.mq = [] ∧ t.poison = [] ∧ t.wharf = []
    ∧ (∀ die, t.die die = { ({} : Die) with sensors := (s.die die).sensors })
    ∧ (∀ key, outsideHome key = true → byteAt t.mem key = byteAt s.mem key)
    ∧ (∀ key, outsideHome key = false → byteAt t.mem key = unlisted)
    ∧ t.agenda = s.agenda ∧ t.ns = s.ns ∧ t.modIndex = 0 ∧ t.cores = State.reset.cores

/-- WHAT FIRMWARE DOES WITH A DIE AT A THERMAL STEP (R25, R469): at step 0 the envelope's operating point and every chamber; at step 1
no more of either than before; at step 2 no chamber below the highest priority and the lowest point. -/
def State.Reduced (s t : State) (die n : Nat) : Prop :=
  (n = 0 → (t.die die).chamberLimit = 96 ∧ (t.die die).point = Config.pointFor die s.host.envelope)
    ∧ (n = 1 → (t.die die).chamberLimit ≤ (s.die die).chamberLimit ∧ (t.die die).point ≤ (s.die die).point)
    ∧ (n = 2 → (t.die die).chamberLimit = 0 ∧ (t.die die).point = 0)

/-- IDLE MARKS ARE RIGHT (R472): a core noted as idle since some time holds nothing, and a core that holds nothing is so noted. -/
def State.IdleMarks (s : State) : Prop := ∀ e ∈ s.cores, (e.2.idleSince.isSome = true ↔ s.coreIdle e.1 e.2 = true)

/-- A state is settled: no access outside a die's memory is pending, and the idle marks are right. -/
def State.Settled (s : State) : Prop := s.stop = none ∧ s.IdleMarks

end Sys2Proof.Machine
end

