-- ==== Sys2Proof/Certificates/Slice0/Obligations.lean ====
section
/-! DEFINITION. Certificates/Slice0/Obligations.lean: the statements about the machine, in the order of the manual's
chapters. Each names the rules it rests on. -/

open Sys2Proof Sys2Proof.Machine

/-! ### Encodings -/

/-- R89, R95 to R97, R92, R93, R81: words written out bit by bit from the encoding tables decode to the instructions they
stand for: VADD v3, v4, s5; VICMP LTU into k2; VFX RCP; VLD of width 64; SADD; SMOVI −1; LOOP; a general prefix. -/
def Obligations.DecodeWords : Prop :=
  decodeWord 0b00000000_00000011_00000100_11000101#32 none = .ok (.vadd 3 4 197)
  ∧ decodeWord 0b00100000_010_00110_00000001_00000010#32 none = .ok (.vicmp 2 .ltu 1 2)
  ∧ decodeWord 0b00111000_00001001_00001000_00000000#32 none = .ok (.vfx 9 8 .rcp)
  ∧ decodeWord 0b01010000_00000110_00000111_0010_1_101#32 none = .ok (.vld 6 7 2 true .w64)
  ∧ decodeWord 0b1_0000000_000001_000010_000011_000000#32 none = .ok (.sadd 1 2 3)
  ∧ decodeWord 0b1_0010100_000001_111111111111111111#32 none = .ok (.smovi 1 (-1))
  ∧ decodeWord 0b01111111_11000001_010_1_001_1_1_0_000000#32 none
      = .ok (.prefixGeneral 0xC1 2 true 1 true true false)
  ∧ decodeSeq 0b0011#4 0b000010_111111111111111111#24 = .ok (.loop 2 (-1))

/-- R89 to R97: THE ENCODER AND THE DECODER AGREE. Every well-formed instruction that has a word is read back from it with
every operand, whatever word follows; a prefix word is read back in its general or its memory reading according to
the word that follows (R91). -/
def Obligations.EncodeDecode : Prop :=
  ∀ (i : Instr) (w : Word) (after : Option Word), i.WellFormed → encode i = some w →
    (match i with
     | .prefixGeneral .. => ∀ n, after = some n → takesMemoryPrefix n = false
     | .prefixMemory .. => ∃ n, after = some n ∧ takesMemoryPrefix n = true
     | _ => True) →
    decodeWord w after = .ok i

/-- R89: every bit of a word that decodes is one the instruction names: the decoded instruction's own word is the word
that was read, so no two words mean the same instruction and no reserved bit is ignored. R78, R81: every clause end is
read back from its SEQ and TGT, and SEQ and TGT from the clause end they stand for; codes 12 to 15 stand for none. -/
def Obligations.EncodedWordsAndEndsDecode : Prop :=
  (∀ (w : Word) (after : Option Word) (i : Instr), decodeWord w after = .ok i → i.WellFormed ∧ encode i = some w)
  ∧ ((∀ i, ClauseEnd i → ∃ seq tgt, encodeSeq i = some (seq, tgt) ∧ decodeSeq seq tgt = .ok i)
     ∧ (∀ seq tgt i, decodeSeq seq tgt = .ok i → ClauseEnd i ∧ encodeSeq i = some (seq, tgt))
     ∧ ∀ seq tgt, 12 ≤ seq.toNat → ¬ ∃ i, decodeSeq seq tgt = .ok i)

/-! ### The step -/

/-- R79: A STEP RUNS THE DECODED INSTRUCTION. When it is a wave's turn, no word is due before the turn's time passes, the wave
runs its clause's words, its partition chooses it (R278), and the word at its index decodes to a well-formed instruction, the
step is that instruction's meaning on the state with the wave current, after the turn's time has passed; a word that its
partition does not choose does not issue. A prefix is read with the word behind it, and the two issue in one step: the meaning of
the word on the state that the prefix leaves, or neither where the word moves no wave of the group. The issue takes a pipe (R277),
and the end of the step notes waves that become ready, idle cores, and a physical access that left its die. R79, R81: past its last word a wave runs its clause's end; before its clause it starts one; and a word that names no
instruction runs as a reserved encoding (R95). R38, R39: where the wave is not parked on registers that it has read and no
register is unobserved or poisoned, the registers that the meaning sees are the group's. R463: a die that has stopped issues nothing. Log
entry 4 (the model's own): a turn of the device runs that step's meaning; an instruction word is never run so; what is due
before time passes goes first. R49, R50, R471: time passes alike for the module and for every core but one in droop, which
delivers as many cycles fewer as its droop still stretches. -/
def Obligations.StepRunsTheDecodedInstruction : Prop :=
  (∀ (s : State) (t : Turn) (rest : List Turn) (g w : Nat) (u : State),
     s.agenda = t :: rest → t.move = .wave g w → (t.passes = true → s.due = none) →
     u = { s with agenda := rest }.elapse t.ns t.cycles → (u.die (dieOf (u.group g).core)).halted = false →
     let v := (u.group g).wave w
     (∀ x i, v.phase = .body → v.words[v.idx]? = some x → decodeWord x v.words[v.idx + 1]? = .ok i →
        let y := if opByte x = 0x7F then v.words.getD (v.idx + 1) x else x
        (u.mayIssue g w = true → step s = settle (onNext (fun t => u.noteIssue t g w y) (u.runIssue g w i)))
        ∧ (u.mayIssue g w = false → step s = settle (.next u)))
     ∧ (∀ x e, v.phase = .body → v.words[v.idx]? = some x → decodeWord x v.words[v.idx + 1]? = .error e →
          opByte x ≠ 0x7F → u.mayIssue g w = true →
          step s = settle (onNext (fun t => u.noteIssue t g w x) (u.runIssue g w (.reservedEncoding x))))
     ∧ (v.phase = .start ∨ v.phase = .waiting ∨ v.phase = .waited → step s = settle (u.runWave g w .clauseStart))
     ∧ ∀ i, v.phase = .body ∨ v.phase = .draining → v.words.length ≤ v.idx → decodeSeq (hdrSeq v.hdr) (hdrTgt v.hdr) = .ok i →
         step s = settle (u.runWave g w i))
  ∧ (∀ (u : State) (g w : Nat) (i : Instr),
       ((u.group g).late = [] → (u.group g).bad = [] → ((u.group g).wave w).snap = none →
          u.runWave g w i = exec i { u with curGroup := g, curWave := w })
       ∧ ((∀ t, u.runWave g w i = .next t → ((u.group g).wave w).pfx ≠ none ∨ ((t.group g).wave w).pfx = none) →
            u.runIssue g w i = u.runWave g w i)
       ∧ ∀ t j, u.runWave g w i = .next t → ((u.group g).wave w).pfx = none → ((t.group g).wave w).pfx ≠ none →
            t.waveInstr g w = some j →
            u.runIssue g w i = onNext (fun x => if (x.group g).waves = (t.group g).waves then u else x) (t.runWave g w j))
  ∧ (∀ (s : State) (t : Turn) (rest : List Turn) (g w : Nat) (u : State),
       s.agenda = t :: rest → t.move = .wave g w → (t.passes = true → s.due = none) →
       u = { s with agenda := rest }.elapse t.ns t.cycles → (u.die (dieOf (u.group g).core)).halted = true →
       step s = settle (.next u))
  ∧ (∀ (s : State) (t : Turn) (rest : List Turn) (i : Instr) (u : State),
       s.agenda = t :: rest → t.move = .dev i → (t.passes = true → s.due = none) →
       u = { s with agenda := rest }.elapse t.ns t.cycles →
       (isDevice i = true → step s = settle (onNext (fun t => { t with
           groups := t.groups.map (fun e => (e.1, Group.noteLate (u.group e.1) e.2)) }) (exec i u)))
       ∧ (isDevice i = false → step s = settle (.next u)))
  ∧ (∀ (s : State) (t : Turn) (rest : List Turn) (m : Act), s.agenda = t :: rest → t.passes = true → s.due = some m →
       step s = settle (m s))
  ∧ (∀ (s : State) (ns cycles : Nat), (s.passTime ns cycles).ns = s.ns + ns
       ∧ ∀ c k, tget? s.cores c = some k →
           ((s.passTime ns cycles).core c).cycles + min cycles k.droop = k.cycles + cycles
           ∧ ((s.passTime ns cycles).core c).droop = k.droop - cycles)

/-- EVERY INSTRUCTION HAS A MEANING: none is refused in any state. -/
def Obligations.NothingIsRefused : Prop := ∀ (i : Instr) (s : State) (r : Refusal), exec i s ≠ .refused r

/-! ### Uniform words -/

/-- R80, R151 to R154, R158: THE UNIFORM INTEGER WORDS. When the wave has an enabled lane, each completes: its destination
holds the value that its table row gives in exact arithmetic, every other s-register, every other register of the
group and everything outside it is unchanged, and the wave stands at its next word. R29, R154, R155, R157, R158: the words that
write a pair, a predicate or a mask, and the moves between v- and s-registers. SADD64 adds pairs modulo 2⁶⁴ and traps
ILLEGAL where a pair would run past s63; SCMP and SFCMP write q alone; SKMOV and SKOP write the lanes of E of their
mask alone, and a write to k0 is discarded (R32); SRDLANE and SWRLANE do nothing beyond the group's width but give 0.
R29, R33, R177: BRSET puts the four s-registers from its source into its buffer record, lowest word first, and BRGET
the record into the four from its destination; no other register changes; a span past s63 traps ILLEGAL. -/
def Obligations.UniformIntegerResults : Prop :=
  (∀ (s : State) (i : Instr) (d : BitVec 6) (val : Group → Nat), s.Enabled → UniformRule s.cw.en i d val →
     ∃ t, exec i s = .next t ∧ (t.cg.sreg d.toNat).toNat = val s.cg ∧ s.WroteS t d.toNat 1)
  ∧ (∀ (s : State), s.Enabled →
       (∀ d a b : BitVec 6,
         (d.toNat < 63 ∧ a.toNat < 63 ∧ b.toNat < 63 → ∃ t, exec (.sadd64 d a b) s = .next t ∧
           (t.cg.spair d.toNat).toNat = ((s.cg.spair a.toNat).toNat + (s.cg.spair b.toNat).toNat) % 2 ^ 64 ∧ s.WroteS t d.toNat 2)
         ∧ (d = 63 ∨ a = 63 ∨ b = 63 → exec (.sadd64 d a b) s = .next s.illegal))
       ∧ (∀ (q : BitVec 2) (c : ICond) (a b : BitVec 6), ∃ t, exec (.scmp q c a b) s = .next t ∧
           (∀ p < 4, t.cg.qbit p = if p = q.toNat then icond c (s.cg.sreg a.toNat) (s.cg.sreg b.toNat) else s.cg.qbit p)
           ∧ s.WordDone t { s.cg with q := t.cg.q })
       ∧ (∀ (q : BitVec 2) (c : FCond) (a b : BitVec 6), ∃ t, exec (.sfcmp q c a b) s = .next t ∧
           (∀ p < 4, t.cg.qbit p = if p = q.toNat then fcond c (s.cg.sreg a.toNat).toNat (s.cg.sreg b.toNat).toNat else s.cg.qbit p)
           ∧ s.WordDone t { s.cg with q := t.cg.q })
       ∧ (∀ (a : BitVec 6) (n : BitVec 3), ∃ t, exec (.skmovK a n) s = .next t ∧ s.WordDone t { s.cg with k := t.cg.k } ∧
           ∀ m < 8, t.cg.kmask m = if m = n.toNat ∧ m ≠ 0 then (s.cg.kmask m &&& ~~~s.cw.en) ||| (s.cg.sreg a.toNat &&& s.cw.en)
             else s.cg.kmask m)
       ∧ (∀ (d a b : BitVec 3) (f : KOpFn), f ≠ .not ∨ b = 0 → ∃ t, exec (.skop d a b f) s = .next t ∧
           s.WordDone t { s.cg with k := t.cg.k } ∧
           ∀ m < 8, t.cg.kmask m = if m = d.toNat ∧ m ≠ 0 then
               (s.cg.kmask m &&& ~~~s.cw.en) ||| (kopFn f (s.cg.kmask a.toNat) (s.cg.kmask b.toNat) &&& s.cw.en)
             else s.cg.kmask m)
       ∧ (∀ (v : Byte) (d : BitVec 6) (l : BitVec 5), v.toNat < s.cg.n → s.cg.n ≤ 192 → ∃ t, exec (.srdlane v d l) s = .next t ∧
           t.cg.sreg d.toNat = (if l.toNat < s.cg.width then s.cg.vreg v.toNat l.toNat else 0) ∧ s.WroteS t d.toNat 1)
       ∧ (∀ (v : Byte) (a : BitVec 6) (l : BitVec 5), v.toNat < s.cg.n → s.cg.n ≤ 192 → ∃ t, exec (.swrlane v a l) s = .next t ∧
           s.WordDone t { s.cg with v := t.cg.v, bad := t.cg.bad } ∧
           ∀ r m, m < 32 → (r * 32 + m ∈ t.cg.bad ↔ r * 32 + m ∈ s.cg.bad ∧ ¬ (r = v.toNat ∧ m = l.toNat ∧ m < s.cg.width)) ∧ t.cg.vreg r m = if r = v.toNat ∧ m = l.toNat ∧ m < s.cg.width then s.cg.sreg a.toNat else s.cg.vreg r m))
  ∧ (∀ (s : State) (n : BitVec 4) (a : BitVec 6), s.Enabled →
       (a.toNat ≤ 60 → ∃ t, exec (.brset n a) s = .next t ∧ s.WordDone t { s.cg with b := t.cg.b } ∧ ∀ m < 16,
           (t.cg.brec m).toNat = if m = n.toNat then s.cg.srcs (192 + a.toNat) 0 4 else (s.cg.brec m).toNat)
       ∧ (a.toNat ≤ 60 → ∃ t, exec (.brget a n) s = .next t ∧ s.WroteS t a.toNat 4 ∧
           t.cg.srcs (192 + a.toNat) 0 4 = (s.cg.brec n.toNat).toNat)
       ∧ (60 < a.toNat → exec (.brset n a) s = .next s.illegal ∧ exec (.brget a n) s = .next s.illegal))

/-- R80: a uniform word that no enabled lane runs is skipped: the wave moves on and nothing else changes. Stated for one
word of each shape: arithmetic, predicate, special register, memory, the Keeper, the system. R28, R91, R92, R163: A
V-SET WORD THAT DOES NOT DECODE. Where its own fields do not fit the group's declared registers, the word traps
ILLEGAL; where they fit and its prefix does not, the prefix does. Stated for the integer, floating-point and
conversion words of the tables above. -/
def Obligations.SkippedAndIllegalWords : Prop :=
  (∀ (s : State) (i : Instr), s.cw.en = 0#32 →
     ((∃ d val, UniformRule s.cw.en i d val) ∨ (∃ q c a b, i = .scmp q c a b) ∨ (∃ d c, i = .sspec d c)
       ∨ (∃ a f, i = .stamp a f) ∨ (∃ a n, i = .brset n a) ∨ ∃ d c, i = .sysrd d c) →
     s.stop = none → ∃ t, exec i s = .next t ∧ s.WordSkipped t)
  ∧ (∀ (s : State) (i : Instr) (r : LaneRule), LaneIntRule i r ∨ LaneFoldRule i r ∨ LaneFloatRule i r ∨ LaneCvtRule i r →
       (¬ r.fits s.cg → exec i s = .next s.illegal)
       ∧ ∀ w, r.fits s.cg → s.cw.pfx = some w → (gpfx w).ok r.h s.cg.n = false → exec i s = .next s.illegalPrefix)

/-- R155, R156: THE UNIFORM FLOATING-POINT WORDS. With a rounding code that is not reserved the destination receives the
exact sum, product or fused multiply-add rounded once in that mode; of the lanes, only the rounding generator of the
lowest enabled lane may move, and it moves only in mode 6. Code 7 traps ILLEGAL. R156: SFUN writes its function of the
source: for every function but RCP the value is the one the manual fixes, and RCP, free within its bound (log entry
5), still gives what R142 fixes at zeros, infinities and NaN. -/
def Obligations.UniformFloatResults : Prop :=
  (∀ (s : State) (d a b : BitVec 6) (m : BitVec 3), s.Enabled →
     let x := fp32.decode (s.cg.sreg a.toNat).toNat
     let y := fp32.decode (s.cg.sreg b.toNat).toNat
     let z := fp32.decode (s.cg.sreg d.toNat).toNat
     let low := lowLane s.cw.en
     ∀ (i : Instr) (v : Machine.Num),
       (i, v) ∈ [(Instr.sfadd d a b m, x.add (m == 4) y), (.sfmul d a b m, x.mul y), (.sffma d a b m, Num.fma (m == 4) x y z)] →
       (m = 7 → exec i s = .next s.illegal)
       ∧ (m ≠ 7 → ∃ t, exec i s = .next t
           ∧ (let r := fp32.round v { mode := m.toNat, gen := (s.cg.lane low).gen }
              t.cg.sreg d.toNat = BitVec.ofNat 32 r.1
              ∧ (∀ l < 32, t.cg.lane l = if l = low then { s.cg.lane l with gen := r.2 } else s.cg.lane l))
           ∧ (m ≠ 6 → ∀ l < 32, t.cg.lane l = s.cg.lane l)
           ∧ s.WordDone t { s.cg with s := t.cg.s, lanes := t.cg.lanes }
           ∧ ∀ r, r ≠ d.toNat → t.cg.sreg r = s.cg.sreg r))
  ∧ (∀ (s : State) (d a : BitVec 6) (f : SFunFn), s.Enabled → ∃ t, exec (.sfun d a f) s = .next t ∧ s.WroteS t d.toNat 1 ∧
       (f ≠ .rcp → t.cg.sreg d.toNat = sfunFn f (s.cg.sreg a.toNat) 0) ∧
       (f = .rcp → ∀ x r, (x, r) ∈ [(0x00000000#32, 0x7F800000#32), (0x80000000#32, 0xFF800000#32), (0x7F800000#32, 0x00000000#32),
           (0xFF800000#32, 0x80000000#32), (0x7FC00000#32, 0x7FC00000#32)] → s.cg.sreg a.toNat = x → t.cg.sreg d.toNat = r))

/-! ### Special registers -/

/-- R48 to R50, R159, R39: SSPEC reads what R48 says of each code (a read of FLAGS observes those at zero) and traps ILLEGAL from code 22 on. Reading CLOCKLO or NSLO
latches the high half that CLOCKHI and NSHI then read. R51 to R53, R159, R245: SSPECW. PRIO can only fall and takes
bits [6:0]; STATUS clears the bits that are written as 1, but none that a completion has set in the same cycle; STAMPLO goes to the staging register; a STAMPHI that makes a
stamp the group may not change to, and every register that is not writable, traps ILLEGAL. -/
def Obligations.SpecialRegisters : Prop :=
  (∀ (s : State) (d : BitVec 6) (c : BitVec 5), s.Enabled →
     (22 ≤ c.toNat → exec (.sspec d c) s = .next s.illegal)
     ∧ (c.toNat < 22 → ∃ t, exec (.sspec d c) s = .next t
       ∧ (∀ r, r ≠ d.toNat → t.cg.sreg r = s.cg.sreg r)
       ∧ s.WordDone t { s.cg with
           s := t.cg.s
           clockLatch := if c = 9 then BitVec.ofNat 32 ((s.core s.cg.core).cycles / 2 ^ 32) else s.cg.clockLatch
           nsLatch := if c = 11 then BitVec.ofNat 32 (s.ns / 2 ^ 32) else s.cg.nsLatch }
       ∧ (c = 21 → t.cg.late = s.cg.observeZero.late.map (Late.hit (.s d.toNat) allBits))
       ∧ ∀ code v, (code, v) ∈ [(0, BitVec.ofNat 32 s.cg.gidx), (1, BitVec.ofNat 32 s.cg.tidx), (2, BitVec.ofNat 32 s.cg.cidx),
           (3, BitVec.ofNat 32 s.cg.rank), (4, BitVec.ofNat 32 (s.cg.core % 16)),
           (5, BitVec.ofNat 32 (dieOf s.cg.core + 2 * s.modIndex)), (6, BitVec.ofNat 32 s.cg.part), (7, s.cw.lanes),
           (8, s.cg.live), (9, BitVec.ofNat 32 (s.core s.cg.core).cycles), (10, s.cg.clockLatch), (11, BitVec.ofNat 32 s.ns),
           (12, s.cg.nsLatch), (13, s.cg.stamp.extractLsb' 0 32), (14, s.cg.stamp.extractLsb' 32 32),
           (15, BitVec.ofNat 32 s.cg.node), (16, BitVec.ofNat 32 s.cg.prio),
           (17, BitVec.ofNat 32 (s.cg.producer + if s.cg.gidx = s.cg.producer then 16 else 0)), (18, s.cg.seq),
           (19, s.cg.status.setWidth 32), (20, BitVec.ofNat 32 (s.cg.inlines.length + 16 * s.cg.inlineLimit)),
           (21, s.cg.busy)] → c.toNat = code → t.cg.sreg d.toNat = v))
  ∧ (∀ (s : State) (a : BitVec 6), s.Enabled →
       (∃ t, exec (.sspecw a 16) s = .next t ∧ s.WordDone t { s.cg with prio := min s.cg.prio ((s.cg.sreg a.toNat).toNat % 128) })
       ∧ (∃ t, exec (.sspecw a 19) s = .next t ∧ s.WordDone t { s.cg with status := t.cg.status }
           ∧ ∀ b < 3, t.cg.status.getLsbD b = (s.cg.status.getLsbD b
               && (!(s.cg.sreg a.toNat).getLsbD b || decide (tget? s.cg.statusAt b = some (s.core s.cg.core).cycles))))
       ∧ (∃ t, exec (.sspecw a 13) s = .next t ∧ s.WordDone t { s.cg with staging := s.cg.sreg a.toNat })
       ∧ (stampSetOk s.cg (s.cg.sreg a.toNat ++ s.cg.staging) = false → exec (.sspecw a 14) s = .next s.illegal)
       ∧ ∀ c : BitVec 5, c ≠ 13 → c ≠ 14 → c ≠ 16 → c ≠ 19 → exec (.sspecw a c) s = .next s.illegal)

/-! ### V-set words -/

/-- R115 to R117, R120 to R127, R130, R131: THE LANE INTEGER WORDS. With fields that decode and a prefix that fits, each
completes: every active lane's destination holds the result of its table row in exact arithmetic, wrapped, or
saturated where asked for; a masked lane is kept or, under z, zeroed; every other register, the generators and all
that lies outside the group are unchanged; and the wave stands at its next word. R71, R72, R118, R132, R133: THE
INTEGER REDUCTIONS AND SCANS. The tree of VIRED delivers to every active lane the operation over all active lanes'
values, and the scan steps of VISCAN the operation over the active lanes at or below each lane (below it, for ADDEXC),
as if taken one by one from the identity. -/
def Obligations.LaneIntegerResults : Prop :=
  (∀ (s : State) (i : Instr) (r : LaneRule) (x : VIn), LaneIntRule i r → r.fits s.cg → s.laneView r.h r.d.toNat = some x →
     ∃ t, exec i s = .next t ∧ r.Done x s t)
  ∧ (∀ (s : State) (i : Instr) (r : LaneRule) (x : VIn), LaneFoldRule i r → r.fits s.cg → s.laneView r.h r.d.toNat = some x →
       ∃ t, exec i s = .next t ∧ r.Done x s t)

/-- R136 to R141, R144, R145: THE LANE FLOATING-POINT WORDS. With fields that decode and a prefix that fits, each
completes: every active lane's destination holds the exact result rounded once in the prefix's mode; packed words
round element 0 before element 1; and the frame is that of the integer words, with the rounding generator of active
lanes moved on. R146: THE CONVERSIONS of VCVT: to an integer, rounded and saturated; from an integer; into one half of
the destination, whose other half is kept; and from one half exactly. -/
def Obligations.LaneFloatResults : Prop :=
  (∀ (s : State) (i : Instr) (r : LaneRule) (x : VIn), LaneFloatRule i r → r.fits s.cg → s.laneView r.h r.d.toNat = some x →
     ∃ t, exec i s = .next t ∧ r.Done x s t)
  ∧ (∀ (s : State) (i : Instr) (r : LaneRule) (x : VIn), LaneCvtRule i r → r.fits s.cg → s.laneView r.h r.d.toNat = some x →
       ∃ t, exec i s = .next t ∧ r.Done x s t)

/-- R37, R147: VCVTIN and VCVTOUT. With a slot whose code is E4M3, E5M2, BF16 or FP16 and an element inside the register,
VCVTIN widens the element exactly, and VCVTOUT rounds into the element alone, in the prefix's mode or, when that is 0,
the slot's. With any other slot they trap SLOTKIND naming it. -/
def Obligations.SlotConversions : Prop :=
  ∀ (s : State) (d a : Byte) (e : BitVec 2) (sl : BitVec 3) (x : VIn),
    dstOk s.cg.n d.toNat 1 = true → srcOk s.cg.n a.toNat 1 = true →
    (s.laneView { mods := true } d.toNat = some x →
      (slotElem (s.slot sl.toNat) e.toNat = none → exec (.vcvtin d a e sl) s = .next (s.slotTrap sl.toNat))
      ∧ ∀ fmt, slotElem (s.slot sl.toNat) e.toNat = some fmt → ∃ t, exec (.vcvtin d a e sl) s = .next t ∧
          LaneRule.Done { d := d, val := plain (fun x g l =>
            (fp32.round (fmt.decode (fmods x.p fmt ((g.src a.toNat l).toNat / 2 ^ (fmt.width * e.toNat) % 2 ^ fmt.width))) {}).1) } x s t)
    ∧ (s.laneView (fArith 0) d.toNat = some x →
      (slotElem (s.slot sl.toNat) e.toNat = none → exec (.vcvtout d a e sl) s = .next (s.slotTrap sl.toNat))
      ∧ ∀ fmt, slotElem (s.slot sl.toNat) e.toNat = some fmt → ∃ t, exec (.vcvtout d a e sl) s = .next t ∧
          LaneRule.Done { d := d, val := fun x g l gen =>
            let w := s.slot sl.toNat
            let v := fmt.round (numA x g a l)
              { mode := if x.p.rm = 0 then slotRnd w else x.p.rm, sat := x.p.sat || slotSat w, gen := gen }
            let old := (g.vreg d.toNat l).toNat
            let low := old % 2 ^ (fmt.width * e.toNat)
            (old / 2 ^ (fmt.width * (e.toNat + 1)) * 2 ^ (fmt.width * (e.toNat + 1)) + v.1 * 2 ^ (fmt.width * e.toNat) + low, v.2) }
            x s t)

/-- R32, R128, R129, R140: VICMP and VFCMP write the comparison into the active lanes of one mask, zero the lanes masked
under z, keep every other lane and discard a write to k0; VSEL gives every enabled lane the first source where
the mask its prefix names is set and the second elsewhere; without a prefix, or with one that sets z or c, it traps
ILLEGAL. R71, R72, R143: VFRED and VFSCAN. Every lane of
VFRED receives the root of the tree over the 32 positions, those of lanes that are not active holding the identity,
each node rounded once; VFSCAN's lanes receive the scan's steps, each delivered by RoundTo (R137); every draw comes from the lowest active lane, whose
generator alone moves. -/
def Obligations.LaneComparesAndFloatReductions : Prop :=
  (∀ (s : State) (a b : Byte) (x : VIn), srcOk s.cg.n a.toNat 1 = true → srcOk s.cg.n b.toNat 1 = true →
     (∀ (k : BitVec 3) (c : ICond), s.laneView {} 0 = some x → ∃ t, exec (.vicmp k c a b) s = .next t ∧
       s.WordDone t { s.cg with k := t.cg.k } ∧ ∀ m < 8, ∀ l < 32, (t.cg.kmask m).getLsbD l =
         if m = k.toNat ∧ m ≠ 0 ∧ inMask (x.act ||| x.zero) l then
           inMask x.act l && icond c (s.cg.src a.toNat l) (s.cg.src b.toNat l)
         else (s.cg.kmask m).getLsbD l)
     ∧ (∀ (k : BitVec 3) (c : FCond), s.laneView { mods := true } 0 = some x → ∃ t, exec (.vfcmp k c a b) s = .next t ∧
       s.WordDone t { s.cg with k := t.cg.k } ∧ ∀ m < 8, ∀ l < 32, (t.cg.kmask m).getLsbD l =
         if m = k.toNat ∧ m ≠ 0 ∧ inMask (x.act ||| x.zero) l then
           inMask x.act l && fcond c (fmods x.p fp32 (s.cg.src a.toNat l).toNat) (s.cg.src b.toNat l).toNat
         else (s.cg.kmask m).getLsbD l)
     ∧ ∀ (d : Byte) (w : Word), dstOk s.cg.n d.toNat 1 = true → s.cw.pfx = some w →
         (gpfx w).ok { z := false, need := true } s.cg.n = true →
         ∃ t, exec (.vsel d a b) s = .next t ∧ LaneRule.Done { d := d, val := plain (fun _ g l =>
           (if inMask (g.kmask (gpfx w).km) l then g.src a.toNat l else g.src b.toNat l).toNat) } { act := s.cw.en } s t)
  ∧ (∀ (s : State) (d a b : Byte),
       (s.cw.pfx = none → exec (.vsel d a b) s = .next s.illegal)
       ∧ ∀ w : Word, s.cw.pfx = some w → (gpfx w).z = true ∨ (gpfx w).c ≠ 0 →
           exec (.vsel d a b) s = .next s.illegal ∨ exec (.vsel d a b) s = .next s.illegalPrefix)
  ∧ (∀ (s : State) (d a : Byte) (x : VIn), dstOk s.cg.n d.toNat 1 = true → srcOk s.cg.n a.toNat 1 = true →
       let at_ := fun (ident l : Nat) => if inMask x.act l then fmods x.p fp32 (s.cg.src a.toNat l).toNat else ident
       let low := lowLane x.act
       (∀ f : FRedFn, s.laneView { rm := decide (f = .add), sat := decide (f = .add), mods := true } d.toNat = some x →
         ∃ t, exec (.vfred d a f) s = .next t ∧ LaneRule.Done { d := d, val := fun _ _ l gen =>
           let r := treeReduce (fNode f x.p) (fIdent f) ((List.range 32).map (at_ (fIdent f))) (s.cg.lane low).gen
           (r.1, if l = low then r.2 else gen) } x s t)
       ∧ ∀ f : FScanFn, s.laneView (fArith 0) d.toNat = some x →
         ∃ t, exec (.vfscan d a f) s = .next t ∧ LaneRule.Done { d := d, val := fun _ _ l gen =>
           let r := scanAll (fNode .add x.p) 0x80000000 ((List.range 32).map (at_ 0x80000000)) (s.cg.lane low).gen
           let out := fun p => (fp32.round (fp32.decode (r.1.getD p 0)) (x.p.rnd gen)).1
           (if f = .addinc then out l else if l = 0 then 0 else out (l - 1), if l = low then r.2 else gen) } x s t)

/-- R148 to R150: THE RESERVOIR WORDS, lane by lane. An active lane's count rises by one, or by the merged count under its
clamp, and stops at the cap; a weight that is finite and above zero raises the sum, draws once from the lane's selection
generator and, when the draw falls below the weight's share of the sum, replaces the sample and its density; any other
weight changes no more than the count. A lane that is not active keeps its reservoir and its generators. -/
def Obligations.ReservoirUpdates : Prop :=
  ∀ (s : State) (d a b : Byte) (x : VIn), s.laneView reservoirHonours d.toNat = some x →
    ∀ (i : Instr) (id w pdf : Nat → Word) (more : Nat → Nat),
      ((i = .vrsvu d a b ∧ reservoirFits s.cg d a b 1 ∧ id = s.cg.src a.toNat ∧ w = s.cg.src b.toNat ∧ pdf = s.cg.src x.c
          ∧ more = fun _ => 1)
        ∨ (i = .vrsvm d a b ∧ reservoirFits s.cg d a b 4 ∧ id = s.cg.src a.toNat ∧ pdf = s.cg.src x.c
          ∧ w = (fun l => BitVec.ofNat 32 (mergeWeight (s.cg.src x.c l).toNat (s.cg.src (a.toNat + 1) l).toNat
              (s.cg.src (a.toNat + 3) l).toNat))
          ∧ more = fun l => min ((s.cg.src (a.toNat + 2) l).toNat % 2 ^ 16)
              (if s.cg.src b.toNat l = 0 then 65535 else (s.cg.src b.toNat l).toNat))) →
      ∃ t, exec i s = .next t ∧ s.WordDone t { s.cg with v := t.cg.v, bad := t.cg.bad, lanes := t.cg.lanes } ∧
        ∀ l < 32,
          let old := fun k => s.cg.vreg (d.toNat + k) l
          let new := fun k => t.cg.vreg (d.toNat + k) l
          let m := min ((old 2).toNat % 2 ^ 16 + more l) (resCap (old 2))
          let sum := (fp32.round ((fp32.decode (old 1).toNat).add false (fp32.decode (w l).toNat)) {}).1
          let draw := drawGen (s.cg.lane l).selGen
          (∀ r, ¬ (d.toNat ≤ r ∧ r < d.toNat + 4) → t.cg.vreg r l = s.cg.vreg r l)
          ∧ (inMask x.act l = false → (∀ k < 4, new k = old k) ∧ t.cg.lane l = s.cg.lane l)
          ∧ (inMask x.act l = true → new 2 = BitVec.ofNat 32 ((old 2).toNat / 2 ^ 16 * 2 ^ 16 + m)
              ∧ (weightOk (w l).toNat = false → new 0 = old 0 ∧ new 1 = old 1 ∧ new 3 = old 3 ∧ t.cg.lane l = s.cg.lane l)
              ∧ (weightOk (w l).toNat = true → new 1 = BitVec.ofNat 32 sum
                  ∧ t.cg.lane l = { s.cg.lane l with selGen := draw.1 }
                  ∧ (draw.2 < choiceBound (w l).toNat sum → new 0 = id l ∧ new 3 = pdf l)
                  ∧ (¬ draw.2 < choiceBound (w l).toNat sum → new 0 = old 0 ∧ new 3 = old 3)))

/-! ### Clauses and waves -/

/-- R79, R80: A CLAUSE STARTS. When the clause at the wave's PC is fetched, its header and pad word are valid, its operand
field decodes, every flag that WAIT names reads zero and its kind asks for no start check, the wave latches it and
stands at its first word with E the lanes where its condition holds, the priority of issue is that of SR_PRIO, and the
lanes' resume indices are zero. With a flag it names not zero the wave waits with the clause latched. R78, R79, R163:
a clause whose header is not valid, whose pad word is not zero, or whose operand field does not decode traps ILLEGAL
at its start, naming the clause, the header's low half and word index 16. R270, R272: a wave of which a lane stands at its meeting
point is held whole, and nothing else changes while a lane with that MR is still to come; the last one releases the set. That
the wave is held whole, with lanes whose own MR is another, is the model's choice (log entry 26); that SYS_TMASK of such a trap
is the wave's lanes, E not being known yet, is log entry 48. -/
def Obligations.ClauseStarts : Prop :=
  (∀ (s : State) (h : DWord) (ws : List Word) (i : Instr), s.stop = none → s.Fetches h ws → headerOk h = true →
     ws.getD (hdrLen h) 0 = 0#32 → decodeSeq (hdrSeq h) (hdrTgt h) = .ok i →
     (∀ op, i ≠ .calli op) → (∀ op, i ≠ .jumpi op) → (∀ off, i ≠ .call off) → i ≠ .ret →
     let pc := (s.cg.lane (lowLane s.cw.lanes)).pc
     ∃ t, exec .clauseStart s = .next t ∧ s.SameButGroup t ∧ (∀ w, w ≠ s.curWave → t.cg.wave w = s.cg.wave w)
       ∧ t.cw.addr = pc ∧ t.cw.hdr = h ∧ t.cw.words = ws.take (hdrLen h) ∧ t.cw.lanes = s.cw.lanes
       ∧ (s.cg.waitDone h = false → t.cw.phase = .waiting ∧ t.cg = { s.cg with waves := t.cg.waves })
       ∧ (s.cg.waitDone h = true → t.cw.phase = .body ∧ t.cw.idx = 0 ∧ t.cw.pfx = none ∧ t.cw.en = condLanes s.cg h s.cw.lanes
           ∧ t.cg = { s.cg with waves := t.cg.waves, lanes := t.cg.lanes, issuePrio := s.cg.prio }
           ∧ ∀ l < 32, t.cg.lane l = if inMask s.cw.lanes l then { s.cg.lane l with rwi := 0 } else s.cg.lane l))
  ∧ (∀ (s : State) (h : DWord) (ws : List Word), s.stop = none → s.Fetches h ws →
       headerOk h = false ∨ ws.getD (hdrLen h) 0 ≠ 0#32 ∨ indOk h s.cg.n = false →
       let pc := (s.cg.lane (lowLane s.cw.lanes)).pc
       exec .clauseStart s = finish ((s.updWave (fun w => { w with addr := pc })).trapStart
         { cause := 0x01, kind := 1, addr := pc.setWidth 64, lanes := s.cw.lanes
           detail := BitVec.ofNat 64 ((h.extractLsb' 0 32).toNat + 2 ^ 36) }))
  ∧ (∀ (s : State), s.cw.phase = .start → s.cw.lanes ≠ 0#32 → s.cw.resumed = false → s.cw.freed = false →
       (s.cg.waves.map (·.1)).Nodup → s.cg.OthersUnheld s.curWave →
       let pc := (s.cg.lane (lowLane s.cw.lanes)).pc
       (∃ l, inMask s.cw.lanes l = true ∧ (s.cg.lane l).mr = some pc) →
       ((∃ l, inMask s.cg.live l = true ∧ inMask s.cw.lanes l = false ∧ (s.cg.lane l).mr = some pc) →
         ∃ t, exec .clauseStart s = .next t ∧ s.SameButGroup t ∧ t.cg = { s.cg with waves := t.cg.waves }
           ∧ t.cw = { s.cw with phase := .held } ∧ ∀ w, w ≠ s.curWave → t.cg.wave w = s.cg.wave w)
       ∧ ((∀ l, inMask s.cg.live l = true → (s.cg.lane l).mr = some pc → inMask s.cw.lanes l = true) → s.cg.entering = none →
         ∃ t, exec .clauseStart s = .next t ∧ s.SameButGroup t ∧ t.cg = { s.cg with waves := t.cg.waves, lanes := t.cg.lanes }
           ∧ t.cg.wave (lowLane s.cw.lanes) = { lanes := s.cw.lanes, readyAt := (s.core s.cg.core).cycles }
           ∧ (∀ w, w ≠ s.curWave → w ≠ lowLane s.cw.lanes → t.cg.wave w = s.cg.wave w)
           ∧ ∀ l < 32, t.cg.lane l = if inMask s.cw.lanes l && decide ((s.cg.lane l).mr = some pc) then
               { s.cg.lane l with mr := none } else s.cg.lane l))

/-- R81 to R83, R268, R279: A CLAUSE ENDS. NEXT, JUMP, BRANCH, LOOP, JUMPI, MEET, YIELD, and TRAPIF with E empty: every
lane of the wave goes where its kind says, MEET also sets MR of the lanes of E, LOOP lowers its counter once when E
holds a lane, the lanes form one wave for each PC, and nothing else changes. R268: THE WAVES THAT LANES FORM are one
for each value of their key: together they hold every lane of the mask, no lane is in two of them, and two lanes are
in the same one exactly when their keys are equal. -/
def Obligations.ClauseEndsMoveLanes : Prop :=
  (∀ (s : State) (i : Instr), s.AtEnd → ClauseEnd i → (∀ l, (endPc i s l).isSome) →
     ∃ t, exec i s = .next t ∧ s.SameButGroup t
       ∧ t.cg = { s.cg with lanes := t.cg.lanes, waves := t.cg.waves, s := t.cg.s }
       ∧ (∀ l < 32, t.cg.lane l =
           if inMask s.cw.lanes l then
             let x := (s.cg.lane l).sent ((endPc i s l).getD 0)
             match i with
             | .meet off => if inMask s.cw.en l then { x with mr := some (directTarget s.cw.addr off) } else x
             | _ => x
           else s.cg.lane l)
       ∧ (∀ r, t.cg.sreg r = match i with
           | .loop c _ => if r = c.toNat ∧ s.cw.en ≠ 0#32 then s.cg.sreg r - 1 else s.cg.sreg r
           | _ => s.cg.sreg r)
       ∧ t.cg.waves = { s.cg with lanes := t.cg.lanes }.formed s.curWave s.cw.lanes
           (if i = Instr.yield ∧ s.cw.en ≠ 0#32 then (s.core s.cg.core).cycles else s.cw.readyAt)
           (if i = Instr.yield ∧ s.cw.en ≠ 0#32 then s.readyPeers s.curGroup s.curWave else []))
  ∧ (∀ (key : Nat → BitVec 52) (m : Mask),
       (∀ x ∈ groupLanes key m, x ≠ 0#32 ∧ ∀ l, inMask x l = true → inMask m l = true)
       ∧ (∀ l, inMask m l = true → ∃ x ∈ groupLanes key m, inMask x l = true)
       ∧ (groupLanes key m).Pairwise (fun x y => x &&& y = 0#32)
       ∧ ∀ x ∈ groupLanes key m, ∀ k l, inMask x k = true → inMask m l = true → (inMask x l = true ↔ key l = key k))

/-- R42, R84: CALL, CALLI AND RET. Where every enabled lane's stack entry is mapped, and no write of the group waits in the queue of
path M (R288), CALL and CALLI store seq in each
enabled lane's entry and raise its pointer; no other byte of memory changes. RET sends each enabled lane to the
address in its top entry, which is not poisoned, lowers its pointer and stores nothing. The other lanes go to seq. R43, R85, R238: EXIT ends
the enabled lanes, which owe nothing here (no inline task runs and no lane was spawned): they stop being live, the
others go to seq and form waves; when none is left the group is ending. -/
def Obligations.CallsReturnsAndExits : Prop :=
  (∀ (s : State) (key entry : Nat → Nat), s.AtEnd → s.cg.live &&& ~~~s.cw.lanes = 0#32 → (∀ e ∈ s.mq, e.gid ≠ s.curGroup) →
     let g := s.cg
     let w := s.cw
     let seq := seqOf w.addr w.hdr
     (∀ (i : Instr), (∃ off, i = .call off) ∨ (∃ op, i = .calli op) →
       (∀ l, inMask w.en l = true → inMask w.lanes l = true ∧ (g.lane l).csp.toNat < 63 ∧
         s.Maps g.core g.ctx (!g.sup) false .write (s.stackVa g l (g.lane l).csp.toNat) (key l) ∧ s.Reachable (key l) 8) →
       (∀ l m, inMask w.en l = true → inMask w.en m = true → l ≠ m → key l + 8 ≤ key m ∨ key m + 8 ≤ key l) →
       ∃ t, exec i s = .next t
         ∧ (∀ l < 32, t.cg.lane l = if inMask w.en l then
               { (g.lane l).sent (match i with
                   | .call off => directTarget w.addr off
                   | _ => BitVec.ofNat 52 (tget w.ind l 0)) with csp := (g.lane l).csp + 1 }
             else if inMask w.lanes l then (g.lane l).sent seq else g.lane l)
         ∧ (∀ l, inMask w.en l = true → t.homeNat (key l) 8 = seq.toNat)
         ∧ ∀ a, (∀ l, inMask w.en l = true → a < key l ∨ key l + 8 ≤ a) → t.homeByte a = s.homeByte a)
     ∧ ((∀ l, inMask w.en l = true → inMask w.lanes l = true ∧ 0 < (g.lane l).csp.toNat ∧ entry l < 2 ^ 52 ∧ entry l % 8 = 0 ∧
         s.Maps g.core g.ctx (!g.sup) false .read (s.stackVa g l ((g.lane l).csp.toNat - 1)) (key l) ∧
         s.Cached g.core .l1 (key l) 8 (entry l) ∧ s.poisoned (key l) 8 = false) →
       ∃ t, exec .ret s = .next t
         ∧ (∀ l < 32, t.cg.lane l = if inMask w.en l then
               { (g.lane l).sent (BitVec.ofNat 52 (entry l)) with csp := (g.lane l).csp - 1 }
             else if inMask w.lanes l then (g.lane l).sent seq else g.lane l)
         ∧ ∀ a, t.homeByte a = s.homeByte a))
  ∧ (∀ (s : State), s.AtEnd → s.cg.sup = false → s.cg.inlines = [] → s.cg.spawns = [] →
       ∃ t, exec .exit s = .next t ∧ s.SameButGroup t ∧ t.cg.live = s.cg.live &&& ~~~s.cw.en
         ∧ (t.cg.exiting = true ↔ t.cg.live = 0#32)
         ∧ (∀ l < 32, t.cg.lane l = if inMask s.cw.lanes l && !inMask s.cw.en l then
             (s.cg.lane l).sent (seqOf s.cw.addr s.cw.hdr) else s.cg.lane l)
         ∧ t.cg.v = s.cg.v ∧ t.cg.s = s.cg.s ∧ t.cg.k = s.cg.k ∧ t.cg.b = s.cg.b ∧ t.cg.flags = s.cg.flags)

/-- R160, R271, R272: MEETING REGISTERS. SETMR gives every enabled lane the address of its pair, or none; an address that
is not a multiple of 8 traps ALIGN and one at or above 2⁵² ACCESS, with no lane written; no other lane's MR changes. Those traps
give path code S (log entry 20). A waiting set that is complete is released: the MR that named it becomes none and its lanes form one wave, ready to start (the lanes that
were held with one and have another MR go on in their wave, log entry 26); a SETMR
that takes the last missing lane away releases it at once. R161,
R162, R275, R276, R278: PACING. NOP only moves on. SLEEP moves on and, unless its count is 0 or a trap's entry is under way, sleeps until that many
more cycles of the core have been delivered; its expiry makes the wave ready in its clause. A wave that has been ready
for 1024 cycles without issuing is promoted and no longer barred, but not while it is stalled. Nothing else changes. R91: A PREFIX WORD applies to
the V-set word after it: the wave stands at that word with the prefix, and nothing else changes. Before a U-set word
or another prefix it traps ILLEGAL naming the word it precedes; as the last word of a clause, naming itself. -/
def Obligations.MeetingPacingAndPrefixWords : Prop :=
  ((∀ (s : State) (a : BitVec 6), s.Enabled → a.toNat < 63 →
     let v := (s.cg.spair a.toNat).toNat
     (v % 8 = 0 → v < 2 ^ 52 → (∀ e ∈ s.cg.waves, e.2.phase ≠ .held) → ∃ t, exec (.setmr a) s = .next t ∧ s.SameButGroup t
       ∧ t.cg = { s.cg with lanes := t.cg.lanes, waves := t.cg.waves }
       ∧ ∀ l < 32, t.cg.lane l = if inMask s.cw.en l then { s.cg.lane l with mr := some (BitVec.ofNat 52 v) } else s.cg.lane l)
     ∧ (v % 8 ≠ 0 → exec (.setmr a) s = .next (s.addrTrap cALIGN v pathS false 0 s.cw.en))
     ∧ (v % 8 = 0 → 2 ^ 52 ≤ v → exec (.setmr a) s = .next (s.addrTrap cACCESS v pathS false 0 s.cw.en)))
   ∧ (∀ (s : State), s.Enabled → (∀ e ∈ s.cg.waves, e.2.phase ≠ .held) → ∃ t, exec .setmrNone s = .next t ∧ s.SameButGroup t
       ∧ t.cg = { s.cg with lanes := t.cg.lanes, waves := t.cg.waves }
       ∧ ∀ l < 32, t.cg.lane l = if inMask s.cw.en l then { s.cg.lane l with mr := none } else s.cg.lane l)
   ∧ (∀ (s : State) (h : Nat) (w : Wave) (pc : BitVec 52), s.Enabled → s.cw.phase = .body → s.cg.entering = none →
       h < s.curWave → s.cg.waves = [(h, w), (s.curWave, s.cw)] → w.phase = .held → lowLane w.lanes = h → w.lanes ≠ 0#32 →
       (s.cg.lane h).pc = pc → (∃ l, inMask w.lanes l = true ∧ (s.cg.lane l).mr = some pc) → w.lanes &&& s.cw.en = 0#32 →
       w.lanes &&& s.cw.lanes = 0#32 →
       (∀ l, inMask s.cg.live l = true → (s.cg.lane l).mr = some pc → inMask (w.lanes ||| s.cw.en) l = true) →
       ∃ t, exec .setmrNone s = .next t ∧ t.cg.wave h = { lanes := w.lanes, readyAt := (s.core s.cg.core).cycles }
         ∧ ∀ l < 32, t.cg.lane l = if inMask s.cw.en l || (inMask w.lanes l && decide ((s.cg.lane l).mr = some pc)) then
             { s.cg.lane l with mr := none } else s.cg.lane l)
   ∧ ∀ (s : State) (gid : Nat) (pc : BitVec 52), (s.group gid).releaseDue pc = true → (s.group gid).entering = none →
       ∃ t, exec (.meetingRelease gid pc) s = .next t ∧ (∀ h, h ≠ gid → t.group h = s.group h)
         ∧ (∀ l < 32, (t.group gid).lane l = if inMask ((s.group gid).heldAt pc) l && decide (((s.group gid).lane l).mr = some pc) then
               { (s.group gid).lane l with mr := none }
             else (s.group gid).lane l)
         ∧ (t.group gid).wave (lowLane ((s.group gid).heldAt pc))
             = { lanes := (s.group gid).heldAt pc, readyAt := (s.core (s.group gid).core).cycles }
         ∧ ∀ key, t.homeByte key = s.homeByte key)
  ∧ ((∀ (s : State), s.Enabled → ∃ t, exec .nop s = .next t ∧ s.WordDone t s.cg)
     ∧ (∀ (s : State) (i : Instr) (n : Nat), s.Enabled →
         ((∃ m : BitVec 11, i = .sleep m ∧ n = m.toNat) ∨ ∃ a : BitVec 6, i = .sleepReg a ∧ n = (s.cg.sreg a.toNat).toNat) →
         ∃ t, exec i s = .next t ∧ s.SameButGroup t ∧ t.cg = { s.cg with waves := t.cg.waves }
           ∧ t.cw = { s.cw with idx := s.cw.idx + 1, pfx := none, readyAt := (s.core s.cg.core).cycles, promoted := false
                                phase := if n = 0 ∨ s.cg.entering ≠ none then s.cw.phase else .sleeping ((s.core s.cg.core).cycles + n) }
           ∧ ∀ w, w ≠ s.curWave → t.cg.wave w = s.cg.wave w)
     ∧ ∀ (s : State) (gid wid : Nat),
         let g := s.group gid
         let now := (s.core g.core).cycles
         (∀ till, (g.wave wid).phase = .sleeping till →
           (till ≤ now → exec (.sleepExpiry gid wid) s
             = .next (s.setGroup gid (g.setWave wid { g.wave wid with phase := .body, readyAt := now, promoted := false })))
           ∧ (now < till → exec (.sleepExpiry gid wid) s = .next s))
         ∧ ((g.wave wid).phase = .start ∨ (g.wave wid).phase = .waited ∨ (g.wave wid).phase = .body →
           ((g.wave wid).stalled = false → (g.wave wid).readyAt + 1024 ≤ now → exec (.wavePromotion gid wid) s
             = .next (s.setGroup gid (g.setWave wid { g.wave wid with promoted := true, barred := [] })))
           ∧ ((g.wave wid).stalled = true ∨ now < (g.wave wid).readyAt + 1024 → exec (.wavePromotion gid wid) s = .next s)))
  ∧ (∀ (s : State) (i : Instr), s.stop = none →
       ((∃ c k z m d n a, i = .prefixGeneral c k z m d n a) ∨ (∃ c k d o, i = .prefixMemory c k d o)
         ∨ ∃ w, opByte w = 0x7F ∧ i = .reservedEncoding w) →
       (∀ n, s.cw.words[s.cw.idx + 1]? = some n → n.getLsbD 31 = false → opByte n ≠ 0x7F →
         ∃ t, exec i s = .next t ∧ s.SameButGroup t ∧ t.cg = { s.cg with waves := t.cg.waves }
           ∧ t.cw = { s.cw with pfx := some s.cw.word, idx := s.cw.idx + 1 } ∧ ∀ w, w ≠ s.curWave → t.cg.wave w = s.cg.wave w)
       ∧ (∀ n, s.cw.words[s.cw.idx + 1]? = some n → n.getLsbD 31 = true ∨ opByte n = 0x7F →
           exec i s = finish (s.trapIllegal 0x01 n (s.cw.idx + 1)))
       ∧ (s.cw.words[s.cw.idx + 1]? = none → exec i s = finish s.illegal))

/-! ### Taking a trap and returning from one -/

/-- R95, R98, R99, R162 to R164: THE WORDS THAT TRAP. TRAP, BRK and a reserved encoding, at a word of a group of one wave
in user mode, take the group into its handler with the cause and detail that R163 gives them; the word has no effect.
R81, R163: TRAPIF with E not empty: every lane moves to seq and the group traps SWTRAP, kind T, with its code. -/
def Obligations.TrapWordsEnterHandler : Prop :=
  (∀ (s : State) (i : Instr) (cause detail : Nat), s.OneWave → s.Enabled → s.cw.lanes = s.cg.live →
     ((∃ e : BitVec 8, i = .trap e ∧ cause = 0x0A ∧ detail = e.toNat + 256)
       ∨ (∃ e : BitVec 16, i = .brk e ∧ cause = 0x0C ∧ detail = e.toNat)
       ∨ ∃ w : Word, i = .reservedEncoding w ∧ opByte w ≠ 0x7F ∧ cause = 0x01 ∧ detail = w.toNat + 2 ^ 32 * s.cw.idx) →
     ∃ t, exec i s = .next t ∧ s.Entered t s.curGroup
       { cause := cause, kind := 0, addr := s.cw.addr.setWidth 64, detail := BitVec.ofNat 64 detail, lanes := s.cw.en }
       s.stoppedLane (fun _ => s.curWave) (fun _ => s.cw.wasHeld))
  ∧ (∀ (s : State) (code : BitVec 8), s.OneWave → s.Enabled → s.cw.lanes = s.cg.live →
       s.endWaits s.curGroup s.curWave = false → s.cw.inl = none → s.cw.en &&& ~~~s.cw.lanes = 0#32 →
       ∃ t, exec (.trapif code) s = .next t ∧ s.Entered t s.curGroup
         { cause := 0x0A, kind := 2, addr := s.cw.addr.setWidth 64, detail := code.setWidth 64, lanes := s.cw.en }
         (fun l => if inMask s.cw.lanes l then (s.cg.lane l).sent (seqOf s.cw.addr s.cw.hdr) else s.cg.lane l)
         (fun _ => lowLane s.cg.live) (fun _ => false))

/-- R164: TRAP ENTRY. A trap under way is entered once every wave has stopped, and not before. R88, R166: with no trap
under way and the group in user mode at a boundary, what is pending is reported: the earliest error completion first,
and PREEMPT only when none is held. R166: A TRAP RAISED BY A HANDLER'S CLAUSE is a double trap: an error record is
made and the group ends; the handler is not entered again. The record takes the die's next sequence number (R466). -/
def Obligations.TrapEntry : Prop :=
  (∀ (s : State) (gid : Nat) (r : Trap), s.stop = none → (s.group gid).entering = some r → (s.group gid).sup = false →
     (∀ o ∈ (s.group gid).ops, ∀ x y l, o.instr ≠ .mseq x y l) →
     ((s.group gid).allStopped = true → ∃ t, exec (.trapEntry gid) s = .next t ∧
       s.Entered t gid r (fun l => (s.group gid).lane l) (fun l => (s.group gid).waveOf l)
         (fun l => ((s.group gid).wave ((s.group gid).waveOf l)).wasHeld))
     ∧ ((s.group gid).allStopped = false → exec (.trapEntry gid) s = .next s))
  ∧ (∀ (s : State) (gid : Nat), s.stop = none → (s.group gid).entering = none → (s.group gid).sup = false →
       (s.group gid).exiting = false → (s.group gid).atBoundary = true →
       (∀ r rs, (s.group gid).errors = r :: rs → exec (.trapEntry gid) s
         = finish ((s.updGroup gid (fun g => { g with errors := rs })).beginTrap gid r))
       ∧ (∀ d, (s.group gid).errors = [] → (s.group gid).preempt = some d → exec (.trapEntry gid) s
         = finish ((s.updGroup gid (fun g => { g with preempt := none })).beginTrap gid
             { cause := 0x0B, kind := 4, addr := 0, detail := d }))
       ∧ ((s.group gid).errors = [] → (s.group gid).preempt = none → exec (.trapEntry gid) s = .next s))
  ∧ (∀ (s : State) (r : Trap), s.cg.sup = true →
       s.trapWord r = s.haltGroup s.curGroup 0xFF s.cw.addr ∧ s.trapStart r = s.haltGroup s.curGroup 0xFF s.cw.addr
       ∧ ∀ reason addr, ((s.haltGroup s.curGroup reason addr).cg.live = 0#32 ∧ (s.haltGroup s.curGroup reason addr).cg.waves = []
           ∧ (s.haltGroup s.curGroup reason addr).cg.exiting = true ∧ (s.haltGroup s.curGroup reason addr).cg.sup = false)
         ∧ ((s.haltGroup s.curGroup reason addr).die (dieOf s.cg.core)).errSeq = (s.die (dieOf s.cg.core)).errSeq + 1)

/-- R167, R221, R268: RETURN FROM A TRAP. As the last word of a NEXT clause of the handler, with every flag zero, TRET
takes each live lane's PC, MR, call stack pointer and resume index from its save slot, clears SUP and forms the waves
of trap entry again, separated by PC and resume index, and from the lanes of a held wave those that the handler took out of
their waiting set (R271, log entry 26); with k it does the same for a trap that was not at a word.
While a flag is not zero it waits, and anywhere else it traps ILLEGAL. R167: TRET.SKIP after a trap at a word: a lane
of SYS_TMASK whose clause has a further word goes on with the word after the one that trapped (and after its prefix);
every other lane resumes where it was. -/
def Obligations.TrapReturn : Prop :=
  (∀ (s : State) (k : Bool), s.stop = none → s.Enabled →
     let placed := s.cw.idx + 1 = s.cw.words.length ∧ hdrSeq s.cw.hdr = 0
     (¬ (s.cg.sup = true ∧ placed) → exec (.tret k) s = finish s.illegal)
     ∧ (s.cg.sup = true → placed → s.cg.flagsZero = false → exec (.tret k) s = .next s)
     ∧ (s.cg.sup = true → placed → s.cg.flagsZero = true → (k = true → s.cg.tkind ≠ 0) → s.cg.Quiet → s.cg.live ≠ 0#32 →
         s.cg.ops = [] →
         ∃ t, exec (.tret k) s = .next t ∧ s.SameButGroup t ∧ t.cg.sup = false
           ∧ t.cg = { s.cg with sup := false, lanes := t.cg.lanes, waves := t.cg.waves }
           ∧ (∀ l < 32, t.cg.lane l = if inMask s.cg.live l then
               { s.cg.lane l with pc := (s.cg.lane l).savePc, mr := (s.cg.lane l).saveMr, csp := (s.cg.lane l).saveCsp
                                  rwi := (s.cg.lane l).saveRwi, heldMr := none }
             else s.cg.lane l)
           ∧ t.cg.waves = (groupLanes (fun l => ((s.cg.lane l).saveWave, (s.cg.lane l).savePc, (s.cg.lane l).saveRwi,
                 (s.cg.lane l).restore.leftMeet)) s.cg.live).foldl
               (fun w m => tset w (lowLane m) { lanes := m, readyAt := (s.core s.cg.core).cycles
                                                resumed := decide ((s.cg.lane (lowLane m)).saveRwi ≠ 0)
                                                freed := (s.cg.lane (lowLane m)).restore.leftMeet }) []))
  ∧ (∀ (s : State) (h : DWord) (ws : List Word) (pc : BitVec 52) (i : BitVec 4), s.stop = none → s.Enabled →
       s.cg.sup = true → s.cw.idx + 1 = s.cw.words.length → hdrSeq s.cw.hdr = 0 → s.cg.flagsZero = true → s.cg.tkind = 0 →
       s.cg.Quiet → s.cg.live ≠ 0#32 → s.cg.ops = [] → s.cg.tmask &&& ~~~s.cg.live = 0#32 →
       (∀ l, inMask s.cg.tmask l = true → (s.cg.lane l).savePc = pc ∧ (s.cg.lane l).saveRwi = i ∧ (s.cg.lane l).saveWave = 0) →
       afterWord ws i.toNat < hdrLen h →
       (∀ g, (s.setGroup s.curGroup g).fetchClause s.cg.core s.cg.ctx false pc = (.ok (h, ws, none), s.setGroup s.curGroup g)) →
       ∃ t, exec (.tret true) s = .next t ∧ t.cg.sup = false ∧ ∀ l < 32, t.cg.lane l =
         if inMask s.cg.live l then
           { s.cg.lane l with pc := (s.cg.lane l).savePc, mr := (s.cg.lane l).saveMr, csp := (s.cg.lane l).saveCsp
                              rwi := if inMask s.cg.tmask l then BitVec.ofNat 4 (afterWord ws i.toNat) else (s.cg.lane l).saveRwi
                              heldMr := none }
         else s.cg.lane l)

/-! ### System registers and privileged words -/

/-- R96, R163, R169: in user mode every privileged word traps PRIV and has no effect of its own. R168, R169: SYSRD in
supervisor mode writes what R168 says of each register, half by half; the Context registers read as the core has last
seen them, which is the model's reading of R169 (log entry 49). R168, R169: SYSWR in supervisor mode. The scratch registers take the value and nothing else changes; a
Context register needs system rights, and traps PRIV without them; a bit the register marks zero traps ILLEGAL, as
does every register that is not writable; with both, the context's half takes the value, the core goes on seeing the
old one, and the value is stored at its place in the descriptor, which is the only memory that changes. -/
def Obligations.SystemRegisters : Prop :=
  (∀ (s : State) (i : Instr), s.stop = none → s.Enabled → Privileged s.cg.n i → s.cg.sup = false →
     exec i s = finish (s.trapIllegal 0x02 s.cw.word s.cw.idx))
  ∧ (∀ (s : State) (d : BitVec 6) (c : BitVec 18) (code : Nat) (v : Word), s.stop = none → s.Enabled → s.cg.sup = true →
       c.toNat = code →
       let g := s.cg
       let seen := s.sysView g.core g.ctx
       (code, v) ∈ [(0x00, BitVec.ofNat 32 (g.tcause + 256 * g.tkind)), (0x01, g.tmask), (0x02, g.taddr.extractLsb' 0 32),
           (0x03, g.taddr.extractLsb' 32 32), (0x04, g.tdetail.extractLsb' 0 32), (0x05, g.tdetail.extractLsb' 32 32),
           (0x06, BitVec.ofNat 32 (g.ctx + if seen.sysr then 256 else 0)), (0x08, seen.trapBase.extractLsb' 0 32),
           (0x09, seen.trapBase.extractLsb' 32 32), (0x0A, seen.saveArea.extractLsb' 0 32), (0x0B, seen.saveArea.extractLsb' 32 32),
           (0x0C, seen.root.extractLsb' 0 32), (0x0D, seen.root.extractLsb' 32 32), (0x0E, seen.towpath.extractLsb' 0 32),
           (0x0F, seen.towpath.extractLsb' 32 32), (0x10, g.scr[0]), (0x11, g.scr[1]), (0x12, g.scr[2]), (0x13, g.scr[3])] →
       ∃ t, exec (.sysrd d c) s = .next t ∧ t.cg.sreg d.toNat = v ∧ s.WroteS t d.toNat 1)
  ∧ (∀ (s : State) (a : BitVec 6) (c : BitVec 18), s.stop = none → s.Enabled → s.cg.sup = true →
       let g := s.cg
       let v := g.sreg a.toNat
       let x := s.ctx g.ctx
       (c.toNat < 8 ∨ 0x14 ≤ c.toNat → exec (.syswr a c) s = finish s.illegal)
       ∧ (0x10 ≤ c.toNat → c.toNat < 0x14 → ∃ t, exec (.syswr a c) s = .next t ∧ s.WordDone t { g with scr := t.cg.scr }
           ∧ ∀ i < 4, vecGet t.cg.scr i 0 = if i = c.toNat - 0x10 then v else vecGet g.scr i 0)
       ∧ (8 ≤ c.toNat → c.toNat < 0x10 →
           (s.sysr = false → exec (.syswr a c) s = finish s.privTrap)
           ∧ (s.sysr = true → sysValueOk c.toNat v = false → exec (.syswr a c) s = finish s.illegal)
           ∧ (s.sysr = true → sysValueOk c.toNat v = true →
               let at_ := homeKey x.descDie (x.descPa + sysOffset c.toNat (dieOf g.core) + if c.toNat % 2 = 1 then 4 else 0)
               s.Reachable at_ 4 →
               ∃ t, exec (.syswr a c) s = .next t
                 ∧ (∀ k, t.homeByte k = if at_ ≤ k ∧ k < at_ + 4 then BitVec.ofNat 8 (v.toNat / 2 ^ (8 * (k - at_))) else s.homeByte k)
                 ∧ (t.core g.core).views = (s.core g.core).views ∧ t.cg = { g with waves := t.cg.waves }
                 ∧ (c.toNat = 0x08 → (t.ctx g.ctx).trapBase = x.trapBase.extractLsb' 32 32 ++ v)
                 ∧ (c.toNat = 0x09 → (t.ctx g.ctx).trapBase = v ++ x.trapBase.extractLsb' 0 32)
                 ∧ (c.toNat = 0x0A → (t.ctx g.ctx).saveArea = x.saveArea.extractLsb' 32 32 ++ v)
                 ∧ (c.toNat = 0x0B → (t.ctx g.ctx).saveArea = v ++ x.saveArea.extractLsb' 0 32)
                 ∧ (c.toNat = 0x0E → (t.ctx g.ctx).towpath = x.towpath.extractLsb' 32 32 ++ v)
                 ∧ (c.toNat = 0x0F → (t.ctx g.ctx).towpath = v ++ x.towpath.extractLsb' 0 32)
                 ∧ (c.toNat = 0x0C → dieOf g.core = 0 → (t.ctx g.ctx).root0 = x.root0.extractLsb' 32 32 ++ v)
                 ∧ (c.toNat = 0x0C → dieOf g.core = 1 → (t.ctx g.ctx).root1 = x.root1.extractLsb' 32 32 ++ v)
                 ∧ (t.ctx g.ctx).walkRoot0 = x.walkRoot0 ∧ (t.ctx g.ctx).walkRoot1 = x.walkRoot1)))

/-- R170: SAVE SLOTS. LANEST gives each enabled lane the four words of its slot; LANELD puts four words that pass its
check into each enabled lane's slot, and traps ILLEGAL with no slot written when those of any enabled lane fail it.
R171: TLBINV goes in flight and its wave issues nothing more until it has completed; kind 2 needs system rights. Its
VA pair's bits [51:16] name the first page whatever its other bits hold (log entry 59). Its
completion waits for the accesses that used what it removes; then no core in scope holds a translation that it names,
the dies' walk caches hold none of its nodes, every other translation is kept, walks of what it covers use the new roots (R169),
the writes that waited on path M have reached their homes, and the wave stands at its next word. -/
def Obligations.SaveSlotsAndTranslations : Prop :=
  (∀ (s : State) (v : BitVec 8), s.stop = none → s.Enabled → s.cg.sup = true → dstOk s.cg.n v.toNat 4 = true →
     (∃ t, exec (.lanest v) s = .next t ∧ s.WordDone t { s.cg with v := t.cg.v, bad := t.cg.bad } ∧ ∀ r l, l < 32 →
         t.cg.vreg r l = if inMask s.cw.en l ∧ v.toNat ≤ r ∧ r < v.toNat + 4 then
             BitVec.ofNat 32 (saveSlot (s.cg.lane l) / 2 ^ (32 * (r - v.toNat)))
           else s.cg.vreg r l)
     ∧ ((∃ l, inMask s.cw.en l = true ∧ slotWordsOk (s.cg.srcs v.toNat l 4) s.cg.callLimit = false) →
         exec (.laneld v) s = finish s.illegal)
     ∧ ((∀ l, inMask s.cw.en l = true → slotWordsOk (s.cg.srcs v.toNat l 4) s.cg.callLimit = true) →
         ∃ t, exec (.laneld v) s = .next t ∧ s.WordDone t { s.cg with lanes := t.cg.lanes } ∧
           ∀ l < 32, let x := s.cg.srcs v.toNat l 4
             t.cg.lane l = if inMask s.cw.en l = false then s.cg.lane l else { s.cg.lane l with
               savePc := BitVec.ofNat 52 x, saveCsp := BitVec.ofNat 6 (x / 2 ^ 52), saveRwi := BitVec.ofNat 4 (x / 2 ^ 58)
               saveMr := if x / 2 ^ 127 = 1 then none else some (BitVec.ofNat 52 (x / 2 ^ 64)) }))
  ∧ ((∀ (s : State) (a b : BitVec 6) (c : BitVec 3) (k : BitVec 2), s.stop = none → s.Enabled → s.cg.sup = true →
       Privileged s.cg.n (.tlbinv a b c k) → (k = 2 → s.sysr = true) →
       ∃ t, exec (.tlbinv a b c k) s = .next t ∧ t.cw.phase = .fencedTlb s.nextOp ∧ t.cw.idx = s.cw.idx + 1
         ∧ (∃ o, t.cg.ops = s.cg.ops ++ [o] ∧ o.id = s.nextOp ∧ o.instr = .tlbinv a b c k ∧ o.flag = none
             ∧ o.inval = { kind := k.toNat, ctx := s.cg.ctx
                           first := if k = 0 then (s.cg.spair a.toNat).toNat / 2 ^ 16 % 2 ^ 36 else 0
                           count := if k = 0 then (s.cg.sreg b.toNat).toNat else 0 }
             ∧ o.args.getD 4 0 = c.toNat)
         ∧ t.cg = { s.cg with waves := t.cg.waves, ops := t.cg.ops } ∧ (∀ key, t.homeByte key = s.homeByte key)
         ∧ ∀ core, t.core core = s.core core)
     ∧ ∀ (s : State) (gid op : Nat) (o : POp) (a b : BitVec 6) (c : BitVec 3) (k : BitVec 2),
         (s.group gid).op? op = some o → o.instr = .tlbinv a b c k →
         let cores := scopeCores (s.group gid).core (o.args.getD 4 0)
         let busy := s.groups.any (fun e => decide (e.2.core ∈ cores) && e.2.ops.any (fun x => s.usesRemoved o.inval e.2.ctx e.2.core x))
         (busy = true → exec (.tlbinvComplete gid op) s = .next s)
         ∧ (busy = false → ∃ t, exec (.tlbinvComplete gid op) s = .next t
             ∧ (∀ x ∈ cores, (t.core x).tlb = (s.core x).tlb.filter (fun e => !o.inval.tlb e)
                 ∧ (t.core x).stlb = (s.core x).stlb.filter (fun e => !o.inval.tlb e))
             ∧ (∀ x ∉ cores, t.core x = s.core x)
             ∧ (∀ x ∈ cores, (t.die (dieOf x)).walks = (s.die (dieOf x)).walks.filter (fun e => !o.inval.node e))
             ∧ (t.group gid).ops = (s.group gid).ops.filter (fun x => decide (x.id ≠ op))
             ∧ (((s.group gid).wave o.wid).phase = .fencedTlb op → ((t.group gid).wave o.wid).phase = .body)
             ∧ (o.inval.kind ≠ 0 → ∀ x, o.inval.covers x = true →
                 ((∃ y ∈ cores, dieOf y = 0) → (t.ctx x).walkRoot0 = (t.ctx x).root0)
                 ∧ ((∃ y ∈ cores, dieOf y = 1) → (t.ctx x).walkRoot1 = (t.ctx x).root1))
             ∧ ∀ key, t.homeByte key = s.drainAll.homeByte key))

/-- R170, R171: LANEST, LANELD, TLBINV AND ITS COMPLETION COMPLETE. In supervisor mode with an enabled lane and operands that
decode, LANEST, LANELD on words that pass its check, and TLBINV of each kind and scope go on to the next word, and TLBINV_COMPLETE ends
the invalidation where no access in flight on a core in scope has used what it removes; each with its effect. -/
def Obligations.SlotAndTlbWordsComplete : Prop :=
  (∀ (s : State) (v : BitVec 8), s.stop = none → s.Enabled → s.cg.sup = true → v.toNat + 4 ≤ s.cg.n → s.cg.n ≤ 192 →
     (∃ t, exec (.lanest v) s = .next t ∧ t.cw.idx = s.cw.idx + 1
       ∧ ∀ l < 32, inMask s.cw.en l = true → ∀ j < 4,
           t.cg.vreg (v.toNat + j) l = BitVec.ofNat 32 (saveSlot (s.cg.lane l) / 2 ^ (32 * j)))
     ∧ ((∀ l < 32, inMask s.cw.en l = true → slotWordsOk (s.cg.srcs v.toNat l 4) s.cg.callLimit = true) →
         ∃ t, exec (.laneld v) s = .next t ∧ t.cw.idx = s.cw.idx + 1
           ∧ ∀ l < 32, inMask s.cw.en l = true → (t.cg.lane l).savePc = BitVec.ofNat 52 (s.cg.srcs v.toNat l 4)
               ∧ (t.cg.lane l).saveCsp = BitVec.ofNat 6 (s.cg.srcs v.toNat l 4 / 2 ^ 52)))
  ∧ (∀ (s : State) (a b : BitVec 6) (c : BitVec 3) (k : BitVec 2), s.stop = none → s.Enabled → s.cg.sup = true →
       c = 1 ∨ c = 3 ∨ c = 4 → (k = 0 ∧ a.toNat ≤ 62) ∨ (k = 1 ∧ a = 0 ∧ b = 0) ∨ (k = 2 ∧ a = 0 ∧ b = 0 ∧ s.sysr = true) →
       ∃ t, exec (.tlbinv a b c k) s = .next t ∧ t.cw.idx = s.cw.idx + 1 ∧ t.cw.phase = .fencedTlb s.nextOp
         ∧ t.cg.ops.length = s.cg.ops.length + 1)
  ∧ ∀ (s : State) (gid op : Nat) (o : POp) (a b : BitVec 6) (c : BitVec 3) (k : BitVec 2),
      (s.group gid).op? op = some o → o.instr = .tlbinv a b c k → ((s.group gid).wave o.wid).phase = .fencedTlb op →
      (∀ e ∈ s.groups, ∀ x ∈ e.2.ops, s.usesRemoved o.inval e.2.ctx e.2.core x = false) →
      ∃ t, exec (.tlbinvComplete gid op) s = .next t ∧ ((t.group gid).wave o.wid).phase = .body ∧ (t.group gid).op? op = none
        ∧ ∀ x ∈ scopeCores (s.group gid).core (o.args.getD 4 0), ∀ e ∈ (t.core x).tlb, o.inval.tlb e = false

/-- R172, R173: PREEMPT and HALT in supervisor mode. PREEMPT naming another context needs system rights and traps PRIV
without them; otherwise the preemption is posted to the dies of the cores it reaches and the wave goes on. HALT ends
the group as R173 says. R172, R282, R433 to R437: PREEMPTION REACHES TEAMS, AND A TEAM VACATES. The oldest posted
preemption reaches every group of the teams it names: at a clause boundary outside a handler the group traps PREEMPT,
elsewhere it holds it pending. A group that vacates restarts its stopped operations, waits for its flags and for its
siblings; then, in one step (log entry 38), the team leaves its core, its counts are sent, and it enters the restore list. -/
def Obligations.PreemptionAndVacating : Prop :=
  ((∀ (s : State) (a : BitVec 6) (r : BitVec 2), s.stop = none → s.Enabled → s.cg.sup = true → r ≠ 3 →
     let target := s.cg.sreg a.toNat
     let core := (target.extractLsb' 16 5).toNat
     let cores := if r = 0 then [core] else if r = 1 then coresOf (dieOf core) else allCores
     let req : PreemptReq := { ctx := (target.extractLsb' 0 8).toNat, bound := min 128 (target.extractLsb' 8 8).toNat
                               detail := BitVec.ofNat 64 s.cg.ctx }
     ((target.extractLsb' 0 8).toNat ≠ s.cg.ctx → s.sysr = false → exec (.preempt a r) s = finish s.privTrap)
     ∧ ((target.extractLsb' 0 8).toNat = s.cg.ctx ∨ s.sysr = true →
         ∃ t, exec (.preempt a r) s = .next t ∧ t.cg = { s.cg with waves := t.cg.waves } ∧ t.cw.idx = s.cw.idx + 1
           ∧ (∀ d < 2, (t.die d).preempts = (s.die d).preempts
               ++ (if ∃ x ∈ cores, dieOf x = d then [{ req with cores := cores.filter (fun x => decide (dieOf x = d)) }] else []))
           ∧ ∀ key, t.homeByte key = s.homeByte key))
   ∧ ∀ (s : State) (e : BitVec 8), s.stop = none → s.Enabled → s.cg.sup = true → (s.die (dieOf s.cg.core)).errRing = none →
       ∃ t, exec (.halt e) s = .next t ∧ t.cg.live = 0#32 ∧ t.cg.waves = [] ∧ t.cg.exiting = true ∧ t.cg.sup = false
         ∧ (t.die (dieOf s.cg.core)).errSeq = (s.die (dieOf s.cg.core)).errSeq + 1
         ∧ ∀ key, t.homeByte key = s.homeByte key)
  ∧ ((∀ (s : State) (die : Nat) (r : PreemptReq) (rest : List PreemptReq), (s.die die).preempts = r :: rest → s.stop = none →
       (∀ e ∈ s.teams, e.2.gang = none) → (∀ e ∈ s.groups, e.2.vacate = 0 ∧ e.2.exiting = false ∧ e.2.errors = []) →
       (s.teams.flatMap (fun e => e.2.groups)).Nodup → rising s.teams → (∀ e ∈ s.teams, ∀ g ∈ e.2.groups, tget? s.groups g ≠ none) →
       ∃ t, exec (.preemptDelivery die) s = .next t ∧ (t.die die).preempts = rest
         ∧ (∀ id x, tget? s.teams id = some x → r.names id x = true → ∀ g ∈ x.groups,
             ((s.group g).sup = false → (s.group g).entering = none → (s.group g).atBoundary = true → (s.group g).preempt = none →
               (t.group g).entering = some (preemptTrap r.detail) ∨ (t.group g).sup = true)
             ∧ ((s.group g).atBoundary = false →
                 t.group g = { s.group g with preempt := (s.group g).preempt.or (some r.detail) }))
         ∧ (∀ g, (∀ id x, tget? s.teams id = some x → g ∈ x.groups → r.names id x = false) → t.group g = s.group g)
         ∧ ∀ key, t.homeByte key = s.homeByte key)
     ∧ ∀ (s : State) (gid : Nat),
         let g := s.group gid
         let tm := s.team g.team
         let die := dieOf g.core
         (g.vacate = 1 → ∃ t, exec (.vacate gid) s = .next t ∧ t.group gid = { g.restartOps with vacate := 2 }
           ∧ ∀ h, h ≠ gid → t.group h = s.group h)
         ∧ (g.vacate = 2 → (g.flagsZero = true → g.ops = [] → ∃ t, exec (.vacate gid) s = .next t ∧ t.group gid = { g with vacate := 3 }
               ∧ ∀ h, h ≠ gid → t.group h = s.group h)
             ∧ (g.flagsZero = false ∨ g.ops ≠ [] → exec (.vacate gid) s = .next s))
         ∧ (g.vacate = 3 → (∃ x ∈ tm.groups, (s.group x).vacate ≠ 3) → exec (.vacate gid) s = .next s)
         ∧ (g.vacate = 3 → tm.groups = [gid] → tm.core = g.core → tm.gang = none → tm.inbound = 0 → (s.die die).leaving = [] →
             (s.die die).restores.length < 256 → rising s.groups → rising s.teams → s.DistinctDeltas g.core →
             ∃ t, exec (.vacate gid) s = .next t ∧ tget? t.groups gid = none ∧ tget? t.teams g.team = none
               ∧ (∀ e ∈ t.ranges, e.team ≠ g.team) ∧ (t.core g.core).deltas = [] ∧ s.Counted t die (fun _ _ _ => 0)
               ∧ (t.die die).restores = (s.die die).restores ++ [{ work := .restore [{ team := g.team, prio := tm.prio, kept := [g.kept]
                                                                                       shape := { tm with spad := [], acc := [], chambers := [] } }]
                                                                   prio := tm.prio, since := s.ns }]
               ∧ ∀ key, t.homeByte key = s.homeByte key))

/-! ### Memory -/

/-- R93, R176 to R183, R186, R188: THE V-SET MEMORY WORDS GO IN FLIGHT. With fields that decode, a prefix that fits,
nothing holding pipe M back and every check of R180 passed, each word issues: its operation holds the active lanes,
the keys of every piece of every lane in bounds and of no other, which lanes are out of bounds, and the data read at
issue; an access to memory may change the prediction register of its record (R410), and no word that of another. R176, R180,
R182, R163: THE CHECKS OF A MEMORY WORD, in order. A record it may not use, and on path W a lane in bounds outside the
context's window, traps ACCESS with no address (log entry 19); then a lane that is not aligned traps ALIGN with its own address; on path L a lane in bounds whose page does not allow
the access traps ACCESS. Stated for one active lane. R185, R187: SLD, SST AND SATOM issue for the wave, once, through
their record at a fixed offset of words. -/
def Obligations.MemoryWordsIssue : Prop :=
  (∀ (s : State) (i : Instr) (m : MemShape) (x : MIn) (key : Nat → Nat → Nat), s.stop = none → MemWord i m →
     m.fits s.cg.n = true → s.memView m.orders m.cRegs = some x → s.PipeFree (s.cw.flagOf m.fl) → m.Clear i s x.act key →
     ∃ t o, exec i s = .next t ∧ s.IssuedAs t { s.cg with preds := t.cg.preds } o ∧ o.instr = i ∧ o.flag = s.cw.flagOf m.fl
       ∧ (m.path = pathW → t.cg.preds = s.cg.preds)
       ∧ (∀ b, b ≠ m.br.toNat → tget? t.cg.preds b = tget? s.cg.preds b)
       ∧ o.act = x.act ∧ o.scope = x.scope ∧ o.order = x.order ∧ o.size = m.bytes ∧ o.absent = 0#32
       ∧ (∀ l < 32, inMask o.oob l = (inMask x.act l && !(m.at_ s.cg l).2))
       ∧ (∀ l < 32, ∀ j < 2, tget? o.pas (l * 64 + j) =
           if inMask x.act l && (m.at_ s.cg l).2 && (decide (j = 0) || decide (8 < m.bytes)) then some (key l j) else none)
       ∧ (m.write = true → ∀ l < 32, inMask x.act l = true → tget o.vals (l * 64) 0 = m.data s.cg x l))
  ∧ (∀ (s : State) (i : Instr) (m : MemShape) (x : MIn) (l : Nat), s.stop = none → MemWord i m → m.fits s.cg.n = true →
       s.memView m.orders m.cRegs = some x → s.PipeFree (s.cw.flagOf m.fl) → l < 32 → x.act = 1#32 <<< l →
       let r := s.cg.brec m.br.toNat
       let ok := recOk (s.ctx s.cg.ctx) r m.kinds m.perm
       let win := (s.ctx s.cg.ctx).window (recDie r)
       let outside := m.path = pathW ∧ (m.at_ s.cg l).2 = true
         ∧ ¬ (win.1 ≤ (m.at_ s.cg l).1 ∧ (m.at_ s.cg l).1 + m.bytes ≤ win.1 + win.2)
       (ok = false → exec i s = finish (s.addrTrap 0x04 0 m.path m.write m.br.toNat x.act))
       ∧ (ok = true → outside → exec i s = finish (s.addrTrap 0x04 0 m.path m.write m.br.toNat x.act))
       ∧ (ok = true → ¬ outside → (m.at_ s.cg l).1 % m.align i ≠ 0 →
           exec i s = finish (s.addrTrap 0x03 (m.at_ s.cg l).1 m.path m.write m.br.toNat x.act))
       ∧ (ok = true → (m.at_ s.cg l).1 % m.align i = 0 → (m.at_ s.cg l).2 = true → m.path = pathL → m.bytes ≤ 8 →
           s.reach s.cg.core s.cg.ctx (!s.cg.sup) false (if m.write then .write else .read) (m.at_ s.cg l).1 true = (.access, s) →
           exec i s = finish (s.addrTrap 0x04 (m.at_ s.cg l).1 m.path m.write m.br.toNat x.act)))
  ∧ (∀ (s : State) (i : Instr) (sd : BitVec 6) (br : BitVec 4) (off bytes regs : Nat) (write atom : Bool) (kinds : List Nat)
         (perm : QWord → Bool) (key : Nat → Nat), s.stop = none → s.Enabled → s.PipeFree (s.cw.flagOf false) →
       ((∃ (w : UMemW) (o : BitVec 12), i = .sld sd br w o ∧ off = o.toNat ∧ bytes = umemBytes w ∧ regs = bytes / 4 ∧ write = false
           ∧ atom = false ∧ kinds = [0, 4, 5, 6] ∧ perm = recPr)
         ∨ (∃ (w : UMemW) (o : BitVec 12), i = .sst sd br w o ∧ off = o.toNat ∧ bytes = umemBytes w ∧ regs = bytes / 4
           ∧ write = true ∧ atom = false ∧ kinds = [0, 5, 6] ∧ perm = recPw)
         ∨ ∃ (p : Aop) (w : AtomW) (o : BitVec 6), i = .satom p br w sd o ∧ off = o.toNat ∧ bytes = atomBytes w
           ∧ regs = (if p = .cas then bytes / 2 else bytes / 4) ∧ write = true ∧ atom = true ∧ kinds = [0, 6] ∧ perm = recPa
           ∧ (w = .w64 → p ≠ .fadd ∧ p ≠ .fmin ∧ p ≠ .fmax)) →
       let g := s.cg
       let r := g.brec br.toNat
       let va := vaWrap (recBase r + 4 * off)
       let inb := decide (4 * off + bytes ≤ recExtent r * recEz r)
       sd.toNat + regs ≤ 64 → recOk (s.ctx g.ctx) r kinds perm = true → va % (if atom then bytes else min bytes 8) = 0 →
       (inb = true → (write = true → (s.ctx g.ctx).sealed va bytes = false) ∧
         ∀ e ∈ pieces va bytes, s.Maps g.core g.ctx (!g.sup) false (if write then .write else .read) e.2 (key e.1)) →
       ∃ t o, exec i s = .next t ∧ s.IssuedAs t { s.cg with preds := t.cg.preds } o ∧ o.instr = i
         ∧ (∀ b, b ≠ br.toNat → tget? t.cg.preds b = tget? s.cg.preds b)
         ∧ o.flag = s.cw.flagOf false ∧ o.act = s.cw.en ∧ o.size = bytes ∧ (inMask o.oob 0 = !inb)
         ∧ (∀ j < 2, tget? o.pas j = if inb && (decide (j = 0) || decide (8 < bytes)) then some (key j) else none)
         ∧ (write = true → tget o.vals 0 0 = g.srcs (192 + sd.toNat) 0 (bytes / 4)))

/-- R184, R185, R302 to R304: SCRATCHPAD WORDS. With fields that decode, a prefix that fits and aligned offsets, they issue
when every line that a lane in bounds touches is present, with the team's bytes as their keys, and otherwise park the wave
at the word with what it has read and its flag at one more (R36, R38). A park for presence ends when the wave takes up its word again. -/
def Obligations.ScratchpadWords : Prop :=
  (∀ (s : State) (i : Instr) (fl : Bool) (x : MIn) (off : Nat → Nat) (n : Nat), s.stop = none →
    ((∃ (d a : Byte) (l : Bool) (w : MemW), i = .vldsp d a l w ∧ fl = l ∧ n = memBytes w ∧ s.memView [0, 1] 0 = some x
        ∧ dstOk s.cg.n d.toNat (regsOf n) = true ∧ srcOk s.cg.n a.toNat 1 = true ∧ off = fun l => (s.cg.src a.toNat l).toNat)
      ∨ (∃ (d a : Byte) (l : Bool) (w : MemW), i = .vstsp d a l w ∧ fl = l ∧ n = memBytes w ∧ s.memView [0, 2] 0 = some x
        ∧ srcOk s.cg.n d.toNat (regsOf n) = true ∧ srcOk s.cg.n a.toNat 1 = true ∧ off = fun l => (s.cg.src a.toNat l).toNat)
      ∨ ∃ (sd : BitVec 6) (r : BitVec 4) (w : UMemW) (o : BitVec 12), (i = .sldsp sd r w o ∨ i = .sstsp sd r w o) ∧ fl = false
        ∧ n = umemBytes w ∧ x = { en := s.cw.en, act := 1#32 } ∧ s.Enabled ∧ sd.toNat + n / 4 ≤ 64
        ∧ off = fun _ => (s.cg.sreg r.toNat).toNat + 4 * o.toNat) →
    s.PipeFree (s.cw.flagOf fl) → (∀ l, inMask x.act l = true → off l % min n 8 = 0) →
    let team := s.team s.cg.team
    let inb := fun l => decide (off l + n ≤ team.spadLen)
    ((∀ l, inMask x.act l = true → inb l = true → team.present (off l) n = true) →
      ∃ t o, exec i s = .next t ∧ s.Issued t o ∧ o.instr = i ∧ o.flag = s.cw.flagOf fl ∧ o.size = n
        ∧ (∀ l < 32, inMask o.oob l = (inMask x.act l && !inb l))
        ∧ ∀ l < 32, tget? o.pas (l * 64) = if inMask x.act l && inb l then some (spadKey s.cg.team (off l)) else none)
    ∧ ((∃ l < 32, inMask x.act l = true ∧ inb l = true ∧ team.present (off l) n = false) →
      s.cg.entering = none →
      exec i s = .next (s.park .presence (s.cw.flagOf fl))
      ∧ ((s.park .presence (s.cw.flagOf fl)).cw = { s.cw with phase := .parked .presence, snap := some (s.cg.snap (s.cw.flagOf fl)) })
      ∧ ∀ f < 12, vecGet (s.park .presence (s.cw.flagOf fl)).cg.flags f 0
          = vecGet s.cg.flags f 0 + if s.cw.flagOf fl = some f then 1 else 0))
  ∧ ∀ (s : State) (gid wid : Nat), ((s.group gid).wave wid).phase = .parked .presence →
      ∃ t, exec (.scratchpadPresenceResume gid wid) s = .next t
        ∧ (t.group gid).wave wid = { (s.group gid).wave wid with
            phase := .body, readyAt := (s.core (s.group gid).core).cycles }
        ∧ t = { s with groups := t.groups } ∧ ∀ h, h ≠ gid → t.group h = s.group h

/-- R39, R181, R182, R184: LOADS COMPLETE. A load of lanes from the L1, the scratchpad or the Wharf, alone in its group and without
an acquire, gives every active lane in bounds the bytes at its keys, extended as its width says, and every lane out of
bounds 0; VLD gives k7 its lanes on absent pages; SR_STATUS.OOB is set where a lane was out of bounds; the flag falls;
no byte of memory changes. R3, R183, R285, R312: STORES COMPLETE. A store to memory, alone in its group, stores each
lane's bytes at its keys, the highest lane's where lanes meet; every other byte of memory reads as before, but for what the
group's own writes on path M bring there first (R286), no register changes, and the flag falls. R290, R291, R339: a store
without a release, of a group alone on its core, completes so too while an earlier store of the group to other bytes has not
performed, which stays in flight behind it; the core then takes no new work (R289; the model's choice, log entry 66). R185: SLD and
SLDSP give the s-registers the bytes at their keys, or 0 out of bounds or on an absent page, and SLD sets k7 in the lanes of E where
its page is absent and clears it where the page is present. R184, R185, R188, R309: the stores of the scratchpad and of the Wharf
change the bytes they name there, and no other. -/
def Obligations.LoadsAndStoresComplete : Prop :=
  (∀ (s : State) (gid : Nat) (o : POp) (d : Byte) (w : MemW) (k7 : Bool) (v : Nat → Nat), s.MayPerform gid o →
     (s.group gid).ops = [o] → o.order = 0 → o.got = [] → o.unit = min (memBytes w) 8 → s.Settles gid o →
     ((∃ a r l, o.instr = .vld d a r l w ∧ k7 = true) ∨ (∃ a l, o.instr = .vldsp d a l w ∧ k7 = false)
       ∨ ∃ a r l, o.instr = .vldwh d a r l w ∧ k7 = false) →
     d.toNat + regsOf (memBytes w) ≤ 192 →
     (∀ l, inMask o.act l = true → inMask (o.oob ||| o.absent) l = false → s.LaneReads gid o l (v l)) →
     ∃ t, exec (.memoryAccessComplete gid o.id) s = .next t
       ∧ (∀ k l, l < 32 → (t.group gid).vreg k l =
           if inMask o.act l && decide (d.toNat ≤ k) && decide (k < d.toNat + regsOf (memBytes w)) then
             (if inMask (o.oob ||| o.absent) l then 0
              else BitVec.ofNat 32 (extendMem w (v l) / 2 ^ (32 * (k - d.toNat))))
           else (s.group gid).vreg k l)
       ∧ (∀ m < 8, ∀ l < 32, ((t.group gid).kmask m).getLsbD l =
           if m = 7 ∧ k7 = true ∧ inMask o.act l = true then inMask o.absent l else ((s.group gid).kmask m).getLsbD l)
       ∧ (t.group gid).status = (if o.oob = 0#32 then (s.group gid).status else (s.group gid).status ||| 1#3)
       ∧ (s.group gid).Ended (t.group gid) o ∧ (t.group gid).s = (s.group gid).s
       ∧ ∀ key, t.homeByte key = s.homeByte key)
  ∧ (∀ (s : State) (gid : Nat) (o : POp), s.MayPerform gid o → (s.group gid).ops = [o] → o.order = 0 →
       ((∃ d a r l w, o.instr = .vst d a r l w ∧ ∀ e ∈ o.pas, inMask o.act (e.1 / 64) = true ∧ e.1 < 2048)
         ∨ ∃ d r w f, o.instr = .sst d r w f ∧ ∀ e ∈ o.pas, e.1 < 64) →
       s.Settles gid o → (s.drainGroup gid).stop = none →
       (∀ e ∈ o.pas, e.1 % 64 < 2 ∧ e.2 < 2 ^ 63 ∧ s.Reachable e.2 o.unit ∧ s.unreachable e.2 = false) →
       ∃ t, exec (.memoryAccessComplete gid o.id) s = .next t
         ∧ (∀ a, t.homeByte a = (o.storeByte a).getD ((s.drainGroup gid).homeByte a))
         ∧ (s.group gid).Ended (t.group gid) o ∧ (t.group gid).v = (s.group gid).v ∧ (t.group gid).s = (s.group gid).s
         ∧ (t.group gid).k = (s.group gid).k
         ∧ (t.group gid).status = if o.oob = 0#32 then (s.group gid).status else (s.group gid).status ||| 1#3)
  ∧ (∀ (s : State) (gid : Nat) (a o : POp), (s.group gid).ops = [a, o] → s.aloneOnCore gid = true → s.stop = none → a.id < o.id →
       a.order = 0 → o.order = 0 → shareByte a o = false →
       (∀ x ∈ [a, o], (∃ d v r l w, x.instr = .vst d v r l w ∧ ∀ e ∈ x.pas, inMask x.act (e.1 / 64) = true ∧ e.1 < 2048)
         ∨ ∃ d r w f, x.instr = .sst d r w f ∧ ∀ e ∈ x.pas, e.1 < 64) →
       (∀ x ∈ [a, o], ∀ e ∈ x.pas, e.1 % 64 < 2 ∧ e.2 < 2 ^ 49 ∧ s.Reachable e.2 x.unit) →
       s.Settles gid o → (s.drainGroup gid).stop = none →
       ∃ t, exec (.memoryAccessComplete gid o.id) s = .next t
         ∧ (∀ k, t.homeByte k = (o.storeByte k).getD ((s.drainGroup gid).homeByte k))
         ∧ (t.group gid).ops = [{ a with lag := true }] ∧ (t.group gid).v = (s.group gid).v
         ∧ (t.group gid).s = (s.group gid).s ∧ (t.group gid).k = (s.group gid).k
         ∧ ∀ prio since, t.mayTake (s.group gid).core prio since = false)
  ∧ (∀ (s : State) (gid : Nat) (o : POp) (d : BitVec 6) (br : BitVec 4) (w : UMemW) (off : BitVec 12) (k7 : Bool) (v : Nat),
       s.MayPerform gid o → (s.group gid).ops = [o] → o.order = 0 → o.got = [] → o.size = umemBytes w → o.unit = min (umemBytes w) 8 →
       s.Settles gid o → (o.instr = .sld d br w off ∧ k7 = true) ∨ (o.instr = .sldsp d br w off ∧ k7 = false) →
       d.toNat + umemBytes w / 4 ≤ 64 → (inMask (o.oob ||| o.absent) 0 = false → s.LaneReads gid o 0 v) →
       ∃ t, exec (.memoryAccessComplete gid o.id) s = .next t
         ∧ (∀ r < 64, (t.group gid).sreg r = if d.toNat ≤ r ∧ r < d.toNat + umemBytes w / 4 then
               (if inMask (o.oob ||| o.absent) 0 then 0 else BitVec.ofNat 32 (v / 2 ^ (32 * (r - d.toNat)))) else (s.group gid).sreg r)
         ∧ (∀ m < 8, ∀ l < 32, ((t.group gid).kmask m).getLsbD l =
             if m = 7 ∧ k7 = true ∧ inMask o.oob 0 = false ∧ inMask o.act l = true then inMask o.absent 0
             else ((s.group gid).kmask m).getLsbD l)
         ∧ (t.group gid).status = (if o.oob = 0#32 then (s.group gid).status else (s.group gid).status ||| 1#3)
         ∧ (s.group gid).Ended (t.group gid) o ∧ (t.group gid).v = (s.group gid).v ∧ ∀ key, t.homeByte key = s.homeByte key)
  ∧ (∀ (s : State) (gid : Nat) (o : POp), s.MayPerform gid o → (s.group gid).ops = [o] → o.order = 0 → s.Settles gid o →
       ((∃ d a l w, o.instr = .vstsp d a l w ∧ ∀ e ∈ o.pas, inMask o.act (e.1 / 64) = true ∧ e.1 < 2048)
         ∨ (∃ d r w f, o.instr = .sstsp d r w f ∧ ∀ e ∈ o.pas, e.1 < 64)
         ∨ ∃ d a r l w, o.instr = .vstwh d a r l w ∧ ∀ e ∈ o.pas, inMask o.act (e.1 / 64) = true ∧ e.1 < 2048) →
       (s.drainGroup gid).stop = none →
       let tm := (s.group gid).team
       (∀ e ∈ o.pas, e.1 % 64 < 2 ∧ ((∃ off, off + o.unit ≤ 2 ^ 40 ∧ e.2 = spadKey tm off)
         ∨ ∃ die < 2, ∃ off, off + o.unit ≤ wharfBytes ∧ e.2 = bankKey die off)) →
       ∃ t, exec (.memoryAccessComplete gid o.id) s = .next t
         ∧ (∀ off < 2 ^ 40, byteAt (t.team tm).spad off = (o.storeByte (spadKey tm off)).getD (byteAt (s.team tm).spad off))
         ∧ (∀ die < 2, ∀ off < wharfBytes, byteAt t.wharf (wharfKey die off)
             = (o.storeByte (bankKey die off)).getD (byteAt s.wharf (wharfKey die off)))
         ∧ (∀ a, t.homeByte a = (s.drainGroup gid).homeByte a)
         ∧ (s.group gid).Ended (t.group gid) o ∧ (t.group gid).v = (s.group gid).v ∧ (t.group gid).s = (s.group gid).s
         ∧ (t.group gid).k = (s.group gid).k
         ∧ (t.group gid).status = if o.oob = 0#32 then (s.group gid).status else (s.group gid).status ||| 1#3)

/-- R73, R186, R187: ADDS OF ONE INSTRUCTION COMBINE. VATOM ADD of lanes at aligned, reachable words leaves at every address
that lanes name the old value plus all their operands, modulo 2³²; each lane receives the old value plus the operands of the
lower lanes at its address, and a lane out of bounds 0; every other byte of memory and every other register is unchanged. The
old values are those that memory has once the group's own writes on path M are there (R286). R73, R186, R187: EVERY ATOMIC, of
4, 8 and 16 bytes, and SATOM: memory ends with what R73 says its lanes leave, and each lane receives what R73 gives it. R188, R189,
R309: A WHARF OPERATION applies its lanes to each element one after another, in ascending order, and a lane that has a destination
receives the value just before its own step; FADDH2, stated for one lane, draws from the generator of the element's bank. Every
other byte of the Wharf, every byte of memory and every other register is unchanged. -/
def Obligations.AtomicAddsCombine : Prop :=
  (∀ (s : State) (gid : Nat) (o : POp) (d a : BitVec 8) (r : BitVec 4), s.MayPerform gid o → (s.group gid).ops = [o] →
    o.instr = .vatom d a r .add → o.order = 0 → o.size = 4 → o.unit = 4 → d.toNat < 192 → s.Settles gid o →
    let m := s.drainGroup gid
    m.stop = none →
    (∀ l < 32, inMask o.act l = true → (inMask o.oob l = true ∧ tget? o.pas (l * 64) = none)
      ∨ (inMask o.oob l = false ∧ ∃ key, tget? o.pas (l * 64) = some key ∧ m.AtomKey key 4)) →
    ∃ t, exec (.memoryAccessComplete gid o.id) s = .next t
      ∧ (∀ l < 32, inMask o.act l = true → ∀ key, tget? o.pas (l * 64) = some key →
          t.homeNat key 4 = (m.homeNat key 4 + o.addends key (fun _ => true)) % 2 ^ 32
          ∧ (t.group gid).vreg d.toNat l
              = BitVec.ofNat 32 (m.homeNat key 4 + o.addends key (fun m => decide (m < l))))
      ∧ (∀ l < 32, inMask o.act l = true → inMask o.oob l = true → (t.group gid).vreg d.toNat l = 0)
      ∧ (∀ b, (∀ l < 32, inMask o.act l = true → ∀ key, tget? o.pas (l * 64) = some key → b < key ∨ key + 4 ≤ b) →
          t.homeByte b = m.homeByte b)
      ∧ (∀ k l, l < 32 → k ≠ d.toNat ∨ inMask o.act l = false → (t.group gid).vreg k l = (s.group gid).vreg k l)
      ∧ (s.group gid).Ended (t.group gid) o ∧ (t.group gid).s = (s.group gid).s ∧ (t.group gid).k = (s.group gid).k)
  ∧ (∀ (s : State) (gid : Nat) (o : POp) (d : Byte) (p : Aop) (n : Nat), s.MayPerform gid o → (s.group gid).ops = [o] →
      AtomWord o.instr d p n → o.order = 0 → o.size = n → o.Fits n → d.toNat + n / 4 ≤ 192 → s.Settles gid o →
      let m := s.drainGroup gid
      m.stop = none →
      (∀ l < 32, inMask o.act l = true → (inMask o.oob l = true ∧ tget? o.pas (l * 64) = none)
        ∨ (inMask (o.oob ||| o.absent) l = false ∧ ∃ key, tget? o.pas (l * 64) = some key ∧ m.AtomKey key n)) →
      ∃ t, exec (.memoryAccessComplete gid o.id) s = .next t
        ∧ (∀ l < 32, inMask o.act l = true → ∀ key, tget? o.pas (l * 64) = some key →
            t.homeNat key n = atomLeaves p n (m.homeNat key n) (o.at_ key 32)
            ∧ ∀ j < n / 4, (t.group gid).vreg (d.toNat + j) l
                = BitVec.ofNat 32 (atomGives p n (m.homeNat key n) (o.at_ key 32) (o.at_ key l).length / 2 ^ (32 * j)))
        ∧ (∀ l < 32, inMask o.act l = true → inMask o.oob l = true → ∀ j < n / 4, (t.group gid).vreg (d.toNat + j) l = 0)
        ∧ (∀ b, (∀ l < 32, inMask o.act l = true → ∀ key, tget? o.pas (l * 64) = some key → b < key ∨ key + n ≤ b) →
            t.homeByte b = m.homeByte b)
        ∧ (∀ k l, l < 32 → ¬ (d.toNat ≤ k ∧ k < d.toNat + n / 4) ∨ inMask o.act l = false →
            (t.group gid).vreg k l = (s.group gid).vreg k l)
        ∧ (t.group gid).status = (if o.oob = 0#32 then (s.group gid).status else (s.group gid).status ||| 1#3)
        ∧ (s.group gid).Ended (t.group gid) o ∧ (t.group gid).s = (s.group gid).s ∧ (t.group gid).k = (s.group gid).k)
  ∧ (∀ (s : State) (gid : Nat) (o : POp) (p : Aop) (br : BitVec 4) (w : AtomW) (d f : BitVec 6), s.MayPerform gid o →
      (s.group gid).ops = [o] → o.instr = .satom p br w d f → o.order = 0 → o.size = atomBytes w → o.Fits (atomBytes w) →
      (w = .w64 → p ≠ .fadd ∧ p ≠ .fmin ∧ p ≠ .fmax) → d.toNat + atomBytes w / 4 ≤ 64 → s.Settles gid o →
      let m := s.drainGroup gid
      m.stop = none →
      ∀ key, tget? o.pas 0 = some key → inMask (o.oob ||| o.absent) 0 = false → m.AtomKey key (atomBytes w) →
      ∃ t, exec (.memoryAccessComplete gid o.id) s = .next t
        ∧ t.homeNat key (atomBytes w) = atomLeaves p (atomBytes w) (m.homeNat key (atomBytes w)) [(tget o.vals 0 0, tget o.vals 1 0)]
        ∧ (∀ b, b < key ∨ key + atomBytes w ≤ b → t.homeByte b = m.homeByte b)
        ∧ (∀ r < 64, (t.group gid).sreg r = if d.toNat ≤ r ∧ r < d.toNat + atomBytes w / 4 then
              BitVec.ofNat 32 (m.homeNat key (atomBytes w) / 2 ^ (32 * (r - d.toNat))) else (s.group gid).sreg r)
        ∧ (s.group gid).Ended (t.group gid) o ∧ (t.group gid).v = (s.group gid).v ∧ (t.group gid).k = (s.group gid).k)
  ∧ ∀ (s : State) (gid : Nat) (o : POp) (d : Option Byte) (p : Wop), s.MayPerform gid o → (s.group gid).ops = [o] →
      ((∃ x a r, d = some x ∧ o.instr = .vwop x a r p) ∨ ∃ a r, d = none ∧ o.instr = .vwopPosted a r p) →
      o.order = 0 → o.size = wopBytes p → o.Fits (wopBytes p) → s.Settles gid o → (s.drainGroup gid).stop = none →
      (∀ x, d = some x → x.toNat + wopBytes p / 4 ≤ 192) →
      (∀ l < 32, inMask o.act l = true → (inMask o.oob l = true ∧ tget? o.pas (l * 64) = none)
        ∨ (inMask o.oob l = false ∧ ∃ die < 2, ∃ off, off % wopBytes p = 0 ∧ off + wopBytes p ≤ wharfBytes
            ∧ tget? o.pas (l * 64) = some (bankKey die off) ∧ s.wharfBad die off (wopBytes p) = false)) →
      ((lanesOf o.act).length ≤ 1 ∨ p ≠ .faddh2) →
      ∃ t, exec (.memoryAccessComplete gid o.id) s = .next t
        ∧ (∀ l < 32, inMask o.act l = true → ∀ die < 2, ∀ off, off % wopBytes p = 0 → tget? o.pas (l * 64) = some (bankKey die off) →
            let old := s.wharfNat die off (wopBytes p)
            let gen := tget (s.die die).bankGen (wharfBank off) 1
            (p ≠ .faddh2 → t.wharfNat die off (wopBytes p) = wharfLeaves p old (o.at_ (bankKey die off) 32)
              ∧ (t.die die).bankGen = (s.die die).bankGen
              ∧ ∀ x, d = some x → ∀ j < wopBytes p / 4, (t.group gid).vreg (x.toNat + j) l
                  = BitVec.ofNat 32 (wharfLeaves p old (o.at_ (bankKey die off) l) / 2 ^ (32 * j)))
            ∧ (p = .faddh2 → t.wharfNat die off 4 = (wopFn p old (tget o.vals (l * 64) 0) 0 gen).1
              ∧ tget (t.die die).bankGen (wharfBank off) 1 = (wopFn p old (tget o.vals (l * 64) 0) 0 gen).2
              ∧ ∀ x, d = some x → (t.group gid).vreg x.toNat l = BitVec.ofNat 32 old))
        ∧ (∀ die < 2, ∀ off < wharfBytes, (∀ l < 32, inMask o.act l = true → ∀ key, tget? o.pas (l * 64) = some key →
              bankKey die off < key ∨ key + wopBytes p ≤ bankKey die off) →
            byteAt t.wharf (wharfKey die off) = byteAt s.wharf (wharfKey die off))
        ∧ (∀ x, d = some x → ∀ l < 32, inMask o.act l = true → inMask o.oob l = true → ∀ j < wopBytes p / 4,
            (t.group gid).vreg (x.toNat + j) l = 0)
        ∧ (∀ k l, l < 32 → (∀ x, d = some x → ¬ (x.toNat ≤ k ∧ k < x.toNat + wopBytes p / 4) ∨ inMask o.act l = false) →
            (t.group gid).vreg k l = (s.group gid).vreg k l)
        ∧ (∀ key, t.homeByte key = (s.drainGroup gid).homeByte key)
        ∧ (s.group gid).Ended (t.group gid) o ∧ (t.group gid).s = (s.group gid).s ∧ (t.group gid).k = (s.group gid).k

/-- R38, R39, R74, R134, R142: THE WORDS OF PIPE X. VFX goes in flight with its sources as the prefix changes their signs. Its
completion gives each active lane its function of the source, rounded, each lane masked under z zero, and no other
register anything; SQRT is exact but for one rounding; what R142 leaves open is a free value (log entry 5). -/
def Obligations.FunctionWords : Prop :=
  (∀ (s : State) (d a : Byte) (f : XFn) (x : VIn), dstOk s.cg.n d.toNat 1 = true → srcOk s.cg.n a.toNat 1 = true →
    s.laneView { rm := decide (f = .sqrt), sat := true, mods := true } d.toNat = some x → s.cg.flag (s.cw.flagOf false) < 63 →
    ∃ t o, exec (.vfx d a f) s = .next t ∧ s.Issued t o ∧ o.instr = .vfx d a f ∧ o.flag = s.cw.flagOf false ∧ o.act = x.act
      ∧ o.zero = x.zero ∧ o.arg 0 = x.p.rm ∧ (o.arg 1 = 1 ↔ x.p.sat = true)
      ∧ ∀ l < 32, inMask x.act l = true → tget o.vals (l * 64) 0 = fmods x.p fp32 (s.cg.src a.toNat l).toNat)
  ∧ ∀ (s : State) (gid op : Nat) (o : POp) (d a : Byte) (f : XFn), (s.group gid).op? op = some o → o.instr = .vfx d a f →
      o.act &&& o.zero = 0#32 →
      ∃ t, exec (.vfxComplete gid op) s = .next t
        ∧ (∀ k l, l < 32 → (inMask o.zero l = true → (t.group gid).vreg k l = if k = d.toNat then 0 else (s.group gid).vreg k l)
          ∧ (inMask o.zero l = false → k ≠ d.toNat ∨ inMask o.act l = false → (t.group gid).vreg k l = (s.group gid).vreg k l))
        ∧ (∀ l < 32, inMask o.act l = true → ∃ c,
            let r : Rnd := { mode := o.arg 0, sat := decide (o.arg 1 = 1), gen := ((s.group gid).lane l).gen }
            let v := vfxFn f (tget o.vals (l * 64) 0) c r
            (t.group gid).vreg d.toNat l = BitVec.ofNat 32 v.1 ∧ (t.group gid).lane l = { (s.group gid).lane l with gen := v.2 }
            ∧ (f = .sqrt → v = fp32Sqrt (fp32.decode (tget o.vals (l * 64) 0)) r))
        ∧ (∀ l < 32, inMask o.act l = false → (t.group gid).lane l = (s.group gid).lane l)
        ∧ (s.group gid).Ended (t.group gid) o ∧ (t.group gid).s = (s.group gid).s ∧ (t.group gid).k = (s.group gid).k
        ∧ (∀ h, h ≠ gid → t.group h = s.group h) ∧ ∀ key, t.homeByte key = s.homeByte key

/-- R93, R176, R190, R193 to R195: LOD LOADS, PAGE REQUESTS AND PREFETCHES GO IN FLIGHT. With fields that decode, a prefix that
fits and a record they may use, VLDL, VSMP and VPGREQ issue with the lanes' sources, or addresses; PGREQ with its first page
and its count, at most 256; VPREF even with a record it may not use, which gives it nothing to fetch. VPGREQ then gives 4 to a lane out of bounds, 5 to one
whose page has no valid entry and 0 to one whose page is present. PGREQ drops bits [63:52] of its pair (log entry 59). VLDL AND
VSMP DELIVER, stated for one lane whose map, header and texels path S holds as memory has them: VLDL the decoded texel of level
max(r, m), or 0 and status bit 7 where its coordinates lie outside level r; VSMP the bilinear sum of the four texels around the point;
each the status word, with FALL, TAIL and LEVEL, and DROPPED where the context has no ring; k7 is cleared. -/
def Obligations.LodAndPageWords : Prop :=
  (∀ (s : State) (i : Instr) (d a : Byte) (br : BitVec 4) (fl smp : Bool) (dst src : Nat) (kinds : List Nat)
      (perm : QWord → Bool) (x : MIn), s.stop = none → LodWord i d a br fl dst src kinds perm smp →
    dstOk s.cg.n d.toNat dst = true → srcOk s.cg.n a.toNat src = true → s.memView [0] 0 = some x →
    s.PipeFree (s.cw.flagOf fl) → recOk (s.ctx s.cg.ctx) (s.cg.brec br.toNat) kinds perm = true →
    (∀ d a r l w, i = .vpgreq d a r l w → s.AlignedLanes br a (memBytes w) x.act) →
    ∃ t o, exec i s = .next t ∧ s.Issued t o ∧ o.instr = i ∧ o.flag = s.cw.flagOf fl ∧ o.act = x.act
      ∧ (smp = true → o.recd = s.cg.brec br.toNat ∧ ∀ l < 32, ∀ j < 3, inMask x.act l = true →
          tget o.vals (l * 64 + j) 0 = (s.cg.src (a.toNat + j) l).toNat)
      ∧ (∀ d a r l w, i = .vpgreq d a r l w → ∀ l < 32, inMask x.act l = true →
          tget o.vals (l * 64) 0 = vaWrap (recBase (s.cg.brec br.toNat)
            + (laneOffset (s.cg.brec br.toNat) (s.cg.src a.toNat l).toNat (memBytes w)).1)
          ∧ inMask o.oob l = !(laneOffset (s.cg.brec br.toNat) (s.cg.src a.toNat l).toNat (memBytes w)).2))
  ∧ (∀ (s : State) (d a b : BitVec 6), s.stop = none → s.Enabled → s.PipeFree (s.cw.flagOf false) → a.toNat < 63 →
      ∃ t o, exec (.pgreq d a b) s = .next t ∧ s.Issued t o ∧ o.instr = .pgreq d a b ∧ o.flag = s.cw.flagOf false
        ∧ o.arg 0 = (s.cg.spair a.toNat).toNat % 2 ^ 52 / 2 ^ 16 * 2 ^ 16 ∧ o.arg 1 = min 256 (s.cg.sreg b.toNat).toNat)
  ∧ (∀ (s : State) (a : BitVec 8) (r : BitVec 4) (l w : Bool) (x : MIn), s.stop = none → srcOk s.cg.n a.toNat 1 = true →
      s.memView [0] 0 = some x → s.PipeFree (s.cw.flagOf l) → recOk (s.ctx s.cg.ctx) (s.cg.brec r.toNat) [0, 4, 5, 6] recPr = false →
      ∃ t o, exec (.vpref a r l w) s = .next t ∧ s.Issued t o ∧ o.instr = .vpref a r l w ∧ o.flag = s.cw.flagOf l ∧ o.pas = [])
  ∧ (∀ (s : State) (a : BitVec 8) (r : BitVec 4) (l w : Bool) (x : MIn) (key : Nat → Nat), s.stop = none →
      srcOk s.cg.n a.toNat 1 = true → s.memView [0] 0 = some x → s.PipeFree (s.cw.flagOf l) →
      recOk (s.ctx s.cg.ctx) (s.cg.brec r.toNat) [0, 4, 5, 6] recPr = true →
      let at_ := fun j => laneOffset (s.cg.brec r.toNat) (s.cg.src a.toNat j).toNat 1
      let va := fun j => vaWrap (recBase (s.cg.brec r.toNat) + (at_ j).1)
      (∀ j, inMask x.act j = true → (at_ j).2 = true → (s.ctx s.cg.ctx).sealed (va j) 1 = false
        ∧ s.Maps s.cg.core s.cg.ctx (!s.cg.sup) false .read (va j) (key j)) →
      ∃ t o, exec (.vpref a r l w) s = .next t ∧ s.Issued t o ∧ o.instr = .vpref a r l w ∧ o.flag = s.cw.flagOf l
        ∧ ∀ j < 32, tget? o.pas (j * 64) = if inMask x.act j && (at_ j).2 then some (key j) else none)
  ∧ (∀ (s : State) (gid : Nat) (o : POp) (d a : BitVec 8) (r : BitVec 4) (l : Bool) (w : MemW) (code : Nat → Nat),
      s.MayPerform gid o → (s.group gid).ops = [o] → o.instr = .vpgreq d a r l w → o.order = 0 → d.toNat < 192 →
      (∀ j < 32, inMask o.act j = true →
        (inMask o.oob j = true ∧ code j = 4)
        ∨ (inMask o.oob j = false ∧ s.translate (s.group gid).core (s.group gid).ctx false (tget o.vals (j * 64) 0) = (none, s)
            ∧ code j = 5)
        ∨ (inMask o.oob j = false ∧ code j = 0 ∧ ∃ e, pteP e.leaf = true ∧
            s.translate (s.group gid).core (s.group gid).ctx false (tget o.vals (j * 64) 0) = (some e, s))) →
      ∃ t, exec (.memoryAccessComplete gid o.id) s = .next t
        ∧ (∀ k j, j < 32 → (t.group gid).vreg k j =
            if k = d.toNat ∧ inMask o.act j = true then BitVec.ofNat 32 (code j) else (s.group gid).vreg k j)
        ∧ (s.group gid).Ended (t.group gid) o ∧ (t.group gid).s = (s.group gid).s
        ∧ ∀ key, t.homeByte key = s.homeByte key)
  ∧ (∀ (s : State) (gid : Nat) (o : POp) (d a : BitVec 8) (r : BitVec 4) (fl : Bool) (l m tail tv : Nat),
      s.LodReady gid o l d.toNat → o.instr = .vldl d a r fl →
      let g := o.recd
      let x := tget o.vals (l * 64) 0
      let y := tget o.vals (l * 64 + 1) 0
      let req := min (tget o.vals (l * 64 + 2) 0) (imgMips g)
      let lev := max req (min m (imgMips g))
      (imgW g req ≤ x ∨ imgH g req ≤ y → ∃ t, exec (.memoryAccessComplete gid o.id) s = .next t
        ∧ (∀ k < 5, (t.group gid).vreg (d.toNat + k) l = if k = 4 then 128 else 0) ∧ (t.group gid).status = (s.group gid).status ||| 1#3
        ∧ (s.group gid).Ended (t.group gid) o ∧ ∀ key, t.homeByte key = s.homeByte key)
      ∧ (x < imgW g req → y < imgH g req →
          s.MapShows gid g (min (x * 2 ^ req) (imgW g 0 - 1)) (min (y * 2 ^ req) (imgH g 0 - 1)) m tail →
          s.SamplerShows gid (texelVa g lev (x / 2 ^ (lev - req)) (y / 2 ^ (lev - req))) (texBytes (imgFmt g)) tv →
          ∃ t, exec (.memoryAccessComplete gid o.id) s = .next t
            ∧ s.LodDone t gid o d.toNat l req lev tail (texel (imgFmt g) tv)))
  ∧ ∀ (s : State) (gid : Nat) (o : POp) (d a : BitVec 8) (r : BitVec 4) (fl : Bool) (l m tail : Nat) (tv : Nat → Nat),
      s.LodReady gid o l d.toNat → o.instr = .vsmp d a r fl →
      let g := o.recd
      let u := prepCoord (fp32.decode (tget o.vals (l * 64) 0))
      let v := prepCoord (fp32.decode (tget o.vals (l * 64 + 1) 0))
      let req := lodLevel (fp32.decode (tget o.vals (l * 64 + 2) 0)) (imgMips g)
      let lev := max req (min m (imgMips g))
      let sx := texCoord u (imgW g lev)
      let ty := texCoord v (imgH g lev)
      let fx : Ratio := (sx.1 - Ratio.floor sx * (sx.2 : Int), sx.2)
      let fy : Ratio := (ty.1 - Ratio.floor ty * (ty.2 : Int), ty.2)
      s.MapShows gid g (clampTo (Ratio.floor (u.1 * (imgW g 0 : Int), u.2)) (imgW g 0))
        (clampTo (Ratio.floor (v.1 * (imgH g 0 : Int), v.2)) (imgH g 0)) m tail →
      (∀ q < 4, s.SamplerShows gid (texelVa g lev (clampTo (Ratio.floor sx + (q % 2 : Nat)) (imgW g lev))
        (clampTo (Ratio.floor ty + (q / 2 : Nat)) (imgH g lev))) (texBytes (imgFmt g)) (tv q)) →
      ∃ t, exec (.memoryAccessComplete gid o.id) s = .next t
        ∧ s.LodDone t gid o d.toNat l req lev tail ((List.range 4).map (fun c =>
            bilinear fx fy ((List.range 4).map (fun q => (texel (imgFmt g) (tv q)).getD c 0))))

/-- R196, R288, R293: FENCES. A FENCE with a scope and masks that are not reserved goes in flight, and the group issues no word
of pipe M or E (of lanes, of the wave, of the streamer, of the engine) until it completes. It completes once no earlier operation that it must wait for is in flight: the core's
L1 is then empty where the fence acquires for path L at cluster scope or wider, and the sampler caches and fetch buffers
of its scope are where path S is a destination (a release too, log entry 61), for which no traversal may run on those cores;
a release or full fence from path M, or from path H where some of them are for a host or peer page, has brought the group's writes
of path M to their homes (R290). Every other cache, every
register and every other byte is unchanged. -/
def Obligations.FencesOrderAndInvalidate : Prop :=
  (∀ (s : State) (c : BitVec 3) (o : BitVec 2) (p d : BitVec 7), s.stop = none → s.Enabled → s.PipeFree (s.cw.flagOf false) →
    (c.toNat ≤ 5 ∧ p ≠ 0 ∧ d ≠ 0 → ∃ t x, exec (.fence c o p d) s = .next t ∧ s.IssuedAs t { s.cg with fence := some s.nextOp } x
        ∧ x.instr = .fence c o p d ∧ x.flag = s.cw.flagOf false)
    ∧ (5 < c.toNat ∨ p = 0 ∨ d = 0 → exec (.fence c o p d) s = finish s.illegal))
  ∧ (∀ (s : State) (i : Instr), s.stop = none → s.Enabled → s.cg.fence ≠ none → PipeWord s i → exec i s = .next s)
  ∧ ∀ (s : State) (gid op : Nat) (x : POp) (c : BitVec 3) (o : BitVec 2) (p d : BitVec 7),
      (s.group gid).op? op = some x → x.instr = .fence c o p d →
      let g := s.group gid
      let waits := (g.earlier x).any (fenceWaits o.toNat p.toNat)
        || (decide (d.toNat / 2 % 2 = 1) && s.walksOn (s.scopeCores gid c.toNat))
      let m := if o ≠ 0 ∧ (p.toNat.testBit pathM = true ∨ (p.toNat.testBit pathH = true
        ∧ s.mq.any (fun w => decide (w.gid = gid) && keyH w.key) = true)) then s.drainGroup gid else s
      (waits = true → exec (.fenceComplete gid op) s = .next s)
      ∧ (waits = false → m.stop = none → ∃ t, exec (.fenceComplete gid op) s = .next t ∧ (t.group gid).fence = none ∧ g.Ended (t.group gid) x
          ∧ (∀ k, (t.core k).l1 = if k = g.core ∧ o ≠ 1 ∧ d.toNat % 2 = 1 ∧ 2 ≤ c.toNat then [] else (s.core k).l1)
          ∧ (∀ k, (t.core k).sampler
              = if k ∈ s.scopeCores gid c.toNat ∧ d.toNat / 2 % 2 = 1 then [] else (s.core k).sampler)
          ∧ (∀ k, (t.core k).fetchBuf
              = if k ∈ s.scopeCores gid c.toNat ∧ d.toNat / 2 % 2 = 1 then [] else (s.core k).fetchBuf)
          ∧ (t.group gid).v = g.v ∧ (t.group gid).s = g.s ∧ (∀ h, h ≠ gid → t.group h = s.group h)
          ∧ ∀ key, t.homeByte key = m.homeByte key)

/-- R197, R198: SEALING. SEAL of a range of whole pages that are writable, or absent, and clear of the context's other seals goes in
flight and completes, once every store it waits for has performed, by adding the seal; UNSEAL of a seal of the context
goes in flight and completes by removing it, after which no cache of a core holds a line of its pages; a range that is
not whole pages traps RANGEALIGN, an UNSEAL that matches no seal ACCESS. Neither changes a byte of memory, but that a seal
waits for the writes of path M to have reached it. R199, R200,
R315: CINV AND CWB over a range inside one page. SEAL and UNSEAL ignore bits [63:52] of
their pair (log entry 59), and SEAL takes an absent page whatever its W (log entry 60). With a record they may use, a range inside it and, for CINV, whole
atoms, they go in flight with the page's key. CINV then drops the range's dirty bytes, so that memory below shows, and
every L1, sampler and fetch buffer line that touches it; CWB writes the dirty bytes back, after which memory holds what the home
read. -/
def Obligations.SealsAndCacheMaintenance : Prop :=
  ((∀ (s : State) (a b : BitVec 6), s.stop = none → s.Enabled → s.PipeFree (s.cw.flagOf false) → a.toNat < 63 →
     let x := s.ctx s.cg.ctx
     let start := (s.cg.spair a.toNat).toNat % 2 ^ 52
     let len := (s.cg.sreg b.toNat).toNat
     let whole := start % 2 ^ 16 = 0 ∧ len % 2 ^ 16 = 0 ∧ len ≠ 0
     (¬ whole → exec (.sealPages a b) s = finish (s.addrTrap 0x11 start pathL false 0 s.cw.en)
       ∧ exec (.unsealPages a b) s = finish (s.addrTrap 0x11 start pathL false 0 s.cw.en))
     ∧ (whole → (start, len) ∉ x.seals → exec (.unsealPages a b) s = finish (s.addrTrap 0x04 start pathL false 0 s.cw.en))
     ∧ (whole → (start, len) ∈ x.seals → ∃ t o, exec (.unsealPages a b) s = .next t ∧ s.Issued t o ∧ o.instr = .unsealPages a b
         ∧ o.flag = s.cw.flagOf false ∧ o.arg 0 = start ∧ o.arg 1 = len ∧ t.ctx s.cg.ctx = x)
     ∧ (whole → (∀ i < len / 2 ^ 16, ∃ e, s.translate s.cg.core s.cg.ctx false (vaWrap (start + i * 2 ^ 16)) = (some e, s)
           ∧ (pteW e.leaf = true ∨ pteP e.leaf = false)) →
         (x.seals ++ x.sealing).length < 32 → (∀ r ∈ x.seals ++ x.sealing, r.1 + r.2 ≤ start ∨ start + len ≤ r.1) →
         ∃ t o, exec (.sealPages a b) s = .next t ∧ s.Issued t o ∧ o.instr = .sealPages a b ∧ o.flag = s.cw.flagOf false
           ∧ o.arg 0 = start ∧ o.arg 1 = len ∧ t.ctx s.cg.ctx = { x with sealing := x.sealing ++ [(start, len)] }))
   ∧ ∀ (s : State) (gid op : Nat) (o : POp) (a b : BitVec 6), s.stop = none → (s.group gid).op? op = some o →
       let g := s.group gid
       let x := s.ctx g.ctx
       (o.instr = .sealPages a b →
         (s.groups.any (fun e => sealWaits g.ctx (o.arg 0) (o.arg 1) op e.2) = false → s.drainAll.stop = none →
           ∃ t, exec (.sealComplete gid op) s = .next t ∧ g.Ended (t.group gid) o
             ∧ t.ctx g.ctx = { x with seals := x.seals ++ [(o.arg 0, o.arg 1)], sealing := x.sealing.erase (o.arg 0, o.arg 1) }
             ∧ ∀ key, t.homeByte key = s.drainAll.homeByte key)
         ∧ (s.groups.any (fun e => sealWaits g.ctx (o.arg 0) (o.arg 1) op e.2) = true → exec (.sealComplete gid op) s = .next s))
       ∧ (o.instr = .unsealPages a b →
           let p0 := if x.dies.getLsbD 0 then s.pageKeys 0 g.ctx (o.arg 0) (o.arg 1 / 2 ^ 16) else ([], s)
           let p1 := if x.dies.getLsbD 1 then p0.2.pageKeys 1 g.ctx (o.arg 0) (o.arg 1 / 2 ^ 16) else ([], p0.2)
           p1.2.stop = none →
           ∃ t, exec (.unsealComplete gid op) s = .next t ∧ g.Ended (t.group gid) o
             ∧ t.ctx g.ctx = { x with seals := x.seals.erase (o.arg 0, o.arg 1) }
             ∧ (∀ key ∈ p0.1 ++ p1.1, ∀ c < 32, ∀ l, l * 128 < key + 2 ^ 16 → key < (l + 1) * 128 →
                 tget? (t.core c).l1 l = none ∧ tget? (t.core c).sampler l = none ∧ tget? (t.core c).fetchBuf l = none)
             ∧ ∀ key, t.homeByte key = s.homeByte key))
  ∧ ((∀ (s : State) (a b : BitVec 6) (n : BitVec 4) (key : Nat), s.stop = none → s.Enabled → s.PipeFree (s.cw.flagOf false) →
       let r := s.cg.brec n.toNat
       let off := (s.cg.sreg a.toNat).toNat
       let len := (s.cg.sreg b.toNat).toNat
       let va := recBase r + off
       off + len ≤ recExtent r * recEz r → 0 < len → va + len ≤ 2 ^ 52 → va / 2 ^ 16 = (va + len - 1) / 2 ^ 16 →
       (recOk (s.ctx s.cg.ctx) r [6] recPw = true → off % 32 = 0 → len % 32 = 0 →
         (s.ctx s.cg.ctx).sealed va 1 = false → s.Maps s.cg.core s.cg.ctx (!s.cg.sup) false .write va key →
         ∃ t o, exec (.cinv a b n) s = .next t ∧ s.Issued t o ∧ o.instr = .cinv a b n ∧ o.flag = s.cw.flagOf false
           ∧ o.pas = [(0, key)] ∧ tget o.vals 0 0 = len)
       ∧ (recOk (s.ctx s.cg.ctx) r [0, 5, 6] recPr = true → s.Maps s.cg.core s.cg.ctx (!s.cg.sup) false .read va key →
         ∃ t o, exec (.cwb a b n) s = .next t ∧ s.IssuedAs t { s.cg with preds := t.cg.preds } o ∧ o.instr = .cwb a b n ∧ o.flag = s.cw.flagOf false
           ∧ o.pas = [(0, key)] ∧ tget o.vals 0 0 = len)
       ∧ (recOk (s.ctx s.cg.ctx) r [6] recPw = true → off % 32 ≠ 0 ∨ len % 32 ≠ 0 →
         exec (.cinv a b n) s = finish (s.addrTrap 0x11 (vaWrap va) pathL true n.toNat s.cw.en)))
     ∧ ∀ (s : State) (gid op key n : Nat) (o : POp) (a b : BitVec 6) (br : BitVec 4), (s.group gid).op? op = some o →
         o.pas = [(0, key)] → tget o.vals 0 0 = n → rising s.l2 →
         (o.instr = .cinv a b br → ∃ t, exec (.cinvComplete gid op) s = .next t ∧ (s.group gid).Ended (t.group gid) o
           ∧ t.mem = s.mem ∧ (∀ k, tget? t.l2 k = if key ≤ k ∧ k < key + n then none else tget? s.l2 k)
           ∧ ∀ c < 32, ∀ l, l * 128 < key + n → key < (l + 1) * 128 →
               tget? (t.core c).l1 l = none ∧ tget? (t.core c).sampler l = none ∧ tget? (t.core c).fetchBuf l = none)
         ∧ (o.instr = .cwb a b br → ∃ t, exec (.cwbComplete gid op) s = .next t ∧ (s.group gid).Ended (t.group gid) o
           ∧ (∀ k, t.homeByte k = s.homeByte k) ∧ t.cores = s.cores
           ∧ ∀ k, key ≤ k → k < key + n → byteAt t.mem k = s.homeByte k ∧ tget? t.l2 k = none))

/-! ### The matrix engine -/

/-- R34, R35, R37, R203, R206, R208 to R217: THE ENGINE WORDS ARE ACCEPTED. With operands that pass their checks and room in the
engine each is accepted with the lanes of E as its rows: it stands last in the core's engine; ATDEF binds its a-handle,
CHLOAD its h-handle to chambers that it reserves, CHREL unbinds its own; no other handle and no register changes. With
no room the word waits, and where an a-handle is not bound it traps SHAPE naming it. -/
def Obligations.EngineWordsAreAccepted : Prop :=
  (∀ (s : State) (i : Instr) (l : Bool) (g : Group), s.stop = none → s.Enabled → EngineWord s i l g →
    s.PipeFree (s.cw.flagOf l) →
    (s.EngineRoom → ∃ t o, exec i s = .next t ∧ s.IssuedAs t g o ∧ o.instr = i ∧ o.flag = s.cw.flagOf l ∧ o.act = s.cw.en
      ∧ (t.core s.cg.core).engine = (s.core s.cg.core).engine ++ [(s.curGroup, o.id)]
      ∧ (∀ h x y b, i = .chload h x y b l → t.team s.cg.team = { s.team s.cg.team with
            h := vecSet (s.team s.cg.team).h h.toNat (some o.id)
            chambers := tset (s.team s.cg.team).chambers o.id (tget (t.team s.cg.team).chambers o.id {}) }
          ∧ (tget (t.team s.cg.team).chambers o.id {}).loaded = false)
      ∧ (∀ h, i = .chrel h l → t.team s.cg.team = { s.team s.cg.team with h := vecSet (s.team s.cg.team).h h.toNat none })
      ∧ ((∀ h x y b, i ≠ .chload h x y b l) → (∀ h, i ≠ .chrel h l) → t.teams = s.teams))
    ∧ (¬ s.EngineRoom → s.cg.entering = none → exec i s = .next s))
  ∧ ∀ (s : State) (h : BitVec 5) (x y : BitVec 6) (a b c : BitVec 3) (l : Bool) (i : Instr), s.stop = none → s.Enabled →
      s.PipeFree (s.cw.flagOf l) → s.EngineRoom → vecGet s.cg.a h.toNat none = none →
      i ∈ [Instr.mma h x y a b l, .mmag h x y a b l, .mmav h x y a b l, .accz h l, .accld h x y l, .accst h x y l,
        .accrd h x y c l, .accwr h x y c l, .rfil h x y a l, .rema h x y a l] →
      exec i s = finish (s.clauseTrap 0x13 (s.cw.idx + 16 * h.toNat))

/-- R70, R209 to R218: WHAT ENGINE OPERATIONS LEAVE, in either format of a tile. ACCZ leaves +0.0 in every element of its rows. ACCRD
gives each row's lane the elements of its columns, widened. A product, whatever its rows come from, adds to each element block by
block in rising K, rounding once for each, the product of the row's aligned block and the column's weights under its scale; an F16
tile is widened first and rounded at the end. ACCWR stores the lanes' registers, NaNs canonical, and ACCMAP the results of its
function, SIGM and TANH what their bound lets. ACCLD fills each row with the bytes that path M shows; ACCST puts each row's bytes inside
its record's limit into the queue of path M, from which its group reads them back. RFIL and REMA, whose coefficients lie outside
their state rows, leave the new states in the scratchpad and in the tile. Roundings draw from the row's lane in ascending column
order. No other accumulator byte changes. -/
def Obligations.EngineResults : Prop :=
  ∀ (s : State) (core gid : Nat) (o : POp), s.MayRun core gid o → o.stage = 0 → o.tile.cols ≤ 4096 →
    let g := s.group gid
    let tm := s.team g.team
    let run := fun (P : State → Prop) => ∃ t, exec (.engineOpComplete core o.id) s = .next t ∧ s.EngineEnded t core gid o ∧ P t
    let rows := fun (t : State) (from_ n : Nat) (v : Nat → Nat → Nat) =>
      s.RowsAre t gid o from_ n (fun i => o.tile.stored (g.lane i).gen ((List.range n).map (v i))) ∧ (t.group gid).v = g.v
    (∀ h l, o.instr = .accz h l → run (fun t =>
      s.RowsAre t gid o 0 o.tile.cols (fun i => (List.replicate o.tile.cols 0, (g.lane i).gen)) ∧ (t.group gid).v = g.v))
    ∧ (∀ h x y c l, o.instr = .accrd h x y c l → run (fun t => (t.team g.team).acc = tm.acc
      ∧ ∀ k i, i < 32 → (t.group gid).vreg k i =
          if inMask o.act i = true ∧ o.arg 6 ≤ k ∧ k < o.arg 6 + o.arg 8 then
            BitVec.ofNat 32 (tm.elem32 o.tile i (o.arg 7 + (k - o.arg 6)))
          else g.vreg k i))
    ∧ (∀ (blk : Nat → Nat → List Byte × Nat) (ch : Chamber),
        (∃ h x y a b l, o.instr = .mma h x y a b l ∨ o.instr = .mmag h x y a b l ∨ o.instr = .mmav h x y a b l) →
        tget? tm.chambers (o.arg 6) = some ch → ch.cols ≤ o.tile.cols → rising o.vals → (∀ e ∈ o.vals, e.1 < 2 ^ 20) →
        (∀ i < 32, inMask o.act i = true → ∀ j < o.arg 7, s.BlockShows gid o i j (blk i j).1 (blk i j).2) →
        run (fun t => rows t 0 ch.cols (fun i n => productElem (o.arg 8) ch (blk i) (o.arg 7) n (tm.elem32 o.tile i n))))
    ∧ (∀ h x y c l, o.instr = .accwr h x y c l → o.arg 7 + o.arg 8 ≤ o.tile.cols → run (fun t => rows t (o.arg 7) (o.arg 8) (fun i j =>
        let v := tget o.vals (i * 64 + j) 0
        if (fp32.decode v).isNan then fp32.qnan else v)))
    ∧ (∀ h x y f l, o.instr = .accmap h x y f l → run (fun t => ∃ cand : Nat → Nat → Nat,
        let w := fun (p : Nat) => if f = .scalebias then tm.word p else 0
        rows t 0 o.tile.cols (fun i c =>
          mapFn f (tm.elem32 o.tile i c) (o.arg 6) (w (o.arg 6 + 4 * c)) (w (o.arg 7 + 4 * c)) (cand i c))))
    ∧ (∀ h x y l, ∀ bs : Nat → List Byte, o.instr = .accld h x y l →
        (∀ i < 32, inMask o.act i = true →
          s.MatrixShows gid (decide (o.arg 9 = 1)) (o.arg 6 + i * o.arg 7) (o.tile.cols * o.tile.ez) (o.arg 8) (bs i)) →
        run (fun t => (t.group gid).v = g.v
          ∧ (∀ i < 32, inMask o.act i = true → bytesAt (t.team g.team).acc (o.tile.at_ i 0) (o.tile.cols * o.tile.ez) = bs i)
          ∧ ∀ b, (∀ i < 32, inMask o.act i = true → b < o.tile.at_ i 0 ∨ o.tile.at_ i 0 + o.tile.cols * o.tile.ez ≤ b) →
              byteAt (t.team g.team).acc b = byteAt tm.acc b))
    ∧ (∀ h x y l, ∀ key : Nat → Nat, o.instr = .accst h x y l →
        let spans := fun (i : Nat) => pageSpans (o.arg 6 + i * o.arg 7) (min (o.tile.cols * o.tile.ez) (o.arg 8 - (o.arg 6 + i * o.arg 7)))
        (∀ i < 32, inMask o.act i = true → s.hHeld gid o (o.arg 6 + i * o.arg 7) = false ∧ ∀ e ∈ spans i,
          s.Maps g.core g.ctx (decide (o.arg 9 = 1)) false .write e.1 (key e.1) ∧ s.Reachable (key e.1) e.2
            ∧ (s.ctx g.ctx).sealed e.1 e.2 = false) →
        run (fun t => (t.team g.team).acc = tm.acc ∧ (t.group gid).v = g.v
          ∧ t.mq = s.mq ++ (lanesOf o.act).flatMap (fun i => (cutSpans ((spans i).map (fun e => (key e.1, e.2)))
              (bytesAt tm.acc (o.tile.at_ i 0) (o.tile.cols * o.tile.ez))).map (fun w => { gid := gid, key := w.1, bytes := w.2 }))))
    ∧ ∀ (rema : Bool), (∃ h x y a l, o.instr = if rema then .rema h x y a l else .rfil h x y a l) →
        let row := fun (i : Nat) => o.arg 6 + i * o.tile.cols * 2
        (∀ i < 32, inMask o.act i = true → row i + o.tile.cols * 2 ≤ o.arg 7
          ∨ o.arg 7 + (if rema then 4 else 8) * o.tile.cols ≤ row i) →
        let r := fun (i : Nat) => recurRow o rema (g.lane i).gen (fun c => (tm.elem32 o.tile i c,
          leNat (bytesAt tm.spad (row i + c * 2) 2), tm.word (o.arg 7 + 4 * c), tm.word (o.arg 7 + 4 * (o.tile.cols + c)))) o.tile.cols
        run (fun t => s.RowsAre t gid o 0 o.tile.cols (fun i => ((r i).1.map (·.2), (r i).2)) ∧ (t.group gid).v = g.v
          ∧ (∀ i < 32, inMask o.act i = true → ∀ c < o.tile.cols,
              leNat (bytesAt (t.team g.team).spad (row i + c * 2) 2) = ((r i).1.getD c (0, 0)).1 % 2 ^ 16)
          ∧ ∀ b, (∀ i < 32, inMask o.act i = true → b < row i ∨ row i + o.tile.cols * 2 ≤ b) →
              byteAt (t.team g.team).spad b = byteAt tm.spad b)

/-- R206 to R208, R219, R221, R414: LOADING AND RELEASING CHAMBERS, STOPPING, AND ABSENT PAGES. A dense CHLOAD whose
columns can be read and are well formed fills its chamber group with them and marks it loaded. CHREL releases its
chamber group, which returns once no operation names it. An operation told to stop that may not run on stands stopped,
with its flag fallen. A suspended operation tries its page again after 4 µs and, while its ring entry was not taken,
the entry after 16 µs. R222, R223: PROGRESS OF THE ENGINE. MPROG goes in flight and at its completion gives the
description and the sequence number of its entry, a stopped one after every one that is not, or two zeros where the group has no such operation. MSEQ goes in
flight with its target, completes once the sequence number has reached it, with that number, and not before. -/
def Obligations.ChambersStopsAndProgress : Prop :=
  ((∀ (s : State) (core gid : Nat) (o : POp) (h : BitVec 5) (x y : BitVec 6) (b : BitVec 3) (l : Bool) (bs : Nat → List Byte)
       (col : Nat → Column), s.MayRun core gid o → o.vals = [] → o.instr = .chload h x y b l → o.stage = 0 → o.arg 2 < 2 ^ 12 →
       isSparse (o.arg 3) = false → rising (s.team (s.group gid).team).chambers →
       s.chamberGone gid o = false → (tget (s.team (s.group gid).team).chambers (o.arg 0) {}).released = false →
       (∀ n < o.arg 2, s.MatrixShows gid (decide (o.arg 6 = 1)) (o.arg 4 + n * (o.arg 1 * unitBytes (o.arg 3)))
           (o.arg 1 * unitBytes (o.arg 3)) (o.arg 5) (bs n) ∧ o.arg 4 + (n + 1) * (o.arg 1 * unitBytes (o.arg 3)) ≤ o.arg 5
         ∧ denseColumn (o.arg 3) (o.arg 1) (bs n) = some (col n)) → o.arg 1 ≤ 255 →
       ∃ t, exec (.chloadComplete core o.id) s = .next t ∧ s.EngineEnded t core gid o ∧ (t.group gid).v = (s.group gid).v
         ∧ let c := tget (t.team (s.group gid).team).chambers (o.arg 0) {}
           c.loaded = true
           ∧ (∀ n < o.arg 2, ∀ k < 24 * o.arg 1, tget c.weights (n * 2 ^ 13 + k) 0 = (col n).ws.getD k 0)
           ∧ ∀ n < o.arg 2, ∀ j < o.arg 1, tget c.scales (n * 2 ^ 8 + j) 0 = (col n).gs.getD j 0)
   ∧ (∀ (s : State) (core gid : Nat) (o : POp) (h : BitVec 5) (l : Bool), s.MayRun core gid o → o.vals = [] → rising (s.team (s.group gid).team).chambers →
       o.instr = .chrel h l → s.chamberGone gid o = false → s.groups = [(gid, s.group gid)] → (s.group gid).ops = [o] →
       ∃ t, exec (.chrelComplete core o.id) s = .next t ∧ s.EngineEnded t core gid o
         ∧ (t.team (s.group gid).team).chambers.all (fun e => decide (e.1 ≠ o.arg 0)) = true)
   ∧ (∀ (s : State) (core gid op upto : Nat) (o : POp), s.stop = none → s.ownerOf op = some (gid, o) → o.id = op →
       o.stopReq = true → o.stopped = false → s.engineTurn core gid o = false ∨ upto ≤ o.stage →
       ∃ t, exec (.engineStop core op upto) s = .next t
         ∧ (t.group gid).op? op = some { o with stopped := true, stopReq := false, suspended := none }
         ∧ (∀ f < 12, vecGet (t.group gid).flags f 0 = vecGet (s.group gid).flags f 0 - if o.flag = some f then 1 else 0)
         ∧ (t.group gid).v = (s.group gid).v ∧ (∀ h, h ≠ gid → t.group h = s.group h)
         ∧ ∀ key, t.homeByte key = s.homeByte key)
   ∧ ∀ (s : State) (core gid op : Nat) (o : POp) (sp : Susp), s.stop = none → s.ownerOf op = some (gid, o) → o.id = op →
       o.suspended = some sp →
       (s.ns < sp.retryAt → exec (.pageRetry core op) s = .next s)
       ∧ (sp.retryAt ≤ s.ns → ∀ m s', s.reach (s.group gid).core (s.group gid).ctx false false
             (if sp.write then .write else .read) sp.va true = (m, s') → s'.stop = none →
           ∃ t, exec (.pageRetry core op) s = .next t ∧ (t.group gid).op? op = some { o with
                 suspended := match m with
                   | .absent rep => some { sp with retryAt := s.ns + 4000, replica := rep }
                   | _ => none }
             ∧ (∀ h, h ≠ gid → t.group h = s.group h) ∧ ∀ key, t.homeByte key = s.homeByte key)
       ∧ ∀ at_, sp.again = some at_ →
           (s.ns < at_ + 16000 → exec (.feedbackReappend core op) s = .next s)
           ∧ (at_ + 16000 ≤ s.ns → ∀ res s', s.request gid (pageEntry 2 sp.va sp.replica) = (res, s') → s'.stop = none →
               ∃ t, exec (.feedbackReappend core op) s = .next t ∧ (t.group gid).op? op = some { o with
                 suspended := some { sp with again := if res = .logged then none else some s.ns } }
               ∧ ∀ h, h ≠ gid → t.group h = s.group h))
  ∧ ((∀ (s : State) (i : Instr) (l : Bool) (x y : BitVec 6), s.stop = none → s.Enabled → s.PipeFree (s.cw.flagOf l) →
       (∃ e, i = .mprog e x y l) ∨ i = .mseq x y l →
       ∃ t o, exec i s = .next t ∧ s.Issued t o ∧ o.instr = i ∧ o.flag = s.cw.flagOf l
         ∧ (i = .mseq x y l → o.arg 0 = (s.cg.sreg y.toNat).toNat))
     ∧ (∀ (s : State) (gid op : Nat) (o : POp) (e : BitVec 2) (x y : BitVec 6) (l : Bool), (s.group gid).op? op = some o →
         o.instr = .mprog e x y l →
         let g := s.group gid
         ∃ t, exec (.mprogComplete gid op) s = .next t ∧ g.Ended (t.group gid) o ∧ (t.group gid).v = g.v
           ∧ (∀ r, r ≠ x.toNat → r ≠ y.toNat → (t.group gid).sreg r = g.sreg r)
           ∧ ((s.engineList gid)[e.toNat]? = none → (t.group gid).sreg y.toNat = 0 ∧ (t.group gid).sreg x.toNat = 0)
           ∧ (∀ p, (s.engineList gid)[e.toNat]? = some p →
               (x ≠ y → (t.group gid).sreg x.toNat = BitVec.ofNat 32 (describe p))
               ∧ (t.group gid).sreg y.toNat = g.seq + 1 + BitVec.ofNat 32 (completeBefore (s.engineList gid) e.toNat))
           ∧ ∀ key, t.homeByte key = s.homeByte key)
     ∧ ∀ (s : State) (gid op : Nat) (o : POp) (x y : BitVec 6) (l : Bool), (s.group gid).op? op = some o →
         o.instr = .mseq x y l →
         let g := s.group gid
         let reached := (g.seq - BitVec.ofNat 32 (o.arg 0)).toNat < 2 ^ 31
         (reached → ∃ t, exec (.mseqComplete gid op) s = .next t ∧ g.Ended (t.group gid) o ∧ (t.group gid).sreg x.toNat = g.seq
           ∧ (∀ r, r ≠ x.toNat → (t.group gid).sreg r = g.sreg r) ∧ ∀ key, t.homeByte key = s.homeByte key)
         ∧ (¬ reached → exec (.mseqComplete gid op) s = .next s))

/-! ### Copies -/

/-- R226, R229 to R233, R303, R329: COPIES, CHECK-INS AND SEALS OF RECORDS GO IN FLIGHT from the team's producer group, and from
no other, which traps STREAMRIGHTS. A copy whose block keeps its rules and whose record is mapped carries that record, its
offset and its counter; the count of the group's pointstamp rises by one; and a copy that loads here clears every line of
its box. CHKIN reads its block and record in the same way. LAYSEAL takes an aligned record address. -/
def Obligations.CopiesGoInFlight : Prop :=
  ∀ (s : State), s.stop = none → s.Enabled → s.PipeFree (s.cw.flagOf false) →
    (∀ (i : Instr) (sa n : Nat) (x m gth load : Bool) (key : Nat), CopyWord i sa n x m gth load → sa + n ≤ 64 →
      (s.cg.gidx ≠ s.cg.producer → exec i s = finish s.streamTrap)
      ∧ (s.cg.gidx = s.cg.producer → s.BlockFits sa m gth → s.LayoutAt (s.cg.spair sa).toNat key →
          s.canCount s.cg.core s.cg.ctx s.cg.node s.cg.stamp = true → s.DistinctDeltas s.cg.core →
          let l : Layout := { raw := s.homeNat key 64 }
          let off := (s.cg.sreg (sa + 3)).toNat
          ∀ a : CopyArgs, a.off = off → a.count = (if gth then (s.cg.sreg (sa + 10)).toNat else 0) →
          (l.ok = true → off % l.ez = 0 ∧ off + copyElems i l a * l.ez ≤ (s.team s.cg.team).spadLen) →
          ∃ t o, exec i s = .next t ∧ s.Issued t o ∧ o.instr = i ∧ o.flag = s.cw.flagOf false ∧ o.stage = 0
            ∧ o.layout = l ∧ o.copy.va = (s.cg.spair sa).toNat ∧ o.copy.version = (s.cg.sreg (sa + 2)).toNat ∧ o.copy.off = off
            ∧ o.copy.ctr = (s.cg.sreg (sa + 7)).toNat % 2 ^ 16
            ∧ s.Counted t (dieOf s.cg.core) (gain s.cg.ctx s.cg.node s.cg.stamp 1)
            ∧ ∀ line, tget (t.team s.cg.team).cleared line 0 = tget (s.team s.cg.team).cleared line 0
                + if l.ok && load && decide (line ∈ copyLines i l a) then 1 else 0))
    ∧ (∀ (a : BitVec 6) (key : Nat), s.cg.gidx = s.cg.producer → a.toNat + 8 ≤ 64 → s.BlockFits a.toNat false false →
        s.LayoutAt (s.cg.spair a.toNat).toNat key →
        (let l : Layout := { raw := s.homeNat key 64 }
         l.ok = true → (s.cg.sreg (a.toNat + 3)).toNat % l.ez = 0) →
        ∃ t o, exec (.chkin a) s = .next t ∧ s.Issued t o ∧ o.instr = .chkin a ∧ o.flag = s.cw.flagOf false
          ∧ o.layout = { raw := s.homeNat key 64 } ∧ o.copy.va = (s.cg.spair a.toNat).toNat)
    ∧ ∀ (a : BitVec 6), s.cg.gidx = s.cg.producer → a.toNat < 63 →
        let va := (s.cg.spair a.toNat).toNat
        (va % 64 = 0 → va < 2 ^ 52 → ∃ t o, exec (.layseal a) s = .next t ∧ s.Issued t o ∧ o.instr = .layseal a
          ∧ o.flag = s.cw.flagOf false ∧ o.arg 0 = va)
        ∧ (va % 64 ≠ 0 → exec (.layseal a) s = finish (s.addrTrap 0x03 va pathC false 0 s.cw.en))

/-- R229, R231 to R233, R303, R316, R320, R321: COPIES IN FLIGHT. The record check passes a gather, or a copy without tracking, whose
record is sealed, of its version and well formed; it enters a copy with tracking in the range table, when nothing conflicts
and there is room; and leaves one that conflicts waiting. A destination of CPYM that is resident accepts the box: its lines
are cleared. A line of a load copy lands at a destination: the scratchpad has the bytes of its elements, zeros for those outside the
tensor and, under CPYG, for the rows that its list leaves out, and its mark falls by one; the last one of a CPYM lowers its arrival
counter. A load copy that has landed everywhere, and a CPYS that stores its elements inside the tensor once its lines are present,
completes: its flag, its dependence counter and the count fall. CHKIN takes its entry out. LAYSEAL stores the CRC-32C of bytes 0 to 59. -/
def Obligations.CopiesComplete : Prop :=
  ∀ (s : State) (core gid op : Nat) (o : POp), s.stop = none → s.ownerOf op = some (gid, o) → o.id = op →
    o.suspended = none →
    let g := s.group gid
    let l := o.layout
    let a := o.copy
    (isCopy o.instr = true → o.stage = 0 → l.sealOk = true → l.version = a.version → l.ok = true →
      let store := ∃ r, o.instr = .cpys r
      let gather := ∃ r, o.instr = .cpyg r
      ((gather ∨ (a.notrack = true ∧ ¬ store) ∨ l.span a = none) → ∃ t, exec (.streamerRecordCheck core op) s = .next t
        ∧ (t.group gid).op? op = some { o with stage := 1 } ∧ t.ranges = s.ranges ∧ ∀ key, t.homeByte key = s.homeByte key)
      ∧ (¬ gather → ¬ store → a.notrack = false → ∀ lo hi key, l.span a = some (lo, hi) → s.earlierWaits g.team o lo hi = false →
          s.reach g.core g.ctx o.copyUser false .read (vaWrap lo) true = (.ok key, s) →
          let clash := s.ranges.any (fun e => conflicts e g.ctx g.team lo hi a.excl false)
          let full := decide (256 ≤ (s.ranges.filter (fun e => decide (e.slice = sliceOf key))).length)
          (clash = false → full = false → ∃ t, exec (.streamerRecordCheck core op) s = .next t
            ∧ (t.group gid).op? op = some { o with stage := 1 }
            ∧ t.ranges = s.ranges ++ [{ slice := sliceOf key, ctx := g.ctx, team := g.team, lo := lo, hi := hi
                                        excl := a.excl, key := copyKey l a }])
          ∧ (clash = true → a.failfast = false → exec (.streamerRecordCheck core op) s = .next s)))
    ∧ (∀ r x rank t0 tm, o.instr = .cpym r x → o.stage ≠ 0 → rank ∈ o.ranks → o.acceptedAt rank = false → g.origin = .grid →
        s.teams.find? (fun e => decide (e.2.ctx = g.ctx) && decide (e.2.grid = g.grid) && !e.2.ended
          && !e.2.groups.isEmpty && decide (e.2.tidx = s.rankTeam g rank)) = some (t0, tm) →
        ∃ t, exec (.cpymAccept core op rank) s = .next t
          ∧ (t.team t0).inbound = (s.team t0).inbound + 1
          ∧ (∀ line, tget (t.team t0).cleared line 0 = tget (s.team t0).cleared line 0
              + if line ∈ copyLines o.instr l a then 1 else 0)
          ∧ (∃ p, (t.group gid).op? op = some p ∧ p.acceptedAt rank = true ∧ tget? p.vals (markTeam rank) = some t0)
          ∧ ∀ key, t.homeByte key = s.homeByte key)
    ∧ (∀ line rank bs, isLoadCopy o.instr = true → o.stage ≠ 0 → o.acceptedAt rank = true → line ∈ o.toLand rank →
        let tm := tget o.vals (markTeam rank) 0
        s.landsFirst tm (tget o.vals (markAccept rank) 0) line = false → g.cHeld o = false →
        s.LineShows gid o line bs → (s.team tm).ended = false → rising (s.team tm).cleared → rising s.teams →
        ∃ t, exec (.copyLanding core op rank line) s = .next t
          ∧ (let at_ := a.off + (lineElems o.instr l a line).1 * l.ez
             ∀ b, byteAt (t.team tm).spad b
               = if at_ ≤ b ∧ b < at_ + bs.length then bs.getD (b - at_) 0 else byteAt (s.team tm).spad b)
          ∧ (∀ m, tget (t.team tm).cleared m 0 = if m = line then tget (s.team tm).cleared m 0 - 1 else tget (s.team tm).cleared m 0)
          ∧ (o.toLand rank = [line] → (t.team tm).inbound = (s.team tm).inbound - 1
            ∧ ∀ r x, o.instr = .cpym r x → a.arrival ≠ 0xFFFF → (tget (t.die (dieOf g.core)).dcs a.arrival {}).value
                = (tget (s.die (dieOf g.core)).dcs a.arrival {}).value - 1)
          ∧ (t.group gid).v = g.v ∧ (t.group gid).s = g.s ∧ ∀ key, t.homeByte key = s.homeByte key)
    ∧ (o.stage ≠ 0 → s.DistinctDeltas g.core →
        let done := fun (t : State) => g.Ended (t.group gid) o
          ∧ s.Counted t (dieOf g.core) (gain g.ctx o.copyNode o.copyStamp (-1))
          ∧ (a.ctr ≠ 0xFFFF → (tget (t.die (dieOf g.core)).dcs a.ctr {}).value
              = (tget (s.die (dieOf g.core)).dcs a.ctr {}).value - 1)
          ∧ (t.group gid).v = g.v ∧ (t.group gid).s = g.s
        (isLoadCopy o.instr = true → (∀ k ∈ o.ranks, o.acceptedAt k = true ∧ o.toLand k = []) →
          ∃ t, exec (.copyComplete core op) s = .next t ∧ done t ∧ ∀ key, t.homeByte key = s.homeByte key)
        ∧ ∀ r, ∀ key : Nat → Nat, o.instr = .cpys r → o.stage = 1 → g.cHeld o = false →
            let n := copyElems o.instr l a
            (s.team g.team).present a.off (n * l.ez) = true → s.poisoned (spadKey g.team a.off) (n * l.ez) = false →
            (∀ w ∈ s.mq, w.gid = gid → keyH w.key = false) →
            (∀ p < n, l.inside (boxCoords l a p) = true → s.hHeld gid o (l.va (boxCoords l a p)) = false
              ∧ ∀ e ∈ pageSpans (l.va (boxCoords l a p)) l.ez, s.Maps g.core g.ctx o.copyUser false .write e.1 (key e.1)
                ∧ s.Reachable (key e.1) e.2 ∧ (s.ctx g.ctx).sealed e.1 e.2 = false) →
            ∃ t, exec (.copyComplete core op) s = .next t ∧ done t
              ∧ ∀ k, t.homeByte k = overlay ((List.range n).flatMap (s.elemGoes gid o key)) k (s.homeByte k))
    ∧ (∀ r, o.instr = .chkin r → g.op? op = some o → ∃ t, exec (.chkinComplete gid op) s = .next t ∧ g.Ended (t.group gid) o
          ∧ (l.ok = true → t.ranges = s.ranges.eraseP (fun e => decide (e.team = g.team) && decide (e.key = copyKey l a)))
          ∧ ∀ key, t.homeByte key = s.homeByte key)
    ∧ ∀ r key, o.instr = .layseal r → g.op? op = some o → g.cHeld o = false → s.hHeld gid o (o.arg 0) = false → o.arg 0 % 64 = 0 → o.arg 0 < 2 ^ 52 →
        s.Maps g.core g.ctx (decide (o.arg 1 = 1)) false .write (o.arg 0) key → s.Reachable key 64 → s.poisoned key 64 = false →
        (s.ctx g.ctx).sealed (o.arg 0 + 60) 4 = false →
        ∃ t, exec (.laysealComplete gid op) s = .next t ∧ g.Ended (t.group gid) o
          ∧ t.homeNat (key + 60) 4 = (crc32c (s.homeBytes key 60)).toNat
          ∧ ∀ b, b < key + 60 ∨ key + 64 ≤ b → t.homeByte b = s.homeByte b

/-! ### Posting work -/

/-- R225, R236 to R238, R299, R329, R357: LAUNCH AND TENQ. LAUNCH of an aligned record with a valid stamp leaves a
request with its die's scheduler; TENQ of a record that keeps its limits puts the task into the queue its field names, when
that has room. What each posts names the group's path L accesses that have still to perform, which its release follows (the
model's choice, log entry 31); LAUNCH's trap gives path L (log entry 20). Each
raises the count of the task's pointstamp by one and goes on. With a full queue TENQ leaves the task to the clause's end where it may run inline, and else parks. -/
def Obligations.LaunchAndTenq : Prop :=
  ∀ (s : State), s.stop = none → s.Enabled →
    (∀ (a b n : BitVec 6), a.toNat < 63 → b.toNat % 2 = 0 →
      let va := (s.cg.spair a.toNat).toNat
      let st := s.cg.spair b.toNat
      (va % 64 = 0 → va < 2 ^ 52 → stampOk st = true →
          s.canCount s.cg.core s.cg.ctx n.toNat st = true → s.DistinctDeltas s.cg.core →
          ∃ t, exec (.launch a b n) s = .next t ∧ s.WentOn t
            ∧ s.Counted t (dieOf s.cg.core) (gain s.cg.ctx n.toNat st 1)
            ∧ (t.die (dieOf s.cg.core)).launches = (s.die (dieOf s.cg.core)).launches
              ++ [{ ctx := s.cg.ctx, va := va, stamp := st, node := n.toNat, cap := s.cg.prio, core := s.cg.core,
                     waits := s.cg.lPending }])
      ∧ (va % 64 ≠ 0 → exec (.launch a b n) s = finish (s.addrTrap 0x03 va pathL false 0 s.cw.en)))
    ∧ ∀ (a b : BitVec 6) (q : BitVec 2), a.toNat + 16 ≤ 64 → q ≠ 3 → q = 2 ∨ b = 0 →
      taskFault (s.ctx s.cg.ctx) (s.taskWords a) = none →
      let die := dieOf s.cg.core
      let t0 := taskOf (s.taskWords a) s.cg.ctx s.cg.grid s.cg.prio
      let core := if q = 2 then die * 16 + (s.cg.sreg b.toNat).toNat % 16 else s.cg.core
      let e : QEntry := { work := .task t0, prio := t0.prio, since := s.ns, waits := s.cg.lPending }
      (q ≠ 1 → (s.core core).queue.length < 256 → s.canCount s.cg.core s.cg.ctx t0.node t0.stamp = true →
        s.DistinctDeltas s.cg.core → ∃ t, exec (.tenq a b q) s = .next t ∧ s.WentOn t
          ∧ s.Counted t die (gain s.cg.ctx t0.node t0.stamp 1) ∧ (t.core core).queue = (s.core core).queue ++ [e])
      ∧ (q = 1 → s.placeFired die = s → (s.die die).fired = [] → (s.die die).queue.length < 4096 →
        s.canCount s.cg.core s.cg.ctx t0.node t0.stamp = true → s.DistinctDeltas s.cg.core →
        ∃ t, exec (.tenq a b q) s = .next t ∧ s.WentOn t ∧ s.Counted t die (gain s.cg.ctx t0.node t0.stamp 1)
          ∧ (t.die die).queue = (s.die die).queue ++ [e])
      ∧ (q ≠ 1 → 256 ≤ (s.core core).queue.length →
        (s.cg.inlines.length < s.cg.inlineLimit → neverInline s.cw.hdr = false → s.cw.inl = none → s.callCheck = (none, s) →
          ∃ t, exec (.tenq a b q) s = .next t ∧ t.cg = { s.cg with waves := t.cg.waves } ∧ t.cw.idx = s.cw.idx + 1
            ∧ t.cw.inl = some { entry := BitVec.ofNat 52 t0.entry, payload := t0.payload, done := t0.done }
            ∧ t.cores = s.cores ∧ t.dies = s.dies)
        ∧ (s.cg.inlineLimit ≤ s.cg.inlines.length → exec (.tenq a b q) s = .next (s.park .tenqFull)))

/-- R240, R241, R393 to R401: MOOR AND CASTOFF. A MOOR whose entry is in the mooring table, whose pool, bins and Keeper can take
every enabled lane, and which no other MOOR precedes, takes a block for each lane, counts each, raises its join counter by
their number, and moors them; with too few blocks it parks with what it has read, and MOOR_POOL_SERVE lets the first
of a pool's line moor, with what it read when it issued, once there are enough. CASTOFF stops the filling bin of its entry and stamp, CASTOFF.ALL
every filling bin of the context, BIN_TIMER one whose timer has run out; each keeps every lane moored. -/
def Obligations.MooringAndCastoff : Prop :=
  (∀ (s : State) (v : BitVec 8) (a : BitVec 6) (c n : BitVec 3) (e : MoorEntry), s.MoorFits v a c n e → s.cw.phase = .body →
    let pool := tget (s.die (dieOf s.cg.core)).pools (s.cg.ctx * 16 + e.pool) {}
    let lanes := (lanesOf s.cw.en).length
    (lanes ≤ pool.free → s.MoorServed e → ∃ t, exec (.moor v a c n) s = .next t ∧ s.Moored t a e)
    ∧ (pool.free < lanes → s.cg.entering = none → ∃ t, exec (.moor v a c n) s = .next t
        ∧ t.cw = { s.cw with phase := .parked .moorPool, snap := some (s.cg.snap none) }
        ∧ (s.cg.ctx, e.pool, s.curGroup, s.curWave) ∈ (t.die (dieOf s.cg.core)).moorLine ∧ t.cores = s.cores))
  ∧ (∀ (s : State) (die ctx pool gid wid : Nat) (v : BitVec 8) (a : BitVec 6) (c n : BitVec 3) (e : MoorEntry),
      (s.die die).moorLine.find? (fun x => decide (x.1 = ctx) && decide (x.2.1 = pool)) = some (ctx, pool, gid, wid) →
      ((s.group gid).wave wid).phase = .parked .moorPool → (s.group gid).ctx = ctx → dieOf (s.group gid).core = die →
      decodeWord ((s.group gid).wave wid).word none = .ok (.moor v a c n) →
      let lanes := (lanesOf ((s.group gid).wave wid).en).length
      let x : State := { (s.unpark gid wid).updGroup gid (fun g => g.seen wid) with curGroup := gid, curWave := wid }
      ((tget (s.die die).pools (ctx * 16 + pool) {}).free < lanes → exec (.moorPoolServe die ctx pool) s = .next s)
      ∧ (lanes ≤ (tget (s.die die).pools (ctx * 16 + pool) {}).free → x.MoorFits v a c n e → e.pool = pool → x.MoorServed e →
          ∃ m, exec (.moorPoolServe die ctx pool) s = .next (m.updHeld gid (Group.unseen ((s.unpark gid wid).group gid) wid))
            ∧ x.Moored m a e))
  ∧ (∀ (s : State) (i : Instr) (p : Bin → Bool), s.Enabled → s.cw.phase = .body →
      (∃ a : BitVec 6, a.toNat < 63 ∧ i = .castoff a ∧ p = fun b => b.fills s.cg.ctx (s.cg.spair a.toNat).toNat s.cg.stamp)
        ∨ (i = .castoffAll ∧ p = fun b => decide (b.ctx = s.cg.ctx)) →
      ∃ t, exec i s = .next t ∧ s.WentOn t ∧ (t.core s.cg.core).moored = (s.core s.cg.core).moored
        ∧ (∀ b ∈ (t.core s.cg.core).bins, b.cast = none → p b = false)
        ∧ ∀ b ∈ (s.core s.cg.core).bins, b.cast = none → p b = false → b ∈ (t.core s.cg.core).bins)
  ∧ ∀ (s : State) (core bin : Nat) (b : Bin), (s.core core).bins[bin]? = some b → b.cast = none →
      ((s.core core).cycles < b.timer → exec (.binTimer core bin) s = .next s)
      ∧ (b.timer ≤ (s.core core).cycles → (s.core core).queue.length + (s.core core).bins.length < 256 →
          ∃ t, exec (.binTimer core bin) s = .next t ∧ (t.core core).moored = (s.core core).moored
            ∧ (∃ q ∈ (t.core core).queue, q.work = .cast { b with cast := some 1 }) ∧ ∀ key, t.homeByte key = s.homeByte key)

/-- R242, R243, R324: DEPENDENCE COUNTERS of the context's range. DCSET sets a value; with a task it arms the record it
reads, which counts, and the task that was armed before counts −1; DCADD adds; a counter that is armed and reaches 0 disarms and its task fires. DCWAIT goes on with
an empty L1 when the counter reads 0 and else parks. No other counter changes; an id outside the range traps ACCESS.
The model's choices: that trap's address 0 and path L (log entries 19, 20), and the check of the record at issue (log entry 32).
R244 to R246, R329, R332 to R334: THE KEEPER'S WORDS. STAMP, and a write of SR_STAMPHI, that R245 allows change the
group's stamp and the staging register and move its count of one; on a cast-off group, at a counter's end, or past
depth 1 or 3, STAMP traps ILLEGAL. KCNT adds its count. KWAIT goes on with an empty L1 once its pointstamp is
announced, and else waits at the Keeper, with an exchange round open. KPROBE gives 1 when it is announced, or can be,
and else 0. -/
def Obligations.CountersAndKeeperWords : Prop :=
  (∀ (s : State) (id : BitVec 12), s.stop = none → s.Enabled → s.cw.phase = .body →
     let die := dieOf s.cg.core
     let c := tget (s.die die).dcs id.toNat {}
     let only := fun t : State => ∀ k, k ≠ id.toNat → tget? (t.die die).dcs k = tget? (s.die die).dcs k
     (ctrInRange (s.ctx s.cg.ctx) id.toNat = false →
       let trap := s.addrTrap 0x04 0 pathL false 0 s.cw.en
       ∀ a : BitVec 6, exec (.dcset 0 a id) s = finish trap ∧ exec (.dcadd a id) s = .next trap ∧ exec (.dcwait id) s = .next trap)
     ∧ (ctrInRange (s.ctx s.cg.ctx) id.toNat = true →
       let old := fun (ctx node : Nat) (st : DWord) => match c.armed with
         | some y => gain y.task.ctx y.task.node y.task.stamp (-1) ctx node st
         | none => 0
       (∀ a : BitVec 6, s.DistinctDeltas s.cg.core → ∃ t, exec (.dcset 0 a id) s = .next t ∧ s.WentOn t
           ∧ tget (t.die die).dcs id.toNat {} = { value := s.cg.sreg a.toNat } ∧ only t ∧ (t.die die).fired = (s.die die).fired
           ∧ s.Counted t die old)
       ∧ (∀ (d a : BitVec 6) (key n : Nat), d ≠ 0 → d.toNat < 63 → s.cg.lPending = [] → s.cg.acquiring = false →
           s.cg.fencing pathL = false →
           let va := (s.cg.spair d.toNat).toNat
           let ws := wordsOf (natLe 64 n)
           let x : Armed := { va := va, cap := s.cg.prio, user := !s.cg.sup,
                              task := { taskOf ws s.cg.ctx s.cg.grid s.cg.prio with armedBy := some s.cg.core } }
           va % 64 = 0 → va < 2 ^ 52 → s.Maps s.cg.core s.cg.ctx (!s.cg.sup) false .read va key →
           s.Cached s.cg.core .l1 key 64 n → s.poisoned key 64 = false → taskFault (s.ctx s.cg.ctx) ws = none → s.DistinctDeltas s.cg.core →
           s.canCount s.cg.core s.cg.ctx x.task.node x.task.stamp = true →
           ∃ t, exec (.dcset d a id) s = .next t ∧ s.WentOn t ∧ only t
             ∧ s.Counted t die (fun e m st => gain s.cg.ctx x.task.node x.task.stamp 1 e m st + old e m st)
             ∧ tget (t.die die).dcs id.toNat {}
               = { value := s.cg.sreg a.toNat, armed := if s.cg.sreg a.toNat = 0#32 then none else some x }
             ∧ (t.die die).fired = (s.die die).fired ++ if s.cg.sreg a.toNat = 0#32 then [x] else [])
       ∧ (∀ a : BitVec 6, ∃ t, exec (.dcadd a id) s = .next t ∧ s.WentOn t ∧ only t
           ∧ (let v := c.value + s.cg.sreg a.toNat
              tget (t.die die).dcs id.toNat {} = { value := v, armed := if v = 0#32 then none else c.armed }
              ∧ (t.die die).fired = (s.die die).fired ++ if v = 0#32 then c.armed.toList else []))
       ∧ (c.value = 0#32 → ∃ t, exec (.dcwait id) s = .next t ∧ s.WentOn t ∧ (t.core s.cg.core).l1 = [] ∧ t.dies = s.dies)
       ∧ (c.value ≠ 0#32 → exec (.dcwait id) s = .next (s.park .dcwait))))
  ∧ (∀ (s : State), s.Enabled → s.cw.phase = .body →
       let g := s.cg
       let die := dieOf g.core
       (∀ (i : Instr) (st : DWord), StampRule g i st → g.origin ≠ .castoff → s.keeperRoom die g.ctx g.node st = true →
         s.DistinctDeltas g.core →
         ∃ t, exec i s = .next t ∧ t.cw.idx = s.cw.idx + 1
           ∧ t.cg = { g with stamp := st, staging := st.extractLsb' 0 32, waves := t.cg.waves }
           ∧ s.Counted t die (fun c n x => gain g.ctx g.node st 1 c n x + gain g.ctx g.node g.stamp (-1) c n x)
           ∧ ∀ key, t.homeByte key = s.homeByte key)
       ∧ (∀ (f : StampFn), g.origin = .castoff ∨ (f = .pop ∧ stampDepth g.stamp = 1) ∨ (f = .push ∧ stampDepth g.stamp = 3)
           ∨ (f = .inc1 ∧ stampDepth g.stamp = 1) → exec (.stamp 0 f) s = .next s.illegal)
       ∧ ∀ (a n : BitVec 6), a.toNat % 2 = 0 → stampOk (g.spair a.toNat) = true →
         let st := g.spair a.toNat
         (∀ d : BitVec 6, d ≠ 0 → s.canCount g.core g.ctx n.toNat st = true → s.DistinctDeltas g.core →
           ∃ t, exec (.kcnt a n d) s = .next t ∧ s.WentOn t ∧ s.Counted t die (gain g.ctx n.toNat st d.toInt))
         ∧ (∃ t, exec (.kcnt a n 0) s = .next t ∧ s.WentOn t ∧ t.dies = s.dies)
         ∧ ((s.die die).announcedAt g.ctx n.toNat st = true →
           (∃ t, exec (.kwait a n) s = .next t ∧ s.WentOn t ∧ (t.core g.core).l1 = [] ∧ t.dies = s.dies)
           ∧ ∀ d : BitVec 6, ∃ t, exec (.kprobe d a n) s = .next t ∧ t.cg.sreg d.toNat = 1 ∧ s.WroteS t d.toNat 1)
         ∧ ((s.die die).announcedAt g.ctx n.toNat st = false →
           ((s.die die).waiters = [] → g.entering = none → ∃ t, exec (.kwait a n) s = .next t
             ∧ t.cw = { s.cw with phase := .parked .kwait, snap := some (g.snap none) }
             ∧ (t.die die).roundOpen = true ∧ (t.die die).waiters.map (fun w => (w.ctx, w.node, w.stamp, w.gid, w.wid))
                 = [(g.ctx, n.toNat, st, s.curGroup, s.curWave)])
           ∧ ∀ d : BitVec 6, ((s.die die).roundFresh && s.clearOf die g.ctx n.toNat st) = false →
               ∃ t, exec (.kprobe d a n) s = .next t ∧ t.cg.sreg d.toNat = 0 ∧ (∀ r, r ≠ d.toNat → t.cg.sreg r = g.sreg r)
                 ∧ (t.die die).roundOpen = true ∧ (t.die die).announced = (s.die die).announced))

/-! ### The Keepers -/

/-- R330, R331, R335: THE KEEPERS' EXCHANGE. A core's deltas go to its Keeper 250 ns after the oldest; the oldest batch is applied
with the next number and is to be sent; neither changes a count. A Delta brings the other die's view to its number and is
acknowledged. FlushReq empties every buffer of the die and its batches, counts unchanged, and answers with the number of the
last batch. Done names the batch that the view must reach. -/
def Obligations.KeepersExchange : Prop :=
  ∀ (s : State) (die : Nat), die < 2 →
    (∀ core, dieOf core = die → (s.core core).deltas ≠ [] →
      (s.ns < (s.core core).deltaSince + 250 → exec (.deltaFlushTimer core) s = .next s)
      ∧ ((s.core core).deltaSince + 250 ≤ s.ns → ∃ t, exec (.deltaFlushTimer core) s = .next t ∧ (t.core core).deltas = []
          ∧ (t.die die).batches = (s.die die).batches ++ [(core, (s.core core).deltas)] ∧ s.Counted t die (fun _ _ _ => 0)
          ∧ t.groups = s.groups))
    ∧ (∀ b rest, (s.die die).batches = b :: rest → (s.die die).DistinctEntries → ∃ t, exec (.keeperBatchApply die) s = .next t
        ∧ (t.die die).batches = rest ∧ (t.die die).batchNo = (s.die die).batchNo + 1
        ∧ (t.die die).toSend = (s.die die).toSend ++ [((s.die die).batchNo + 1, b.2)] ∧ s.Counted t die (fun _ _ _ => 0))
    ∧ (∀ n ds rest, (s.die die).toSend = (n, ds) :: rest → ∃ t, exec (.deltaSend die) s = .next t
        ∧ (t.die die).toSend = rest ∧ (t.die (1 - die)).inbox = (s.die (1 - die)).inbox ++ [.delta n ds]
        ∧ s.Counted t die (fun _ _ _ => 0))
    ∧ (∀ n ds rest, (s.die die).inbox = .delta n ds :: rest → ((s.die die).view.map (fun e => (e.ctx, e.node, e.stamp))).Nodup →
        ∃ t, exec (.delta die) s = .next t ∧ (t.die die).inbox = rest ∧ (t.die die).viewNo = n
          ∧ (∀ c m x, countIn (t.die die).view c m x = countIn (s.die die).view c m x + deltaSum ds c m x)
          ∧ Msg.ack n ∈ (t.die (1 - die)).inbox)
    ∧ (∀ n rest, (s.die die).inbox = .ack n :: rest → ∃ t, exec (.ack die) s = .next t ∧ (t.die die).inbox = rest
        ∧ (t.die die).acked = n ∧ t.groups = s.groups)
    ∧ (∀ rest, (s.die die).inbox = .flushReq :: rest → (s.die die).DistinctEntries →
        ∃ t, exec (.flushreq die) s = .next t ∧ (t.die die).inbox = rest ∧ (t.die die).batches = [] ∧ (t.die die).toSend = []
          ∧ (∀ c, dieOf c = die → (t.core c).deltas = []) ∧ Msg.done (t.die die).batchNo ∈ (t.die (1 - die)).inbox
          ∧ s.Counted t die (fun _ _ _ => 0))
    ∧ ∀ m rest, (s.die die).inbox = .done m :: rest →
        ((s.die die).viewNo < m → ∃ t, exec (.done die) s = .next t ∧ (t.die die).inbox = rest
          ∧ (t.die die).roundTarget = some m ∧ (t.die die).roundOpen = (s.die die).roundOpen)
        ∧ (m ≤ (s.die die).viewNo → (s.die die).roundOpen = true → (s.die die).waiters = [] →
          ∃ t, exec (.done die) s = .next t ∧ (t.die die).inbox = rest ∧ (t.die die).roundOpen = false
            ∧ (t.die die).roundFresh = !(s.die die).roundStale)

/-! ### Launching and scheduling -/

/-- R44, R45, R237, R239, R329, R357 to R360: PICK STARTS WORK. The task that a core chooses from its queue leaves it and starts as a
group of its own team, with the shape of its source grid, its payload in the s-registers and its count as it stands. The
team that it chooses of a grid without clusters starts with every group of the record, each of which is counted. -/
def Obligations.PickStartsWork : Prop :=
  ∀ (s : State) (core : Nat) (c : Cand), s.stop = none → s.NothingWaits (dieOf core) → (s.core core).bins = [] →
    s.choose core (s.candidates core) 129 = some c → s.groups.all (fun e => decide (e.1 < s.nextGroup)) = true →
    s.teams.all (fun e => decide (e.1 < s.nextTeam)) = true →
    (∀ i e k, c = .coreEntry i e → e.work = .task k → ∃ t, exec (.pick core) s = .next t ∧ s.StartedTask t core k
      ∧ (t.core core).queue = (s.core core).queue.eraseIdx i ∧ s.Counted t (dieOf core) (fun _ _ _ => 0)
      ∧ ∀ key, t.homeByte key = s.homeByte key)
    ∧ ∀ grid tidx, c = .team grid tidx → (s.lr grid).cols = 1 → (s.lr grid).rows = 1 → (s.lr grid).gang = false →
        (s.lr grid).mcast = false → s.DistinctDeltas core →
        let gr := tget s.grids grid {}
        let l := gr.lr
        ∃ t, exec (.pick core) s = .next t
          ∧ (∀ i < l.groups, let g := t.group (s.nextGroup + i)
              g.Created core gr.ctx grid l.entry l.lanes l.vregs (s.core core).cycles (lowLanes l.lanes) l.stamp l.node gr.prio
              ∧ g.origin = .grid ∧ g.team = s.nextTeam ∧ g.tidx = tidx ∧ g.gidx = i ∧ g.rank = 0 ∧ g.producer = l.producer
              ∧ (∀ j < 16, g.sreg j = vecGet l.s j 0) ∧ (∀ j < 4, g.brec j = vecGet l.b j 0) ∧ ∀ r k, g.vreg r k = 0)
          ∧ (t.team s.nextTeam).Created core gr.ctx grid tidx l.scratch l.accum l.chambers
              ((List.range l.groups).map (fun i => s.nextGroup + i))
          ∧ (tget t.grids grid {}).toStart = gr.toStart.filter (fun x => decide (x ≠ tidx))
          ∧ s.Counted t (dieOf core) (gain gr.ctx l.node l.stamp l.groups) ∧ ∀ key, t.homeByte key = s.homeByte key

/-- R236, R349 to R352, R355, R357: LAUNCH RECORDS. The oldest launch whose release has performed (R299) and whose record can be
read and keeps every limit becomes a grid of its die, with the stamp and node of the LAUNCH in place of those of the record; one that breaks a limit is rejected, and its
count falls. A record of a submission queue whose TAIL has been written becomes a grid as well, counted, and HEAD moves on; a queue that
has been served up to its TAIL waits for the next write of it. A record whose page was
absent is read again when its time has come. -/
def Obligations.LaunchRecordsAreTaken : Prop :=
  let withStamp := fun (q : LaunchReq) (raw : Nat) => raw % 2 ^ (8 * 0xC0) + q.stamp.toNat * 2 ^ (8 * 0xC0) + q.node * 2 ^ (8 * 0xC8)
    + raw / 2 ^ (8 * 0xCA) * 2 ^ (8 * 0xCA)
  let entered := fun (s t : State) (die ctx prio raw : Nat) => tget t.grids s.nextGrid {} =
    { ctx := ctx, die := die, lr := launchRec raw, prio := min (launchRec raw).prio prio, pending := true
      toStart := List.range (launchRec raw).teams, since := s.ns, order := (s.die die).validated
      groupsLeft := (launchRec raw).teams * (launchRec raw).groups } ∧ t.nextGrid = s.nextGrid + 1
  (∀ (s : State) (die raw : Nat) (i : Instr) (q : LaunchReq), s.stop = none →
    (i = .launchRecordTake die ∧ (s.die die).launches.find? (fun x => x.wait.isNone && s.released x.waits) = some q)
      ∨ (i = .recordReadRetry die ∧ (s.die die).launches = [q] ∧ (s.die die).hostQueues = [] ∧ ∃ p, q.wait = some p ∧ p.retryAt ≤ s.ns) →
    (∀ ls, let x := s.updDie die (fun d => { d with launches := ls })
      x.dieRead die q.ctx q.va 256 = (.ok raw, x)) →
    let f := launchFault (s.ctx q.ctx) (withStamp q raw)
    (f = 0 → s.gridRoom die = true → ∃ t, exec i s = .next t ∧ entered s t die q.ctx q.cap (withStamp q raw)
      ∧ (t.die die).launches = (s.die die).launches.erase q ∧ s.Counted t die (fun _ _ _ => 0)
      ∧ ∀ key, t.homeByte key = s.homeByte key)
    ∧ (f ≠ 0 → (s.die die).errRing = none → dieOf q.core = die → s.DistinctDeltas q.core →
      ∃ t, exec i s = .next t ∧ t.grids = s.grids ∧ s.Counted t die (gain q.ctx q.node q.stamp (-1))
        ∧ (t.die die).errSeq = (s.die die).errSeq + 1))
  ∧ ∀ (s : State) (die ctx queue raw : Nat) (q : HostQueue), s.stop = none → die < 2 → queue < 16 →
      tget? (s.die die).hostQueues (ctx * 16 + queue) = some q →
      (q.woken = false → q.tail = q.head → exec (.tailWake die ctx queue) s = .next s) ∧
      (q.woken = true → q.dieSel < 2 → q.wait = none → q.head < 2 ^ 32 →
      let tail := (q.head + 1) % 2 ^ 32
      let va := vaWrap (q.ring + 256 * (q.head % 2 ^ q.log2n))
      (∀ hq, let x := s.updDie die (fun d => { d with hostQueues := hq })
        x.dieRead die ctx q.tailVa 4 = (.ok tail, x) ∧ x.dieRead die ctx va 256 = (.ok raw, x)) →
      launchFault (s.ctx ctx) raw = 0 → s.gridRoom die = true →
      s.keeperRoom die ctx (launchRec raw).node (launchRec raw).stamp = true →
      (∀ a : State, a.mem = s.mem → a.l2 = s.l2 → a.ctxs = s.ctxs → a.host = s.host → a.modIndex = s.modIndex →
        (∀ d, (a.die d).walks = (s.die d).walks) → a.stop = none → (a.dieWrite die ctx q.statVa 64
        ((q.head + 1) % 2 ^ 32 + 2 ^ 32 * q.rej + 2 ^ 64 * q.lastIdx + 2 ^ 96 * q.lastCode)).stop = none) →
      ∃ t, exec (.tailWake die ctx queue) s = .next t ∧ entered s t die ctx q.pcap raw
        ∧ (tget? (t.die die).hostQueues (ctx * 16 + queue)) = some { q with woken := false, tail := tail, head := tail }
        ∧ s.Counted t die (gain ctx (launchRec raw).node (launchRec raw).stamp 1))

/-- R358, R361 to R363: STEALING AND PREEMPTION BY THE SCHEDULER. An idle core whose wait is over asks a core of its die other than
itself and says what room it has. A core that is asked, and whose own Pick takes nothing of its queue, sends its counts and
answers with an entry that fits that room, or with none. An entry starts on the thief where it fits and the room is not held
for another, and else stays with the thief's answer; an empty answer doubles its wait up to 4096 cycles. A waiting entry at or above the threshold that fits
nowhere it may stand preempts the teams of the lowest launch priority on its core, when that is lower and their room would do, and the core holds
that room for it. What becomes of an entry that does not fit yet, and who may take room that is held, are log entries 34 and 65. -/
def Obligations.StealingAndSchedulerPreemption : Prop :=
  ∀ (s : State) (core : Nat), s.stop = none →
    (((s.core core).asked = none → (s.core core).answer = none → (s.core core).stealAt ≤ (s.core core).cycles → s.idle core = true →
      ∃ t v, exec (.stealBackoff core) s = .next t ∧ v ≠ core ∧ dieOf v = dieOf core ∧ (t.core core).asked = some v
        ∧ (t.core v).thieves = (s.core v).thieves ++ [s.thief core] ∧ (t.core core).lfsr = lfsrStep (s.core core).lfsr
        ∧ t.groups = s.groups))
    ∧ (∀ thief rest, (s.core core).thieves = thief :: rest → thief.core ≠ core → (s.core core).off = false → (s.core core).gateAt = none →
        s.NothingWaits (dieOf core) → (s.core core).bins = [] →
        (∀ i e, s.choose core (s.candidates core) 129 ≠ some (.coreEntry i e)) →
        (s.stealChoice core thief = none → ∃ t, exec (.stealRequest core) s = .next t ∧ (t.core core).thieves = rest
          ∧ (t.core core).deltas = [] ∧ (t.core thief.core).asked = none ∧ (t.core thief.core).answer = some none
          ∧ (t.core core).queue = (s.core core).queue ∧ s.Counted t (dieOf core) (fun _ _ _ => 0))
        ∧ ∀ i e, s.stealChoice core thief = some (i, e) → ∃ t, exec (.stealRequest core) s = .next t ∧ (t.core core).thieves = rest
          ∧ (t.core thief.core).answer = some (some e) ∧ (t.core core).queue = (s.core core).queue.eraseIdx i
          ∧ thief.fits (s.workShape e.work) = true ∧ s.Counted t (dieOf core) (fun _ _ _ => 0))
    ∧ ((s.core core).answer = some none → ∃ t, exec (.stealAnswer core) s = .next t
        ∧ t.core core = { s.core core with answer := none, stealAt := (s.core core).cycles + (s.core core).backoff
                                           backoff := min 4096 (2 * (s.core core).backoff) })
    ∧ (∀ e k, (s.core core).answer = some (some e) → e.work = .task k → s.groups.all (fun x => decide (x.1 < s.nextGroup)) = true →
        s.teams.all (fun x => decide (x.1 < s.nextTeam)) = true →
        (s.workFits core e.work = true → s.mayTake core e.prio e.since = true → ∃ t, exec (.stealAnswer core) s = .next t ∧ s.StartedTask t core k
          ∧ (t.core core).answer = none ∧ (t.core core).backoff = 64)
        ∧ (s.workFits core e.work = false ∨ s.mayTake core e.prio e.since = false → exec (.stealAnswer core) s = .next s))
    ∧ ∀ c, s.candidates core = [c] → s.host.preemptAt ≤ s.candPrio c → s.candSince c + 2000 ≤ s.ns →
        (∀ i < 16, let k := dieOf core * 16 + i; s.candStands k c = true → s.candFits k c = false) →
        let ts := s.teams.filter (fun e => decide (e.2.core = core) && !e.2.ended)
        ∀ low, low ∈ ts.map (fun e => e.2.prio) → (∀ e ∈ ts, low ≤ e.2.prio) → low < s.candPrio c →
        let out := (ts.filter (fun e => decide (e.2.prio = low))).map (·.1)
        State.candFits { s with
          teams := s.teams.filter (fun e => !out.contains e.1)
          groups := s.groups.filter (fun e => !out.contains e.2.team) } core c = true → out.any s.teamPreempting = false →
        ∃ t, exec (.schedulerPreempt (dieOf core) core) s = .next t ∧ t.groups = s.groups
          ∧ (t.core core).hold = some (s.candPrio c, s.candSince c)
          ∧ (t.die (dieOf core)).preempts = (s.die (dieOf core)).preempts ++ [{ ctx := s.candCtx c, bound := 0, cores := [core]
                                                                                teams := out
                                                                                detail := BitVec.ofNat 64 (s.candCtx c + 0x200) }]

/-- R85, R233, R236, R299, R329, R365: A GROUP ENDS. While an operation of an exiting group has not completed it stays. Then it is gone;
the count of its pointstamp falls by one, unless it was cast off, and so does its completion counter; a grid counts one group
fewer; and the team of its last group gives back its check-outs and, with no copy inbound, its scratchpad. -/
def Obligations.GroupsEnd : Prop :=
  ∀ (s : State) (gid : Nat), s.stop = none → (s.group gid).exiting = true →
    let g := s.group gid
    let die := dieOf g.core
    ((∃ o ∈ g.ops, o.stopped = false) → exec (.groupExit gid) s = .next s)
    ∧ (g.ops = [] → g.spawns = [] → rising s.groups → rising s.teams → s.DistinctDeltas g.core →
        let gr := tget s.grids g.grid {}
        let last := g.origin = .grid ∧ gr.groupsLeft = 1
        ∃ t, exec (.groupExit gid) s = .next t ∧ tget? t.groups gid = none
          ∧ s.Counted t die (fun c n x => gain g.ctx g.node g.stamp (if g.origin = .castoff then 0 else -1) c n x
              + if last then gain gr.ctx gr.lr.node gr.lr.stamp (-1) c n x else 0)
          ∧ (g.doneCtr ≠ 0xFFFF → ¬ last → (tget (t.die die).dcs g.doneCtr {}).value
              = (tget (s.die die).dcs g.doneCtr {}).value - 1)
          ∧ (g.doneCtr = 0xFFFF → last → gr.lr.done ≠ 0xFFFF → (tget (t.die gr.die).dcs gr.lr.done {}).value
              = (tget (s.die gr.die).dcs gr.lr.done {}).value - 1)
          ∧ (g.origin = .grid → (tget t.grids g.grid {}).groupsLeft = (tget s.grids g.grid {}).groupsLeft - 1)
          ∧ ((s.team g.team).groups = [gid] → (∀ e ∈ t.ranges, e.team ≠ g.team)
              ∧ ((s.team g.team).inbound = 0 → tget? t.teams g.team = none))
          ∧ ((∃ h ∈ (s.team g.team).groups, h ≠ gid) → (t.team g.team).groups = (s.team g.team).groups.filter (fun x => decide (x ≠ gid))
              ∧ t.ranges = s.ranges)
          ∧ ∀ key, t.homeByte key = s.homeByte key)

/-! ### Visibility and samples -/

/-- R247, R249, R253, R255, R256: TRAVERSALS. With operands that decode and a node record that it may use, VTRAV goes in
flight with its lanes' rays, and VTRAVC with their tokens; a record that VTRAV may not use traps with no address (log entry 19), and a token with a bit
above 15 set traps ILLEGAL. A completion whose
rays end without a node gives each active lane its closest hit or a MISS and no token; a lane whose token is stale
STATUS 5, no token, and its saved walk is as before; no other register changes. R247, R257: RASTER PROBES. With a
token inside its limits VRAST goes in flight with its six coordinates and the token; a token outside them traps
ILLEGAL. A triangle with a coordinate that is no number, or beyond 16384 pixels, covers nothing: every active lane
then receives 0 in the position and weight registers and 0x8000_0000 as its index, and the token's NEXT moves to the
end of the lattice, or stays beyond it. -/
def Obligations.TraversalsAndRasterProbes : Prop :=
  ((∀ (s : State) (d a : Byte) (r : BitVec 4) (l : Bool) (opt : BitVec 3) (x : VIn), s.stop = none → s.laneView {} 0 = some x →
     s.PipeFree (s.cw.flagOf l) → dstOk s.cg.n d.toNat 7 = true →
     let b := s.cg.brec r.toNat
     (srcOk s.cg.n a.toNat 9 = true → recOk (s.ctx s.cg.ctx) b [4] recPs = true → recBase b % 128 = 0 →
       ∃ t o, exec (.vtrav d a r l opt) s = .next t ∧ s.Issued t o ∧ o.instr = .vtrav d a r l opt ∧ o.flag = s.cw.flagOf l
         ∧ o.act = x.act ∧ o.zero = x.zero ∧ o.recd = b ∧ o.stage = 0
         ∧ ∀ k < 32, ∀ j < 9, inMask x.act k = true → tget o.vals (k * 64 + j) 0 = (s.cg.src (a.toNat + j) k).toNat)
     ∧ (srcOk s.cg.n a.toNat 9 = true → recOk (s.ctx s.cg.ctx) b [4] recPs = false ∨ recBase b % 128 ≠ 0 →
         exec (.vtrav d a r l opt) s = finish (s.recordTrap pathS false r.toNat x.act))
     ∧ (srcOk s.cg.n a.toNat 1 = true → (∀ k < 32, inMask x.act k = true → (s.cg.src a.toNat k).toNat < 2 ^ 16) →
         ∃ t o, exec (.vtravc d a l opt) s = .next t ∧ s.Issued t o ∧ o.instr = .vtravc d a l opt ∧ o.flag = s.cw.flagOf l
           ∧ o.act = x.act ∧ o.zero = x.zero ∧ o.stage = 0
           ∧ ∀ k < 32, inMask x.act k = true → tget o.vals (k * 64) 0 = (s.cg.src a.toNat k).toNat)
     ∧ (srcOk s.cg.n a.toNat 1 = true → (∃ k < 32, inMask x.act k = true ∧ 2 ^ 16 ≤ (s.cg.src a.toNat k).toNat) →
         exec (.vtravc d a l opt) s = finish s.illegal))
   ∧ ∀ (s : State) (gid : Nat) (o : POp) (d opc : Nat) (ws : Nat → List Nat), s.MayEnd gid o → travWord o.instr = some (d, opc) →
       o.stage = 0 → o.act &&& o.zero = 0#32 → (s.group gid).errors = [] → (s.group gid).preempt = none →
       (∀ k < 32, inMask o.act k = true → RayEnds o k ((s.group gid).lane k) (ws k) ∨ StaleLane o k ((s.group gid).lane k)) →
       ∃ t, exec (.traversalComplete gid o.id) s = .next t
         ∧ (∀ k < 32, inMask o.act k = true →
             (RayEnds o k ((s.group gid).lane k) (ws k) → ∀ j < 6, (t.group gid).vreg (d + j) k = BitVec.ofNat 32 ((ws k).getD j 0))
             ∧ (StaleLane o k ((s.group gid).lane k) → ((t.group gid).vreg (d + 5) k).toNat / 2 ^ 16 % 2 ^ 8 = 5
                 ∧ (t.group gid).lane k = (s.group gid).lane k)
             ∧ (t.group gid).vreg (d + 6) k = 0)
         ∧ (∀ k < 32, ∀ j < 7, inMask o.zero k = true → (t.group gid).vreg (d + j) k = 0)
         ∧ (∀ j k, k < 32 → j < d ∨ d + 7 ≤ j ∨ (inMask o.act k = false ∧ inMask o.zero k = false) →
             (t.group gid).vreg j k = (s.group gid).vreg j k)
         ∧ (t.group gid).s = (s.group gid).s ∧ (t.group gid).k = (s.group gid).k ∧ (s.group gid).Ended (t.group gid) o
         ∧ s.OnlyGroup t gid)
  ∧ ((∀ (s : State) (d a b : Byte) (x : VIn), s.stop = none → s.laneView {} 0 = some x → s.PipeFree (s.cw.flagOf false) →
       dstOk s.cg.n d.toNat 4 = true → 192 ≤ a.toNat → a.toNat ≤ 250 → 192 ≤ b.toNat →
       let tok := (s.cg.sreg (b.toNat - 192)).toNat
       let good := tok % 512 ≤ 383 ∧ tok / 2 ^ 9 % 512 ≤ 383 ∧ tok / 2 ^ 18 % 512 ≤ 256 ∧ tok < 2 ^ 31
       (good → ∃ t o, exec (.vrast d a b) s = .next t ∧ s.Issued t o ∧ o.instr = .vrast d a b ∧ o.flag = s.cw.flagOf false
         ∧ o.act = x.act ∧ o.zero = x.zero ∧ (∀ j < 6, o.arg j = (s.cg.sreg (a.toNat - 192 + j)).toNat) ∧ o.arg 6 = tok)
       ∧ (¬ good → exec (.vrast d a b) s = finish s.illegal))
     ∧ ∀ (s : State) (gid op : Nat) (o : POp) (d a b : Byte), s.stop = none → (s.group gid).op? op = some o → o.instr = .vrast d a b →
         o.act &&& o.zero = 0#32 → 192 ≤ b.toNat → o.act ≠ 0#32 → (s.disp (dieOf (s.group gid).core)).block = none →
         o.arg 6 < 2 ^ 31 → o.arg 6 / 2 ^ 18 % 512 ≤ 256 → (∃ j < 6, snap (o.arg j) = none) →
         let size := 16 * (o.arg 6 / 2 ^ 27 + 1)
         ∃ t, exec (.vrastComplete gid op) s = .next t
           ∧ (∀ j k, k < 32 → (t.group gid).vreg j k =
               if d.toNat ≤ j ∧ j < d.toNat + 4 ∧ inMask o.zero k = true then 0
               else if d.toNat ≤ j ∧ j < d.toNat + 4 ∧ inMask o.act k = true then (if j = d.toNat + 3 then 0x80000000 else 0)
               else (s.group gid).vreg j k)
           ∧ (∀ j < 64, (t.group gid).sreg j = if j = b.toNat - 192 then BitVec.ofNat 32
               (o.arg 6 % 2 ^ 18 + max size (o.arg 6 / 2 ^ 18 % 512) * 2 ^ 18 + o.arg 6 / 2 ^ 27 * 2 ^ 27) else (s.group gid).sreg j)
           ∧ (s.group gid).Ended (t.group gid) o ∧ s.OnlyGroup t gid)

/-- R247, R257 to R266: THE DISPLAY WORDS GO IN FLIGHT. From a group whose context holds the display right, VSEMIT with
its lanes' records, VSBG with their display times, tokens and limits, PRIOW with a tile index and its bytes, ROWOUT
with its lanes' pixels, and SBSTAT from any group. Without the right the word traps ACCESS, with the path and address
of log entry 10; a token or a position with bits that must be zero traps ILLEGAL. R247, R264 to R266, R381:
PRIORITIES, ROWS AND COUNTERS COMPLETE. PRIOW gives each tile it names its byte and sets OOB for the entries past the
grid. ROWOUT, with every pixel on the panel and its row in the window before its send time, puts the pixel of the k-th
active lane at x0 + k; with none of them it counts each as ROWREJ. SBSTAT writes the counter it names to its
destination. -/
def Obligations.DisplayWords : Prop :=
  (∀ (s : State), s.stop = none →
     (∀ (d : Byte) (l : Bool) (x : VIn), s.laneView {} 0 = some x → s.PipeFree (s.cw.flagOf l) → srcOk s.cg.n d.toNat 8 = true →
       (s.displayRight s.cg = true → ∃ t o, exec (.vsemit d l) s = .next t ∧ s.Issued t o ∧ o.instr = .vsemit d l
         ∧ o.flag = s.cw.flagOf l ∧ o.act = x.act ∧ ∀ k < 32, ∀ j < 8, inMask x.act k = true →
             tget o.vals (k * 64 + j) 0 = (s.cg.src (d.toNat + j) k).toNat)
       ∧ (s.displayRight s.cg = false → exec (.vsemit d l) s = finish (s.rightTrap true)))
     ∧ (∀ (d a b : Byte) (x : VIn), s.laneView {} 0 = some x → s.PipeFree (s.cw.flagOf false) → dstOk s.cg.n d.toNat 8 = true →
       dstOk s.cg.n a.toNat 2 = true → srcOk s.cg.n b.toNat 1 = true →
       (s.displayRight s.cg = true → (∀ k < 32, inMask x.act k = true → (s.cg.vreg (a.toNat + 1) k).toNat < 2 ^ 28) →
         ∃ t o, exec (.vsbg d a b) s = .next t ∧ s.Issued t o ∧ o.instr = .vsbg d a b ∧ o.flag = s.cw.flagOf false
           ∧ o.act = x.act ∧ o.zero = x.zero ∧ ∀ k < 32, inMask x.act k = true →
             tget o.vals (k * 64) 0 = (s.cg.vreg a.toNat k).toNat ∧ tget o.vals (k * 64 + 1) 0 = (s.cg.vreg (a.toNat + 1) k).toNat
               ∧ tget o.vals (k * 64 + 2) 0 = (s.cg.src b.toNat k).toNat)
       ∧ (s.displayRight s.cg = true → (∃ k < 32, inMask x.act k = true ∧ 2 ^ 28 ≤ (s.cg.vreg (a.toNat + 1) k).toNat) →
         exec (.vsbg d a b) s = finish s.illegal)
       ∧ (s.displayRight s.cg = false → exec (.vsbg d a b) s = finish (s.rightTrap false)))
     ∧ (s.Enabled → s.PipeFree (s.cw.flagOf false) →
       (∀ (a b : BitVec 6) (c : BitVec 4), b.toNat + c.toNat / 4 < 64 →
         (s.displayRight s.cg = true → ∃ t o, exec (.priow a b c) s = .next t ∧ s.Issued t o ∧ o.instr = .priow a b c
           ∧ o.flag = s.cw.flagOf false ∧ o.arg 0 = (s.cg.sreg a.toNat).toNat
           ∧ o.args.length = c.toNat + 2 ∧ ∀ j < c.toNat + 1,
               o.arg (j + 1) = (s.cg.sreg (b.toNat + j / 4)).toNat / 2 ^ (8 * (j % 4)) % 256)
         ∧ (s.displayRight s.cg = false → exec (.priow a b c) s = finish (s.rightTrap true)))
       ∧ (∀ (v : Byte) (r : BitVec 6), dstOk s.cg.n v.toNat 1 = true → r.toNat ≤ 62 →
         let good := s.cg.sreg r.toNat &&& 0xE000E000#32 = 0#32
         (s.displayRight s.cg = true → good → ∃ t o, exec (.rowout v r) s = .next t ∧ s.Issued t o ∧ o.instr = .rowout v r
           ∧ o.flag = s.cw.flagOf false ∧ o.act = s.cw.en ∧ o.arg 0 = (s.cg.sreg r.toNat).toNat
           ∧ o.arg 1 = (s.cg.sreg (r.toNat + 1)).toNat
           ∧ ∀ k < 32, inMask s.cw.en k = true → tget o.vals (k * 64) 0 = (s.cg.vreg v.toNat k).toNat)
         ∧ (s.displayRight s.cg = true → ¬ good → exec (.rowout v r) s = finish s.illegal)
         ∧ (s.displayRight s.cg = false → exec (.rowout v r) s = finish (s.rightTrap true)))
       ∧ ∀ (d a : BitVec 6) (f : StatFn), ∃ t o, exec (.sbstat d a f) s = .next t ∧ s.Issued t o ∧ o.instr = .sbstat d a f
           ∧ o.flag = s.cw.flagOf false ∧ o.arg 0 = (s.cg.sreg a.toNat).toNat))
  ∧ (∀ (s : State) (gid : Nat) (o : POp), s.MayEnd gid o →
       let g := s.group gid
       let die := dieOf g.core
       let d := s.disp die
       (∀ a b c, o.instr = .priow a b c → ∃ t, exec (.priowComplete gid o.id) s = .next t ∧ g.Ended (t.group gid) o ∧ s.OnlyGroup t gid
         ∧ (∀ i, (t.disp die).tile i = if o.arg 0 ≤ i ∧ i < o.arg 0 + (o.args.length - 1) ∧ i < 384 * 384
             then { d.tile i with prio := o.arg (i - o.arg 0 + 1) } else d.tile i)
         ∧ ((t.group gid).status.getLsbD 0 = true ↔ g.status.getLsbD 0 = true
             ∨ (1 < o.args.length ∧ 384 * 384 + 1 < o.arg 0 + o.args.length)) ∧ (t.group gid).s = g.s ∧ (t.group gid).v = g.v)
       ∧ (∀ v r, o.instr = .rowout v r → ∃ t, exec (.rowoutComplete gid o.id) s = .next t ∧ g.Ended (t.group gid) o ∧ s.OnlyGroup t gid
           ∧ (t.group gid).s = g.s ∧ (t.group gid).v = g.v
           ∧ ∀ b, d.block = some b →
               let y := o.arg 0 % 2 ^ 13
               let x0 := o.arg 0 / 2 ^ 16 % 2 ^ 13
               let m := o.arg 1 * bRows b + y
               let open_ := y < bRows b ∧ d.nextRow ≤ m ∧ m < d.nextRow + 64 ∧ s.ns < sendTime b (o.arg 1) y
               (¬ open_ → t.disp die = { d with rowRej := d.rowRej + BitVec.ofNat 32 (lanesOf o.act).length })
               ∧ (open_ → bWidth b ≤ 2 ^ 13 → x0 + 32 ≤ bWidth b → (t.disp die).rowRej = d.rowRej
                   ∧ (∀ k < 32, inMask o.act k = true →
                       tget? (t.disp die).ring (m * 2 ^ 13 + x0 + rankIn o.act k) = some (tget o.vals (k * 64) 0 % 2 ^ 30))
                   ∧ ∀ i, (∀ k < 32, inMask o.act k = true → i ≠ m * 2 ^ 13 + x0 + rankIn o.act k) →
                       tget? (t.disp die).ring i = tget? d.ring i))
       ∧ ∀ r a f, o.instr = .sbstat r a f → ∃ t, exec (.sbstatComplete gid o.id) s = .next t ∧ g.Ended (t.group gid) o ∧ s.OnlyGroup t gid
           ∧ t.disp die = d ∧ (t.group gid).v = g.v
           ∧ ∀ j < 64, (t.group gid).sreg j = if j ≠ r.toNat then g.sreg j else match f with
               | .missed => d.missed
               | .dropped => d.dropped
               | .evicted => d.evicted
               | .freepages => BitVec.ofNat 32 d.freePages
               | .mirrin => d.mirrorIn
               | .rowrej => d.rowRej
               | .tileocc => BitVec.ofNat 32 (d.tile (o.arg 0)).slots.length)

/-- R258 to R263, R376, R378: SAMPLES. The record of a lane of VSEMIT takes the slot that R259 and R260 name, with its forced
word 7, and counts as EVICTED the one it replaces; off the display it counts as DROPPED; stored or dropped, with OVERLAP it sends
one mirror to the other die, reprojected. A mirror that arrives for the context that holds the right is stored with FOREIGN, and counts as MIRRIN, or
as DROPPED off the display. VSBG gives a lane the first slot from its token's on that is young enough, and the token past it; where
there is none, zeros and SLOT 512. -/
def Obligations.SamplesAreStoredAndGathered : Prop :=
  (∀ (s : State) (gid k : Nat) (o : POp) (d : Byte) (l : Bool), s.MayEnd gid o → o.instr = .vsemit d l → lanesOf o.act = [k] →
    let die := dieOf (s.group gid).core
    let w := s.record gid o k
    ∃ t, exec (.vsemitComplete gid o.id) s = .next t ∧ (s.group gid).Ended (t.group gid) o ∧ (t.group gid).v = (s.group gid).v
      ∧ s.OnlyGroup t gid
      ∧ ((s.disp die).block = none → t.disp die = (s.disp die).drop)
      ∧ ∀ b, (s.disp die).block = some b →
          let tile := (s.disp die).tile (recordTile w)
          (¬ onDisplay b w ∨ (tile.pages = 0 ∧ tile.slots = [] ∧ (s.disp die).freePages = 0) → t.disp die = (s.disp die).drop)
          ∧ (∀ slot more out, onDisplay b w →
              SlotFor b s.ns tile (s.disp die).freePages (bBand b (recordTile w / 384)) slot more out → rising tile.slots →
              t.disp die = { (s.disp die).setTile (recordTile w) { tile with pages := tile.pages + more, slots := tset tile.slots slot w }
                with freePages := (s.disp die).freePages - more, evicted := (s.disp die).evicted + BitVec.ofNat 32 out })
          ∧ (∀ x, (w.getD 7 0).getLsbD 17 = true → mirrorX b w = some x → t.disp (1 - die) = { s.disp (1 - die) with
              inbox := (s.disp (1 - die)).inbox ++ [{ ctx := (s.group gid).ctx, x := x, words := w }] })
          ∧ ((w.getD 7 0).getLsbD 17 = false ∨ mirrorX b w = none → t.disp (1 - die) = s.disp (1 - die)))
  ∧ (∀ (s : State) (die : Nat) (m : Mirror) (rest : List Mirror), (s.disp die).inbox = m :: rest →
      let d := { s.disp die with inbox := rest }
      let w := (m.words.set 0 (((m.words.getD 0 0) &&& 0xFFFF0000#32) ||| BitVec.ofNat 32 m.x.toNat)).set 7
        ((m.words.getD 7 0) ||| 0x10000#32)
      ∃ t, exec (.mirrorReceive die) s = .next t ∧ t.groups = s.groups ∧ (∀ key, t.homeByte key = s.homeByte key)
        ∧ (d.granted ≠ some m.ctx ∨ d.enableBit = false → t.disp die = d)
        ∧ (d.granted = some m.ctx → d.enableBit = true → (m.x < 0 ∨ 65535 < m.x) → t.disp die = d.drop)
        ∧ (∀ b, d.granted = some m.ctx → d.enableBit = true → 0 ≤ m.x → m.x ≤ 65535 → d.block = some b →
            (¬ onDisplay b w → t.disp die = d.drop)
            ∧ ∀ slot more out, onDisplay b w → SlotFor b s.ns (d.tile (recordTile w)) d.freePages (bBand b (recordTile w / 384)) slot more out →
                rising (d.tile (recordTile w)).slots →
                tget? ((t.disp die).tile (recordTile w)).slots slot = some w ∧ (t.disp die).mirrorIn = d.mirrorIn + 1
                ∧ (t.disp die).evicted = d.evicted + BitVec.ofNat 32 out ∧ (t.disp die).freePages = d.freePages - more))
  ∧ ∀ (s : State) (gid k : Nat) (o : POp) (d a b : Byte), s.MayEnd gid o → o.instr = .vsbg d a b → o.act &&& o.zero = 0#32 →
      inMask o.act k = true → k < 32 → a.toNat + 2 ≤ d.toNat ∨ d.toNat + 8 ≤ a.toNat →
      let dp := s.disp (dieOf (s.group gid).core)
      let td := tget o.vals (k * 64) 0
      let tok := tget o.vals (k * 64 + 1) 0
      let limit := tget o.vals (k * 64 + 2) 0
      let tx := tok % 512
      let ty := tok / 2 ^ 9 % 512
      let age := fun (w : List Word) => (BitVec.ofNat 32 td - w.getD 1 0).toInt
      let young := fun (w : List Word) => limit = 0 ∨ age w ≤ (limit : Int)
      let slots := (dp.tile (ty * 384 + tx)).slots
      let inside := fun (blk : Nat) => 16 * tx < bWidth blk ∧ 16 * ty < bRows blk
      ∃ t, exec (.vsbgComplete gid o.id) s = .next t ∧ (s.group gid).Ended (t.group gid) o ∧ s.OnlyGroup t gid
        ∧ (t.group gid).s = (s.group gid).s ∧ t.disp (dieOf (s.group gid).core) = dp
        ∧ (∀ blk j w, dp.block = some blk → inside blk → tok / 2 ^ 18 < 512 → rising slots → tget? slots j = some w → w.length = 8 →
            tok / 2 ^ 18 ≤ j → young w → (∀ i < j, tok / 2 ^ 18 ≤ i → ∀ y, tget? slots i = some y → ¬ young y) →
            (∀ i < 8, i ≠ 0 → i ≠ 7 → (t.group gid).vreg (d.toNat + i) k = w.getD i 0)
            ∧ (t.group gid).vreg d.toNat k = BitVec.ofNat 32 ((reproject ((w.getD 0 0).extractLsb' 0 16).toNat
                  ((w.getD 3 0).extractLsb' 0 16).toNat (age w)).1
                + 2 ^ 16 * (reproject ((w.getD 0 0).extractLsb' 16 16).toNat ((w.getD 3 0).extractLsb' 16 16).toNat (age w)).1)
            ∧ (age w = 0 → (t.group gid).vreg d.toNat k = w.getD 0 0 ∧ (t.group gid).vreg (d.toNat + 7) k = w.getD 7 0)
            ∧ (t.group gid).vreg (a.toNat + 1) k = BitVec.ofNat 32 (tok % 2 ^ 18 + (j + 1) * 2 ^ 18))
        ∧ ((dp.block = none ∨ (∃ blk, dp.block = some blk ∧ ¬ inside blk) ∨ 512 ≤ tok / 2 ^ 18
              ∨ ∀ j y, tok / 2 ^ 18 ≤ j → tget? slots j = some y → ¬ young y) →
            (∀ i < 8, (t.group gid).vreg (d.toNat + i) k = 0)
            ∧ (t.group gid).vreg (a.toNat + 1) k = BitVec.ofNat 32 (tok % 2 ^ 18 + 512 * 2 ^ 18))

/-- R366, R367, R368, R370: THE DISPLAY CONTROL BLOCK. While no block has met every limit, it is read again 1 ms later; a block that
keeps them is held, and with ENABLE set sweeps start, all bands closed, at the first sweep whose row 0 is lit 1 ms from now or later. At
the light time of row 0 it is read again: unchanged and enabled it stands, and the host's pattern ends; one that cannot be read
leaves the old timing in force and stops the Sluice. Before their times both events change nothing. -/
def Obligations.DisplayBlockIsRead : Prop :=
  ∀ (s : State) (die ctx : Nat), s.stop = none → (s.disp die).granted = some ctx →
    let d := s.disp die
    let va := if die = 0 then (s.ctx ctx).dispVa0 else (s.ctx ctx).dispVa1
    (d.block = none → (s.ns < d.retryAt → exec (.blockRetry die) s = .next s)
      ∧ (d.retryAt ≤ s.ns → s.UnitReads die ctx va 4096 none → ∃ t, exec (.blockRetry die) s = .next t ∧ s.OnlyDisplay t die
        ∧ t.disp die = { d with enableBit := false, retryAt := s.ns + 1000000 })
      ∧ ∀ b raw, d.retryAt ≤ s.ns → s.BlockStands die ctx b raw → d.run = false → d.enableBit = false →
          tget? s.grids d.shader = none →
          ∃ t, exec (.blockRetry die) s = .next t ∧ (t.disp die).block = some b ∧ (t.disp die).enableBit = decide (b % 2 = 1)
            ∧ (tget t.grids (t.disp die).shader {}).lr = launchRec raw ∧ (tget t.grids (t.disp die).shader {}).ctx = ctx
            ∧ (b % 2 = 0 → (t.disp die).run = false)
            ∧ (b % 2 = 1 → ∀ n < 2 ^ 22, s.ns + 1000000 ≤ lightTime b n 0 → (∀ m < n, lightTime b m 0 < s.ns + 1000000) →
                (t.disp die).run = true ∧ (t.disp die).gaze = none ∧ (t.disp die).reportSeq = 0
                ∧ ∀ i < bRows b / 16, ((t.disp die).band i).sweep = n ∧ ((t.disp die).band i).isOpen = false
                    ∧ ((t.disp die).band i).gather = []))
    ∧ ∀ b, d.block = some b →
      (s.ns < lightTime b d.nextSweep 0 → exec (.sweepBoundary die) s = .next s)
      ∧ (lightTime b d.nextSweep 0 ≤ s.ns → bSweep0 b ≤ s.ns →
        let n := (s.ns - bSweep0 b) / bSweepNs b + 1
        (∀ raw g, s.BlockStands die ctx b raw → b % 2 = 1 → d.run = true → d.enableBit = true → n ≤ 2 ^ 22 →
          tget? s.grids d.shader = some g → g.lr = launchRec raw → g.ctx = ctx → d.recon = d.shader →
          ∃ t, exec (.sweepBoundary die) s = .next t ∧ s.OnlyDisplay t die
            ∧ t.disp die = { d with nextSweep := n, pattern := none, patternNext := none, patternRow := 0 })
        ∧ (s.UnitReads die ctx va 4096 none → (∀ e ∈ d.bands, e.2.isOpen = false) →
            (State.reportStatus s die 1).stop = none →
            ∃ t, exec (.sweepBoundary die) s = .next t ∧ (t.disp die).block = some b ∧ (t.disp die).enableBit = false
              ∧ (t.disp die).run = false ∧ (t.disp die).nextSweep = n ∧ t.groups = s.groups))

/-- R369, R370, R372, R374, R375, R379: BANDS AND SWEEP TICKS. A band opens at its time with its hold counted once; past
its cutoff it goes on to its next sweep; without a Keeper entry it waits. At its cutoff it closes: the hold is
released, and the gathering wave, if there is one, is counted in the same batch and enters the die queue, as it does
when its first sample has waited its time, or when it is full and had to wait for room; while the Keeper has no room to count it,
it waits (log entry 35). A tick adds to the accumulator of each tile of an open band its effective
priority, while no sample is due. R377: AGEING. At a band's light time its samples older than EXPIRY leave their
slots, its tiles give back last pages whose slots are all free, and every other sample stays. Bands and ticks without a link are as log
entry 53 decides. -/
def Obligations.BandsTicksAndAgeing : Prop :=
  (∀ (s : State) (die band b ctx : Nat), s.stop = none → (s.disp die).block = some b → (s.disp die).granted = some ctx →
     let d := s.disp die
     let x := d.band band
     let node := (s.lr d.shader).node
     let st := mkStamp 2 x.sweep band 0
     let wave : ProbeWave := { ctx := ctx, grid := d.shader, stamp := st, samples := x.gather }
     let launched := fun t : State => (t.die die).queue = (s.die die).queue
       ++ [{ work := .probe wave, prio := (tget s.grids d.shader {}).lr.prio, since := s.ns }]
     (d.run = true → d.linkUp = true → x.isOpen = false → 16 * band < bRows b → x.sweep < 2 ^ 22 → openTime b x.sweep band ≤ s.ns →
       (cutoffTime b x.sweep band ≤ s.ns → ∃ t, exec (.bandOpen die band) s = .next t ∧ s.OnlyDisplay t die
         ∧ t.disp die = d.setBand band { x with sweep := x.sweep + 1 })
       ∧ (s.ns < cutoffTime b x.sweep band → s.keeperRoom die ctx node st = false → exec (.bandOpen die band) s = .next s)
       ∧ (s.ns < cutoffTime b x.sweep band → s.keeperRoom die ctx node st = true → ∃ t, exec (.bandOpen die band) s = .next t
         ∧ t.disp die = d.setBand band { x with isOpen := true, node := node } ∧ s.Counted t die (gain ctx node st 1)
         ∧ t.groups = s.groups))
     ∧ (x.isOpen = true → s.NothingWaits die → recField b 0x28 2 10 = 0 → rising d.bands →
         (s.ns < cutoffTime b x.sweep band → exec (.bandCutoff die band) s = .next s)
         ∧ (cutoffTime b x.sweep band ≤ s.ns → x.gather = [] → ∃ t, exec (.bandCutoff die band) s = .next t
           ∧ t.disp die = d.setBand band { x with isOpen := false, sweep := x.sweep + 1 }
           ∧ s.Counted t die (gain ctx x.node st (-1)) ∧ (t.die die).queue = (s.die die).queue)
         ∧ (cutoffTime b x.sweep band ≤ s.ns → x.gather ≠ [] → node ≠ x.node → s.keeperRoom die ctx node st = false →
           exec (.bandCutoff die band) s = .next s)
         ∧ (cutoffTime b x.sweep band ≤ s.ns → x.gather ≠ [] → (s.die die).queue.length < 4096 →
           node = x.node ∨ s.keeperRoom die ctx node st = true → ∃ t, exec (.bandCutoff die band) s = .next t
             ∧ (t.disp die).band band = { x with isOpen := false, sweep := x.sweep + 1, gather := [] } ∧ launched t
             ∧ s.Counted t die (fun c n k => gain ctx node st 1 c n k + gain ctx x.node st (-1) c n k)))
     ∧ (x.gather ≠ [] → s.NothingWaits die → rising d.bands → (s.die die).queue.length < 4096 →
         let due := 32 ≤ x.gather.length ∨ x.since + recField b 0x26 16 0 ≤ s.ns
         (¬ due → exec (.wavewait die band) s = .next s)
         ∧ (due → s.keeperRoom die ctx node st = false → exec (.wavewait die band) s = .next s)
         ∧ (due → s.keeperRoom die ctx node st = true → ∃ t, exec (.wavewait die band) s = .next t
           ∧ (t.disp die).band band = { x with gather := [] } ∧ launched t ∧ s.Counted t die (gain ctx node st 1)))
     ∧ (d.run = true → d.tickAt ≤ s.ns →
         (d.linkUp = false → ∃ t, exec (.sweepTick die) s = .next t ∧ s.OnlyDisplay t die
           ∧ t.disp die = { d with tickAt := d.tickAt + bTick b })
         ∧ (d.linkUp = true → rising d.tiles → rising d.bands → (∀ e ∈ d.tiles, e.2.accum + d.effective b e.1 < 256) →
           ∃ t, exec (.sweepTick die) s = .next t ∧ s.OnlyDisplay t die ∧ (t.disp die).tickAt = d.tickAt + bTick b
             ∧ (t.disp die).bands = d.bands
             ∧ ∀ i, tget? (t.disp die).tiles i = (tget? d.tiles i).map (fun y =>
                 if i / 384 ∈ d.openAt b d.tickAt ∧ 16 * (i % 384) < bWidth b ∧ 16 * (i / 384) < bRows b
                   then { y with accum := y.accum + d.effective b i } else y))))
  ∧ (∀ (s : State) (die band b : Nat), (s.disp die).block = some b → 16 * band < bRows b →
       let d := s.disp die
       let x := d.band band
       (s.ns < x.ageAt → exec (.basinAgeing die band) s = .next s)
       ∧ (x.ageAt ≤ s.ns → rising d.tiles → ∃ t, exec (.basinAgeing die band) s = .next t ∧ s.OnlyDisplay t die
         ∧ ((t.disp die).band band).ageAt = x.ageAt + bSweepNs b
         ∧ (∀ i, i / 384 ≠ band → tget? (t.disp die).tiles i = tget? d.tiles i)
         ∧ (∀ i y, i / 384 = band → tget? d.tiles i = some y → ∃ z, tget? (t.disp die).tiles i = some z
             ∧ z.slots = y.slots.filter (fun e => decide (sampleAge b x.ageAt (e.2.getD 1 0) ≤ 2000 * (bBand b band).2.2))
             ∧ z.pages ≤ y.pages ∧ (z.pages ≠ 0 → ∃ e ∈ z.slots, 16 * (z.pages - 1) ≤ e.1)
             ∧ { z with slots := y.slots, pages := y.pages } = y)
         ∧ (t.disp die).freePages + ((t.disp die).tiles.map (fun e => e.2.pages)).sum
             = d.freePages + (d.tiles.map (fun e => e.2.pages)).sum))

/-- R381 to R386, R456: ROWS AND THE SIRRIC LINK. At its send time a row leaves the window: a complete one is sent as it stands and kept in
the history image; another is sent again from it, or as zeros, and counts as MISSED; nothing is sent while the link is
down or the host's pattern is in force. A flit from the headset is reported, and a valid GAZE moves the gaze tile. The link goes down
and comes up. A pattern is sent row by row, 6144 to a sweep, a new one from the first row of a sweep on; the number of a sweep is the model's free
value (log entry 13). -/
def Obligations.RowsAndLink : Prop :=
  ∀ (s : State) (die : Nat), s.stop = none →
    let d := s.disp die
    (∀ b ctx, d.block = some b → d.granted = some ctx →
      let n := d.nextRow / bRows b
      let y := d.nextRow % bRows b
      let field := packPixels ((List.range (bWidth b)).map (fun x => tget d.ring (d.nextRow * 2 ^ 13 + x) 0))
      let px := fun x : Nat => tget? d.ring (d.nextRow * 2 ^ 13 + x)
      (s.ns < sendTime b n y → exec (.rowSend die) s = .next s)
      ∧ (sendTime b n y ≤ s.ns →
        (d.linkUp = false ∨ d.pattern ≠ none → ∃ t, exec (.rowSend die) s = .next t ∧ s.OnlyDisplay t die ∧ t.disp die = d.advance)
        ∧ (d.linkUp = true → d.pattern = none → d.run = true → (∀ x < bWidth b, px x ≠ none) →
          (s.putHistory die ctx (recField b 0x58 64 0 + 23040 * y) field 45).stop = none →
          ∃ t, exec (.rowSend die) s = .next t ∧ (t.disp die).sent = rowPacket die false n y (bWidth b) field
            ∧ y ∈ (t.disp die).history ∧ (t.disp die).missed = d.missed ∧ (t.disp die).nextRow = d.nextRow + 1)
        ∧ (d.linkUp = true → d.pattern = none → d.run = true → (∃ x < bWidth b, px x = none) → y ∉ d.history →
          ∃ t, exec (.rowSend die) s = .next t ∧ s.OnlyDisplay t die ∧ (t.disp die).missed = d.missed + 1
            ∧ (t.disp die).sent = rowPacket die true n y (bWidth b) (List.replicate 23040 0) ∧ (t.disp die).nextRow = d.nextRow + 1)))
    ∧ (∀ flit : BitVec 256, (s.report_ die (natLe 32 flit.toNat)).stop = none → d.linkUp = true →
        ∀ i, (i = .gaze die flit ∧ (flit.extractLsb' 0 16).toNat = 2) ∨ (i = .pose die flit ∧ (flit.extractLsb' 0 16).toNat = 3)
            ∨ (i = .panelStatus die flit ∧ (flit.extractLsb' 0 16).toNat = 4) ∨ (i = .position die flit ∧ (flit.extractLsb' 0 16).toNat = 5) →
          ∃ t, exec i s = .next t ∧ t.groups = s.groups
            ∧ (t.disp die).reportSeq = d.reportSeq + (if d.block.isSome && d.granted.isSome then 1 else 0)
            ∧ (t.disp die).gaze = if i = .gaze die flit ∧ flit.getLsbD 96 = true
                then some ((flit.extractLsb' 64 16).toNat / 16, (flit.extractLsb' 80 16).toNat / 16) else d.gaze)
    ∧ (d.block = none → (d.linkUp = true → ∃ t, exec (.sirricLinkDown die) s = .next t ∧ s.OnlyDisplay t die
        ∧ t.disp die = { d with linkUp := false })
      ∧ (d.linkUp = false → s.host.service ≠ .reset → ∃ t, exec (.sirricLinkUp die) s = .next t ∧ s.OnlyDisplay t die
        ∧ t.disp die = { d with linkUp := true })
      ∧ (s.host.service = .reset → exec (.sirricLinkUp die) s = .next s))
    ∧ ∀ spans, (if d.patternRow = 0 then d.patternNext.or d.pattern else d.pattern.or d.patternNext) = some spans →
        (d.linkUp = false ∨ s.ns < d.patternAt → exec (.patternSweep die) s = .next s)
        ∧ (d.linkUp = true → d.patternAt ≤ s.ns →
          let y := d.patternRow
          let since := if y = 0 then s.ns else d.patternSince
          ∃ t n, exec (.patternSweep die) s = .next t ∧ (y ≠ 0 → n = d.patternSweep) ∧ t.groups = s.groups
            ∧ t.dies = (s.updDisp die (fun d => { d with
                pattern := some spans, patternNext := if y = 0 then none else d.patternNext, patternSweep := n
                patternSince := since, patternRow := (y + 1) % 6144, patternAt := since + (y + 1) * 33333333 / 6144
                sent := rowPacket die false n y 6144 (packPixels (patternPixels spans)) })).dies)

/-! ### Contexts and the host -/

/-- R172, R430 to R433, R444, R451: THE COMMANDS FOR CONTEXTS. A command in a state that does not allow it ends with RESULT 2, an unknown one
with RESULT 3. LOAD_CTX checks its payload and its descriptor in order, and loads: the windows of both dies are zeroed with the
first load (log entry 41). UNLOAD_CTX is refused while the context is in use; where it is not, writes that wait on path M reach their homes first;
PREEMPT posts its request; SET_INDEX and SET_PEER record indices and ports while no context is loaded. The DETAIL of a
refusal that the manual does not state is free (log entry 15). -/
def Obligations.ContextCommands : Prop :=
  (∀ (s : State) (i : Instr) (code : Nat) (avail : List Service), MailboxCommand i code avail → s.stop = none →
    (s.Commanded code → s.host.service ∉ avail → s.host.testing = none →
      exec i s = .next { s with host := { s.host with go := false, result := 2, detail := 0 } })
    ∧ (s.host.go = false ∨ s.host.cmd ≠ code → exec i s = .next s))
  ∧ (∀ s : State, s.host.go = true → s.host.cmd ∉ [0x01, 0x02, 0x03, 0x04, 0x05, 0x10, 0x11, 0x12, 0x13, 0x14, 0x15, 0x16, 0x20, 0x21] →
      exec .unknownCommand s = .next { s with host := { s.host with go := false, result := 3, detail := 0 } })
  ∧ ∀ s : State, s.stop = none → s.host.go = true → s.host.service = .full →
      (s.host.cmd = 0x01 → let p := s.payload64 0
        let ctx := p % 2 ^ 8
        let dies := p / 2 ^ 8 % 4
        let pa := p / 2 ^ 16
        let key := homeKey (p / 2 ^ 10 % 2) pa
        let raw := s.homeNat key 256
        let c := ctxOf raw (p / 2 ^ 10 % 2) pa
        let good := dies ≠ 0 ∧ p / 2 ^ 11 % 2 ^ 5 = 0 ∧ pa % 256 = 0 ∧ pa < 45 * 2 ^ 30
        let free := ∀ d < 2, dies / 2 ^ d % 2 = 1 → (s.ctx ctx).dies.getLsbD d = false
        let refused := fun d : Nat => ∃ t, exec .loadCtx s = .next t ∧ t.Replied 1 d ∧ s.OnlyHost t
        (¬ good → refused 0x8001) ∧ (good → ¬ free → refused 0x8002)
        ∧ (∀ off, good → free → descFault raw = some off → refused off)
        ∧ (good → free → descFault raw = none → (∃ d < 2, dies / 2 ^ d % 2 = 1 ∧ c.disp.getLsbD d = true ∧ (s.disp d).granted ≠ none) →
            refused 0x8003)
        ∧ ∀ die < 2, good → free → descFault raw = none → PlainDescriptor c → dies = 2 ^ die → (s.ctx ctx).dies = 0#2 →
            ∃ t, exec .loadCtx s = .next t ∧ t.Replied 0 0 ∧ t.ctx ctx = { c with dies := 1#2 <<< die, seen := s.descWords c }
              ∧ (∀ h, h ≠ ctx → t.ctx h = s.ctx h) ∧ t.groups = s.groups ∧ t.teams = s.teams ∧ (∀ k, t.homeByte k = s.homeByte k)
              ∧ (∀ k, (wharfKey 0 (c.whBase0 * 2 ^ 16) ≤ k ∧ k < wharfKey 0 (c.whBase0 * 2 ^ 16) + c.whSize0 * 2 ^ 16)
                  ∨ (wharfKey 1 (c.whBase1 * 2 ^ 16) ≤ k ∧ k < wharfKey 1 (c.whBase1 * 2 ^ 16) + c.whSize1 * 2 ^ 16) →
                  tget? t.wharf k = none)
              ∧ ∀ n < 64, tget? (t.die die).graphs (ctx * 4096 + 65 * n) = some (1#64, 0#64))
      ∧ (s.host.cmd = 0x02 → (∀ c < 32, (s.core c).bins = []) → ∀ die < 2, s.payload16 0 / 2 ^ 8 % 4 = 2 ^ die →
          let ctx := s.payload16 0 % 2 ^ 8
          (s.ctx ctx).dies = 1#2 <<< die → rising s.ctxs → s.drainAll.stop = none →
          (s.inUse die ctx = true → ∃ t d, exec .unloadCtx s = .next t ∧ t.Replied 1 d ∧ t.ctxs = s.ctxs)
          ∧ (s.inUse die ctx = false → ∃ t, exec .unloadCtx s = .next t ∧ t.Replied 0 0 ∧ tget? t.ctxs ctx = none
              ∧ (∀ h, h ≠ ctx → tget? t.ctxs h = tget? s.ctxs h) ∧ ((s.disp die).granted = some ctx → (t.disp die).granted = none)
              ∧ t.groups = s.groups ∧ t.mq = [] ∧ ∀ k, t.homeByte k = s.drainAll.homeByte k))
      ∧ (s.host.cmd = 0x03 →
          (3 ≤ s.payloadByte 4 → ∃ t, exec .preemptCmd s = .next t ∧ t.Replied 1 4 ∧ s.OnlyHost t)
          ∧ (s.payloadByte 4 < 3 → let q := preemptReq (BitVec.ofNat 32 (s.payload32 0)) (s.payloadByte 4) 0xFF
              ∃ t, exec .preemptCmd s = .next t ∧ t.Replied 0 0 ∧ t.groups = s.groups ∧ ∀ d < 2, (t.die d).preempts = (s.die d).preempts
                ++ if q.cores.any (fun c => decide (dieOf c = d)) then [{ q with cores := q.cores.filter (fun c => decide (dieOf c = d)) }] else []))
      ∧ (s.host.cmd = 0x04 →
          (s.ctxs ≠ [] → ∃ t d, exec .setIndex s = .next t ∧ t.Replied 1 d ∧ t.modIndex = s.modIndex ∧ t.host.port = s.host.port)
          ∧ (s.ctxs = [] → exec .setIndex s = .next { s with
              modIndex := s.payloadByte 0 % 4
              host := { s.host with port := some (s.payloadByte 1), go := false, result := 0, detail := 0 } }))
      ∧ (s.host.cmd = 0x05 → let m := s.payloadByte 0 % 4
          (s.ctxs ≠ [] ∨ m = s.modIndex → ∃ t d, exec .setPeer s = .next t ∧ t.Replied 1 d ∧ t.host.peers = s.host.peers)
          ∧ (s.ctxs = [] → m ≠ s.modIndex → exec .setPeer s = .next { s with host := { s.host with
              peers := if s.payloadByte 2 % 2 = 1 then tset s.host.peers m (s.payloadByte 1) else tdel s.host.peers m
              go := false, result := 0, detail := 0 } }))

/-- R443 to R447, R450, R451, R452: WHAT THE HOST REACHES. Writes of mailbox registers take effect while GO is 0 and are discarded while it is
1. A host address inside a decoder stands for the device address above the decoder's base; one outside reaches nothing (log entry 42). There the
host reads what stands at the home slice and writes; before Full it reads poison and writes nothing. A
write to a sealed range is performed and recorded. A write of a tail line and a snoop of it wake its queue. A write of 0 to GO leaves
it 0 (log entry 43). -/
def Obligations.HostAccesses : Prop :=
  (∀ (s : State) (off : Nat) (value : BitVec 32),
    (s.host.service = .reset ∨ s.host.go = true → exec (.mailboxRegisterWrite off value) s = .next s)
    ∧ (s.host.service ≠ .reset → s.host.go = false →
      (off = 0x1000 → exec (.mailboxRegisterWrite off value) s = .next { s with host := { s.host with go := value.getLsbD 0 } })
      ∧ (off = 0x1004 → exec (.mailboxRegisterWrite off value) s
          = .next { s with host := { s.host with cmd := value.toNat % 2 ^ 16 } })
      ∧ (0x1800 ≤ off → off < 0x2000 → off % 4 = 0 → ∃ t, exec (.mailboxRegisterWrite off value) s = .next t ∧ s.OnlyHost t
          ∧ t.host = { s.host with payload := t.host.payload } ∧ t.payload32 (off - 0x1800) = value.toNat
          ∧ ∀ i, i < off - 0x1800 ∨ off - 0x1800 + 4 ≤ i → t.payloadByte i = s.payloadByte i)
      ∧ (off < 0x1000 ∨ off = 0x1008 ∨ 0x2000 ≤ off → exec (.mailboxRegisterWrite off value) s = .next s)))
  ∧ (∀ (s : State) (d base : Nat), d < 2 → s.host.service ≠ .reset → exec (.hdmDecoderProgram d base) s
      = .next { s with host := { s.host with decoders := tset s.host.decoders d base } })
  ∧ (∀ (s : State) (die addr n : Nat) (bs : List Byte),
      tget? s.host.decoders die = none ∨ (∃ base, tget? s.host.decoders die = some base ∧ (addr < base ∨ base + 45 * 2 ^ 30 ≤ addr)) →
      exec (.hostMemRead die addr n) s = .next s ∧ exec (.hostMemWrite die addr bs) s = .next s)
  ∧ (∀ (s : State) (die base pa n : Nat), die < 2 → pa < 45 * 2 ^ 30 → pa + n ≤ 45 * 2 ^ 30 → tget? s.host.decoders die = some base →
      (s.host.service = .full → exec (.hostMemRead die (base + pa) n) s = .next { s with host := { s.host with
          readData := s.homeBytes (homeKey die pa) n, readPoison := s.poisoned (homeKey die pa) n } })
      ∧ (s.host.service ≠ .full → s.host.service ≠ .reset →
          exec (.hostMemRead die (base + pa) n) s = .next { s with host := { s.host with readData := [], readPoison := true } }
          ∧ ∀ bs : List Byte, bs.length = n → exec (.hostMemWrite die (base + pa) bs) s = .next s)
      ∧ (s.host.service = .full → s.stop = none → ∀ bs : List Byte, bs.length = n → bs ≠ [] →
          let hits := s.sealedAt (homeKey die pa) n
          hits = [] ∨ (s.die die).errRing = none → ∃ t, exec (.hostMemWrite die (base + pa) bs) s = .next t ∧ t.cores = s.cores
            ∧ t.groups = s.groups ∧ t.homeBytes (homeKey die pa) n = bs
            ∧ (∀ k, k < homeKey die pa ∨ homeKey die pa + n ≤ k → t.homeByte k = s.homeByte k)
            ∧ (t.die die).errSeq = (s.die die).errSeq + hits.length
            ∧ ∀ d < 2, ∀ q queue k, tget? (s.die d).hostQueues q = some queue →
                classify ((s.putHome (homeKey die pa) bs).walk d (q / 16) queue.tailVa).1 .read false queue.tailVa = .ok k →
                tget? (t.die d).hostQueues q = some { queue with
                  woken := queue.woken || decide (homeKey die pa / 64 ≤ k / 64 ∧ k / 64 ≤ (homeKey die pa + n - 1) / 64) }))
  ∧ ∀ (s : State) (die line : Nat), ∃ t, exec (.hostSnoop die line) s = .next t
      ∧ t.groups = s.groups ∧ (∀ k, t.homeByte k = s.homeByte k)
      ∧ ∀ key q k, tget? (s.die die).hostQueues key = some q →
          classify (s.walk die (key / 16) q.tailVa).1 .read false q.tailVa = .ok k →
          ∃ q', tget? (t.die die).hostQueues key = some q' ∧ q' = { q with woken := q.woken || decide (k / 64 = homeKey 0x80 (line * 64) / 64) }

/-! ### Bring-up, reset and power -/

/-- R452, R455, R469: RESET AND REDUCED. Power-good, loss of power, a reset or loss of the link, and MODULE_RESET after
its answer take the module to Reset; the link trains where it may, and the module is in Reduced. MODULE_RESET answers
first, and Reset follows within 1 ms. R452 to R454, R457, R468: THE FIRMWARE IMAGE AND START-UP. FW_WRITE appends or
starts again; FW_START leads to Verifying; checks that pass let start-up go on and a failed one returns the module to
Reduced with its code in FWFAIL (log entry 16: the rows that each start finds). Start-up zeroes memory and the Wharf, seeds what must not be zero, starts time at 0,
sets each die's clock to the operating point of the envelope (log entry 64) and enters Full; with rows it cannot repair it returns to Reduced with code 6, and the
repair log keeps what failed. ADVANCE_SVN burns a fuse at a time, and
answers the counter. -/
def Obligations.BringUpAndReset : Prop :=
  ((∀ (s : State) (i : Instr), (i = .powerGood ∧ s.host.powered = false) ∨ i = .powerLoss
       ∨ (i = .linkReset ∧ s.host.service ≠ .reset) ∨ (i = .enterReset ∧ s.host.resetBy ≠ none) →
     ∃ t, exec i s = .next t ∧ s.InReset t ∧ t.host.powered = (if i = .powerGood then true else if i = .powerLoss then false else s.host.powered))
   ∧ (∀ s : State,
       (s.host.powered = true → exec .powerGood s = .next s) ∧ (s.host.service = .reset → exec .linkReset s = .next s)
       ∧ (s.host.resetBy = none → exec .enterReset s = .next s)
       ∧ (s.host.service = .reset → s.host.powered = true → s.host.hot = false ∨ s.cool = true →
           exec .cxlLinkUp s = .next { s with host := { s.host with service := .reduced, hot := false } })
       ∧ (s.host.service ≠ .reset ∨ s.host.powered = false ∨ (s.host.hot = true ∧ s.cool = false) → exec .cxlLinkUp s = .next s))
   ∧ ∀ s : State, s.Commanded 0x16 → s.host.service ≠ .reset →
       ∃ t, exec .moduleReset s = .next t ∧ t.Replied 0 0 ∧ s.OnlyHost t ∧ t.host.service = s.host.service
         ∧ ∃ at_, t.host.resetBy = some at_ ∧ at_ ≤ s.ns + 1000000)
  ∧ ((∀ s : State, s.Commanded 0x10 → s.host.service = .reduced →
       let off := s.payload32 0
       let len := s.payload16 4
       let form := len % 4 = 0 ∧ 4 ≤ len ∧ len ≤ 2016 ∧ (∀ i < 26, s.payloadByte (6 + i) = 0) ∧ (off = 0 ∨ off = s.host.image.length)
       ∃ t, exec .fwWrite s = .next t ∧ s.OnlyHost t
         ∧ (¬ form → t.Replied 1 0 ∧ t.host.image = s.host.image)
         ∧ (form → 2 ^ 24 < off + len → t.Replied 1 4 ∧ t.host.image = s.host.image)
         ∧ (form → off + len ≤ 2 ^ 24 → t.Replied 0 0
             ∧ t.host.image = (if off = 0 then [] else s.host.image) ++ (List.range len).map (fun i => byteAt s.host.payload (32 + i))))
     ∧ (∀ s : State, s.Commanded 0x11 → s.host.service = .reduced → ∃ t, exec .fwStart s = .next t ∧ t.Replied 0 0 ∧ s.OnlyHost t
         ∧ t.host.service = .verifying ∧ t.host.verified = false ∧ t.host.image = s.host.image)
     ∧ (∀ s : State, s.host.service = .verifying → s.host.verified = false →
         (imageFault s.host.image s.host.fused = 0 → exec .fwVerifyDone s = .next { s with host := { s.host with verified := true } })
         ∧ (imageFault s.host.image s.host.fused ≠ 0 → ∃ t, exec .fwVerifyDone s = .next t ∧ s.OnlyHost t ∧ t.host.service = .reduced
             ∧ t.host.fwFail = imageFault s.host.image s.host.fused ∧ t.host.fused = s.host.fused))
     ∧ (∀ (s : State) (failing short : List Nat), s.host.service = .verifying → s.host.verified = true →
         (short ≠ [] → (s.die 0).errRing = none → ∃ t, exec (.firmwareStartup failing short) s = .next t
           ∧ t.host.service = .reduced ∧ t.host.fwFail = 6 ∧ t.groups = s.groups
           ∧ ∀ row, row ∈ t.host.repairLog ↔ row ∈ s.host.repairLog ∨ row ∈ failing ∨ row ∈ short)
         ∧ (short = [] → ∃ t, exec (.firmwareStartup failing []) s = .next t ∧ t.host.repairLog = s.host.repairLog
             ∧ (t.die 0).errLost = (s.die 0).errLost + 1 ∧ t.host.service = .full ∧ t.host.fwRun = true
             ∧ t.host.svn = leNat (imageBytes s.host.image 8 4) ∧ t.host.fused = s.host.fused ∧ t.ns = 0
             ∧ (∀ key, outsideHome key = false → t.homeByte key = 0#8 ∧ t.poisoned key 1 = false)
             ∧ (∀ key, outsideHome key = true → byteAt t.mem key = byteAt s.mem key)
             ∧ t.wharf = [] ∧ (t.die 0).point = Config.pointFor 0 s.host.envelope ∧ t.host.clk0 = clockOf 0 (t.die 0).point
             ∧ (t.die 1).point = Config.pointFor 1 s.host.envelope ∧ t.host.clk1 = clockOf 1 (t.die 1).point ∧ (∀ c < 32, (t.core c).lfsr ≠ 0#16)
             ∧ ∀ d < 2, (∀ k < 384, ∃ g, tget? (t.die d).bankGen k = some g ∧ g ≠ 0#32)
                 ∧ (t.die d).keeper = [] ∧ (t.die d).dcs = [] ∧ (t.die d).errRing = none ∧ (t.disp d).missed = 0
                 ∧ (t.disp d).dropped = 0 ∧ (t.disp d).evicted = 0 ∧ (t.disp d).mirrorIn = 0 ∧ (t.disp d).rowRej = 0
                 ∧ (t.disp d).pattern = (s.disp d).pattern))
     ∧ ∀ s : State, s.Commanded 0x12 → s.host.service = .full →
         ∃ t, exec .advanceSvn s = .next t ∧ s.OnlyHost t ∧ t.host.svn = s.host.svn
           ∧ t.host.fused = (if s.host.fused + 1 < s.host.svn then s.host.fused + 1 else max s.host.fused s.host.svn)
           ∧ (s.host.fused + 1 < s.host.svn → t.host.go = true)
           ∧ (s.host.svn ≤ s.host.fused + 1 → t.Replied 0 0 ∧ t.payloadByte 0 = max s.host.fused s.host.svn % 256))

/-- R24, R454, R456, R466: THE FIRMWARE'S OTHER COMMANDS. SET_ENVELOPE takes a power inside its limits, and in Full
gives each die its operating point, a die that heat limits no higher one than it has (log entry 64); MEMTEST begins, keeps GO at 1 until
it ends, answers its counts and leaves the memory of the named dies zero; PATTERN hands its spans to the ports it names that no control block governs; ERR_RING places a
die's ring, and what was lost before counts in OVERFLOW; SENSORS answers the 24 readings. What PATTERN and SENSORS answer as DETAIL is log entry 43. -/
def Obligations.FirmwareCommands : Prop :=
  (∀ s : State, s.Commanded 0x13 → s.host.service = .reduced ∨ s.host.service = .full → ∃ t, exec .setEnvelope s = .next t
    ∧ t.groups = s.groups ∧ t.teams = s.teams ∧ t.cores = s.cores ∧ (∀ k, t.homeByte k = s.homeByte k)
    ∧ (95 ≤ s.payload16 0 ∧ s.payload16 0 ≤ 300 → t.Replied 0 0 ∧ t.host.envelope = s.payload16 0
        ∧ (s.host.service = .reduced → s.OnlyHost t)
        ∧ (s.host.service = .full → ∀ d < 2, if (s.die d).thermal = 0 then
            t.die d = { s.die d with chamberLimit := 96, point := Config.pointFor d (s.payload16 0) }
              ∧ (if d = 0 then t.host.clk0 else t.host.clk1) = clockOf d (Config.pointFor d (s.payload16 0))
          else let p := min (s.die d).point (Config.pointFor d (s.payload16 0))
            t.die d = { s.die d with point := p } ∧ (if d = 0 then t.host.clk0 else t.host.clk1) = clockOf d p))
    ∧ (s.payload16 0 < 95 ∨ 300 < s.payload16 0 → t.Replied 1 0 ∧ s.OnlyHost t ∧ t.host.envelope = s.host.envelope))
  ∧ (∀ s : State, s.Commanded 0x14 → s.host.service = .reduced → s.host.testing = none →
      exec .memtest s = .next { s with host := { s.host with testing := some (s.payloadByte 0 % 4) } })
  ∧ (∀ (s : State) (m c u : Nat), s.host.testing = some m → m < 4 → ∃ t, exec (.memtestComplete c u) s = .next t ∧ t.Replied 0 0
      ∧ t.host.testing = none ∧ t.payload64 8 = c % 2 ^ 64 ∧ t.payload64 16 = u % 2 ^ 64
      ∧ t.payload64 0 = (m % 2 + m / 2) * (45 * 2 ^ 30 / 32) ∧ t.groups = s.groups
      ∧ (∀ key, key < 2 ^ 49 → m / 2 ^ (key / 2 ^ 48) % 2 = 1 → t.homeByte key = 0#8)
      ∧ (rising s.mem → rising s.l2 → ∀ key, 2 ^ 49 ≤ key ∨ m / 2 ^ (key / 2 ^ 48) % 2 = 0 → t.homeByte key = s.homeByte key))
  ∧ (∀ s : State, s.Commanded 0x15 → s.host.service ≠ .reset →
      let n := s.payloadByte 1
      let bad := fun i : Nat => s.payloadByte (8 + 8 * i + 5) ≠ 0 ∨ s.payload16 (8 + 8 * i + 6) ≠ 0
      (n = 0 → ∃ t, exec .pattern s = .next t ∧ t.Replied 1 1 ∧ s.OnlyHost t)
      ∧ (∀ i < n, bad i → (∀ j < i, ¬ bad j) → ∃ t, exec .pattern s = .next t ∧ t.Replied 1 (8 + 8 * i + 5) ∧ s.OnlyHost t)
      ∧ (n ≠ 0 → (∀ i < n, ¬ bad i) → ∃ t, exec .pattern s = .next t ∧ t.Replied 0 0 ∧ t.groups = s.groups ∧ ∀ d < 2,
          let x := s.disp d
          if s.payloadByte 0 / 2 ^ d % 2 = 0 ∨ (x.enableBit = true ∧ x.pattern = none ∧ x.patternNext = none) then t.disp d = x
          else t.disp d = { x with
            patternNext := some ((List.range n).map (fun i => s.payload64 (8 + 8 * i)))
            patternAt := if x.pattern.isSome then x.patternAt else s.ns }))
  ∧ (∀ s : State, s.Commanded 0x20 → s.host.service = .full →
      let pa := s.payload64 0
      let die := s.payloadByte 8
      let n := s.payloadByte 9
      let refused := fun d : Nat => ∃ t, exec .errRing s = .next t ∧ t.Replied 1 d ∧ s.OnlyHost t
      (pa % 4096 ≠ 0 ∨ 45 * 2 ^ 30 ≤ pa → refused 0)
      ∧ (pa % 4096 = 0 → pa < 45 * 2 ^ 30 → 2 ≤ die → refused 8)
      ∧ (pa % 4096 = 0 → pa < 45 * 2 ^ 30 → die < 2 → n < 4 ∨ 16 < n → refused 9)
      ∧ (pa % 4096 = 0 → die < 2 → 4 ≤ n → n ≤ 16 → pa + 4096 + 64 * 2 ^ n ≤ 45 * 2 ^ 30 →
          ∃ t, exec .errRing s = .next t ∧ t.Replied 0 0 ∧ (t.die die).errRing = some (pa, n) ∧ (t.die die).errLost = 0
            ∧ t.homeNat (homeKey die pa + 128) 4 = (s.homeNat (homeKey die pa + 128) 4 + (s.die die).errLost) % 2 ^ 32
            ∧ ∀ k, k < homeKey die pa + 128 ∨ homeKey die pa + 132 ≤ k → t.homeByte k = s.homeByte k))
  ∧ ∀ s : State, s.Commanded 0x21 → s.host.service = .reduced ∨ s.host.service = .full →
      let die := s.payloadByte 0
      (2 ≤ die → ∃ t, exec .sensors s = .next t ∧ t.Replied 1 0 ∧ s.OnlyHost t)
      ∧ (die < 2 → ∃ t, exec .sensors s = .next t ∧ t.Replied 0 0 ∧ s.OnlyHost t
          ∧ ∀ i < 24, (s.die die).sensors.length = 24 →
              t.payload16 (2 * i) = (BitVec.ofInt 16 ((s.die die).sensors.getD i 0)).toNat)

/-- R24, R25, R469, R471, R472: HEAT, POWER AND GATING. A reading that changes the step is recorded, and step 3 leads to Reset, hot; in Full the
other steps reduce the die's power, and step 0 ends that. Firmware reduces in order, chambers first and then the clock to the next
lower operating point, without changing a value (log entry 64); what a step does outside Full is log entry 44. A core in droop delivers the named cycles no more. A core idle for 20 µs
drops its caches and asks to be gated; 80 cycles later it is, unless a wake has come by then; a wake ends either, and it takes work again once it has
powered up. -/
def Obligations.HeatAndPower : Prop :=
  (∀ (s : State) (die : Nat) (r : List Int), die < 2 → r.length = 24 → s.stop = none → (s.die die).errRing = none →
    let hot := (hottest r).2
    let n := thermalStep (s.die die).thermal hot
    (∀ x ∈ r, x ≤ hot) ∧ hot ∈ r
    ∧ (s.host.service = .reset ∨ (n = (s.die die).thermal ∧ (n = 0 ∨ s.host.service ≠ .full)) → exec (.thermalSample die r) s
        = .next (s.updDie die (fun d => { d with sensors := r })))
    ∧ (s.host.service = .full → n = (s.die die).thermal → n = 1 ∨ n = 2 → ∃ t, exec (.thermalSample die r) s = .next t
        ∧ (t.die die).sensors = r ∧ (t.die die).errSeq = (s.die die).errSeq ∧ t.groups = s.groups ∧ s.Reduced t die n)
    ∧ (s.host.service ≠ .reset → n ≠ (s.die die).thermal →
        (n ≠ 3 → ∃ t, exec (.thermalSample die r) s = .next t ∧ (t.die die).sensors = r ∧ (t.die die).thermal = n
          ∧ (t.die die).errSeq = (s.die die).errSeq + 1 ∧ t.groups = s.groups
          ∧ (s.host.service ≠ .full → t.host = s.host) ∧ (s.host.service = .full → s.Reduced t die n))
        ∧ (n = 3 → ∃ t, exec (.thermalSample die r) s = .next t ∧ t.host.service = .reset ∧ t.host.hot = true ∧ t.groups = []
          ∧ (t.die die).sensors = r))
    ∧ (n = 3 ↔ 250 ≤ hot) ∧ (n = 0 → hot < 200) ∧ ((s.die die).thermal ≠ 0 → n = 0 → hot < 194))
  ∧ (∀ (s : State) (die clock chambers : Nat), s.host.service = .full → die < 2 →
      let d := s.die die
      ∃ t, exec (.shedPower die clock chambers) s = .next t ∧ t.groups = s.groups ∧ t.teams = s.teams ∧ t.cores = s.cores
        ∧ (∀ key, t.homeByte key = s.homeByte key)
        ∧ (d.chamberLimit ≠ 0 → t.die die = { d with chamberLimit := min chambers d.chamberLimit } ∧ t.host = s.host)
        ∧ (d.chamberLimit = 0 → clock ≠ 0 → d.point ≠ 0 → t.die die = { d with point := d.point - 1 }
            ∧ (if die = 0 then t.host.clk0 else t.host.clk1) = clockOf die (d.point - 1))
        ∧ (d.chamberLimit = 0 → clock = 0 ∨ d.point = 0 → t = s))
  ∧ (∀ die p q, p < q → clockOf die p < clockOf die q)
  ∧ ∀ (s : State) (core : Nat),
      let c := s.core core
      (core < 32 → ∀ n, exec (.droop core n) s = .next (s.updCore core (fun c => { c with droop := c.droop + n })))
      ∧ (∀ since, c.idleSince = some since → c.off = false → c.gateAt = none → s.coreIdle core c = true →
          (s.ns < since + 20000 → exec (.coreIdleGate core) s = .next s)
          ∧ (since + 20000 ≤ s.ns → exec (.coreIdleGate core) s = .next (s.updCore core (fun c => { c with
              l1 := [], sampler := [], fetchBuf := [], tlb := [], stlb := [], gateAt := some c.cycles }))))
      ∧ (∀ at_, c.gateAt = some at_ →
          (s.wakeDue core = true → ∃ w, exec (.gateIsolation core) s
              = .next (s.updCore core (fun c => { c with gateAt := none, wakeAt := some w })) ∧ s.ns ≤ w)
          ∧ (s.wakeDue core = false → c.cycles < at_ + 80 → exec (.gateIsolation core) s = .next s)
          ∧ (s.wakeDue core = false → at_ + 80 ≤ c.cycles →
              exec (.gateIsolation core) s = .next (s.updCore core (fun c => { c with gateAt := none, gated := true })))
          ∧ ∃ t w, exec (.coreWake core) s = .next t ∧ t.core core = { c with gateAt := none, wakeAt := some w } ∧ s.ns ≤ w)
      ∧ (c.gateAt = none → c.gated = true → ∃ t w, exec (.coreWake core) s = .next t
          ∧ t.core core = { c with gated := false, wakeAt := some w } ∧ s.ns ≤ w)
      ∧ ∀ at_, c.wakeAt = some at_ → (s.ns < at_ → exec (.corePoweredUp core) s = .next s)
          ∧ (at_ ≤ s.ns → exec (.corePoweredUp core) s = .next (s.updCore core (fun c => { c with wakeAt := none })))

/-- R448, R458, R462 to R468: ERRORS THAT THE CHECK CODES FIND, in the states of log entry 18 (a turn of the agenda names them; the ring not yet
placed). A correction changes no byte and raises the die's total, and is recorded once a second for a frame or bank. An
uncorrectable error in a dirty L2 atom or an LPDDR6 atom leaves it poisoned, charged to the frame's owner, and so a Wharf
element, a scratchpad line, an accumulator element, a chamber row and a register of a lane; a clean line leaves the cache it stood in,
and that one alone; a Basin record is gone and counts as DROPPED; in a
store of the scheduler it stops the die. R290, R297, R361: a line that leaves a cache changes no byte of memory; the oldest
write that waits on path M reaches its home; firmware sets the preemption threshold, and ends an update of its table; the host writes
its own memory; accesses to a line outside the module begin or cease to fail. -/
def Obligations.ErrorsMarkPoison : Prop :=
  ∀ (r : State) (t : Turn) (rest : List Turn) (e : Incident) (s : State), r.agenda = t :: rest → t.move = .incident e →
    (t.passes = true → r.due = none) → s = { r with agenda := rest }.elapse t.ns t.cycles → s.host.service = .full →
    s.stop = none → (∀ d, (s.die d).errRing = none) → (e = .drainM → s.drainOne.stop = none) →
    ∃ u, step r = settle (.next u)
      ∧ ((∀ gid op line, e ≠ .spadLine gid op line) → (∀ gid reg l, e ≠ .register gid reg l) → u.groups = s.groups)
      ∧ (∀ gid reg l x, e = .register gid reg l → tget? s.groups gid = some x → reg < x.n → l < 32 →
          (u.group gid).bad = x.bad ++ [reg * 32 + l] ∧ (u.group gid).k = x.k ∧ (u.group gid).waves = x.waves
          ∧ (∀ q, q ≠ gid → u.group q = s.group q) ∧ u.mem = s.mem
          ∧ (u.die (dieOf (s.team x.team).core)).errSeq = (s.die (dieOf (s.team x.team).core)).errSeq + 1)
      ∧ (∀ core cache bank line, e = .cleanLine core cache bank line → core < 32 → cache < 3 →
          let c := s.core core
          u.core core = (if cache = 0 then { c with l1 := tdel c.l1 line } else if cache = 1 then { c with sampler := tdel c.sampler line }
            else { c with fetchBuf := tdel c.fetchBuf line })
          ∧ (u.die (dieOf core)).corrected = (s.die (dieOf core)).corrected + 1 ∧ u.poison = s.poison ∧ ∀ key, u.homeByte key = s.homeByte key)
      ∧ (∀ line fails key, e = .lineFails line fails → u.mem = s.mem ∧ u.l2 = s.l2
          ∧ u.unreachable key = (if key / 128 = line then (outsideHome key && fails) || { s with failing := [] }.unreachable key
            else s.unreachable key))
      ∧ (∀ addr bs, e = .hostWrite addr bs → addr + bs.length ≤ 2 ^ 47 → rising s.l2 →
          u.homeBytes (homeKey 0x80 addr) bs.length = bs
          ∧ ∀ key, key < homeKey 0x80 addr ∨ homeKey 0x80 addr + bs.length ≤ key → u.homeByte key = s.homeByte key)
      ∧ (e = .tableDone → u = { s with host := { s.host with gen := (s.host.gen + s.host.gen % 2) % 2 ^ 32 } })
      ∧ (∀ die store bank pa row day, e = .corrected die store bank pa row day → (u.die die).corrected = (s.die die).corrected + 1 ∧ u.poison = s.poison
          ∧ (∀ key, u.homeByte key = s.homeByte key)
          ∧ ((s.die die).recorded = [] → (u.die die).errSeq = (s.die die).errSeq + 1)
          ∧ ((store, bank, s.ns) ∈ (s.die die).recorded → (u.die die).errSeq = (s.die die).errSeq)
          ∧ (store = 0 → u.host = s.host)
          ∧ (store ≠ 0 → (∀ x ∈ s.host.repairLog, x ∈ u.host.repairLog) ∧ ∀ d1 d2, d1 ≠ day → d2 ≠ day → d1 ≠ d2 →
              (row, d1) ∈ s.host.rowDays → (row, d2) ∈ s.host.rowDays → row ∈ u.host.repairLog))
      ∧ (∀ die pa, die < 2 → pa < 45 * 2 ^ 30 → (e = .lpddrAtom die pa
            ∨ ∃ wb, e = .l2Atom die pa wb ∧ ∃ i < 32, tget? s.l2 (homeKey die (pa / 32 * 32) + i) ≠ none) →
          (∀ key n, 0 < n → u.poisoned key n = (s.poisoned key n
            || decide (homeKey die (pa / 32 * 32) < key + n ∧ key < homeKey die (pa / 32 * 32) + 32)))
          ∧ (u.die die).errSeq = (s.die die).errSeq + 1 ∧ (∀ key, u.homeByte key = s.homeByte key))
      ∧ (∀ die off, die < 2 → off < 2 ^ 27 → e = .wharfElement die off → u.wharfBad die off 1 = true ∧ u.wharf = s.wharf
          ∧ (u.die die).errSeq = (s.die die).errSeq + 1)
      ∧ (∀ die tile slot w, e = .basinRecord die tile slot → rising ((s.disp die).tile tile).slots →
          tget? ((s.disp die).tile tile).slots slot = some w →
          tget? ((u.disp die).tile tile).slots slot = none ∧ (u.disp die).dropped = (s.disp die).dropped + 1)
      ∧ (∀ team line x, tget? s.teams team = some x → e = .scratchpadLine team line → line < 2 ^ 14 →
          ∀ b, 128 * line ≤ b → b < 128 * line + 128 → u.poisoned (spadKey team b) 1 = true)
      ∧ (∀ team off n x, tget? s.teams team = some x → e = .accElement team off n → n = 2 ∨ n = 4 → off % 2 = 0 → off < 2 ^ 23 →
          u.poisoned (accKey team off) (16 * n) = true)
      ∧ (∀ team c x y, tget? s.teams team = some x → tget? x.chambers c = some y → e = .chamberRow team c →
          tget? (u.team team).chambers c = some { y with poisoned := true })
      ∧ (∀ die, e = .schedulerStore die → (u.die die).halted = true ∧ (u.die die).errSeq = (s.die die).errSeq + 1)
      ∧ (∀ home frame ctx, e = .frameOwner home frame ctx → home < 2 ^ 15 → frame < 2 ^ 32 →
          u.ownerAt (home * 2 ^ 48 + frame * 2 ^ 16) = ctx % 2 ^ 8)
      ∧ (∀ core cache line, e = .lineLeaves core cache line → u.host = s.host ∧ u.teams = s.teams ∧ ∀ key, u.homeByte key = s.homeByte key)
      ∧ (∀ value, e = .preemptThreshold value → u.host.preemptAt = value % 2 ^ 7 ∧ u.host.gen % 2 = 1 ∧ ∀ key, u.homeByte key = s.homeByte key)
      ∧ (∀ w ws, e = .drainM → s.mq = w :: ws → s.unreachable w.key = false →
          s.unreachable (w.key + w.bytes.length - 1) = false →
          u.mq = ws ∧ u.homeBytes w.key w.bytes.length = w.bytes
            ∧ ∀ key, key < w.key ∨ w.key + w.bytes.length ≤ key → u.homeByte key = s.homeByte key)

/-! ### What every step keeps, and what reset leaves -/

/-- R472 and the model's own end of a step: EVERY STEP LEAVES THE MACHINE SETTLED. No access that left a die's memory is pending, and
a core is marked idle exactly when it holds no team, no queue entry, no bin and no delta. -/
def Obligations.StepsLeaveTheMachineSettled : Prop :=
  ∀ s t : State, s.Settled → step s = .next t → t.Settled

/-- R15, R309, R451, R452, R455: RESET. The module is in Reset, and settled; its memory lists nothing, keeps its canonical form and reads as
zero; it holds no context, group, team or grid; the mailbox reads as zero; both Sirric links are down. Memory outside the
dies is log entry 3, and the reset values that the manual does not state log entry 11. -/
def Obligations.ResetIsEmpty : Prop :=
  let s := State.reset
  s.Settled ∧ s.host.service = .reset ∧ s.mem = [] ∧ Memory.wf s.mem = true ∧ (∀ key, s.homeByte key = 0#8) ∧ s.wharf = [] ∧ s.ctxs = []
    ∧ s.groups = [] ∧ s.teams = [] ∧ s.grids = [] ∧ s.modIndex = 0 ∧ (∀ off, 0x1000 ≤ off → s.barRead off = 0#32)
    ∧ (∀ die, (s.disp die).linkUp = false ∧ (s.disp die).granted = none ∧ (s.die die).keeper = [] ∧ (s.die die).dcs = []
        ∧ (s.die die).errRing = none)
    ∧ ∀ core, (s.core core).deltas = [] ∧ (s.core core).bins = [] ∧ (s.core core).queue = [] ∧ (s.core core).l1 = []
end

