-- ==== Sys2Proof/Laws/Tab.lean ====
section
/-! SUPPORT. Laws/Tab.lean: what the tables, the register files and the byte store give back after a write, and that the
byte store keeps its canonical form. -/
namespace Sys2Proof.Machine

/-! ### Tables -/

/-- An entry reads as it was set. -/
@[simp] theorem tget?_tset_same {α : Type} (t : Tab α) (k : Nat) (x : α) : tget? (tset t k x) k = some x := by
  induction t with
  | nil => simp [tset, tget?]
  | cons e t ih =>
    obtain ⟨j, y⟩ := e
    unfold tset
    split_ifs with h1 h2
    · simp [tget?]
    · simp [tget?]
    · simp [tget?, h1, h2, ih]

/-- Every other entry reads as before. -/
theorem tget?_tset_ne {α : Type} (t : Tab α) {k i : Nat} (x : α) (h : i ≠ k) : tget? (tset t k x) i = tget? t i := by
  induction t with
  | nil => simp [tset, tget?, h]
  | cons e t ih =>
    obtain ⟨j, y⟩ := e
    unfold tset
    split_ifs with h1 h2
    · simp only [tget?]
      split_ifs <;> first | rfl | omega
    · subst h2
      simp only [tget?, if_neg h]
    · simp only [tget?, ih]

/-- An entry reads as it was set, whatever the default. -/
@[simp] theorem tget_tset_same {α : Type} (t : Tab α) (k : Nat) (x d : α) : tget (tset t k x) k d = x := by
  simp [tget]

/-- Every other entry reads as before, whatever the default. -/
theorem tget_tset_ne {α : Type} (t : Tab α) {k i : Nat} (x d : α) (h : i ≠ k) : tget (tset t k x) i d = tget t i d := by
  simp [tget, tget?_tset_ne t x h]

/-- What a table reads after a set. -/
theorem tget_tset {α : Type} (t : Tab α) (k i : Nat) (x d : α) :
    tget (tset t k x) i d = if i = k then x else tget t i d := by
  split_ifs with h
  · subst h; simp
  · exact tget_tset_ne t x d h

/-! ### Register files -/

/-- A register reads as it was set. -/
theorem vecGet_vecSet {α : Type} {n : Nat} (v : Vector α n) (i j : Nat) (x d : α) :
    vecGet (vecSet v i x) j d = if j = i ∧ i < n then x else vecGet v j d := by
  unfold vecGet vecSet
  by_cases hj : j < n
  · simp only [hj, dif_pos]
    by_cases hi : i = j
    · subst hi; simp [hj]
    · rw [Vector.getElem_setIfInBounds_ne hj hi, if_neg (fun h => hi h.1.symm)]
  · have : ¬ (j = i ∧ i < n) := fun h => hj (h.1 ▸ h.2)
    simp [hj, this]

/-- The register that was written reads its new value. -/
theorem vecGet_vecSet_same {α : Type} {n : Nat} (v : Vector α n) {i : Nat} (x d : α) (h : i < n) :
    vecGet (vecSet v i x) i d = x := by simp [vecGet_vecSet, h]

/-- Every other register reads as before. -/
theorem vecGet_vecSet_ne {α : Type} {n : Nat} (v : Vector α n) {i j : Nat} (x d : α) (h : j ≠ i) :
    vecGet (vecSet v i x) j d = vecGet v j d := by simp [vecGet_vecSet, h]

/-! ### The byte store -/

/-- Below every listed address a store reads as unlisted. -/
theorem byteAt_of_canonFrom {l a : Nat} {m : Bytes} (h : canonFrom (some l) m = true) (ha : a ≤ l) :
    byteAt m a = unlisted := by
  cases m with
  | nil => rfl
  | cons c t =>
    obtain ⟨j, x⟩ := c
    simp [canonFrom] at h
    simp [byteAt, show a < j by omega]

/-- A lower bound may be lowered. -/
theorem canonFrom_mono {l k : Nat} {m : Bytes} (h : canonFrom (some l) m = true) (hk : k ≤ l) :
    canonFrom (some k) m = true := by
  cases m with
  | nil => rfl
  | cons c t =>
    obtain ⟨j, x⟩ := c
    simp [canonFrom] at h ⊢
    exact ⟨⟨by omega, h.1.2⟩, h.2⟩

/-- A lower bound may be dropped. -/
theorem canonFrom_none {l : Nat} {m : Bytes} (h : canonFrom (some l) m = true) : canonFrom none m = true := by
  cases m with
  | nil => rfl
  | cons c t =>
    obtain ⟨j, x⟩ := c
    simp [canonFrom] at h ⊢
    exact ⟨h.1.2, h.2⟩

/-- In canonical form nothing of a tail lies at or below the head. -/
theorem dropWhile_of_canonFrom {l : Nat} {m : Bytes} (h : canonFrom (some l) m = true) :
    m.dropWhile (fun c => decide (c.1 ≤ l)) = m := by
  cases m with
  | nil => rfl
  | cons c t =>
    obtain ⟨j, x⟩ := c
    simp [canonFrom] at h
    simp [List.dropWhile, show ¬ j ≤ l by omega]

/-- Writing a byte keeps the canonical form above a bound below its address. -/
theorem canonFrom_putByte {l a : Nat} {m : Bytes} (x : Byte) (h : canonFrom (some l) m = true) (hl : l < a) :
    canonFrom (some l) (putByte m a x) = true := by
  induction m generalizing l with
  | nil => unfold putByte; split_ifs <;> simp_all [canonFrom]
  | cons c t ih =>
    obtain ⟨j, y⟩ := c
    simp only [canonFrom, Bool.and_eq_true, decide_eq_true_eq] at h
    obtain ⟨⟨hlj, hy⟩, ht⟩ := h
    unfold putByte
    split_ifs with h1 h2 h3 h4
    · simp [canonFrom, hlj, hy, ht]
    · simp [canonFrom, hl, h1, h2, hy, ht]
    · subst h3
      rw [dropWhile_of_canonFrom ht]
      exact canonFrom_mono ht (by omega)
    · subst h3; simp [canonFrom, hl, h4, ht]
    · simp [canonFrom, hlj, hy, ih ht (by omega)]

/-- EVERY WRITE KEEPS THE CANONICAL FORM of a byte store. -/
theorem canon_putByte {m : Bytes} (a : Nat) (x : Byte) (h : m.canon = true) : (putByte m a x).canon = true := by
  cases m with
  | nil => unfold Bytes.canon putByte; split_ifs <;> simp_all [canonFrom]
  | cons c t =>
    obtain ⟨j, y⟩ := c
    simp only [Bytes.canon, canonFrom, Bool.and_eq_true, decide_eq_true_eq, true_and] at h ⊢
    obtain ⟨hy, ht⟩ := h
    unfold putByte
    split_ifs with h1 h2 h3 h4
    · simp [canonFrom, hy, ht]
    · simp [canonFrom, h1, h2, hy, ht]
    · subst h3
      rw [dropWhile_of_canonFrom ht]
      exact canonFrom_none ht
    · subst h3; simp [canonFrom, h4, ht]
    · have hj : j < a := by omega
      simp [canonFrom, hy, canonFrom_putByte x ht hj]

/-- Writing several bytes keeps the canonical form. -/
theorem canon_putBytes {m : Bytes} (a : Nat) (xs : List Byte) (h : m.canon = true) : (putBytes m a xs).canon = true := by
  induction xs generalizing m a with
  | nil => exact h
  | cons x xs ih => exact ih (a + 1) (canon_putByte a x h)

/-- Taking bytes away keeps the canonical form above a bound. -/
theorem canonFrom_filter {l : Nat} {m : Bytes} (p : Host.Cell → Bool) (h : canonFrom (some l) m = true) :
    canonFrom (some l) (m.filter p) = true := by
  induction m generalizing l with
  | nil => rfl
  | cons c t ih =>
    obtain ⟨j, y⟩ := c
    simp only [canonFrom, Bool.and_eq_true, decide_eq_true_eq] at h
    obtain ⟨⟨hlj, hy⟩, ht⟩ := h
    rw [List.filter_cons]
    split_ifs
    · simp [canonFrom, hlj, hy, ih ht]
    · exact canonFrom_mono (ih ht) (by omega)

/-- Taking bytes away keeps the canonical form: a reset, a memory test, the grant of a Wharf window. -/
theorem canon_filter {m : Bytes} (p : Host.Cell → Bool) (h : m.canon = true) : Bytes.canon (m.filter p) = true := by
  induction m with
  | nil => rfl
  | cons c t ih =>
    obtain ⟨j, y⟩ := c
    simp only [Bytes.canon, canonFrom, Bool.and_eq_true, decide_eq_true_eq, true_and] at h
    rw [List.filter_cons]
    split_ifs
    · simp [Bytes.canon, canonFrom, h.1, canonFrom_filter p h.2]
    · exact ih (canonFrom_none h.2)

/-- What is left when the entries at or below an address go: nothing at or below it, everything above it. -/
theorem byteAt_dropWhile (t : Bytes) (a i : Nat) :
    byteAt (t.dropWhile (fun c => decide (c.1 ≤ a))) i = if i ≤ a then unlisted else byteAt t i := by
  induction t with
  | nil => simp [byteAt]
  | cons c t ih =>
    obtain ⟨j, y⟩ := c
    rw [List.dropWhile_cons]
    by_cases hj : j ≤ a
    · simp only [hj, decide_true, if_true]
      rw [ih]
      split_ifs with h1
      · rfl
      · simp [byteAt, show ¬ i < j by omega, show ¬ i = j by omega]
    · simp only [hj, decide_false, Bool.false_eq_true, if_false]
      split_ifs with h1
      · simp [byteAt, show i < j by omega]
      · rfl

/-! ### Removal -/

theorem tget?_filter_above {α : Type} (t : Tab α) (k i : Nat) :
    tget? (t.filter (fun e => decide (k < e.1))) i = if i ≤ k then none else tget? t i := by
  induction t with
  | nil => simp [tget?]
  | cons e t ih =>
    obtain ⟨j, y⟩ := e
    by_cases h : k < j
    · simp only [List.filter_cons, h, decide_true, if_true, tget?, ih]
      split_ifs <;> first | rfl | omega
    · simp only [List.filter_cons, h, decide_false, Bool.false_eq_true, if_false, ih, tget?]
      split_ifs <;> first | rfl | omega

/-- After a removal nothing stands at the key, and every other entry is as before. -/
theorem tget?_tdel {α : Type} (t : Tab α) (k i : Nat) : tget? (tdel t k) i = if i = k then none else tget? t i := by
  induction t with
  | nil => simp [tdel, tget?]
  | cons e t ih =>
    obtain ⟨j, y⟩ := e
    unfold tdel
    by_cases h1 : k < j
    · rw [if_pos h1]; simp only [tget?]
      split_ifs <;> first | rfl | omega
    · rw [if_neg h1]
      by_cases h2 : k = j
      · rw [if_pos h2, tget?_filter_above]; simp only [tget?]
        split_ifs <;> first | rfl | omega
      · rw [if_neg h2]; simp only [tget?, ih]
        split_ifs <;> first | rfl | omega

/-- READ AFTER WRITE: a byte reads as it was written, and every other byte as before. -/
theorem byteAt_putByte (m : Bytes) (a i : Nat) (x : Byte) :
    byteAt (putByte m a x) i = if i = a then x else byteAt m i := by
  induction m with
  | nil =>
    unfold putByte
    split_ifs with h1 h2 h2
    · simp [byteAt, h1]
    · rfl
    · simp [byteAt, h2]
    · by_cases h3 : i < a <;> simp [byteAt, h2, h3]
  | cons c t ih =>
    obtain ⟨j, y⟩ := c
    unfold putByte
    by_cases h1 : a < j
    · rw [if_pos h1]
      by_cases h2 : x = unlisted
      · rw [if_pos h2]
        split_ifs with h3
        · subst h3; simp [byteAt, h1, h2]
        · rfl
      · rw [if_neg h2]
        split_ifs with h3
        · subst h3; simp [byteAt]
        · by_cases h4 : i < a
          · simp [byteAt, h4, show i < j by omega]
          · simp [byteAt, h4, h3]
    · rw [if_neg h1]
      by_cases h2 : a = j
      · subst h2
        rw [if_pos rfl]
        by_cases h3 : x = unlisted
        · rw [if_pos h3, byteAt_dropWhile]
          by_cases h5 : i < a
          · simp [byteAt, h5, show i ≤ a by omega, show ¬ i = a by omega]
          · by_cases h6 : i = a
            · subst h6; simp [h3]
            · simp [byteAt, h5, h6, show ¬ i ≤ a by omega]
        · rw [if_neg h3]
          by_cases h5 : i < a
          · simp [byteAt, h5, show ¬ i = a by omega]
          · simp only [byteAt, h5, if_false]; split_ifs <;> rfl
      · rw [if_neg h2]
        simp only [byteAt, ih]
        split_ifs <;> first | rfl | omega

/-- READ AFTER WRITING A RUN OF BYTES: inside the run the byte written there, every other byte as before. -/
theorem byteAt_putBytes (xs : List Byte) : ∀ (m : Bytes) (a i : Nat),
    byteAt (putBytes m a xs) i = if h : a ≤ i ∧ i < a + xs.length then xs[i - a]'(by omega) else byteAt m i := by
  induction xs with
  | nil => intro m a i; rw [dif_neg (by simp)]; rfl
  | cons x xs ih =>
    intro m a i
    rw [putBytes, ih]
    by_cases h1 : i = a
    · subst h1
      rw [dif_neg (by omega), dif_pos (by simp), byteAt_putByte]
      simp
    · by_cases h2 : a + 1 ≤ i ∧ i < a + 1 + xs.length
      · rw [dif_pos h2, dif_pos (by simp; omega)]
        have : i - a = (i - (a + 1)) + 1 := by omega
        simp [this]
      · rw [dif_neg h2, dif_neg (by simp; omega), byteAt_putByte, if_neg h1]

end Sys2Proof.Machine
end

