-- ==== Sys2Proof/Laws/State.lean ====
section
/-! SUPPORT. Laws/State.lean: what each update of the state and of a group leaves as it was, one lemma per field, and what
it writes. -/
namespace Sys2Proof.Machine

variable (s : State) (g : Group)

@[simp] theorem State.setGroup_ns (g : Nat) (x : Group) : (s.setGroup g x).ns = s.ns := rfl
@[simp] theorem State.setGroup_cores (g : Nat) (x : Group) : (s.setGroup g x).cores = s.cores := rfl
@[simp] theorem State.setGroup_dies (g : Nat) (x : Group) : (s.setGroup g x).dies = s.dies := rfl
@[simp] theorem State.setGroup_ctxs (g : Nat) (x : Group) : (s.setGroup g x).ctxs = s.ctxs := rfl
@[simp] theorem State.setGroup_groups (g : Nat) (x : Group) : (s.setGroup g x).groups = tset s.groups g x := rfl
@[simp] theorem State.setGroup_teams (g : Nat) (x : Group) : (s.setGroup g x).teams = s.teams := rfl
@[simp] theorem State.setGroup_grids (g : Nat) (x : Group) : (s.setGroup g x).grids = s.grids := rfl
@[simp] theorem State.setGroup_mem (g : Nat) (x : Group) : (s.setGroup g x).mem = s.mem := rfl
@[simp] theorem State.setGroup_l2 (g : Nat) (x : Group) : (s.setGroup g x).l2 = s.l2 := rfl
@[simp] theorem State.setGroup_l2Tags (g : Nat) (x : Group) : (s.setGroup g x).l2Tags = s.l2Tags := rfl
@[simp] theorem State.setGroup_failing (g : Nat) (x : Group) : (s.setGroup g x).failing = s.failing := rfl
@[simp] theorem State.setGroup_mq (g : Nat) (x : Group) : (s.setGroup g x).mq = s.mq := rfl
@[simp] theorem State.setGroup_wharf (g : Nat) (x : Group) : (s.setGroup g x).wharf = s.wharf := rfl
@[simp] theorem State.setGroup_poison (g : Nat) (x : Group) : (s.setGroup g x).poison = s.poison := rfl
@[simp] theorem State.setGroup_wharfPoison (g : Nat) (x : Group) : (s.setGroup g x).wharfPoison = s.wharfPoison := rfl
@[simp] theorem State.setGroup_ranges (g : Nat) (x : Group) : (s.setGroup g x).ranges = s.ranges := rfl
@[simp] theorem State.setGroup_frameOwner (g : Nat) (x : Group) : (s.setGroup g x).frameOwner = s.frameOwner := rfl
@[simp] theorem State.setGroup_host (g : Nat) (x : Group) : (s.setGroup g x).host = s.host := rfl
@[simp] theorem State.setGroup_modIndex (g : Nat) (x : Group) : (s.setGroup g x).modIndex = s.modIndex := rfl
@[simp] theorem State.setGroup_curGroup (g : Nat) (x : Group) : (s.setGroup g x).curGroup = s.curGroup := rfl
@[simp] theorem State.setGroup_curWave (g : Nat) (x : Group) : (s.setGroup g x).curWave = s.curWave := rfl
@[simp] theorem State.setGroup_agenda (g : Nat) (x : Group) : (s.setGroup g x).agenda = s.agenda := rfl
@[simp] theorem State.setGroup_free (g : Nat) (x : Group) : (s.setGroup g x).free = s.free := rfl
@[simp] theorem State.setGroup_nextGroup (g : Nat) (x : Group) : (s.setGroup g x).nextGroup = s.nextGroup := rfl
@[simp] theorem State.setGroup_nextTeam (g : Nat) (x : Group) : (s.setGroup g x).nextTeam = s.nextTeam := rfl
@[simp] theorem State.setGroup_nextGrid (g : Nat) (x : Group) : (s.setGroup g x).nextGrid = s.nextGrid := rfl
@[simp] theorem State.setGroup_nextOp (g : Nat) (x : Group) : (s.setGroup g x).nextOp = s.nextOp := rfl
@[simp] theorem State.setGroup_stop (g : Nat) (x : Group) : (s.setGroup g x).stop = s.stop := rfl

@[simp] theorem State.updGroup_ns (g : Nat) (f : Group → Group) : (s.updGroup g f).ns = s.ns := rfl
@[simp] theorem State.updGroup_cores (g : Nat) (f : Group → Group) : (s.updGroup g f).cores = s.cores := rfl
@[simp] theorem State.updGroup_dies (g : Nat) (f : Group → Group) : (s.updGroup g f).dies = s.dies := rfl
@[simp] theorem State.updGroup_ctxs (g : Nat) (f : Group → Group) : (s.updGroup g f).ctxs = s.ctxs := rfl
@[simp] theorem State.updGroup_groups (g : Nat) (f : Group → Group) : (s.updGroup g f).groups = tset s.groups g (f (s.group g)) := rfl
@[simp] theorem State.updGroup_teams (g : Nat) (f : Group → Group) : (s.updGroup g f).teams = s.teams := rfl
@[simp] theorem State.updGroup_grids (g : Nat) (f : Group → Group) : (s.updGroup g f).grids = s.grids := rfl
@[simp] theorem State.updGroup_mem (g : Nat) (f : Group → Group) : (s.updGroup g f).mem = s.mem := rfl
@[simp] theorem State.updGroup_l2 (g : Nat) (f : Group → Group) : (s.updGroup g f).l2 = s.l2 := rfl
@[simp] theorem State.updGroup_l2Tags (g : Nat) (f : Group → Group) : (s.updGroup g f).l2Tags = s.l2Tags := rfl
@[simp] theorem State.updGroup_failing (g : Nat) (f : Group → Group) : (s.updGroup g f).failing = s.failing := rfl
@[simp] theorem State.updGroup_mq (g : Nat) (f : Group → Group) : (s.updGroup g f).mq = s.mq := rfl
@[simp] theorem State.updGroup_wharf (g : Nat) (f : Group → Group) : (s.updGroup g f).wharf = s.wharf := rfl
@[simp] theorem State.updGroup_poison (g : Nat) (f : Group → Group) : (s.updGroup g f).poison = s.poison := rfl
@[simp] theorem State.updGroup_wharfPoison (g : Nat) (f : Group → Group) : (s.updGroup g f).wharfPoison = s.wharfPoison := rfl
@[simp] theorem State.updGroup_ranges (g : Nat) (f : Group → Group) : (s.updGroup g f).ranges = s.ranges := rfl
@[simp] theorem State.updGroup_frameOwner (g : Nat) (f : Group → Group) : (s.updGroup g f).frameOwner = s.frameOwner := rfl
@[simp] theorem State.updGroup_host (g : Nat) (f : Group → Group) : (s.updGroup g f).host = s.host := rfl
@[simp] theorem State.updGroup_modIndex (g : Nat) (f : Group → Group) : (s.updGroup g f).modIndex = s.modIndex := rfl
@[simp] theorem State.updGroup_curGroup (g : Nat) (f : Group → Group) : (s.updGroup g f).curGroup = s.curGroup := rfl
@[simp] theorem State.updGroup_curWave (g : Nat) (f : Group → Group) : (s.updGroup g f).curWave = s.curWave := rfl
@[simp] theorem State.updGroup_agenda (g : Nat) (f : Group → Group) : (s.updGroup g f).agenda = s.agenda := rfl
@[simp] theorem State.updGroup_free (g : Nat) (f : Group → Group) : (s.updGroup g f).free = s.free := rfl
@[simp] theorem State.updGroup_nextGroup (g : Nat) (f : Group → Group) : (s.updGroup g f).nextGroup = s.nextGroup := rfl
@[simp] theorem State.updGroup_nextTeam (g : Nat) (f : Group → Group) : (s.updGroup g f).nextTeam = s.nextTeam := rfl
@[simp] theorem State.updGroup_nextGrid (g : Nat) (f : Group → Group) : (s.updGroup g f).nextGrid = s.nextGrid := rfl
@[simp] theorem State.updGroup_nextOp (g : Nat) (f : Group → Group) : (s.updGroup g f).nextOp = s.nextOp := rfl
@[simp] theorem State.updGroup_stop (g : Nat) (f : Group → Group) : (s.updGroup g f).stop = s.stop := rfl

@[simp] theorem State.updCur_ns (f : Group → Group) : (s.updCur f).ns = s.ns := rfl
@[simp] theorem State.updCur_cores (f : Group → Group) : (s.updCur f).cores = s.cores := rfl
@[simp] theorem State.updCur_dies (f : Group → Group) : (s.updCur f).dies = s.dies := rfl
@[simp] theorem State.updCur_ctxs (f : Group → Group) : (s.updCur f).ctxs = s.ctxs := rfl
@[simp] theorem State.updCur_groups (f : Group → Group) : (s.updCur f).groups = tset s.groups s.curGroup (f s.cg) := rfl
@[simp] theorem State.updCur_teams (f : Group → Group) : (s.updCur f).teams = s.teams := rfl
@[simp] theorem State.updCur_grids (f : Group → Group) : (s.updCur f).grids = s.grids := rfl
@[simp] theorem State.updCur_mem (f : Group → Group) : (s.updCur f).mem = s.mem := rfl
@[simp] theorem State.updCur_l2 (f : Group → Group) : (s.updCur f).l2 = s.l2 := rfl
@[simp] theorem State.updCur_l2Tags (f : Group → Group) : (s.updCur f).l2Tags = s.l2Tags := rfl
@[simp] theorem State.updCur_failing (f : Group → Group) : (s.updCur f).failing = s.failing := rfl
@[simp] theorem State.updCur_mq (f : Group → Group) : (s.updCur f).mq = s.mq := rfl
@[simp] theorem State.updCur_wharf (f : Group → Group) : (s.updCur f).wharf = s.wharf := rfl
@[simp] theorem State.updCur_poison (f : Group → Group) : (s.updCur f).poison = s.poison := rfl
@[simp] theorem State.updCur_wharfPoison (f : Group → Group) : (s.updCur f).wharfPoison = s.wharfPoison := rfl
@[simp] theorem State.updCur_ranges (f : Group → Group) : (s.updCur f).ranges = s.ranges := rfl
@[simp] theorem State.updCur_frameOwner (f : Group → Group) : (s.updCur f).frameOwner = s.frameOwner := rfl
@[simp] theorem State.updCur_host (f : Group → Group) : (s.updCur f).host = s.host := rfl
@[simp] theorem State.updCur_modIndex (f : Group → Group) : (s.updCur f).modIndex = s.modIndex := rfl
@[simp] theorem State.updCur_curGroup (f : Group → Group) : (s.updCur f).curGroup = s.curGroup := rfl
@[simp] theorem State.updCur_curWave (f : Group → Group) : (s.updCur f).curWave = s.curWave := rfl
@[simp] theorem State.updCur_agenda (f : Group → Group) : (s.updCur f).agenda = s.agenda := rfl
@[simp] theorem State.updCur_free (f : Group → Group) : (s.updCur f).free = s.free := rfl
@[simp] theorem State.updCur_nextGroup (f : Group → Group) : (s.updCur f).nextGroup = s.nextGroup := rfl
@[simp] theorem State.updCur_nextTeam (f : Group → Group) : (s.updCur f).nextTeam = s.nextTeam := rfl
@[simp] theorem State.updCur_nextGrid (f : Group → Group) : (s.updCur f).nextGrid = s.nextGrid := rfl
@[simp] theorem State.updCur_nextOp (f : Group → Group) : (s.updCur f).nextOp = s.nextOp := rfl
@[simp] theorem State.updCur_stop (f : Group → Group) : (s.updCur f).stop = s.stop := rfl

@[simp] theorem State.updWave_ns (f : Wave → Wave) : (s.updWave f).ns = s.ns := rfl
@[simp] theorem State.updWave_cores (f : Wave → Wave) : (s.updWave f).cores = s.cores := rfl
@[simp] theorem State.updWave_dies (f : Wave → Wave) : (s.updWave f).dies = s.dies := rfl
@[simp] theorem State.updWave_ctxs (f : Wave → Wave) : (s.updWave f).ctxs = s.ctxs := rfl
@[simp] theorem State.updWave_teams (f : Wave → Wave) : (s.updWave f).teams = s.teams := rfl
@[simp] theorem State.updWave_grids (f : Wave → Wave) : (s.updWave f).grids = s.grids := rfl
@[simp] theorem State.updWave_mem (f : Wave → Wave) : (s.updWave f).mem = s.mem := rfl
@[simp] theorem State.updWave_l2 (f : Wave → Wave) : (s.updWave f).l2 = s.l2 := rfl
@[simp] theorem State.updWave_l2Tags (f : Wave → Wave) : (s.updWave f).l2Tags = s.l2Tags := rfl
@[simp] theorem State.updWave_failing (f : Wave → Wave) : (s.updWave f).failing = s.failing := rfl
@[simp] theorem State.updWave_mq (f : Wave → Wave) : (s.updWave f).mq = s.mq := rfl
@[simp] theorem State.updWave_wharf (f : Wave → Wave) : (s.updWave f).wharf = s.wharf := rfl
@[simp] theorem State.updWave_poison (f : Wave → Wave) : (s.updWave f).poison = s.poison := rfl
@[simp] theorem State.updWave_wharfPoison (f : Wave → Wave) : (s.updWave f).wharfPoison = s.wharfPoison := rfl
@[simp] theorem State.updWave_ranges (f : Wave → Wave) : (s.updWave f).ranges = s.ranges := rfl
@[simp] theorem State.updWave_frameOwner (f : Wave → Wave) : (s.updWave f).frameOwner = s.frameOwner := rfl
@[simp] theorem State.updWave_host (f : Wave → Wave) : (s.updWave f).host = s.host := rfl
@[simp] theorem State.updWave_modIndex (f : Wave → Wave) : (s.updWave f).modIndex = s.modIndex := rfl
@[simp] theorem State.updWave_curGroup (f : Wave → Wave) : (s.updWave f).curGroup = s.curGroup := rfl
@[simp] theorem State.updWave_curWave (f : Wave → Wave) : (s.updWave f).curWave = s.curWave := rfl
@[simp] theorem State.updWave_agenda (f : Wave → Wave) : (s.updWave f).agenda = s.agenda := rfl
@[simp] theorem State.updWave_free (f : Wave → Wave) : (s.updWave f).free = s.free := rfl
@[simp] theorem State.updWave_nextGroup (f : Wave → Wave) : (s.updWave f).nextGroup = s.nextGroup := rfl
@[simp] theorem State.updWave_nextTeam (f : Wave → Wave) : (s.updWave f).nextTeam = s.nextTeam := rfl
@[simp] theorem State.updWave_nextGrid (f : Wave → Wave) : (s.updWave f).nextGrid = s.nextGrid := rfl
@[simp] theorem State.updWave_nextOp (f : Wave → Wave) : (s.updWave f).nextOp = s.nextOp := rfl
@[simp] theorem State.updWave_stop (f : Wave → Wave) : (s.updWave f).stop = s.stop := rfl

@[simp] theorem State.nextWord_ns : (s.nextWord).ns = s.ns := rfl
@[simp] theorem State.nextWord_cores : (s.nextWord).cores = s.cores := rfl
@[simp] theorem State.nextWord_dies : (s.nextWord).dies = s.dies := rfl
@[simp] theorem State.nextWord_ctxs : (s.nextWord).ctxs = s.ctxs := rfl
@[simp] theorem State.nextWord_teams : (s.nextWord).teams = s.teams := rfl
@[simp] theorem State.nextWord_grids : (s.nextWord).grids = s.grids := rfl
@[simp] theorem State.nextWord_mem : (s.nextWord).mem = s.mem := rfl
@[simp] theorem State.nextWord_l2 : (s.nextWord).l2 = s.l2 := rfl
@[simp] theorem State.nextWord_l2Tags : (s.nextWord).l2Tags = s.l2Tags := rfl
@[simp] theorem State.nextWord_failing : (s.nextWord).failing = s.failing := rfl
@[simp] theorem State.nextWord_mq : (s.nextWord).mq = s.mq := rfl
@[simp] theorem State.nextWord_wharf : (s.nextWord).wharf = s.wharf := rfl
@[simp] theorem State.nextWord_poison : (s.nextWord).poison = s.poison := rfl
@[simp] theorem State.nextWord_wharfPoison : (s.nextWord).wharfPoison = s.wharfPoison := rfl
@[simp] theorem State.nextWord_ranges : (s.nextWord).ranges = s.ranges := rfl
@[simp] theorem State.nextWord_frameOwner : (s.nextWord).frameOwner = s.frameOwner := rfl
@[simp] theorem State.nextWord_host : (s.nextWord).host = s.host := rfl
@[simp] theorem State.nextWord_modIndex : (s.nextWord).modIndex = s.modIndex := rfl
@[simp] theorem State.nextWord_curGroup : (s.nextWord).curGroup = s.curGroup := rfl
@[simp] theorem State.nextWord_curWave : (s.nextWord).curWave = s.curWave := rfl
@[simp] theorem State.nextWord_agenda : (s.nextWord).agenda = s.agenda := rfl
@[simp] theorem State.nextWord_free : (s.nextWord).free = s.free := rfl
@[simp] theorem State.nextWord_nextGroup : (s.nextWord).nextGroup = s.nextGroup := rfl
@[simp] theorem State.nextWord_nextTeam : (s.nextWord).nextTeam = s.nextTeam := rfl
@[simp] theorem State.nextWord_nextGrid : (s.nextWord).nextGrid = s.nextGrid := rfl
@[simp] theorem State.nextWord_nextOp : (s.nextWord).nextOp = s.nextOp := rfl
@[simp] theorem State.nextWord_stop : (s.nextWord).stop = s.stop := rfl

@[simp] theorem State.updCore_ns (c : Nat) (f : Core → Core) : (s.updCore c f).ns = s.ns := rfl
@[simp] theorem State.updCore_cores (c : Nat) (f : Core → Core) : (s.updCore c f).cores = tset s.cores c (f (s.core c)) := rfl
@[simp] theorem State.updCore_dies (c : Nat) (f : Core → Core) : (s.updCore c f).dies = s.dies := rfl
@[simp] theorem State.updCore_ctxs (c : Nat) (f : Core → Core) : (s.updCore c f).ctxs = s.ctxs := rfl
@[simp] theorem State.updCore_groups (c : Nat) (f : Core → Core) : (s.updCore c f).groups = s.groups := rfl
@[simp] theorem State.updCore_teams (c : Nat) (f : Core → Core) : (s.updCore c f).teams = s.teams := rfl
@[simp] theorem State.updCore_grids (c : Nat) (f : Core → Core) : (s.updCore c f).grids = s.grids := rfl
@[simp] theorem State.updCore_mem (c : Nat) (f : Core → Core) : (s.updCore c f).mem = s.mem := rfl
@[simp] theorem State.updCore_l2 (c : Nat) (f : Core → Core) : (s.updCore c f).l2 = s.l2 := rfl
@[simp] theorem State.updCore_l2Tags (c : Nat) (f : Core → Core) : (s.updCore c f).l2Tags = s.l2Tags := rfl
@[simp] theorem State.updCore_failing (c : Nat) (f : Core → Core) : (s.updCore c f).failing = s.failing := rfl
@[simp] theorem State.updCore_mq (c : Nat) (f : Core → Core) : (s.updCore c f).mq = s.mq := rfl
@[simp] theorem State.updCore_wharf (c : Nat) (f : Core → Core) : (s.updCore c f).wharf = s.wharf := rfl
@[simp] theorem State.updCore_poison (c : Nat) (f : Core → Core) : (s.updCore c f).poison = s.poison := rfl
@[simp] theorem State.updCore_wharfPoison (c : Nat) (f : Core → Core) : (s.updCore c f).wharfPoison = s.wharfPoison := rfl
@[simp] theorem State.updCore_ranges (c : Nat) (f : Core → Core) : (s.updCore c f).ranges = s.ranges := rfl
@[simp] theorem State.updCore_frameOwner (c : Nat) (f : Core → Core) : (s.updCore c f).frameOwner = s.frameOwner := rfl
@[simp] theorem State.updCore_host (c : Nat) (f : Core → Core) : (s.updCore c f).host = s.host := rfl
@[simp] theorem State.updCore_modIndex (c : Nat) (f : Core → Core) : (s.updCore c f).modIndex = s.modIndex := rfl
@[simp] theorem State.updCore_curGroup (c : Nat) (f : Core → Core) : (s.updCore c f).curGroup = s.curGroup := rfl
@[simp] theorem State.updCore_curWave (c : Nat) (f : Core → Core) : (s.updCore c f).curWave = s.curWave := rfl
@[simp] theorem State.updCore_agenda (c : Nat) (f : Core → Core) : (s.updCore c f).agenda = s.agenda := rfl
@[simp] theorem State.updCore_free (c : Nat) (f : Core → Core) : (s.updCore c f).free = s.free := rfl
@[simp] theorem State.updCore_nextGroup (c : Nat) (f : Core → Core) : (s.updCore c f).nextGroup = s.nextGroup := rfl
@[simp] theorem State.updCore_nextTeam (c : Nat) (f : Core → Core) : (s.updCore c f).nextTeam = s.nextTeam := rfl
@[simp] theorem State.updCore_nextGrid (c : Nat) (f : Core → Core) : (s.updCore c f).nextGrid = s.nextGrid := rfl
@[simp] theorem State.updCore_nextOp (c : Nat) (f : Core → Core) : (s.updCore c f).nextOp = s.nextOp := rfl
@[simp] theorem State.updCore_stop (c : Nat) (f : Core → Core) : (s.updCore c f).stop = s.stop := rfl

@[simp] theorem State.updDie_ns (d : Nat) (f : Die → Die) : (s.updDie d f).ns = s.ns := rfl
@[simp] theorem State.updDie_cores (d : Nat) (f : Die → Die) : (s.updDie d f).cores = s.cores := rfl
@[simp] theorem State.updDie_dies (d : Nat) (f : Die → Die) : (s.updDie d f).dies = tset s.dies d (f (s.die d)) := rfl
@[simp] theorem State.updDie_ctxs (d : Nat) (f : Die → Die) : (s.updDie d f).ctxs = s.ctxs := rfl
@[simp] theorem State.updDie_groups (d : Nat) (f : Die → Die) : (s.updDie d f).groups = s.groups := rfl
@[simp] theorem State.updDie_teams (d : Nat) (f : Die → Die) : (s.updDie d f).teams = s.teams := rfl
@[simp] theorem State.updDie_grids (d : Nat) (f : Die → Die) : (s.updDie d f).grids = s.grids := rfl
@[simp] theorem State.updDie_mem (d : Nat) (f : Die → Die) : (s.updDie d f).mem = s.mem := rfl
@[simp] theorem State.updDie_l2 (d : Nat) (f : Die → Die) : (s.updDie d f).l2 = s.l2 := rfl
@[simp] theorem State.updDie_l2Tags (d : Nat) (f : Die → Die) : (s.updDie d f).l2Tags = s.l2Tags := rfl
@[simp] theorem State.updDie_failing (d : Nat) (f : Die → Die) : (s.updDie d f).failing = s.failing := rfl
@[simp] theorem State.updDie_mq (d : Nat) (f : Die → Die) : (s.updDie d f).mq = s.mq := rfl
@[simp] theorem State.updDie_wharf (d : Nat) (f : Die → Die) : (s.updDie d f).wharf = s.wharf := rfl
@[simp] theorem State.updDie_poison (d : Nat) (f : Die → Die) : (s.updDie d f).poison = s.poison := rfl
@[simp] theorem State.updDie_wharfPoison (d : Nat) (f : Die → Die) : (s.updDie d f).wharfPoison = s.wharfPoison := rfl
@[simp] theorem State.updDie_ranges (d : Nat) (f : Die → Die) : (s.updDie d f).ranges = s.ranges := rfl
@[simp] theorem State.updDie_frameOwner (d : Nat) (f : Die → Die) : (s.updDie d f).frameOwner = s.frameOwner := rfl
@[simp] theorem State.updDie_host (d : Nat) (f : Die → Die) : (s.updDie d f).host = s.host := rfl
@[simp] theorem State.updDie_modIndex (d : Nat) (f : Die → Die) : (s.updDie d f).modIndex = s.modIndex := rfl
@[simp] theorem State.updDie_curGroup (d : Nat) (f : Die → Die) : (s.updDie d f).curGroup = s.curGroup := rfl
@[simp] theorem State.updDie_curWave (d : Nat) (f : Die → Die) : (s.updDie d f).curWave = s.curWave := rfl
@[simp] theorem State.updDie_agenda (d : Nat) (f : Die → Die) : (s.updDie d f).agenda = s.agenda := rfl
@[simp] theorem State.updDie_free (d : Nat) (f : Die → Die) : (s.updDie d f).free = s.free := rfl
@[simp] theorem State.updDie_nextGroup (d : Nat) (f : Die → Die) : (s.updDie d f).nextGroup = s.nextGroup := rfl
@[simp] theorem State.updDie_nextTeam (d : Nat) (f : Die → Die) : (s.updDie d f).nextTeam = s.nextTeam := rfl
@[simp] theorem State.updDie_nextGrid (d : Nat) (f : Die → Die) : (s.updDie d f).nextGrid = s.nextGrid := rfl
@[simp] theorem State.updDie_nextOp (d : Nat) (f : Die → Die) : (s.updDie d f).nextOp = s.nextOp := rfl
@[simp] theorem State.updDie_stop (d : Nat) (f : Die → Die) : (s.updDie d f).stop = s.stop := rfl

@[simp] theorem State.updTeam_ns (t : Nat) (f : Team → Team) : (s.updTeam t f).ns = s.ns := rfl
@[simp] theorem State.updTeam_cores (t : Nat) (f : Team → Team) : (s.updTeam t f).cores = s.cores := rfl
@[simp] theorem State.updTeam_dies (t : Nat) (f : Team → Team) : (s.updTeam t f).dies = s.dies := rfl
@[simp] theorem State.updTeam_ctxs (t : Nat) (f : Team → Team) : (s.updTeam t f).ctxs = s.ctxs := rfl
@[simp] theorem State.updTeam_groups (t : Nat) (f : Team → Team) : (s.updTeam t f).groups = s.groups := rfl
@[simp] theorem State.updTeam_teams (t : Nat) (f : Team → Team) : (s.updTeam t f).teams = tset s.teams t (f (s.team t)) := rfl
@[simp] theorem State.updTeam_grids (t : Nat) (f : Team → Team) : (s.updTeam t f).grids = s.grids := rfl
@[simp] theorem State.updTeam_mem (t : Nat) (f : Team → Team) : (s.updTeam t f).mem = s.mem := rfl
@[simp] theorem State.updTeam_l2 (t : Nat) (f : Team → Team) : (s.updTeam t f).l2 = s.l2 := rfl
@[simp] theorem State.updTeam_l2Tags (t : Nat) (f : Team → Team) : (s.updTeam t f).l2Tags = s.l2Tags := rfl
@[simp] theorem State.updTeam_failing (t : Nat) (f : Team → Team) : (s.updTeam t f).failing = s.failing := rfl
@[simp] theorem State.updTeam_mq (t : Nat) (f : Team → Team) : (s.updTeam t f).mq = s.mq := rfl
@[simp] theorem State.updTeam_wharf (t : Nat) (f : Team → Team) : (s.updTeam t f).wharf = s.wharf := rfl
@[simp] theorem State.updTeam_poison (t : Nat) (f : Team → Team) : (s.updTeam t f).poison = s.poison := rfl
@[simp] theorem State.updTeam_wharfPoison (t : Nat) (f : Team → Team) : (s.updTeam t f).wharfPoison = s.wharfPoison := rfl
@[simp] theorem State.updTeam_ranges (t : Nat) (f : Team → Team) : (s.updTeam t f).ranges = s.ranges := rfl
@[simp] theorem State.updTeam_frameOwner (t : Nat) (f : Team → Team) : (s.updTeam t f).frameOwner = s.frameOwner := rfl
@[simp] theorem State.updTeam_host (t : Nat) (f : Team → Team) : (s.updTeam t f).host = s.host := rfl
@[simp] theorem State.updTeam_modIndex (t : Nat) (f : Team → Team) : (s.updTeam t f).modIndex = s.modIndex := rfl
@[simp] theorem State.updTeam_curGroup (t : Nat) (f : Team → Team) : (s.updTeam t f).curGroup = s.curGroup := rfl
@[simp] theorem State.updTeam_curWave (t : Nat) (f : Team → Team) : (s.updTeam t f).curWave = s.curWave := rfl
@[simp] theorem State.updTeam_agenda (t : Nat) (f : Team → Team) : (s.updTeam t f).agenda = s.agenda := rfl
@[simp] theorem State.updTeam_free (t : Nat) (f : Team → Team) : (s.updTeam t f).free = s.free := rfl
@[simp] theorem State.updTeam_nextGroup (t : Nat) (f : Team → Team) : (s.updTeam t f).nextGroup = s.nextGroup := rfl
@[simp] theorem State.updTeam_nextTeam (t : Nat) (f : Team → Team) : (s.updTeam t f).nextTeam = s.nextTeam := rfl
@[simp] theorem State.updTeam_nextGrid (t : Nat) (f : Team → Team) : (s.updTeam t f).nextGrid = s.nextGrid := rfl
@[simp] theorem State.updTeam_nextOp (t : Nat) (f : Team → Team) : (s.updTeam t f).nextOp = s.nextOp := rfl
@[simp] theorem State.updTeam_stop (t : Nat) (f : Team → Team) : (s.updTeam t f).stop = s.stop := rfl

@[simp] theorem State.updCtx_ns (c : Nat) (f : Ctx → Ctx) : (s.updCtx c f).ns = s.ns := rfl
@[simp] theorem State.updCtx_cores (c : Nat) (f : Ctx → Ctx) : (s.updCtx c f).cores = s.cores := rfl
@[simp] theorem State.updCtx_dies (c : Nat) (f : Ctx → Ctx) : (s.updCtx c f).dies = s.dies := rfl
@[simp] theorem State.updCtx_ctxs (c : Nat) (f : Ctx → Ctx) : (s.updCtx c f).ctxs = tset s.ctxs c (f (s.ctx c)) := rfl
@[simp] theorem State.updCtx_groups (c : Nat) (f : Ctx → Ctx) : (s.updCtx c f).groups = s.groups := rfl
@[simp] theorem State.updCtx_teams (c : Nat) (f : Ctx → Ctx) : (s.updCtx c f).teams = s.teams := rfl
@[simp] theorem State.updCtx_grids (c : Nat) (f : Ctx → Ctx) : (s.updCtx c f).grids = s.grids := rfl
@[simp] theorem State.updCtx_mem (c : Nat) (f : Ctx → Ctx) : (s.updCtx c f).mem = s.mem := rfl
@[simp] theorem State.updCtx_l2 (c : Nat) (f : Ctx → Ctx) : (s.updCtx c f).l2 = s.l2 := rfl
@[simp] theorem State.updCtx_l2Tags (c : Nat) (f : Ctx → Ctx) : (s.updCtx c f).l2Tags = s.l2Tags := rfl
@[simp] theorem State.updCtx_failing (c : Nat) (f : Ctx → Ctx) : (s.updCtx c f).failing = s.failing := rfl
@[simp] theorem State.updCtx_mq (c : Nat) (f : Ctx → Ctx) : (s.updCtx c f).mq = s.mq := rfl
@[simp] theorem State.updCtx_wharf (c : Nat) (f : Ctx → Ctx) : (s.updCtx c f).wharf = s.wharf := rfl
@[simp] theorem State.updCtx_poison (c : Nat) (f : Ctx → Ctx) : (s.updCtx c f).poison = s.poison := rfl
@[simp] theorem State.updCtx_wharfPoison (c : Nat) (f : Ctx → Ctx) : (s.updCtx c f).wharfPoison = s.wharfPoison := rfl
@[simp] theorem State.updCtx_ranges (c : Nat) (f : Ctx → Ctx) : (s.updCtx c f).ranges = s.ranges := rfl
@[simp] theorem State.updCtx_frameOwner (c : Nat) (f : Ctx → Ctx) : (s.updCtx c f).frameOwner = s.frameOwner := rfl
@[simp] theorem State.updCtx_host (c : Nat) (f : Ctx → Ctx) : (s.updCtx c f).host = s.host := rfl
@[simp] theorem State.updCtx_modIndex (c : Nat) (f : Ctx → Ctx) : (s.updCtx c f).modIndex = s.modIndex := rfl
@[simp] theorem State.updCtx_curGroup (c : Nat) (f : Ctx → Ctx) : (s.updCtx c f).curGroup = s.curGroup := rfl
@[simp] theorem State.updCtx_curWave (c : Nat) (f : Ctx → Ctx) : (s.updCtx c f).curWave = s.curWave := rfl
@[simp] theorem State.updCtx_agenda (c : Nat) (f : Ctx → Ctx) : (s.updCtx c f).agenda = s.agenda := rfl
@[simp] theorem State.updCtx_free (c : Nat) (f : Ctx → Ctx) : (s.updCtx c f).free = s.free := rfl
@[simp] theorem State.updCtx_nextGroup (c : Nat) (f : Ctx → Ctx) : (s.updCtx c f).nextGroup = s.nextGroup := rfl
@[simp] theorem State.updCtx_nextTeam (c : Nat) (f : Ctx → Ctx) : (s.updCtx c f).nextTeam = s.nextTeam := rfl
@[simp] theorem State.updCtx_nextGrid (c : Nat) (f : Ctx → Ctx) : (s.updCtx c f).nextGrid = s.nextGrid := rfl
@[simp] theorem State.updCtx_nextOp (c : Nat) (f : Ctx → Ctx) : (s.updCtx c f).nextOp = s.nextOp := rfl
@[simp] theorem State.updCtx_stop (c : Nat) (f : Ctx → Ctx) : (s.updCtx c f).stop = s.stop := rfl

@[simp] theorem Group.setS_team (i : Nat) (x : Word) : (g.setS i x).team = g.team := rfl
@[simp] theorem Group.setS_grid (i : Nat) (x : Word) : (g.setS i x).grid = g.grid := rfl
@[simp] theorem Group.setS_ctx (i : Nat) (x : Word) : (g.setS i x).ctx = g.ctx := rfl
@[simp] theorem Group.setS_core (i : Nat) (x : Word) : (g.setS i x).core = g.core := rfl
@[simp] theorem Group.setS_part (i : Nat) (x : Word) : (g.setS i x).part = g.part := rfl
@[simp] theorem Group.setS_slot (i : Nat) (x : Word) : (g.setS i x).slot = g.slot := rfl
@[simp] theorem Group.setS_origin (i : Nat) (x : Word) : (g.setS i x).origin = g.origin := rfl
@[simp] theorem Group.setS_width (i : Nat) (x : Word) : (g.setS i x).width = g.width := rfl
@[simp] theorem Group.setS_n (i : Nat) (x : Word) : (g.setS i x).n = g.n := rfl
@[simp] theorem Group.setS_live (i : Nat) (x : Word) : (g.setS i x).live = g.live := rfl
@[simp] theorem Group.setS_lanes (i : Nat) (x : Word) : (g.setS i x).lanes = g.lanes := rfl
@[simp] theorem Group.setS_v (i : Nat) (x : Word) : (g.setS i x).v = g.v := rfl
@[simp] theorem Group.setS_k (i : Nat) (x : Word) : (g.setS i x).k = g.k := rfl
@[simp] theorem Group.setS_q (i : Nat) (x : Word) : (g.setS i x).q = g.q := rfl
@[simp] theorem Group.setS_b (i : Nat) (x : Word) : (g.setS i x).b = g.b := rfl
@[simp] theorem Group.setS_preds (i : Nat) (x : Word) : (g.setS i x).preds = g.preds := rfl
@[simp] theorem Group.setS_a (i : Nat) (x : Word) : (g.setS i x).a = g.a := rfl
@[simp] theorem Group.setS_flags (i : Nat) (x : Word) : (g.setS i x).flags = g.flags := rfl
@[simp] theorem Group.setS_late (i : Nat) (x : Word) : (g.setS i x).late = g.late.map (Late.hit (.s i) allBits) := rfl
@[simp] theorem Group.setS_bad (i : Nat) (x : Word) : (g.setS i x).bad = g.bad := rfl
@[simp] theorem Group.setS_waves (i : Nat) (x : Word) : (g.setS i x).waves = g.waves := rfl
@[simp] theorem Group.setS_ops (i : Nat) (x : Word) : (g.setS i x).ops = g.ops := rfl
@[simp] theorem Group.setS_stamp (i : Nat) (x : Word) : (g.setS i x).stamp = g.stamp := rfl
@[simp] theorem Group.setS_node (i : Nat) (x : Word) : (g.setS i x).node = g.node := rfl
@[simp] theorem Group.setS_staging (i : Nat) (x : Word) : (g.setS i x).staging = g.staging := rfl
@[simp] theorem Group.setS_prio (i : Nat) (x : Word) : (g.setS i x).prio = g.prio := rfl
@[simp] theorem Group.setS_issuePrio (i : Nat) (x : Word) : (g.setS i x).issuePrio = g.issuePrio := rfl
@[simp] theorem Group.setS_launchPrio (i : Nat) (x : Word) : (g.setS i x).launchPrio = g.launchPrio := rfl
@[simp] theorem Group.setS_status (i : Nat) (x : Word) : (g.setS i x).status = g.status := rfl
@[simp] theorem Group.setS_statusAt (i : Nat) (x : Word) : (g.setS i x).statusAt = g.statusAt := rfl
@[simp] theorem Group.setS_clockLatch (i : Nat) (x : Word) : (g.setS i x).clockLatch = g.clockLatch := rfl
@[simp] theorem Group.setS_nsLatch (i : Nat) (x : Word) : (g.setS i x).nsLatch = g.nsLatch := rfl
@[simp] theorem Group.setS_seq (i : Nat) (x : Word) : (g.setS i x).seq = g.seq := rfl
@[simp] theorem Group.setS_gidx (i : Nat) (x : Word) : (g.setS i x).gidx = g.gidx := rfl
@[simp] theorem Group.setS_tidx (i : Nat) (x : Word) : (g.setS i x).tidx = g.tidx := rfl
@[simp] theorem Group.setS_cidx (i : Nat) (x : Word) : (g.setS i x).cidx = g.cidx := rfl
@[simp] theorem Group.setS_rank (i : Nat) (x : Word) : (g.setS i x).rank = g.rank := rfl
@[simp] theorem Group.setS_producer (i : Nat) (x : Word) : (g.setS i x).producer = g.producer := rfl
@[simp] theorem Group.setS_inlineLimit (i : Nat) (x : Word) : (g.setS i x).inlineLimit = g.inlineLimit := rfl
@[simp] theorem Group.setS_callLimit (i : Nat) (x : Word) : (g.setS i x).callLimit = g.callLimit := rfl
@[simp] theorem Group.setS_inlines (i : Nat) (x : Word) : (g.setS i x).inlines = g.inlines := rfl
@[simp] theorem Group.setS_inlHeld (i : Nat) (x : Word) : (g.setS i x).inlHeld = g.inlHeld := rfl
@[simp] theorem Group.setS_spawns (i : Nat) (x : Word) : (g.setS i x).spawns = g.spawns := rfl
@[simp] theorem Group.setS_doneCtr (i : Nat) (x : Word) : (g.setS i x).doneCtr = g.doneCtr := rfl
@[simp] theorem Group.setS_sup (i : Nat) (x : Word) : (g.setS i x).sup = g.sup := rfl
@[simp] theorem Group.setS_tcause (i : Nat) (x : Word) : (g.setS i x).tcause = g.tcause := rfl
@[simp] theorem Group.setS_tkind (i : Nat) (x : Word) : (g.setS i x).tkind = g.tkind := rfl
@[simp] theorem Group.setS_tmask (i : Nat) (x : Word) : (g.setS i x).tmask = g.tmask := rfl
@[simp] theorem Group.setS_taddr (i : Nat) (x : Word) : (g.setS i x).taddr = g.taddr := rfl
@[simp] theorem Group.setS_tdetail (i : Nat) (x : Word) : (g.setS i x).tdetail = g.tdetail := rfl
@[simp] theorem Group.setS_scr (i : Nat) (x : Word) : (g.setS i x).scr = g.scr := rfl
@[simp] theorem Group.setS_entering (i : Nat) (x : Word) : (g.setS i x).entering = g.entering := rfl
@[simp] theorem Group.setS_errors (i : Nat) (x : Word) : (g.setS i x).errors = g.errors := rfl
@[simp] theorem Group.setS_preempt (i : Nat) (x : Word) : (g.setS i x).preempt = g.preempt := rfl
@[simp] theorem Group.setS_fence (i : Nat) (x : Word) : (g.setS i x).fence = g.fence := rfl
@[simp] theorem Group.setS_exiting (i : Nat) (x : Word) : (g.setS i x).exiting = g.exiting := rfl
@[simp] theorem Group.setS_vacate (i : Nat) (x : Word) : (g.setS i x).vacate = g.vacate := rfl

@[simp] theorem Group.setV_team (r l : Nat) (x : Word) : (g.setV r l x).team = g.team := rfl
@[simp] theorem Group.setV_grid (r l : Nat) (x : Word) : (g.setV r l x).grid = g.grid := rfl
@[simp] theorem Group.setV_ctx (r l : Nat) (x : Word) : (g.setV r l x).ctx = g.ctx := rfl
@[simp] theorem Group.setV_core (r l : Nat) (x : Word) : (g.setV r l x).core = g.core := rfl
@[simp] theorem Group.setV_part (r l : Nat) (x : Word) : (g.setV r l x).part = g.part := rfl
@[simp] theorem Group.setV_slot (r l : Nat) (x : Word) : (g.setV r l x).slot = g.slot := rfl
@[simp] theorem Group.setV_origin (r l : Nat) (x : Word) : (g.setV r l x).origin = g.origin := rfl
@[simp] theorem Group.setV_width (r l : Nat) (x : Word) : (g.setV r l x).width = g.width := rfl
@[simp] theorem Group.setV_n (r l : Nat) (x : Word) : (g.setV r l x).n = g.n := rfl
@[simp] theorem Group.setV_live (r l : Nat) (x : Word) : (g.setV r l x).live = g.live := rfl
@[simp] theorem Group.setV_lanes (r l : Nat) (x : Word) : (g.setV r l x).lanes = g.lanes := rfl
@[simp] theorem Group.setV_s (r l : Nat) (x : Word) : (g.setV r l x).s = g.s := rfl
@[simp] theorem Group.setV_k (r l : Nat) (x : Word) : (g.setV r l x).k = g.k := rfl
@[simp] theorem Group.setV_q (r l : Nat) (x : Word) : (g.setV r l x).q = g.q := rfl
@[simp] theorem Group.setV_b (r l : Nat) (x : Word) : (g.setV r l x).b = g.b := rfl
@[simp] theorem Group.setV_preds (r l : Nat) (x : Word) : (g.setV r l x).preds = g.preds := rfl
@[simp] theorem Group.setV_a (r l : Nat) (x : Word) : (g.setV r l x).a = g.a := rfl
@[simp] theorem Group.setV_flags (r l : Nat) (x : Word) : (g.setV r l x).flags = g.flags := rfl
@[simp] theorem Group.setV_late (r l : Nat) (x : Word) : (g.setV r l x).late = g.late.map (Late.hit (.v (r * 32 + l)) allBits) := rfl
@[simp] theorem Group.setV_bad (r l : Nat) (x : Word) : (g.setV r l x).bad = g.bad.filter (fun i => decide (i ≠ r * 32 + l)) := rfl
@[simp] theorem Group.setV_waves (r l : Nat) (x : Word) : (g.setV r l x).waves = g.waves := rfl
@[simp] theorem Group.setV_ops (r l : Nat) (x : Word) : (g.setV r l x).ops = g.ops := rfl
@[simp] theorem Group.setV_stamp (r l : Nat) (x : Word) : (g.setV r l x).stamp = g.stamp := rfl
@[simp] theorem Group.setV_node (r l : Nat) (x : Word) : (g.setV r l x).node = g.node := rfl
@[simp] theorem Group.setV_staging (r l : Nat) (x : Word) : (g.setV r l x).staging = g.staging := rfl
@[simp] theorem Group.setV_prio (r l : Nat) (x : Word) : (g.setV r l x).prio = g.prio := rfl
@[simp] theorem Group.setV_issuePrio (r l : Nat) (x : Word) : (g.setV r l x).issuePrio = g.issuePrio := rfl
@[simp] theorem Group.setV_launchPrio (r l : Nat) (x : Word) : (g.setV r l x).launchPrio = g.launchPrio := rfl
@[simp] theorem Group.setV_status (r l : Nat) (x : Word) : (g.setV r l x).status = g.status := rfl
@[simp] theorem Group.setV_statusAt (r l : Nat) (x : Word) : (g.setV r l x).statusAt = g.statusAt := rfl
@[simp] theorem Group.setV_clockLatch (r l : Nat) (x : Word) : (g.setV r l x).clockLatch = g.clockLatch := rfl
@[simp] theorem Group.setV_nsLatch (r l : Nat) (x : Word) : (g.setV r l x).nsLatch = g.nsLatch := rfl
@[simp] theorem Group.setV_seq (r l : Nat) (x : Word) : (g.setV r l x).seq = g.seq := rfl
@[simp] theorem Group.setV_gidx (r l : Nat) (x : Word) : (g.setV r l x).gidx = g.gidx := rfl
@[simp] theorem Group.setV_tidx (r l : Nat) (x : Word) : (g.setV r l x).tidx = g.tidx := rfl
@[simp] theorem Group.setV_cidx (r l : Nat) (x : Word) : (g.setV r l x).cidx = g.cidx := rfl
@[simp] theorem Group.setV_rank (r l : Nat) (x : Word) : (g.setV r l x).rank = g.rank := rfl
@[simp] theorem Group.setV_producer (r l : Nat) (x : Word) : (g.setV r l x).producer = g.producer := rfl
@[simp] theorem Group.setV_inlineLimit (r l : Nat) (x : Word) : (g.setV r l x).inlineLimit = g.inlineLimit := rfl
@[simp] theorem Group.setV_callLimit (r l : Nat) (x : Word) : (g.setV r l x).callLimit = g.callLimit := rfl
@[simp] theorem Group.setV_inlines (r l : Nat) (x : Word) : (g.setV r l x).inlines = g.inlines := rfl
@[simp] theorem Group.setV_inlHeld (r l : Nat) (x : Word) : (g.setV r l x).inlHeld = g.inlHeld := rfl
@[simp] theorem Group.setV_spawns (r l : Nat) (x : Word) : (g.setV r l x).spawns = g.spawns := rfl
@[simp] theorem Group.setV_doneCtr (r l : Nat) (x : Word) : (g.setV r l x).doneCtr = g.doneCtr := rfl
@[simp] theorem Group.setV_sup (r l : Nat) (x : Word) : (g.setV r l x).sup = g.sup := rfl
@[simp] theorem Group.setV_tcause (r l : Nat) (x : Word) : (g.setV r l x).tcause = g.tcause := rfl
@[simp] theorem Group.setV_tkind (r l : Nat) (x : Word) : (g.setV r l x).tkind = g.tkind := rfl
@[simp] theorem Group.setV_tmask (r l : Nat) (x : Word) : (g.setV r l x).tmask = g.tmask := rfl
@[simp] theorem Group.setV_taddr (r l : Nat) (x : Word) : (g.setV r l x).taddr = g.taddr := rfl
@[simp] theorem Group.setV_tdetail (r l : Nat) (x : Word) : (g.setV r l x).tdetail = g.tdetail := rfl
@[simp] theorem Group.setV_scr (r l : Nat) (x : Word) : (g.setV r l x).scr = g.scr := rfl
@[simp] theorem Group.setV_entering (r l : Nat) (x : Word) : (g.setV r l x).entering = g.entering := rfl
@[simp] theorem Group.setV_errors (r l : Nat) (x : Word) : (g.setV r l x).errors = g.errors := rfl
@[simp] theorem Group.setV_preempt (r l : Nat) (x : Word) : (g.setV r l x).preempt = g.preempt := rfl
@[simp] theorem Group.setV_fence (r l : Nat) (x : Word) : (g.setV r l x).fence = g.fence := rfl
@[simp] theorem Group.setV_exiting (r l : Nat) (x : Word) : (g.setV r l x).exiting = g.exiting := rfl
@[simp] theorem Group.setV_vacate (r l : Nat) (x : Word) : (g.setV r l x).vacate = g.vacate := rfl

@[simp] theorem Group.setWave_team (w : Nat) (x : Wave) : (g.setWave w x).team = g.team := rfl
@[simp] theorem Group.setWave_grid (w : Nat) (x : Wave) : (g.setWave w x).grid = g.grid := rfl
@[simp] theorem Group.setWave_ctx (w : Nat) (x : Wave) : (g.setWave w x).ctx = g.ctx := rfl
@[simp] theorem Group.setWave_core (w : Nat) (x : Wave) : (g.setWave w x).core = g.core := rfl
@[simp] theorem Group.setWave_part (w : Nat) (x : Wave) : (g.setWave w x).part = g.part := rfl
@[simp] theorem Group.setWave_slot (w : Nat) (x : Wave) : (g.setWave w x).slot = g.slot := rfl
@[simp] theorem Group.setWave_origin (w : Nat) (x : Wave) : (g.setWave w x).origin = g.origin := rfl
@[simp] theorem Group.setWave_width (w : Nat) (x : Wave) : (g.setWave w x).width = g.width := rfl
@[simp] theorem Group.setWave_n (w : Nat) (x : Wave) : (g.setWave w x).n = g.n := rfl
@[simp] theorem Group.setWave_live (w : Nat) (x : Wave) : (g.setWave w x).live = g.live := rfl
@[simp] theorem Group.setWave_lanes (w : Nat) (x : Wave) : (g.setWave w x).lanes = g.lanes := rfl
@[simp] theorem Group.setWave_v (w : Nat) (x : Wave) : (g.setWave w x).v = g.v := rfl
@[simp] theorem Group.setWave_s (w : Nat) (x : Wave) : (g.setWave w x).s = g.s := rfl
@[simp] theorem Group.setWave_k (w : Nat) (x : Wave) : (g.setWave w x).k = g.k := rfl
@[simp] theorem Group.setWave_q (w : Nat) (x : Wave) : (g.setWave w x).q = g.q := rfl
@[simp] theorem Group.setWave_b (w : Nat) (x : Wave) : (g.setWave w x).b = g.b := rfl
@[simp] theorem Group.setWave_preds (w : Nat) (x : Wave) : (g.setWave w x).preds = g.preds := rfl
@[simp] theorem Group.setWave_a (w : Nat) (x : Wave) : (g.setWave w x).a = g.a := rfl
@[simp] theorem Group.setWave_flags (w : Nat) (x : Wave) : (g.setWave w x).flags = g.flags := rfl
@[simp] theorem Group.setWave_late (w : Nat) (x : Wave) : (g.setWave w x).late = g.late := rfl
@[simp] theorem Group.setWave_bad (w : Nat) (x : Wave) : (g.setWave w x).bad = g.bad := rfl
@[simp] theorem Group.setWave_ops (w : Nat) (x : Wave) : (g.setWave w x).ops = g.ops := rfl
@[simp] theorem Group.setWave_stamp (w : Nat) (x : Wave) : (g.setWave w x).stamp = g.stamp := rfl
@[simp] theorem Group.setWave_node (w : Nat) (x : Wave) : (g.setWave w x).node = g.node := rfl
@[simp] theorem Group.setWave_staging (w : Nat) (x : Wave) : (g.setWave w x).staging = g.staging := rfl
@[simp] theorem Group.setWave_prio (w : Nat) (x : Wave) : (g.setWave w x).prio = g.prio := rfl
@[simp] theorem Group.setWave_issuePrio (w : Nat) (x : Wave) : (g.setWave w x).issuePrio = g.issuePrio := rfl
@[simp] theorem Group.setWave_launchPrio (w : Nat) (x : Wave) : (g.setWave w x).launchPrio = g.launchPrio := rfl
@[simp] theorem Group.setWave_status (w : Nat) (x : Wave) : (g.setWave w x).status = g.status := rfl
@[simp] theorem Group.setWave_statusAt (w : Nat) (x : Wave) : (g.setWave w x).statusAt = g.statusAt := rfl
@[simp] theorem Group.setWave_clockLatch (w : Nat) (x : Wave) : (g.setWave w x).clockLatch = g.clockLatch := rfl
@[simp] theorem Group.setWave_nsLatch (w : Nat) (x : Wave) : (g.setWave w x).nsLatch = g.nsLatch := rfl
@[simp] theorem Group.setWave_seq (w : Nat) (x : Wave) : (g.setWave w x).seq = g.seq := rfl
@[simp] theorem Group.setWave_gidx (w : Nat) (x : Wave) : (g.setWave w x).gidx = g.gidx := rfl
@[simp] theorem Group.setWave_tidx (w : Nat) (x : Wave) : (g.setWave w x).tidx = g.tidx := rfl
@[simp] theorem Group.setWave_cidx (w : Nat) (x : Wave) : (g.setWave w x).cidx = g.cidx := rfl
@[simp] theorem Group.setWave_rank (w : Nat) (x : Wave) : (g.setWave w x).rank = g.rank := rfl
@[simp] theorem Group.setWave_producer (w : Nat) (x : Wave) : (g.setWave w x).producer = g.producer := rfl
@[simp] theorem Group.setWave_inlineLimit (w : Nat) (x : Wave) : (g.setWave w x).inlineLimit = g.inlineLimit := rfl
@[simp] theorem Group.setWave_callLimit (w : Nat) (x : Wave) : (g.setWave w x).callLimit = g.callLimit := rfl
@[simp] theorem Group.setWave_inlines (w : Nat) (x : Wave) : (g.setWave w x).inlines = g.inlines := rfl
@[simp] theorem Group.setWave_inlHeld (w : Nat) (x : Wave) : (g.setWave w x).inlHeld = g.inlHeld := rfl
@[simp] theorem Group.setWave_spawns (w : Nat) (x : Wave) : (g.setWave w x).spawns = g.spawns := rfl
@[simp] theorem Group.setWave_doneCtr (w : Nat) (x : Wave) : (g.setWave w x).doneCtr = g.doneCtr := rfl
@[simp] theorem Group.setWave_sup (w : Nat) (x : Wave) : (g.setWave w x).sup = g.sup := rfl
@[simp] theorem Group.setWave_tcause (w : Nat) (x : Wave) : (g.setWave w x).tcause = g.tcause := rfl
@[simp] theorem Group.setWave_tkind (w : Nat) (x : Wave) : (g.setWave w x).tkind = g.tkind := rfl
@[simp] theorem Group.setWave_tmask (w : Nat) (x : Wave) : (g.setWave w x).tmask = g.tmask := rfl
@[simp] theorem Group.setWave_taddr (w : Nat) (x : Wave) : (g.setWave w x).taddr = g.taddr := rfl
@[simp] theorem Group.setWave_tdetail (w : Nat) (x : Wave) : (g.setWave w x).tdetail = g.tdetail := rfl
@[simp] theorem Group.setWave_scr (w : Nat) (x : Wave) : (g.setWave w x).scr = g.scr := rfl
@[simp] theorem Group.setWave_entering (w : Nat) (x : Wave) : (g.setWave w x).entering = g.entering := rfl
@[simp] theorem Group.setWave_errors (w : Nat) (x : Wave) : (g.setWave w x).errors = g.errors := rfl
@[simp] theorem Group.setWave_preempt (w : Nat) (x : Wave) : (g.setWave w x).preempt = g.preempt := rfl
@[simp] theorem Group.setWave_fence (w : Nat) (x : Wave) : (g.setWave w x).fence = g.fence := rfl
@[simp] theorem Group.setWave_exiting (w : Nat) (x : Wave) : (g.setWave w x).exiting = g.exiting := rfl
@[simp] theorem Group.setWave_vacate (w : Nat) (x : Wave) : (g.setWave w x).vacate = g.vacate := rfl

@[simp] theorem Group.setLane_team (i : Nat) (x : Lane) : (g.setLane i x).team = g.team := rfl
@[simp] theorem Group.setLane_grid (i : Nat) (x : Lane) : (g.setLane i x).grid = g.grid := rfl
@[simp] theorem Group.setLane_ctx (i : Nat) (x : Lane) : (g.setLane i x).ctx = g.ctx := rfl
@[simp] theorem Group.setLane_core (i : Nat) (x : Lane) : (g.setLane i x).core = g.core := rfl
@[simp] theorem Group.setLane_part (i : Nat) (x : Lane) : (g.setLane i x).part = g.part := rfl
@[simp] theorem Group.setLane_slot (i : Nat) (x : Lane) : (g.setLane i x).slot = g.slot := rfl
@[simp] theorem Group.setLane_origin (i : Nat) (x : Lane) : (g.setLane i x).origin = g.origin := rfl
@[simp] theorem Group.setLane_width (i : Nat) (x : Lane) : (g.setLane i x).width = g.width := rfl
@[simp] theorem Group.setLane_n (i : Nat) (x : Lane) : (g.setLane i x).n = g.n := rfl
@[simp] theorem Group.setLane_live (i : Nat) (x : Lane) : (g.setLane i x).live = g.live := rfl
@[simp] theorem Group.setLane_v (i : Nat) (x : Lane) : (g.setLane i x).v = g.v := rfl
@[simp] theorem Group.setLane_s (i : Nat) (x : Lane) : (g.setLane i x).s = g.s := rfl
@[simp] theorem Group.setLane_k (i : Nat) (x : Lane) : (g.setLane i x).k = g.k := rfl
@[simp] theorem Group.setLane_q (i : Nat) (x : Lane) : (g.setLane i x).q = g.q := rfl
@[simp] theorem Group.setLane_b (i : Nat) (x : Lane) : (g.setLane i x).b = g.b := rfl
@[simp] theorem Group.setLane_preds (i : Nat) (x : Lane) : (g.setLane i x).preds = g.preds := rfl
@[simp] theorem Group.setLane_a (i : Nat) (x : Lane) : (g.setLane i x).a = g.a := rfl
@[simp] theorem Group.setLane_flags (i : Nat) (x : Lane) : (g.setLane i x).flags = g.flags := rfl
@[simp] theorem Group.setLane_late (i : Nat) (x : Lane) : (g.setLane i x).late = g.late := rfl
@[simp] theorem Group.setLane_bad (i : Nat) (x : Lane) : (g.setLane i x).bad = g.bad := rfl
@[simp] theorem Group.setLane_waves (i : Nat) (x : Lane) : (g.setLane i x).waves = g.waves := rfl
@[simp] theorem Group.setLane_ops (i : Nat) (x : Lane) : (g.setLane i x).ops = g.ops := rfl
@[simp] theorem Group.setLane_stamp (i : Nat) (x : Lane) : (g.setLane i x).stamp = g.stamp := rfl
@[simp] theorem Group.setLane_node (i : Nat) (x : Lane) : (g.setLane i x).node = g.node := rfl
@[simp] theorem Group.setLane_staging (i : Nat) (x : Lane) : (g.setLane i x).staging = g.staging := rfl
@[simp] theorem Group.setLane_prio (i : Nat) (x : Lane) : (g.setLane i x).prio = g.prio := rfl
@[simp] theorem Group.setLane_issuePrio (i : Nat) (x : Lane) : (g.setLane i x).issuePrio = g.issuePrio := rfl
@[simp] theorem Group.setLane_launchPrio (i : Nat) (x : Lane) : (g.setLane i x).launchPrio = g.launchPrio := rfl
@[simp] theorem Group.setLane_status (i : Nat) (x : Lane) : (g.setLane i x).status = g.status := rfl
@[simp] theorem Group.setLane_statusAt (i : Nat) (x : Lane) : (g.setLane i x).statusAt = g.statusAt := rfl
@[simp] theorem Group.setLane_clockLatch (i : Nat) (x : Lane) : (g.setLane i x).clockLatch = g.clockLatch := rfl
@[simp] theorem Group.setLane_nsLatch (i : Nat) (x : Lane) : (g.setLane i x).nsLatch = g.nsLatch := rfl
@[simp] theorem Group.setLane_seq (i : Nat) (x : Lane) : (g.setLane i x).seq = g.seq := rfl
@[simp] theorem Group.setLane_gidx (i : Nat) (x : Lane) : (g.setLane i x).gidx = g.gidx := rfl
@[simp] theorem Group.setLane_tidx (i : Nat) (x : Lane) : (g.setLane i x).tidx = g.tidx := rfl
@[simp] theorem Group.setLane_cidx (i : Nat) (x : Lane) : (g.setLane i x).cidx = g.cidx := rfl
@[simp] theorem Group.setLane_rank (i : Nat) (x : Lane) : (g.setLane i x).rank = g.rank := rfl
@[simp] theorem Group.setLane_producer (i : Nat) (x : Lane) : (g.setLane i x).producer = g.producer := rfl
@[simp] theorem Group.setLane_inlineLimit (i : Nat) (x : Lane) : (g.setLane i x).inlineLimit = g.inlineLimit := rfl
@[simp] theorem Group.setLane_callLimit (i : Nat) (x : Lane) : (g.setLane i x).callLimit = g.callLimit := rfl
@[simp] theorem Group.setLane_inlines (i : Nat) (x : Lane) : (g.setLane i x).inlines = g.inlines := rfl
@[simp] theorem Group.setLane_inlHeld (i : Nat) (x : Lane) : (g.setLane i x).inlHeld = g.inlHeld := rfl
@[simp] theorem Group.setLane_spawns (i : Nat) (x : Lane) : (g.setLane i x).spawns = g.spawns := rfl
@[simp] theorem Group.setLane_doneCtr (i : Nat) (x : Lane) : (g.setLane i x).doneCtr = g.doneCtr := rfl
@[simp] theorem Group.setLane_sup (i : Nat) (x : Lane) : (g.setLane i x).sup = g.sup := rfl
@[simp] theorem Group.setLane_tcause (i : Nat) (x : Lane) : (g.setLane i x).tcause = g.tcause := rfl
@[simp] theorem Group.setLane_tkind (i : Nat) (x : Lane) : (g.setLane i x).tkind = g.tkind := rfl
@[simp] theorem Group.setLane_tmask (i : Nat) (x : Lane) : (g.setLane i x).tmask = g.tmask := rfl
@[simp] theorem Group.setLane_taddr (i : Nat) (x : Lane) : (g.setLane i x).taddr = g.taddr := rfl
@[simp] theorem Group.setLane_tdetail (i : Nat) (x : Lane) : (g.setLane i x).tdetail = g.tdetail := rfl
@[simp] theorem Group.setLane_scr (i : Nat) (x : Lane) : (g.setLane i x).scr = g.scr := rfl
@[simp] theorem Group.setLane_entering (i : Nat) (x : Lane) : (g.setLane i x).entering = g.entering := rfl
@[simp] theorem Group.setLane_errors (i : Nat) (x : Lane) : (g.setLane i x).errors = g.errors := rfl
@[simp] theorem Group.setLane_preempt (i : Nat) (x : Lane) : (g.setLane i x).preempt = g.preempt := rfl
@[simp] theorem Group.setLane_fence (i : Nat) (x : Lane) : (g.setLane i x).fence = g.fence := rfl
@[simp] theorem Group.setLane_exiting (i : Nat) (x : Lane) : (g.setLane i x).exiting = g.exiting := rfl
@[simp] theorem Group.setLane_vacate (i : Nat) (x : Lane) : (g.setLane i x).vacate = g.vacate := rfl

@[simp] theorem Group.setQ_team (i : Nat) (x : Bool) : (g.setQ i x).team = g.team := rfl
@[simp] theorem Group.setQ_grid (i : Nat) (x : Bool) : (g.setQ i x).grid = g.grid := rfl
@[simp] theorem Group.setQ_ctx (i : Nat) (x : Bool) : (g.setQ i x).ctx = g.ctx := rfl
@[simp] theorem Group.setQ_core (i : Nat) (x : Bool) : (g.setQ i x).core = g.core := rfl
@[simp] theorem Group.setQ_part (i : Nat) (x : Bool) : (g.setQ i x).part = g.part := rfl
@[simp] theorem Group.setQ_slot (i : Nat) (x : Bool) : (g.setQ i x).slot = g.slot := rfl
@[simp] theorem Group.setQ_origin (i : Nat) (x : Bool) : (g.setQ i x).origin = g.origin := rfl
@[simp] theorem Group.setQ_width (i : Nat) (x : Bool) : (g.setQ i x).width = g.width := rfl
@[simp] theorem Group.setQ_n (i : Nat) (x : Bool) : (g.setQ i x).n = g.n := rfl
@[simp] theorem Group.setQ_live (i : Nat) (x : Bool) : (g.setQ i x).live = g.live := rfl
@[simp] theorem Group.setQ_lanes (i : Nat) (x : Bool) : (g.setQ i x).lanes = g.lanes := rfl
@[simp] theorem Group.setQ_v (i : Nat) (x : Bool) : (g.setQ i x).v = g.v := rfl
@[simp] theorem Group.setQ_s (i : Nat) (x : Bool) : (g.setQ i x).s = g.s := rfl
@[simp] theorem Group.setQ_k (i : Nat) (x : Bool) : (g.setQ i x).k = g.k := rfl
@[simp] theorem Group.setQ_b (i : Nat) (x : Bool) : (g.setQ i x).b = g.b := rfl
@[simp] theorem Group.setQ_preds (i : Nat) (x : Bool) : (g.setQ i x).preds = g.preds := rfl
@[simp] theorem Group.setQ_a (i : Nat) (x : Bool) : (g.setQ i x).a = g.a := rfl
@[simp] theorem Group.setQ_flags (i : Nat) (x : Bool) : (g.setQ i x).flags = g.flags := rfl
@[simp] theorem Group.setQ_late (i : Nat) (x : Bool) : (g.setQ i x).late = g.late := rfl
@[simp] theorem Group.setQ_bad (i : Nat) (x : Bool) : (g.setQ i x).bad = g.bad := rfl
@[simp] theorem Group.setQ_waves (i : Nat) (x : Bool) : (g.setQ i x).waves = g.waves := rfl
@[simp] theorem Group.setQ_ops (i : Nat) (x : Bool) : (g.setQ i x).ops = g.ops := rfl
@[simp] theorem Group.setQ_stamp (i : Nat) (x : Bool) : (g.setQ i x).stamp = g.stamp := rfl
@[simp] theorem Group.setQ_node (i : Nat) (x : Bool) : (g.setQ i x).node = g.node := rfl
@[simp] theorem Group.setQ_staging (i : Nat) (x : Bool) : (g.setQ i x).staging = g.staging := rfl
@[simp] theorem Group.setQ_prio (i : Nat) (x : Bool) : (g.setQ i x).prio = g.prio := rfl
@[simp] theorem Group.setQ_issuePrio (i : Nat) (x : Bool) : (g.setQ i x).issuePrio = g.issuePrio := rfl
@[simp] theorem Group.setQ_launchPrio (i : Nat) (x : Bool) : (g.setQ i x).launchPrio = g.launchPrio := rfl
@[simp] theorem Group.setQ_status (i : Nat) (x : Bool) : (g.setQ i x).status = g.status := rfl
@[simp] theorem Group.setQ_statusAt (i : Nat) (x : Bool) : (g.setQ i x).statusAt = g.statusAt := rfl
@[simp] theorem Group.setQ_clockLatch (i : Nat) (x : Bool) : (g.setQ i x).clockLatch = g.clockLatch := rfl
@[simp] theorem Group.setQ_nsLatch (i : Nat) (x : Bool) : (g.setQ i x).nsLatch = g.nsLatch := rfl
@[simp] theorem Group.setQ_seq (i : Nat) (x : Bool) : (g.setQ i x).seq = g.seq := rfl
@[simp] theorem Group.setQ_gidx (i : Nat) (x : Bool) : (g.setQ i x).gidx = g.gidx := rfl
@[simp] theorem Group.setQ_tidx (i : Nat) (x : Bool) : (g.setQ i x).tidx = g.tidx := rfl
@[simp] theorem Group.setQ_cidx (i : Nat) (x : Bool) : (g.setQ i x).cidx = g.cidx := rfl
@[simp] theorem Group.setQ_rank (i : Nat) (x : Bool) : (g.setQ i x).rank = g.rank := rfl
@[simp] theorem Group.setQ_producer (i : Nat) (x : Bool) : (g.setQ i x).producer = g.producer := rfl
@[simp] theorem Group.setQ_inlineLimit (i : Nat) (x : Bool) : (g.setQ i x).inlineLimit = g.inlineLimit := rfl
@[simp] theorem Group.setQ_callLimit (i : Nat) (x : Bool) : (g.setQ i x).callLimit = g.callLimit := rfl
@[simp] theorem Group.setQ_inlines (i : Nat) (x : Bool) : (g.setQ i x).inlines = g.inlines := rfl
@[simp] theorem Group.setQ_inlHeld (i : Nat) (x : Bool) : (g.setQ i x).inlHeld = g.inlHeld := rfl
@[simp] theorem Group.setQ_spawns (i : Nat) (x : Bool) : (g.setQ i x).spawns = g.spawns := rfl
@[simp] theorem Group.setQ_doneCtr (i : Nat) (x : Bool) : (g.setQ i x).doneCtr = g.doneCtr := rfl
@[simp] theorem Group.setQ_sup (i : Nat) (x : Bool) : (g.setQ i x).sup = g.sup := rfl
@[simp] theorem Group.setQ_tcause (i : Nat) (x : Bool) : (g.setQ i x).tcause = g.tcause := rfl
@[simp] theorem Group.setQ_tkind (i : Nat) (x : Bool) : (g.setQ i x).tkind = g.tkind := rfl
@[simp] theorem Group.setQ_tmask (i : Nat) (x : Bool) : (g.setQ i x).tmask = g.tmask := rfl
@[simp] theorem Group.setQ_taddr (i : Nat) (x : Bool) : (g.setQ i x).taddr = g.taddr := rfl
@[simp] theorem Group.setQ_tdetail (i : Nat) (x : Bool) : (g.setQ i x).tdetail = g.tdetail := rfl
@[simp] theorem Group.setQ_scr (i : Nat) (x : Bool) : (g.setQ i x).scr = g.scr := rfl
@[simp] theorem Group.setQ_entering (i : Nat) (x : Bool) : (g.setQ i x).entering = g.entering := rfl
@[simp] theorem Group.setQ_errors (i : Nat) (x : Bool) : (g.setQ i x).errors = g.errors := rfl
@[simp] theorem Group.setQ_preempt (i : Nat) (x : Bool) : (g.setQ i x).preempt = g.preempt := rfl
@[simp] theorem Group.setQ_fence (i : Nat) (x : Bool) : (g.setQ i x).fence = g.fence := rfl
@[simp] theorem Group.setQ_exiting (i : Nat) (x : Bool) : (g.setQ i x).exiting = g.exiting := rfl
@[simp] theorem Group.setQ_vacate (i : Nat) (x : Bool) : (g.setQ i x).vacate = g.vacate := rfl

end Sys2Proof.Machine
end

