-- ==== Sys2Proof/Laws/Ops.lean ====
section
/-! SUPPORT. Laws/Ops.lean: what the shared operations over registers, waves and words can do, said once. -/
namespace Sys2Proof.Machine

/-! ### The current group and wave -/

/-- The current group after it was changed. -/
@[simp] theorem State.cg_updCur (s : State) (f : Group → Group) : (s.updCur f).cg = f s.cg := by
  simp [State.cg, State.group]
/-- Every other group stays. -/
theorem State.group_updCur_ne (s : State) (f : Group → Group) {g : Nat} (h : g ≠ s.curGroup) :
    (s.updCur f).group g = s.group g := by
  simp [State.group, tget_tset_ne _ _ _ h]
/-- A group after it was changed. -/
@[simp] theorem State.group_updGroup (s : State) (g : Nat) (f : Group → Group) : (s.updGroup g f).group g = f (s.group g) := by
  simp [State.group]
/-- Every other group stays. -/
theorem State.group_updGroup_ne (s : State) {g h : Nat} (f : Group → Group) (e : h ≠ g) :
    (s.updGroup g f).group h = s.group h := by
  simp [State.group, tget_tset_ne _ _ _ e]
/-- A group after it was replaced. -/
@[simp] theorem State.group_setGroup (s : State) (g : Nat) (x : Group) : (s.setGroup g x).group g = x := by
  simp [State.group]
/-- A wave after it was replaced. -/
@[simp] theorem Group.wave_setWave (g : Group) (w : Nat) (x : Wave) : (g.setWave w x).wave w = x := by
  simp [Group.wave, Group.setWave]
/-- Every other wave stays. -/
theorem Group.wave_setWave_ne (g : Group) {w v : Nat} (x : Wave) (h : v ≠ w) : (g.setWave w x).wave v = g.wave v := by
  simp [Group.wave, Group.setWave, tget_tset_ne _ _ _ h]
/-- A die after it was changed. -/
@[simp] theorem State.die_updDie (s : State) (d : Nat) (f : Die → Die) : (s.updDie d f).die d = f (s.die d) := by
  simp [State.die]
/-- The other die stays. -/
theorem State.die_updDie_ne (s : State) {d e : Nat} (f : Die → Die) (h : e ≠ d) : (s.updDie d f).die e = s.die e := by
  simp [State.die, tget_tset_ne _ _ _ h]
/-- A core after it was changed. -/
@[simp] theorem State.core_updCore (s : State) (c : Nat) (f : Core → Core) : (s.updCore c f).core c = f (s.core c) := by
  simp [State.core]
/-- Every other core stays. -/
theorem State.core_updCore_ne (s : State) {c e : Nat} (f : Core → Core) (h : e ≠ c) : (s.updCore c f).core e = s.core e := by
  simp [State.core, tget_tset_ne _ _ _ h]
/-- A team after it was changed. -/
@[simp] theorem State.team_updTeam (s : State) (t : Nat) (f : Team → Team) : (s.updTeam t f).team t = f (s.team t) := by
  simp [State.team]
/-- A context after it was changed. -/
@[simp] theorem State.ctx_updCtx (s : State) (c : Nat) (f : Ctx → Ctx) : (s.updCtx c f).ctx c = f (s.ctx c) := by
  simp [State.ctx]

/-- The wave after its word: the next index, no prefix, issued in this cycle. -/
def Wave.past (w : Wave) (now : Nat) : Wave := { w with idx := w.idx + 1, pfx := none, readyAt := now, promoted := false }

/-- WHAT MOVING ON DOES: the current wave, and nothing else, stands at its next word. -/
theorem State.nextWord_eq (s : State) :
    s.nextWord = s.updCur (fun g => g.setWave s.curWave ((g.wave s.curWave).past (s.core s.cg.core).cycles)) := rfl
/-- The group after its wave moved on. -/
@[simp] theorem State.cg_nextWord (s : State) :
    s.nextWord.cg = s.cg.setWave s.curWave (s.cw.past (s.core s.cg.core).cycles) := by
  simp [State.nextWord_eq, State.cw]
/-- The wave after it moved on. -/
@[simp] theorem State.cw_nextWord (s : State) : s.nextWord.cw = s.cw.past (s.core s.cg.core).cycles := by
  simp [State.cw]
/-- Every other group stays. -/
theorem State.group_nextWord_ne (s : State) {g : Nat} (h : g ≠ s.curGroup) : s.nextWord.group g = s.group g := by
  rw [State.nextWord_eq, State.group_updCur_ne _ _ h]

/-! ### Registers -/

/-- An s-register after a write. -/
theorem Group.sreg_setS (g : Group) (i j : Nat) (x : Word) :
    (g.setS i x).sreg j = if j = i ∧ i < 64 then x else g.sreg j := vecGet_vecSet _ _ _ _ _
/-- The s-register that was written. -/
theorem Group.sreg_setS_same (g : Group) {i : Nat} (x : Word) (h : i < 64) : (g.setS i x).sreg i = x := by
  simp [Group.sreg_setS, h]
/-- Every other s-register. -/
theorem Group.sreg_setS_ne (g : Group) {i j : Nat} (x : Word) (h : j ≠ i) : (g.setS i x).sreg j = g.sreg j := by
  simp [Group.sreg_setS, h]
/-- A v-register of a lane after a write. -/
theorem Group.vreg_setV (g : Group) {r l r' l' : Nat} (x : Word) (h : l < 32) (h' : l' < 32) :
    (g.setV r l x).vreg r' l' = if r' = r ∧ l' = l then x else g.vreg r' l' := by
  unfold Group.vreg Group.setV
  rw [tget_tset]
  by_cases e : r' = r ∧ l' = l
  · simp [e]
  · rw [if_neg e, if_neg (by omega)]
/-- A lane after it was replaced. -/
theorem Group.lane_setLane (g : Group) (i j : Nat) (x : Lane) :
    (g.setLane i x).lane j = if j = i ∧ i < 32 then x else g.lane j := vecGet_vecSet _ _ _ _ _

/-- Registers that a wide result writes (R29). -/
theorem Group.vreg_setVs (g : Group) {l l' : Nat} (hl : l < 32) (hl' : l' < 32) (n : Nat) :
    ∀ (r v r' : Nat), (g.setVs r l n v).vreg r' l'
      = if l' = l ∧ r ≤ r' ∧ r' < r + n then BitVec.ofNat 32 (v / 2 ^ (32 * (r' - r))) else g.vreg r' l' := by
  induction n generalizing g with
  | zero => intro r v r'; rw [if_neg (by omega)]; rfl
  | succ n ih =>
    intro r v r'
    rw [Group.setVs, ih, Group.vreg_setV _ _ hl hl']
    by_cases hL : l' = l
    · subst hL
      by_cases h1 : r + 1 ≤ r' ∧ r' < r + 1 + n
      · rw [if_pos ⟨rfl, h1⟩, if_pos (by omega), Nat.div_div_eq_div_mul, ← pow_add]
        congr 3; omega
      · rw [if_neg (by tauto)]
        by_cases h2 : r' = r
        · subst h2; simp
        · rw [if_neg (by tauto), if_neg (by omega)]
    · simp [hL]

/-- A mark does not change what a completion still shows. -/
@[simp] theorem Late.base_hit (l : Loc) (m : Word) (e : Late) : (e.hit l m).base = e.base := by
  unfold Late.hit; split_ifs <;> rfl
@[simp] theorem map_base_hit (l : Loc) (m : Word) (es : List Late) :
    (es.map (Late.hit l m)).map Late.base = es.map Late.base := by
  rw [List.map_map]; exact List.map_congr_left (fun e _ => Late.base_hit l m e)

/-- A wide write marks completions and takes the poison of what it writes away (R39, R464). -/
theorem Group.setVs_marks (g : Group) {l : Nat} (hl : l < 32) (n : Nat) : ∀ r v,
    (g.setVs r l n v).late.map Late.base = g.late.map Late.base
    ∧ ∀ k l', l' < 32 → (k * 32 + l' ∈ (g.setVs r l n v).bad ↔ k * 32 + l' ∈ g.bad ∧ ¬ (l' = l ∧ r ≤ k ∧ k < r + n)) := by
  induction n generalizing g with
  | zero => intro r v; exact ⟨rfl, fun k l' _ => by simp [Group.setVs]⟩
  | succ n ih =>
    intro r v
    obtain ⟨i1, i2⟩ := ih (g.setV r l (BitVec.ofNat 32 v)) (r + 1) (v / 2 ^ 32)
    refine ⟨by rw [Group.setVs, i1]; simp, fun k l' hl' => ?_⟩
    rw [Group.setVs, i2 k l' hl', Group.setV_bad, List.mem_filter]
    simp only [decide_eq_true_eq, and_assoc]
    refine and_congr_right fun _ => ⟨fun h => ?_, fun h => ⟨?_, ?_⟩⟩ <;> omega

/-- A wide write changes v-registers alone, with the marks of those it wrote. -/
theorem Group.setVs_eq (g : Group) (l : Nat) (n : Nat) :
    ∀ r v, g.setVs r l n v = { g with v := (g.setVs r l n v).v, late := (g.setVs r l n v).late, bad := (g.setVs r l n v).bad } := by
  induction n generalizing g with
  | zero => intro r v; rfl
  | succ n ih => intro r v; rw [Group.setVs, ih]; rfl

/-! ### Lanes of a mask -/

/-- The lanes of a mask are below 32, each once. -/
theorem mem_lanesOf {m : Mask} {l : Nat} : l ∈ lanesOf m ↔ l < 32 ∧ inMask m l = true := by
  simp [lanesOf, inMask]
/-- No lane stands twice in the list. -/
theorem nodup_lanesOf (m : Mask) : (lanesOf m).Nodup := List.Nodup.filter _ List.nodup_range

/-! ### Results of a V-set word -/

/-- The fold of results over lanes, each once. -/
theorem vResults_fold (d n : Nat) (f : Nat → Word → Nat × Word) (ls : List Nat) (h : ∀ l ∈ ls, l < 32) (hn : ls.Nodup)
    (g : Group) :
    let g' := ls.foldl (fun (g : Group) l =>
      let r := f l (g.lane l).gen
      (g.setVs d l n r.1).setLane l { g.lane l with gen := r.2 }) g
    g' = { g with v := g'.v, late := g'.late, bad := g'.bad, lanes := g'.lanes }
    ∧ (∀ r l, l < 32 → g'.vreg r l = if l ∈ ls ∧ d ≤ r ∧ r < d + n then BitVec.ofNat 32 ((f l (g.lane l).gen).1 / 2 ^ (32 * (r - d)))
        else g.vreg r l)
    ∧ (∀ l, l < 32 → g'.lane l = if l ∈ ls then { g.lane l with gen := (f l (g.lane l).gen).2 } else g.lane l)
    ∧ g'.late.map Late.base = g.late.map Late.base
    ∧ ∀ k l, l < 32 → (k * 32 + l ∈ g'.bad ↔ k * 32 + l ∈ g.bad ∧ ¬ (l ∈ ls ∧ d ≤ k ∧ k < d + n)) := by
  induction ls generalizing g with
  | nil => simp
  | cons a ls ih =>
    have ha : a < 32 := h a (by simp)
    have hna : a ∉ ls := (List.nodup_cons.mp hn).1
    simp only [List.foldl_cons]
    set g1 : Group := (g.setVs d a n (f a (g.lane a).gen).1).setLane a { g.lane a with gen := (f a (g.lane a).gen).2 } with hg1
    have e1 : g1 = { g with v := g1.v, late := g1.late, bad := g1.bad, lanes := g1.lanes } := by rw [hg1, Group.setVs_eq]; rfl
    have elane : ∀ l, l < 32 → g1.lane l = if l = a then { g.lane a with gen := (f a (g.lane a).gen).2 } else g.lane l := by
      intro l hl
      rw [hg1, Group.lane_setLane]
      have : (g.setVs d a n (f a (g.lane a).gen).1).lane l = g.lane l := by rw [Group.setVs_eq]; rfl
      simp [ha, this]
    have evreg : ∀ r l, l < 32 → g1.vreg r l = if l = a ∧ d ≤ r ∧ r < d + n
        then BitVec.ofNat 32 ((f a (g.lane a).gen).1 / 2 ^ (32 * (r - d))) else g.vreg r l := by
      intro r l hl
      exact Group.vreg_setVs g ha hl n d _ r
    have emark := Group.setVs_marks g ha n d (f a (g.lane a).gen).1
    obtain ⟨i1, i2, i3, i4, i5⟩ := ih (fun l hl => h l (by simp [hl])) (List.nodup_cons.mp hn).2 g1
    refine ⟨?_, ?_, ?_, i4.trans emark.1, fun k l hl => ?_⟩
    rotate_left 3
    · rw [i5 k l hl, show (k * 32 + l ∈ g1.bad ↔ _) from emark.2 k l hl, and_assoc]
      by_cases hla : l = a
      · subst hla; simp [hna]
      · simp [hla]
    · rw [i1, e1]
    · intro r l hl
      rw [i2 r l hl, evreg r l hl, elane l hl]
      by_cases hla : l = a
      · subst hla; simp [hna]
      · simp [hla]
    · intro l hl
      rw [i3 l hl, elane l hl]
      by_cases hla : l = a
      · subst hla; simp [hna]
      · simp [hla]

/-- Zeroing registers in the lanes of a mask changes nothing else. -/
theorem Group.zeroLanes_spec (g : Group) (m : Mask) (d n : Nat) :
    g.zeroLanes m d n = { g with v := (g.zeroLanes m d n).v, late := (g.zeroLanes m d n).late, bad := (g.zeroLanes m d n).bad }
    ∧ (∀ r l, l < 32 → (g.zeroLanes m d n).vreg r l = if inMask m l ∧ d ≤ r ∧ r < d + n then 0 else g.vreg r l)
    ∧ (g.zeroLanes m d n).late.map Late.base = g.late.map Late.base
    ∧ ∀ k l, l < 32 → (k * 32 + l ∈ (g.zeroLanes m d n).bad ↔ k * 32 + l ∈ g.bad ∧ ¬ (inMask m l ∧ d ≤ k ∧ k < d + n)) := by
  have key : ∀ (ls : List Nat), (∀ l ∈ ls, l < 32) → ∀ g : Group,
      ls.foldl (fun g l => g.setVs d l n 0) g = { g with
        v := (ls.foldl (fun g l => g.setVs d l n 0) g).v
        late := (ls.foldl (fun g l => g.setVs d l n 0) g).late
        bad := (ls.foldl (fun g l => g.setVs d l n 0) g).bad }
      ∧ (∀ r l, l < 32 → (ls.foldl (fun g l => g.setVs d l n 0) g).vreg r l
        = if l ∈ ls ∧ d ≤ r ∧ r < d + n then 0 else g.vreg r l)
      ∧ (ls.foldl (fun g l => g.setVs d l n 0) g).late.map Late.base = g.late.map Late.base
      ∧ ∀ k l, l < 32 → (k * 32 + l ∈ (ls.foldl (fun g l => g.setVs d l n 0) g).bad
        ↔ k * 32 + l ∈ g.bad ∧ ¬ (l ∈ ls ∧ d ≤ k ∧ k < d + n)) := by
    intro ls
    induction ls with
    | nil => intro _ g; simp
    | cons a ls ih =>
      intro h g
      have ha : a < 32 := h a (by simp)
      obtain ⟨i1, i2, i3, i4⟩ := ih (fun l hl => h l (by simp [hl])) (g.setVs d a n 0)
      have emark := Group.setVs_marks g ha n d 0
      refine ⟨?_, ?_, i3.trans emark.1, fun k l hl => ?_⟩
      rotate_left 2
      · rw [List.foldl_cons, i4 k l hl, emark.2 k l hl, and_assoc]
        by_cases hla : l = a
        · subst hla; simp only [List.mem_cons, true_or, true_and]; tauto
        · simp [hla]
      · rw [List.foldl_cons, i1, Group.setVs_eq]
      · intro r l hl
        rw [List.foldl_cons, i2 r l hl, Group.vreg_setVs g ha hl]
        by_cases hla : l = a
        · subst hla
          by_cases hr : d ≤ r ∧ r < d + n
          · simp [hr]
          · simp only [hr, and_false, if_false]
        · simp [hla]
  obtain ⟨k1, k2, k3, k4⟩ := key (lanesOf m) (fun l hl => (mem_lanesOf.mp hl).1) g
  refine ⟨k1, fun r l hl => ?_, k3, fun k l hl => ?_⟩
  rotate_left
  · rw [show g.zeroLanes m d n = (lanesOf m).foldl (fun g l => g.setVs d l n 0) g from rfl, k4 k l hl]
    simp [mem_lanesOf, hl]
  have := k2 r l hl
  rw [show g.zeroLanes m d n = (lanesOf m).foldl (fun g l => g.setVs d l n 0) g from rfl, this]
  simp [mem_lanesOf, hl]

/-- WHAT WRITING THE RESULTS OF A V-SET WORD DOES (R117): a lane masked under z receives zero, an active lane its result,
every other lane nothing; rounding generators of active lanes move on; nothing else of the group changes but the marks of
the registers written. -/
theorem Group.vResults_spec (g : Group) (x : VIn) (d n : Nat) (f : Nat → Word → Nat × Word) :
    g.vResults x d n f = { g with
      v := (g.vResults x d n f).v, late := (g.vResults x d n f).late, bad := (g.vResults x d n f).bad
      lanes := (g.vResults x d n f).lanes }
    ∧ (∀ r l, l < 32 → (g.vResults x d n f).vreg r l =
        if d ≤ r ∧ r < d + n then
          (if inMask x.zero l then 0
           else if inMask x.act l then BitVec.ofNat 32 ((f l (g.lane l).gen).1 / 2 ^ (32 * (r - d))) else g.vreg r l)
        else g.vreg r l)
    ∧ (∀ l, l < 32 → (g.vResults x d n f).lane l =
        if inMask x.act l then { g.lane l with gen := (f l (g.lane l).gen).2 } else g.lane l)
    ∧ (g.vResults x d n f).late.map Late.base = g.late.map Late.base
    ∧ ∀ k l, l < 32 → (k * 32 + l ∈ (g.vResults x d n f).bad
        ↔ k * 32 + l ∈ g.bad ∧ ¬ (d ≤ k ∧ k < d + n ∧ (inMask x.zero l ∨ inMask x.act l))) := by
  obtain ⟨f1, f2, f3, f4, f5⟩ := vResults_fold d n f (lanesOf x.act) (fun l hl => (mem_lanesOf.mp hl).1) (nodup_lanesOf _) g
  set g1 := (lanesOf x.act).foldl (fun (g : Group) l =>
      let r := f l (g.lane l).gen
      (g.setVs d l n r.1).setLane l { g.lane l with gen := r.2 }) g with hg1
  have e : g.vResults x d n f = g1.zeroLanes x.zero d n := rfl
  obtain ⟨z1, z2, z3, z4⟩ := Group.zeroLanes_spec g1 x.zero d n
  refine ⟨?_, ?_, ?_, by rw [e, z3]; exact f4, fun k l hl => ?_⟩
  rotate_left 3
  · rw [e, z4 k l hl, f5 k l hl, and_assoc]
    refine and_congr_right fun _ => ?_
    simp only [mem_lanesOf, hl, true_and]
    tauto
  · rw [e, z1, f1]
  · intro r l hl
    rw [e, z2 r l hl, f2 r l hl]
    by_cases hr : d ≤ r ∧ r < d + n <;> by_cases hz : inMask x.zero l = true <;> by_cases ha : inMask x.act l = true <;>
      simp [hr, hz, ha, mem_lanesOf, hl]
  · intro l hl
    have : (g1.zeroLanes x.zero d n).lane l = g1.lane l := by rw [z1]; rfl
    rw [e, this, f3 l hl]
    simp [mem_lanesOf, hl]

/-! ### Words -/

/-- A U-set word with an enabled lane and valid fields has its effect (R80, R151). -/
theorem State.uWord_ok (s : State) {ok : Bool} (k : State → State) (he : s.cw.en ≠ 0#32) (h : ok = true) :
    s.uWord ok k = k s := by simp [State.uWord, he, h]
/-- With no enabled lane it is skipped (R80). -/
theorem State.uWord_skip (s : State) (ok : Bool) (k : State → State) (he : s.cw.en = 0#32) : s.uWord ok k = s.skipWord := by
  simp [State.uWord, he]
/-- A U-set word that changes only the group, when it takes effect. -/
theorem uOp_ok {ok : Bool} (f : Group → Group) (s : State) (he : s.cw.en ≠ 0#32) (h : ok = true) :
    uOp ok f s = .next (s.updCur f).nextWord := by simp [uOp, State.uWord_ok s _ he h]
/-- A privileged word in supervisor mode. -/
theorem State.privWord_ok (s : State) {ok : Bool} (k : State → State) (he : s.cw.en ≠ 0#32) (h : ok = true)
    (hs : s.cg.sup = true) : s.privWord ok k = k s := by simp [State.privWord, State.uWord_ok s _ he h, hs]

/-- The step's outcome when no access has left the memory of its die. -/
theorem finish_next {s : State} (h : s.stop = none) : finish s = .next s := by simp [finish, h]

end Sys2Proof.Machine
end

