-- ==== Sys2Proof/Laws/Memory.lean ====
section
/-! SUPPORT. Laws/Memory.lean: every operation on a memory keeps its canonical form; an access whose translation and lines
a core holds changes nothing. -/
namespace Sys2Proof.Machine

/-! ### The canonical form -/

/-- The memory after reset is in canonical form. -/
theorem State.reset_mem_wf : Memory.wf State.reset.mem = true := rfl

/-- A dirty byte that goes back keeps the form. -/
theorem State.cleanByte_mem_wf (s : State) (key : Nat) (h : Memory.wf s.mem = true) :
    Memory.wf (s.cleanByte key).mem = true := by
  unfold State.cleanByte; split
  · exact canon_putByte key _ h
  · exact h

theorem State.cleanBytes_mem_wf (l : Tab Byte) : ∀ (s : State), Memory.wf s.mem = true →
    Memory.wf (l.foldl (fun s e => s.cleanByte e.1) s).mem = true := by
  induction l with
  | nil => exact fun _ h => h
  | cons e l ih => exact fun s h => ih _ (s.cleanByte_mem_wf e.1 h)

/-- Writing dirty bytes back keeps the form. -/
theorem State.writeBack_mem_wf (s : State) (key n : Nat) (h : Memory.wf s.mem = true) :
    Memory.wf (s.writeBack key n).mem = true := State.cleanBytes_mem_wf _ _ h

/-- Bringing a line into the L2 keeps the form: the line that leaves is written back. -/
theorem State.holdL2_mem_wf (s : State) (key : Nat) (h : Memory.wf s.mem = true) :
    Memory.wf (s.holdL2 key).mem = true := by
  unfold State.holdL2; dsimp only; split_ifs
  · exact h
  · split
    · exact s.writeBack_mem_wf _ _ h
    · exact h

theorem State.putHomeByte_mem_wf (s : State) (key : Nat) (x : Byte) (h : Memory.wf s.mem = true) :
    Memory.wf (s.putHomeByte key x).mem = true := by
  exact s.holdL2_mem_wf key h

theorem State.putHomeRaw_mem_wf (xs : List Byte) : ∀ (s : State) (key : Nat), Memory.wf s.mem = true →
    Memory.wf (s.putHomeRaw key xs).mem = true := by
  induction xs with
  | nil => exact fun _ _ h => h
  | cons x xs ih => exact fun s key h => ih _ _ (s.putHomeByte_mem_wf key x h)

/-- A check of an address changes no memory. -/
@[simp] theorem State.checkPa_mem (s : State) (key n : Nat) : (s.checkPa key n).mem = s.mem := by
  unfold State.checkPa; dsimp only; split_ifs <;> rfl

/-- A store at its home keeps the form. -/
theorem State.putHome_mem_wf (s : State) (key : Nat) (xs : List Byte) (h : Memory.wf s.mem = true) :
    Memory.wf (s.putHome key xs).mem = true := by
  unfold State.putHome; split_ifs
  · exact h
  · exact State.putHomeRaw_mem_wf xs _ _ (by rw [State.checkPa_mem]; exact h)

/-! ### What moving dirty bytes changes -/

/-- A DIRTY BYTE THAT GOES BACK changes memory and the L2 alone, and no byte that a home reads as. -/
theorem State.cleanByte_spec (s : State) (key : Nat) :
    (∃ m l, s.cleanByte key = { s with mem := m, l2 := l }) ∧ ∀ k, (s.cleanByte key).homeByte k = s.homeByte k := by
  unfold State.cleanByte
  split
  · next x hx =>
    refine ⟨⟨_, _, rfl⟩, fun k => ?_⟩
    simp only [State.homeByte, tget?_tdel]
    by_cases hk : k = key
    · subst hk; simp [hx, byteAt_putByte]
    · simp only [hk, if_false]
      rw [byteAt_putByte, if_neg hk]
  · exact ⟨⟨s.mem, s.l2, rfl⟩, fun _ => rfl⟩

theorem State.cleanBytes_spec (l : Tab Byte) : ∀ (s : State),
    (∃ m d, l.foldl (fun s e => s.cleanByte e.1) s = { s with mem := m, l2 := d })
      ∧ ∀ k, (l.foldl (fun s e => s.cleanByte e.1) s).homeByte k = s.homeByte k := by
  induction l with
  | nil => exact fun s => ⟨⟨s.mem, s.l2, rfl⟩, fun _ => rfl⟩
  | cons e l ih =>
    intro s
    obtain ⟨⟨m, d, h1⟩, h2⟩ := s.cleanByte_spec e.1
    obtain ⟨⟨m', d', h3⟩, h4⟩ := ih (s.cleanByte e.1)
    refine ⟨⟨m', d', ?_⟩, fun k => (h4 k).trans (h2 k)⟩
    rw [List.foldl_cons, h3, h1]

/-- WRITING A RANGE BACK changes memory and the L2 alone, and no byte that a home reads as. -/
theorem State.writeBack_spec (s : State) (key n : Nat) :
    (∃ m d, s.writeBack key n = { s with mem := m, l2 := d }) ∧ ∀ k, (s.writeBack key n).homeByte k = s.homeByte k :=
  State.cleanBytes_spec _ s

/-- TAKING A LINE INTO THE L2 changes memory and the L2 alone, and no byte that a home reads as. -/
theorem State.holdL2_spec (s : State) (key : Nat) :
    (∃ m d t, s.holdL2 key = { s with mem := m, l2 := d, l2Tags := t }) ∧ ∀ k, (s.holdL2 key).homeByte k = s.homeByte k := by
  unfold State.holdL2; dsimp only
  split_ifs
  · exact ⟨⟨s.mem, s.l2, s.l2Tags, rfl⟩, fun _ => rfl⟩
  · split
    · next v _ =>
      obtain ⟨⟨m, d, h1⟩, h2⟩ := s.writeBack_spec (v * 128) 128
      exact ⟨⟨m, d, _, by unfold State.evictL2; rw [h1]⟩, h2⟩
    · exact ⟨⟨s.mem, s.l2, _, rfl⟩, fun _ => rfl⟩

/-- A BYTE WRITTEN AT ITS HOME changes memory and the L2 alone; the home reads as it there, and elsewhere as before. -/
theorem State.putHomeByte_spec (s : State) (key : Nat) (x : Byte) :
    (∃ m d t, s.putHomeByte key x = { s with mem := m, l2 := d, l2Tags := t })
      ∧ ∀ k, (s.putHomeByte key x).homeByte k = if k = key then x else s.homeByte k := by
  unfold State.putHomeByte
  obtain ⟨⟨m, d, t, h1⟩, h2⟩ := s.holdL2_spec key
  refine ⟨⟨m, _, t, by rw [h1]⟩, fun k => ?_⟩
  rw [← h2 k]
  by_cases hk : k = key
  · subst hk; simp [State.homeByte]
  · simp [State.homeByte, hk, tget?_tset_ne _ _ hk]

/-- BYTES WRITTEN AT THEIR HOMES change memory and the L2 alone. -/
theorem State.putHomeRaw_frame (xs : List Byte) : ∀ (s : State) (key : Nat),
    ∃ m d t, s.putHomeRaw key xs = { s with mem := m, l2 := d, l2Tags := t } := by
  induction xs with
  | nil => exact fun s _ => ⟨s.mem, s.l2, s.l2Tags, rfl⟩
  | cons x xs ih =>
    intro s key
    obtain ⟨⟨m, d, t, h1⟩, _⟩ := s.putHomeByte_spec key x
    obtain ⟨m', d', t', h2⟩ := ih (s.putHomeByte key x) (key + 1)
    exact ⟨m', d', t', by rw [State.putHomeRaw, h2, h1]⟩

/-- BYTES WRITTEN AT THEIR HOMES read back, and every other byte reads as before. -/
theorem State.putHomeRaw_homeByte (xs : List Byte) : ∀ (s : State) (key k : Nat),
    (s.putHomeRaw key xs).homeByte k = if h : key ≤ k ∧ k < key + xs.length then xs[k - key]'(by omega) else s.homeByte k := by
  induction xs with
  | nil => intro s key k; rw [dif_neg (by simp)]; rfl
  | cons x xs ih =>
    intro s key k
    rw [State.putHomeRaw, ih]
    by_cases h1 : k = key
    · subst h1
      rw [dif_neg (by omega), dif_pos (by simp), (s.putHomeByte_spec k x).2, if_pos rfl]
      simp
    · by_cases h2 : key + 1 ≤ k ∧ k < key + 1 + xs.length
      · rw [dif_pos h2, dif_pos (by simp; omega)]
        have : k - key = (k - (key + 1)) + 1 := by omega
        simp [this]
      · rw [dif_neg h2, dif_neg (by simp; omega), (s.putHomeByte_spec key x).2, if_neg h1]

@[simp] theorem State.putHomeRaw_stop (s : State) (key : Nat) (xs : List Byte) : (s.putHomeRaw key xs).stop = s.stop := by
  obtain ⟨m, d, t, h⟩ := State.putHomeRaw_frame xs s key; rw [h]

/-! ### Accesses that a core serves by itself -/

/-- WHAT AN ACCESS MEETS when the core holds its translation with the bits it would set: its key, and nothing changes. -/
theorem State.Maps.reach {s : State} {core ctx : Nat} {user sampler : Bool} {want : Want} {va key : Nat}
    (h : s.Maps core ctx user sampler want va key) (spec : Bool := false) :
    s.reach core ctx user sampler want va spec = (.ok key, s) := by
  obtain ⟨t, hf, hp, ha, hw, hx, hu, rfl⟩ := h
  have hc : classify (some t) want user va = .ok (t.key va) := by
    cases want <;> cases user <;> simp_all [classify]
  have ht : s.touch core sampler (decide (want = .write)) t = (true, s) := by
    cases want <;> simp_all [State.touch]
  simp only [State.reach, State.translate, hf, hc, ht]
  cases spec <;> simp

/-- A check of an address inside the memory of its home changes nothing. -/
theorem State.Reachable.checkPa {s : State} {key n : Nat} (h : s.Reachable key n) : s.checkPa key n = s := by
  unfold State.checkPa; dsimp only
  rw [if_neg]
  rintro ⟨h1, h2⟩
  have := h.2.2
  rw [if_pos h1] at this
  omega

/-- The lines that bytes touch. -/
theorem mem_linesOf {key n l : Nat} (h : 0 < n ∧ lineOf key ≤ l ∧ l ≤ lineOf (key + n - 1)) : l ∈ linesOf key n := by
  unfold linesOf
  rw [if_neg (by omega)]
  simp only [lineOf] at h
  exact List.mem_map.mpr ⟨l - key / 128, by simp; omega, by omega⟩

/-- A line that a cache holds is not filled. -/
theorem State.fillLine_held {s : State} {core : Nat} {k : CacheSel} {line : Nat}
    (h : (tget? ((s.core core).cache k) line).isSome = true) : s.fillLine core k line = s := by
  obtain ⟨x, hx⟩ := Option.isSome_iff_exists.mp h
  simp [State.fillLine, hx]

/-- A read whose lines the cache holds returns their bytes, and nothing changes. -/
theorem State.Cached.readThrough {s : State} {core : Nat} {k : CacheSel} {key n v : Nat} (h : s.Cached core k key n v) :
    s.readThrough core k key n = ((List.range n).map (fun i => s.cachedByte core k (key + i)), s) := by
  have : ∀ ls : List Nat, (∀ l ∈ ls, (tget? ((s.core core).cache k) l).isSome = true) →
      ls.foldl (fun s l => s.fillLine core k l) s = s := by
    intro ls hl
    induction ls with
    | nil => rfl
    | cons l ls ih =>
      simp only [List.foldl_cons, State.fillLine_held (hl l (by simp))]
      exact ih (fun x hx => hl x (by simp [hx]))
  simp only [State.readThrough, h.2.1.checkPa, this _ (fun l hl => (h.1 l hl).1)]

/-- An element lies inside the bytes it is a part of, and inside one unit. -/
theorem mem_elemsOf {u key n : Nat} {e : Nat × Nat} (he : e ∈ elemsOf u key n) :
    key ≤ e.1 ∧ (0 < e.2 → e.1 + e.2 ≤ key + n) ∧ ∃ m, m * u ≤ e.1 ∧ e.1 + e.2 ≤ max e.1 ((m + 1) * u) := by
  unfold elemsOf at he
  split_ifs at he with h0
  · simp at he
  · obtain ⟨i, _, rfl⟩ := List.mem_map.mp he
    refine ⟨by simp, by dsimp only; omega, key / u + i, by simp, by dsimp only; omega⟩

/-- An element of which a held line has the bytes of the home is shown as it is. -/
theorem State.showElem_home {s : State} {core : Nat} {k : CacheSel} {a c : Nat}
    (h : 0 < c → tget? ((s.core core).cache k) (lineOf a) = some (s.homeBytes (lineOf a * 128) 128))
    (hc : 0 < c → a % 128 + c ≤ 128) : s.showElem core k a c = s := by
  unfold State.showElem
  cases hb : tget? ((s.core core).cache k) (lineOf a) with
  | none => rfl
  | some bs =>
    dsimp only
    rw [if_pos]
    unfold State.homeBytes
    apply List.map_congr_left
    intro i hi
    have hi : i < c := by simpa using hi
    have h1 := hc (by omega)
    have h2 := h (by omega)
    rw [hb] at h2
    injection h2 with h2
    have e : (a + i) % 128 = a % 128 + i := by omega
    have e2 : lineOf a * 128 + (a % 128 + i) = a + i := by unfold lineOf; omega
    rw [h2, e]
    unfold State.homeBytes
    rw [List.getD_eq_getElem?_getD, List.getElem?_map, List.getElem?_range (by omega)]
    simp [e2]

/-- A read of a stale cache whose lines are held as their homes have them returns their bytes, and nothing changes. -/
theorem State.Cached.readShown {s : State} {core : Nat} {k : CacheSel} {key n v : Nat} (hk : k ≠ .l1)
    (h : s.Cached core k key n v) :
    s.readShown core k key n = ((List.range n).map (fun i => s.cachedByte core k (key + i)), s) := by
  have hu : k.elem ∣ 128 ∧ 0 < k.elem := by cases k <;> decide
  have : ∀ es : List (Nat × Nat), (∀ e ∈ es, s.showElem core k e.1 e.2 = s) →
      es.foldl (fun s e => s.showElem core k e.1 e.2) s = s := by
    intro es he
    induction es with
    | nil => rfl
    | cons e es ih =>
      simp only [List.foldl_cons, he e (by simp)]
      exact ih (fun x hx => he x (by simp [hx]))
  unfold State.readShown
  rw [this _ ?_, h.readThrough]
  intro e he
  obtain ⟨h1, h2, m, h3, h4⟩ := mem_elemsOf he
  obtain ⟨q, hq⟩ := hu.1
  apply State.showElem_home
  · intro hc
    have := h2 hc
    refine (h.1 (lineOf e.1) ?_).2 hk
    exact mem_linesOf ⟨by omega, by unfold lineOf; omega, by unfold lineOf; omega⟩
  · intro hc
    have h5 : e.1 + e.2 ≤ (m + 1) * k.elem := by omega
    have h6 : e.1 / k.elem = m := by
      refine Nat.div_eq_of_lt_le ?_ ?_ <;> omega
    have h7 : m / q * 128 ≤ e.1 ∧ e.1 + e.2 ≤ (m / q + 1) * 128 := by
      have := Nat.div_add_mod m q
      have hm := Nat.mod_lt m (show 0 < q from Nat.pos_of_ne_zero (by rintro rfl; omega))
      constructor
      · calc m / q * 128 = (q * (m / q)) * k.elem := by rw [hq]; ring
          _ ≤ m * k.elem := Nat.mul_le_mul_right _ (by omega)
          _ ≤ _ := h3
      · calc e.1 + e.2 ≤ (m + 1) * k.elem := h5
          _ ≤ (q * (m / q) + q) * k.elem := Nat.mul_le_mul_right _ (by omega)
          _ = _ := by rw [hq]; ring
    omega

/-- Eight bytes of a clause whose page the core may fetch from and whose line its fetch buffer holds. -/
theorem State.fetchBytes_held {s : State} {core ctx : Nat} {user : Bool} {va key n v : Nat}
    (h : s.Maps core ctx user true .fetch va key) (hc : s.Cached core .fetch key n v) :
    s.fetchBytes core ctx user va n
      = (.ok ((List.range n).map (fun i => s.cachedByte core .fetch (key + i)), if s.poisoned key n then some (va, key) else none), s) := by
  simp only [State.fetchBytes, h.reach, hc.readShown (by decide)]

end Sys2Proof.Machine
end

