-- ==== Sys2Proof/Laws/PerInstr.lean ====
section
/-! SUPPORT. Laws/PerInstr.lean: the family Opcode: the opcode byte of every instruction's word is the one that the opcode
table gives its row (R95, R96). -/
set_option Elab.async false

namespace Sys2Proof.Laws

/-! ### The family -/

namespace Opcode

/-- The opcode byte of an instruction that is a word, as the opcode table numbers it. -/
def byteOf : Instr → Nat
  | .prefixGeneral .. => 0x7F
  | .prefixMemory .. => 0x7F
  | .vadd .. => 0x00
  | .vsub .. => 0x01
  | .vmul .. => 0x02
  | .vmulh .. => 0x03
  | .vmulhu .. => 0x04
  | .vmad .. => 0x05
  | .vmin .. => 0x06
  | .vmax .. => 0x07
  | .vminu .. => 0x08
  | .vmaxu .. => 0x09
  | .vand .. => 0x0A
  | .vor .. => 0x0B
  | .vxor .. => 0x0C
  | .vandn .. => 0x0D
  | .vshl .. => 0x0E
  | .vshr .. => 0x0F
  | .vsar .. => 0x10
  | .vrol .. => 0x11
  | .vbfxu .. => 0x12
  | .vbfxs .. => 0x13
  | .vbfi .. => 0x14
  | .vperm .. => 0x15
  | .vadd64 .. => 0x16
  | .vmulw .. => 0x17
  | .vaddi .. => 0x18
  | .vshli .. => 0x19
  | .vshri .. => 0x1A
  | .vsari .. => 0x1B
  | .vandi .. => 0x1C
  | .vmovi .. => 0x1D
  | .vmovhi .. => 0x1E
  | .viun .. => 0x1F
  | .vicmp .. => 0x20
  | .vsel .. => 0x21
  | .vshfl .. => 0x22
  | .vshfli .. => 0x23
  | .vired .. => 0x24
  | .viscan .. => 0x25
  | .vfadd .. => 0x30
  | .vfsub .. => 0x31
  | .vfmul .. => 0x32
  | .vfma .. => 0x33
  | .vfmin .. => 0x34
  | .vfmax .. => 0x35
  | .vfcmp .. => 0x36
  | .vfun .. => 0x37
  | .vfx .. => 0x38
  | .vfred .. => 0x39
  | .vfscan .. => 0x3A
  | .vflerp .. => 0x3B
  | .vhadd .. => 0x40
  | .vhmul .. => 0x41
  | .vhfma .. => 0x42
  | .vhmin .. => 0x43
  | .vhmax .. => 0x44
  | .vbadd .. => 0x45
  | .vbmul .. => 0x46
  | .vbfma .. => 0x47
  | .vhdot .. => 0x48
  | .vcvt .. => 0x49
  | .vcvtin .. => 0x4A
  | .vcvtout .. => 0x4B
  | .vrsvu .. => 0x4C
  | .vrsvm .. => 0x4D
  | .vld .. => 0x50
  | .vst .. => 0x51
  | .vldsp .. => 0x52
  | .vstsp .. => 0x53
  | .vatom .. => 0x54
  | .vatom64 .. => 0x55
  | .vcas128 .. => 0x56
  | .vldl .. => 0x57
  | .vsmp .. => 0x58
  | .vldwh .. => 0x59
  | .vstwh .. => 0x5A
  | .vwop .. => 0x5B
  | .vwopPosted .. => 0x5B
  | .vpgreq .. => 0x5C
  | .vpref .. => 0x5D
  | .vtrav .. => 0x60
  | .vtravc .. => 0x61
  | .vrast .. => 0x62
  | .vsemit .. => 0x63
  | .vsbg .. => 0x64
  | .sadd .. => 0x80
  | .ssub .. => 0x81
  | .smul .. => 0x82
  | .smulh .. => 0x83
  | .sand .. => 0x84
  | .sor .. => 0x85
  | .sxor .. => 0x86
  | .sshl .. => 0x87
  | .sshr .. => 0x88
  | .ssar .. => 0x89
  | .smin .. => 0x8A
  | .smax .. => 0x8B
  | .sminu .. => 0x8C
  | .smaxu .. => 0x8D
  | .saddi .. => 0x8E
  | .sandi .. => 0x8F
  | .sori .. => 0x90
  | .sxori .. => 0x91
  | .sshli .. => 0x92
  | .sshri .. => 0x93
  | .smovi .. => 0x94
  | .slui .. => 0x95
  | .sun .. => 0x96
  | .scmp .. => 0x97
  | .ssel .. => 0x98
  | .sadd64 .. => 0x99
  | .sfadd .. => 0x9A
  | .sfmul .. => 0x9B
  | .sffma .. => 0x9C
  | .sfcmp .. => 0x9D
  | .sfun .. => 0x9E
  | .srdlane .. => 0xA0
  | .swrlane .. => 0xA1
  | .sballot .. => 0xA2
  | .skmov .. => 0xA3
  | .skmovK .. => 0xA3
  | .skop .. => 0xA4
  | .sfirst .. => 0xA5
  | .sspec .. => 0xA6
  | .sspecw .. => 0xA7
  | .setmr .. => 0xA8
  | .setmrNone .. => 0xA8
  | .trap .. => 0xA9
  | .tret .. => 0xAA
  | .sleep .. => 0xAB
  | .sleepReg .. => 0xAB
  | .brk .. => 0xAC
  | .nop .. => 0xAD
  | .sld .. => 0xB0
  | .sst .. => 0xB1
  | .sldsp .. => 0xB2
  | .sstsp .. => 0xB3
  | .satom .. => 0xB4
  | .brset .. => 0xB5
  | .brget .. => 0xB6
  | .fence .. => 0xB7
  | .pgreq .. => 0xB8
  | .sealPages .. => 0xB9
  | .unsealPages .. => 0xBA
  | .cinv .. => 0xBB
  | .cwb .. => 0xBC
  | .cpy .. => 0xC0
  | .cpym .. => 0xC1
  | .cpys .. => 0xC2
  | .cpyg .. => 0xC3
  | .chkin .. => 0xC4
  | .layseal .. => 0xC5
  | .launch .. => 0xC8
  | .tenq .. => 0xC9
  | .moor .. => 0xCA
  | .castoff .. => 0xCB
  | .castoffAll .. => 0xCB
  | .dcset .. => 0xCC
  | .dcadd .. => 0xCD
  | .dcwait .. => 0xCE
  | .stamp .. => 0xCF
  | .kcnt .. => 0xD0
  | .kwait .. => 0xD1
  | .kprobe .. => 0xD2
  | .chload .. => 0xD8
  | .chrel .. => 0xD9
  | .atdef .. => 0xDA
  | .mma .. => 0xDB
  | .mmag .. => 0xDC
  | .mmav .. => 0xDD
  | .accz .. => 0xDE
  | .accld .. => 0xDF
  | .accst .. => 0xE0
  | .accrd .. => 0xE1
  | .accwr .. => 0xE2
  | .accmap .. => 0xE3
  | .rfil .. => 0xE4
  | .rema .. => 0xE5
  | .mprog .. => 0xE6
  | .mseq .. => 0xE7
  | .priow .. => 0xE8
  | .rowout .. => 0xE9
  | .sbstat .. => 0xEA
  | .sysrd .. => 0xF0
  | .syswr .. => 0xF1
  | .lanest .. => 0xF2
  | .laneld .. => 0xF3
  | .tlbinv .. => 0xF4
  | .preempt .. => 0xF5
  | .halt .. => 0xF6
  | _ => 0

/-- The opcode byte of a disjunction of bits. -/
theorem opByte_or (a b : Word) : opByte (a ||| b) = opByte a ||| opByte b := by
  simp [opByte, fieldOf, BitVec.extractLsb'_or]

/-- A field below bit 24 leaves the opcode byte alone. -/
theorem opByte_place {n lo : Nat} (f : BitVec n) (h : lo + n ≤ 24) : opByte (place lo f) = 0 := by
  unfold opByte place fieldOf
  have : BitVec.extractLsb' 24 8 (BitVec.setWidth 32 f <<< lo) = 0#8 := by
    ext i hi
    simp only [BitVec.getElem_extractLsb', BitVec.getLsbD_shiftLeft, BitVec.getLsbD_setWidth]
    simp
    intro _ _ _
    exact BitVec.getLsbD_of_ge f (24 + i - lo) (by omega)
  rw [this]; rfl

/-- The instruction's word, if it is one, has the opcode byte of its row. -/
def Statement (i : Instr) : Prop := ∀ w, encode i = some w → opByte w = byteOf i

/-- It is enough to look at the word itself. -/
theorem of_word {i : Instr} {w : Word} (e : encode i = some w) (h : opByte w = byteOf i) : Statement i := by
  intro x hx
  rw [e] at hx
  exact Option.some.inj hx ▸ h

end Opcode
open Opcode

theorem Opcode.prefixGeneral (c : BitVec 8) (k : BitVec 3) (z : Bool) (m : BitVec 3) (s : Bool) (n : Bool) (a : Bool) : Statement (.prefixGeneral c k z m s n a) := of_word (w := (0x7F000000#32 ||| place 16 c ||| place 13 k ||| place 12 (BitVec.ofBool z) ||| place 9 m ||| place 8 (BitVec.ofBool s) ||| place 7 (BitVec.ofBool n) ||| place 6 (BitVec.ofBool a))) rfl (by simp only [opByte_or, opByte_place, Nat.or_zero, Nat.reduceAdd, Nat.reduceLeDiff]; rfl)
theorem Opcode.prefixMemory (c : BitVec 8) (k : BitVec 3) (s : BitVec 3) (o : BitVec 2) : Statement (.prefixMemory c k s o) := of_word (w := (0x7F000000#32 ||| place 16 c ||| place 13 k ||| place 9 s ||| place 7 o)) rfl (by simp only [opByte_or, opByte_place, Nat.or_zero, Nat.reduceAdd, Nat.reduceLeDiff]; rfl)
theorem Opcode.vadd (d : BitVec 8) (a : BitVec 8) (b : BitVec 8) : Statement (.vadd d a b) := of_word (w := (0x00000000#32 ||| place 16 d ||| place 8 a ||| place 0 b)) rfl (by simp only [opByte_or, opByte_place, Nat.or_zero, Nat.reduceAdd, Nat.reduceLeDiff]; rfl)
theorem Opcode.vsub (d : BitVec 8) (a : BitVec 8) (b : BitVec 8) : Statement (.vsub d a b) := of_word (w := (0x01000000#32 ||| place 16 d ||| place 8 a ||| place 0 b)) rfl (by simp only [opByte_or, opByte_place, Nat.or_zero, Nat.reduceAdd, Nat.reduceLeDiff]; rfl)
theorem Opcode.vmul (d : BitVec 8) (a : BitVec 8) (b : BitVec 8) : Statement (.vmul d a b) := of_word (w := (0x02000000#32 ||| place 16 d ||| place 8 a ||| place 0 b)) rfl (by simp only [opByte_or, opByte_place, Nat.or_zero, Nat.reduceAdd, Nat.reduceLeDiff]; rfl)
theorem Opcode.vmulh (d : BitVec 8) (a : BitVec 8) (b : BitVec 8) : Statement (.vmulh d a b) := of_word (w := (0x03000000#32 ||| place 16 d ||| place 8 a ||| place 0 b)) rfl (by simp only [opByte_or, opByte_place, Nat.or_zero, Nat.reduceAdd, Nat.reduceLeDiff]; rfl)
theorem Opcode.vmulhu (d : BitVec 8) (a : BitVec 8) (b : BitVec 8) : Statement (.vmulhu d a b) := of_word (w := (0x04000000#32 ||| place 16 d ||| place 8 a ||| place 0 b)) rfl (by simp only [opByte_or, opByte_place, Nat.or_zero, Nat.reduceAdd, Nat.reduceLeDiff]; rfl)
theorem Opcode.vmad (d : BitVec 8) (a : BitVec 8) (b : BitVec 8) : Statement (.vmad d a b) := of_word (w := (0x05000000#32 ||| place 16 d ||| place 8 a ||| place 0 b)) rfl (by simp only [opByte_or, opByte_place, Nat.or_zero, Nat.reduceAdd, Nat.reduceLeDiff]; rfl)
theorem Opcode.vmin (d : BitVec 8) (a : BitVec 8) (b : BitVec 8) : Statement (.vmin d a b) := of_word (w := (0x06000000#32 ||| place 16 d ||| place 8 a ||| place 0 b)) rfl (by simp only [opByte_or, opByte_place, Nat.or_zero, Nat.reduceAdd, Nat.reduceLeDiff]; rfl)
theorem Opcode.vmax (d : BitVec 8) (a : BitVec 8) (b : BitVec 8) : Statement (.vmax d a b) := of_word (w := (0x07000000#32 ||| place 16 d ||| place 8 a ||| place 0 b)) rfl (by simp only [opByte_or, opByte_place, Nat.or_zero, Nat.reduceAdd, Nat.reduceLeDiff]; rfl)
theorem Opcode.vminu (d : BitVec 8) (a : BitVec 8) (b : BitVec 8) : Statement (.vminu d a b) := of_word (w := (0x08000000#32 ||| place 16 d ||| place 8 a ||| place 0 b)) rfl (by simp only [opByte_or, opByte_place, Nat.or_zero, Nat.reduceAdd, Nat.reduceLeDiff]; rfl)
theorem Opcode.vmaxu (d : BitVec 8) (a : BitVec 8) (b : BitVec 8) : Statement (.vmaxu d a b) := of_word (w := (0x09000000#32 ||| place 16 d ||| place 8 a ||| place 0 b)) rfl (by simp only [opByte_or, opByte_place, Nat.or_zero, Nat.reduceAdd, Nat.reduceLeDiff]; rfl)
theorem Opcode.vand (d : BitVec 8) (a : BitVec 8) (b : BitVec 8) : Statement (.vand d a b) := of_word (w := (0x0A000000#32 ||| place 16 d ||| place 8 a ||| place 0 b)) rfl (by simp only [opByte_or, opByte_place, Nat.or_zero, Nat.reduceAdd, Nat.reduceLeDiff]; rfl)
theorem Opcode.vor (d : BitVec 8) (a : BitVec 8) (b : BitVec 8) : Statement (.vor d a b) := of_word (w := (0x0B000000#32 ||| place 16 d ||| place 8 a ||| place 0 b)) rfl (by simp only [opByte_or, opByte_place, Nat.or_zero, Nat.reduceAdd, Nat.reduceLeDiff]; rfl)
theorem Opcode.vxor (d : BitVec 8) (a : BitVec 8) (b : BitVec 8) : Statement (.vxor d a b) := of_word (w := (0x0C000000#32 ||| place 16 d ||| place 8 a ||| place 0 b)) rfl (by simp only [opByte_or, opByte_place, Nat.or_zero, Nat.reduceAdd, Nat.reduceLeDiff]; rfl)
theorem Opcode.vandn (d : BitVec 8) (a : BitVec 8) (b : BitVec 8) : Statement (.vandn d a b) := of_word (w := (0x0D000000#32 ||| place 16 d ||| place 8 a ||| place 0 b)) rfl (by simp only [opByte_or, opByte_place, Nat.or_zero, Nat.reduceAdd, Nat.reduceLeDiff]; rfl)
theorem Opcode.vshl (d : BitVec 8) (a : BitVec 8) (b : BitVec 8) : Statement (.vshl d a b) := of_word (w := (0x0E000000#32 ||| place 16 d ||| place 8 a ||| place 0 b)) rfl (by simp only [opByte_or, opByte_place, Nat.or_zero, Nat.reduceAdd, Nat.reduceLeDiff]; rfl)
theorem Opcode.vshr (d : BitVec 8) (a : BitVec 8) (b : BitVec 8) : Statement (.vshr d a b) := of_word (w := (0x0F000000#32 ||| place 16 d ||| place 8 a ||| place 0 b)) rfl (by simp only [opByte_or, opByte_place, Nat.or_zero, Nat.reduceAdd, Nat.reduceLeDiff]; rfl)
theorem Opcode.vsar (d : BitVec 8) (a : BitVec 8) (b : BitVec 8) : Statement (.vsar d a b) := of_word (w := (0x10000000#32 ||| place 16 d ||| place 8 a ||| place 0 b)) rfl (by simp only [opByte_or, opByte_place, Nat.or_zero, Nat.reduceAdd, Nat.reduceLeDiff]; rfl)
theorem Opcode.vrol (d : BitVec 8) (a : BitVec 8) (b : BitVec 8) : Statement (.vrol d a b) := of_word (w := (0x11000000#32 ||| place 16 d ||| place 8 a ||| place 0 b)) rfl (by simp only [opByte_or, opByte_place, Nat.or_zero, Nat.reduceAdd, Nat.reduceLeDiff]; rfl)
theorem Opcode.vbfxu (d : BitVec 8) (a : BitVec 8) (b : BitVec 8) : Statement (.vbfxu d a b) := of_word (w := (0x12000000#32 ||| place 16 d ||| place 8 a ||| place 0 b)) rfl (by simp only [opByte_or, opByte_place, Nat.or_zero, Nat.reduceAdd, Nat.reduceLeDiff]; rfl)
theorem Opcode.vbfxs (d : BitVec 8) (a : BitVec 8) (b : BitVec 8) : Statement (.vbfxs d a b) := of_word (w := (0x13000000#32 ||| place 16 d ||| place 8 a ||| place 0 b)) rfl (by simp only [opByte_or, opByte_place, Nat.or_zero, Nat.reduceAdd, Nat.reduceLeDiff]; rfl)
theorem Opcode.vbfi (d : BitVec 8) (a : BitVec 8) (b : BitVec 8) : Statement (.vbfi d a b) := of_word (w := (0x14000000#32 ||| place 16 d ||| place 8 a ||| place 0 b)) rfl (by simp only [opByte_or, opByte_place, Nat.or_zero, Nat.reduceAdd, Nat.reduceLeDiff]; rfl)
theorem Opcode.vperm (d : BitVec 8) (a : BitVec 8) (b : BitVec 8) : Statement (.vperm d a b) := of_word (w := (0x15000000#32 ||| place 16 d ||| place 8 a ||| place 0 b)) rfl (by simp only [opByte_or, opByte_place, Nat.or_zero, Nat.reduceAdd, Nat.reduceLeDiff]; rfl)
theorem Opcode.vadd64 (d : BitVec 8) (a : BitVec 8) (b : BitVec 8) : Statement (.vadd64 d a b) := of_word (w := (0x16000000#32 ||| place 16 d ||| place 8 a ||| place 0 b)) rfl (by simp only [opByte_or, opByte_place, Nat.or_zero, Nat.reduceAdd, Nat.reduceLeDiff]; rfl)
theorem Opcode.vmulw (d : BitVec 8) (a : BitVec 8) (b : BitVec 8) : Statement (.vmulw d a b) := of_word (w := (0x17000000#32 ||| place 16 d ||| place 8 a ||| place 0 b)) rfl (by simp only [opByte_or, opByte_place, Nat.or_zero, Nat.reduceAdd, Nat.reduceLeDiff]; rfl)
theorem Opcode.vaddi (d : BitVec 8) (a : BitVec 8) (i : BitVec 8) : Statement (.vaddi d a i) := of_word (w := (0x18000000#32 ||| place 16 d ||| place 8 a ||| place 0 i)) rfl (by simp only [opByte_or, opByte_place, Nat.or_zero, Nat.reduceAdd, Nat.reduceLeDiff]; rfl)
theorem Opcode.vshli (d : BitVec 8) (a : BitVec 8) (i : BitVec 5) : Statement (.vshli d a i) := of_word (w := (0x19000000#32 ||| place 16 d ||| place 8 a ||| place 0 i)) rfl (by simp only [opByte_or, opByte_place, Nat.or_zero, Nat.reduceAdd, Nat.reduceLeDiff]; rfl)
theorem Opcode.vshri (d : BitVec 8) (a : BitVec 8) (i : BitVec 5) : Statement (.vshri d a i) := of_word (w := (0x1A000000#32 ||| place 16 d ||| place 8 a ||| place 0 i)) rfl (by simp only [opByte_or, opByte_place, Nat.or_zero, Nat.reduceAdd, Nat.reduceLeDiff]; rfl)
theorem Opcode.vsari (d : BitVec 8) (a : BitVec 8) (i : BitVec 5) : Statement (.vsari d a i) := of_word (w := (0x1B000000#32 ||| place 16 d ||| place 8 a ||| place 0 i)) rfl (by simp only [opByte_or, opByte_place, Nat.or_zero, Nat.reduceAdd, Nat.reduceLeDiff]; rfl)
theorem Opcode.vandi (d : BitVec 8) (a : BitVec 8) (i : BitVec 8) : Statement (.vandi d a i) := of_word (w := (0x1C000000#32 ||| place 16 d ||| place 8 a ||| place 0 i)) rfl (by simp only [opByte_or, opByte_place, Nat.or_zero, Nat.reduceAdd, Nat.reduceLeDiff]; rfl)
theorem Opcode.vmovi (d : BitVec 8) (i : BitVec 16) : Statement (.vmovi d i) := of_word (w := (0x1D000000#32 ||| place 16 d ||| place 0 i)) rfl (by simp only [opByte_or, opByte_place, Nat.or_zero, Nat.reduceAdd, Nat.reduceLeDiff]; rfl)
theorem Opcode.vmovhi (d : BitVec 8) (i : BitVec 16) : Statement (.vmovhi d i) := of_word (w := (0x1E000000#32 ||| place 16 d ||| place 0 i)) rfl (by simp only [opByte_or, opByte_place, Nat.or_zero, Nat.reduceAdd, Nat.reduceLeDiff]; rfl)
theorem Opcode.viun (d : BitVec 8) (a : BitVec 8) (f : IUnFn) : Statement (.viun d a f) := of_word (w := (0x1F000000#32 ||| place 16 d ||| place 8 a ||| place 0 (BitVec.ofNat 8 f.code))) rfl (by simp only [opByte_or, opByte_place, Nat.or_zero, Nat.reduceAdd, Nat.reduceLeDiff]; rfl)
theorem Opcode.vicmp (k : BitVec 3) (c : ICond) (a : BitVec 8) (b : BitVec 8) : Statement (.vicmp k c a b) := of_word (w := (0x20000000#32 ||| place 21 k ||| place 16 (BitVec.ofNat 5 c.code) ||| place 8 a ||| place 0 b)) rfl (by simp only [opByte_or, opByte_place, Nat.or_zero, Nat.reduceAdd, Nat.reduceLeDiff]; rfl)
theorem Opcode.vsel (d : BitVec 8) (a : BitVec 8) (b : BitVec 8) : Statement (.vsel d a b) := of_word (w := (0x21000000#32 ||| place 16 d ||| place 8 a ||| place 0 b)) rfl (by simp only [opByte_or, opByte_place, Nat.or_zero, Nat.reduceAdd, Nat.reduceLeDiff]; rfl)
theorem Opcode.vshfl (d : BitVec 8) (a : BitVec 8) (b : BitVec 8) : Statement (.vshfl d a b) := of_word (w := (0x22000000#32 ||| place 16 d ||| place 8 a ||| place 0 b)) rfl (by simp only [opByte_or, opByte_place, Nat.or_zero, Nat.reduceAdd, Nat.reduceLeDiff]; rfl)
theorem Opcode.vshfli (d : BitVec 8) (a : BitVec 8) (m : ShflMode) (i : BitVec 5) : Statement (.vshfli d a m i) := of_word (w := (0x23000000#32 ||| place 16 d ||| place 8 a ||| place 6 (BitVec.ofNat 2 m.code) ||| place 0 i)) rfl (by simp only [opByte_or, opByte_place, Nat.or_zero, Nat.reduceAdd, Nat.reduceLeDiff]; rfl)
theorem Opcode.vired (d : BitVec 8) (a : BitVec 8) (f : IRedFn) : Statement (.vired d a f) := of_word (w := (0x24000000#32 ||| place 16 d ||| place 8 a ||| place 0 (BitVec.ofNat 8 f.code))) rfl (by simp only [opByte_or, opByte_place, Nat.or_zero, Nat.reduceAdd, Nat.reduceLeDiff]; rfl)
theorem Opcode.viscan (d : BitVec 8) (a : BitVec 8) (f : IScanFn) : Statement (.viscan d a f) := of_word (w := (0x25000000#32 ||| place 16 d ||| place 8 a ||| place 0 (BitVec.ofNat 8 f.code))) rfl (by simp only [opByte_or, opByte_place, Nat.or_zero, Nat.reduceAdd, Nat.reduceLeDiff]; rfl)
theorem Opcode.vfadd (d : BitVec 8) (a : BitVec 8) (b : BitVec 8) : Statement (.vfadd d a b) := of_word (w := (0x30000000#32 ||| place 16 d ||| place 8 a ||| place 0 b)) rfl (by simp only [opByte_or, opByte_place, Nat.or_zero, Nat.reduceAdd, Nat.reduceLeDiff]; rfl)
theorem Opcode.vfsub (d : BitVec 8) (a : BitVec 8) (b : BitVec 8) : Statement (.vfsub d a b) := of_word (w := (0x31000000#32 ||| place 16 d ||| place 8 a ||| place 0 b)) rfl (by simp only [opByte_or, opByte_place, Nat.or_zero, Nat.reduceAdd, Nat.reduceLeDiff]; rfl)
theorem Opcode.vfmul (d : BitVec 8) (a : BitVec 8) (b : BitVec 8) : Statement (.vfmul d a b) := of_word (w := (0x32000000#32 ||| place 16 d ||| place 8 a ||| place 0 b)) rfl (by simp only [opByte_or, opByte_place, Nat.or_zero, Nat.reduceAdd, Nat.reduceLeDiff]; rfl)
theorem Opcode.vfma (d : BitVec 8) (a : BitVec 8) (b : BitVec 8) : Statement (.vfma d a b) := of_word (w := (0x33000000#32 ||| place 16 d ||| place 8 a ||| place 0 b)) rfl (by simp only [opByte_or, opByte_place, Nat.or_zero, Nat.reduceAdd, Nat.reduceLeDiff]; rfl)
theorem Opcode.vfmin (d : BitVec 8) (a : BitVec 8) (b : BitVec 8) : Statement (.vfmin d a b) := of_word (w := (0x34000000#32 ||| place 16 d ||| place 8 a ||| place 0 b)) rfl (by simp only [opByte_or, opByte_place, Nat.or_zero, Nat.reduceAdd, Nat.reduceLeDiff]; rfl)
theorem Opcode.vfmax (d : BitVec 8) (a : BitVec 8) (b : BitVec 8) : Statement (.vfmax d a b) := of_word (w := (0x35000000#32 ||| place 16 d ||| place 8 a ||| place 0 b)) rfl (by simp only [opByte_or, opByte_place, Nat.or_zero, Nat.reduceAdd, Nat.reduceLeDiff]; rfl)
theorem Opcode.vfcmp (k : BitVec 3) (c : FCond) (a : BitVec 8) (b : BitVec 8) : Statement (.vfcmp k c a b) := of_word (w := (0x36000000#32 ||| place 21 k ||| place 16 (BitVec.ofNat 5 c.code) ||| place 8 a ||| place 0 b)) rfl (by simp only [opByte_or, opByte_place, Nat.or_zero, Nat.reduceAdd, Nat.reduceLeDiff]; rfl)
theorem Opcode.vfun (d : BitVec 8) (a : BitVec 8) (f : FUnFn) : Statement (.vfun d a f) := of_word (w := (0x37000000#32 ||| place 16 d ||| place 8 a ||| place 0 (BitVec.ofNat 8 f.code))) rfl (by simp only [opByte_or, opByte_place, Nat.or_zero, Nat.reduceAdd, Nat.reduceLeDiff]; rfl)
theorem Opcode.vfx (d : BitVec 8) (a : BitVec 8) (f : XFn) : Statement (.vfx d a f) := of_word (w := (0x38000000#32 ||| place 16 d ||| place 8 a ||| place 0 (BitVec.ofNat 8 f.code))) rfl (by simp only [opByte_or, opByte_place, Nat.or_zero, Nat.reduceAdd, Nat.reduceLeDiff]; rfl)
theorem Opcode.vfred (d : BitVec 8) (a : BitVec 8) (f : FRedFn) : Statement (.vfred d a f) := of_word (w := (0x39000000#32 ||| place 16 d ||| place 8 a ||| place 0 (BitVec.ofNat 8 f.code))) rfl (by simp only [opByte_or, opByte_place, Nat.or_zero, Nat.reduceAdd, Nat.reduceLeDiff]; rfl)
theorem Opcode.vfscan (d : BitVec 8) (a : BitVec 8) (f : FScanFn) : Statement (.vfscan d a f) := of_word (w := (0x3A000000#32 ||| place 16 d ||| place 8 a ||| place 0 (BitVec.ofNat 8 f.code))) rfl (by simp only [opByte_or, opByte_place, Nat.or_zero, Nat.reduceAdd, Nat.reduceLeDiff]; rfl)
theorem Opcode.vflerp (d : BitVec 8) (a : BitVec 8) (b : BitVec 8) : Statement (.vflerp d a b) := of_word (w := (0x3B000000#32 ||| place 16 d ||| place 8 a ||| place 0 b)) rfl (by simp only [opByte_or, opByte_place, Nat.or_zero, Nat.reduceAdd, Nat.reduceLeDiff]; rfl)
theorem Opcode.vhadd (d : BitVec 8) (a : BitVec 8) (b : BitVec 8) : Statement (.vhadd d a b) := of_word (w := (0x40000000#32 ||| place 16 d ||| place 8 a ||| place 0 b)) rfl (by simp only [opByte_or, opByte_place, Nat.or_zero, Nat.reduceAdd, Nat.reduceLeDiff]; rfl)
theorem Opcode.vhmul (d : BitVec 8) (a : BitVec 8) (b : BitVec 8) : Statement (.vhmul d a b) := of_word (w := (0x41000000#32 ||| place 16 d ||| place 8 a ||| place 0 b)) rfl (by simp only [opByte_or, opByte_place, Nat.or_zero, Nat.reduceAdd, Nat.reduceLeDiff]; rfl)
theorem Opcode.vhfma (d : BitVec 8) (a : BitVec 8) (b : BitVec 8) : Statement (.vhfma d a b) := of_word (w := (0x42000000#32 ||| place 16 d ||| place 8 a ||| place 0 b)) rfl (by simp only [opByte_or, opByte_place, Nat.or_zero, Nat.reduceAdd, Nat.reduceLeDiff]; rfl)
theorem Opcode.vhmin (d : BitVec 8) (a : BitVec 8) (b : BitVec 8) : Statement (.vhmin d a b) := of_word (w := (0x43000000#32 ||| place 16 d ||| place 8 a ||| place 0 b)) rfl (by simp only [opByte_or, opByte_place, Nat.or_zero, Nat.reduceAdd, Nat.reduceLeDiff]; rfl)
theorem Opcode.vhmax (d : BitVec 8) (a : BitVec 8) (b : BitVec 8) : Statement (.vhmax d a b) := of_word (w := (0x44000000#32 ||| place 16 d ||| place 8 a ||| place 0 b)) rfl (by simp only [opByte_or, opByte_place, Nat.or_zero, Nat.reduceAdd, Nat.reduceLeDiff]; rfl)
theorem Opcode.vbadd (d : BitVec 8) (a : BitVec 8) (b : BitVec 8) : Statement (.vbadd d a b) := of_word (w := (0x45000000#32 ||| place 16 d ||| place 8 a ||| place 0 b)) rfl (by simp only [opByte_or, opByte_place, Nat.or_zero, Nat.reduceAdd, Nat.reduceLeDiff]; rfl)
theorem Opcode.vbmul (d : BitVec 8) (a : BitVec 8) (b : BitVec 8) : Statement (.vbmul d a b) := of_word (w := (0x46000000#32 ||| place 16 d ||| place 8 a ||| place 0 b)) rfl (by simp only [opByte_or, opByte_place, Nat.or_zero, Nat.reduceAdd, Nat.reduceLeDiff]; rfl)
theorem Opcode.vbfma (d : BitVec 8) (a : BitVec 8) (b : BitVec 8) : Statement (.vbfma d a b) := of_word (w := (0x47000000#32 ||| place 16 d ||| place 8 a ||| place 0 b)) rfl (by simp only [opByte_or, opByte_place, Nat.or_zero, Nat.reduceAdd, Nat.reduceLeDiff]; rfl)
theorem Opcode.vhdot (d : BitVec 8) (a : BitVec 8) (b : BitVec 8) : Statement (.vhdot d a b) := of_word (w := (0x48000000#32 ||| place 16 d ||| place 8 a ||| place 0 b)) rfl (by simp only [opByte_or, opByte_place, Nat.or_zero, Nat.reduceAdd, Nat.reduceLeDiff]; rfl)
theorem Opcode.vcvt (d : BitVec 8) (a : BitVec 8) (f : CvtFn) : Statement (.vcvt d a f) := of_word (w := (0x49000000#32 ||| place 16 d ||| place 8 a ||| place 0 (BitVec.ofNat 8 f.code))) rfl (by simp only [opByte_or, opByte_place, Nat.or_zero, Nat.reduceAdd, Nat.reduceLeDiff]; rfl)
theorem Opcode.vcvtin (d : BitVec 8) (a : BitVec 8) (e : BitVec 2) (s : BitVec 3) : Statement (.vcvtin d a e s) := of_word (w := (0x4A000000#32 ||| place 16 d ||| place 8 a ||| place 3 e ||| place 0 s)) rfl (by simp only [opByte_or, opByte_place, Nat.or_zero, Nat.reduceAdd, Nat.reduceLeDiff]; rfl)
theorem Opcode.vcvtout (d : BitVec 8) (a : BitVec 8) (e : BitVec 2) (s : BitVec 3) : Statement (.vcvtout d a e s) := of_word (w := (0x4B000000#32 ||| place 16 d ||| place 8 a ||| place 3 e ||| place 0 s)) rfl (by simp only [opByte_or, opByte_place, Nat.or_zero, Nat.reduceAdd, Nat.reduceLeDiff]; rfl)
theorem Opcode.vrsvu (d : BitVec 8) (a : BitVec 8) (b : BitVec 8) : Statement (.vrsvu d a b) := of_word (w := (0x4C000000#32 ||| place 16 d ||| place 8 a ||| place 0 b)) rfl (by simp only [opByte_or, opByte_place, Nat.or_zero, Nat.reduceAdd, Nat.reduceLeDiff]; rfl)
theorem Opcode.vrsvm (d : BitVec 8) (a : BitVec 8) (b : BitVec 8) : Statement (.vrsvm d a b) := of_word (w := (0x4D000000#32 ||| place 16 d ||| place 8 a ||| place 0 b)) rfl (by simp only [opByte_or, opByte_place, Nat.or_zero, Nat.reduceAdd, Nat.reduceLeDiff]; rfl)
theorem Opcode.vld (d : BitVec 8) (a : BitVec 8) (r : BitVec 4) (l : Bool) (w : MemW) : Statement (.vld d a r l w) := of_word (w := (0x50000000#32 ||| place 16 d ||| place 8 a ||| place 4 r ||| place 3 (BitVec.ofBool l) ||| place 0 (BitVec.ofNat 3 w.code))) rfl (by simp only [opByte_or, opByte_place, Nat.or_zero, Nat.reduceAdd, Nat.reduceLeDiff]; rfl)
theorem Opcode.vst (d : BitVec 8) (a : BitVec 8) (r : BitVec 4) (l : Bool) (w : MemW) : Statement (.vst d a r l w) := of_word (w := (0x51000000#32 ||| place 16 d ||| place 8 a ||| place 4 r ||| place 3 (BitVec.ofBool l) ||| place 0 (BitVec.ofNat 3 w.code))) rfl (by simp only [opByte_or, opByte_place, Nat.or_zero, Nat.reduceAdd, Nat.reduceLeDiff]; rfl)
theorem Opcode.vldsp (d : BitVec 8) (a : BitVec 8) (l : Bool) (w : MemW) : Statement (.vldsp d a l w) := of_word (w := (0x52000000#32 ||| place 16 d ||| place 8 a ||| place 3 (BitVec.ofBool l) ||| place 0 (BitVec.ofNat 3 w.code))) rfl (by simp only [opByte_or, opByte_place, Nat.or_zero, Nat.reduceAdd, Nat.reduceLeDiff]; rfl)
theorem Opcode.vstsp (d : BitVec 8) (a : BitVec 8) (l : Bool) (w : MemW) : Statement (.vstsp d a l w) := of_word (w := (0x53000000#32 ||| place 16 d ||| place 8 a ||| place 3 (BitVec.ofBool l) ||| place 0 (BitVec.ofNat 3 w.code))) rfl (by simp only [opByte_or, opByte_place, Nat.or_zero, Nat.reduceAdd, Nat.reduceLeDiff]; rfl)
theorem Opcode.vatom (d : BitVec 8) (a : BitVec 8) (r : BitVec 4) (p : Aop) : Statement (.vatom d a r p) := of_word (w := (0x54000000#32 ||| place 16 d ||| place 8 a ||| place 4 r ||| place 0 (BitVec.ofNat 4 p.code))) rfl (by simp only [opByte_or, opByte_place, Nat.or_zero, Nat.reduceAdd, Nat.reduceLeDiff]; rfl)
theorem Opcode.vatom64 (d : BitVec 8) (a : BitVec 8) (r : BitVec 4) (p : Aop) : Statement (.vatom64 d a r p) := of_word (w := (0x55000000#32 ||| place 16 d ||| place 8 a ||| place 4 r ||| place 0 (BitVec.ofNat 4 p.code))) rfl (by simp only [opByte_or, opByte_place, Nat.or_zero, Nat.reduceAdd, Nat.reduceLeDiff]; rfl)
theorem Opcode.vcas128 (d : BitVec 8) (a : BitVec 8) (r : BitVec 4) : Statement (.vcas128 d a r) := of_word (w := (0x56000000#32 ||| place 16 d ||| place 8 a ||| place 4 r)) rfl (by simp only [opByte_or, opByte_place, Nat.or_zero, Nat.reduceAdd, Nat.reduceLeDiff]; rfl)
theorem Opcode.vldl (d : BitVec 8) (a : BitVec 8) (r : BitVec 4) (l : Bool) : Statement (.vldl d a r l) := of_word (w := (0x57000006#32 ||| place 16 d ||| place 8 a ||| place 4 r ||| place 3 (BitVec.ofBool l))) rfl (by simp only [opByte_or, opByte_place, Nat.or_zero, Nat.reduceAdd, Nat.reduceLeDiff]; rfl)
theorem Opcode.vsmp (d : BitVec 8) (a : BitVec 8) (r : BitVec 4) (l : Bool) : Statement (.vsmp d a r l) := of_word (w := (0x58000006#32 ||| place 16 d ||| place 8 a ||| place 4 r ||| place 3 (BitVec.ofBool l))) rfl (by simp only [opByte_or, opByte_place, Nat.or_zero, Nat.reduceAdd, Nat.reduceLeDiff]; rfl)
theorem Opcode.vldwh (d : BitVec 8) (a : BitVec 8) (r : BitVec 4) (l : Bool) (w : MemW) : Statement (.vldwh d a r l w) := of_word (w := (0x59000000#32 ||| place 16 d ||| place 8 a ||| place 4 r ||| place 3 (BitVec.ofBool l) ||| place 0 (BitVec.ofNat 3 w.code))) rfl (by simp only [opByte_or, opByte_place, Nat.or_zero, Nat.reduceAdd, Nat.reduceLeDiff]; rfl)
theorem Opcode.vstwh (d : BitVec 8) (a : BitVec 8) (r : BitVec 4) (l : Bool) (w : MemW) : Statement (.vstwh d a r l w) := of_word (w := (0x5A000000#32 ||| place 16 d ||| place 8 a ||| place 4 r ||| place 3 (BitVec.ofBool l) ||| place 0 (BitVec.ofNat 3 w.code))) rfl (by simp only [opByte_or, opByte_place, Nat.or_zero, Nat.reduceAdd, Nat.reduceLeDiff]; rfl)
theorem Opcode.vwop (d : BitVec 8) (a : BitVec 8) (r : BitVec 4) (p : Wop) : Statement (.vwop d a r p) := of_word (w := (0x5B000000#32 ||| place 16 d ||| place 8 a ||| place 4 r ||| place 0 (BitVec.ofNat 4 p.code))) rfl (by simp only [opByte_or, opByte_place, Nat.or_zero, Nat.reduceAdd, Nat.reduceLeDiff]; rfl)
theorem Opcode.vwopPosted (a : BitVec 8) (r : BitVec 4) (p : Wop) : Statement (.vwopPosted a r p) := of_word (w := (0x5BFF0000#32 ||| place 8 a ||| place 4 r ||| place 0 (BitVec.ofNat 4 p.code))) rfl (by simp only [opByte_or, opByte_place, Nat.or_zero, Nat.reduceAdd, Nat.reduceLeDiff]; rfl)
theorem Opcode.vpgreq (d : BitVec 8) (a : BitVec 8) (r : BitVec 4) (l : Bool) (w : MemW) : Statement (.vpgreq d a r l w) := of_word (w := (0x5C000000#32 ||| place 16 d ||| place 8 a ||| place 4 r ||| place 3 (BitVec.ofBool l) ||| place 0 (BitVec.ofNat 3 w.code))) rfl (by simp only [opByte_or, opByte_place, Nat.or_zero, Nat.reduceAdd, Nat.reduceLeDiff]; rfl)
theorem Opcode.vpref (a : BitVec 8) (r : BitVec 4) (l : Bool) (w : Bool) : Statement (.vpref a r l w) := of_word (w := (0x5D000000#32 ||| place 8 a ||| place 4 r ||| place 3 (BitVec.ofBool l) ||| place 0 (BitVec.ofBool w))) rfl (by simp only [opByte_or, opByte_place, Nat.or_zero, Nat.reduceAdd, Nat.reduceLeDiff]; rfl)
theorem Opcode.vtrav (d : BitVec 8) (a : BitVec 8) (r : BitVec 4) (l : Bool) (o : BitVec 3) : Statement (.vtrav d a r l o) := of_word (w := (0x60000000#32 ||| place 16 d ||| place 8 a ||| place 4 r ||| place 3 (BitVec.ofBool l) ||| place 0 o)) rfl (by simp only [opByte_or, opByte_place, Nat.or_zero, Nat.reduceAdd, Nat.reduceLeDiff]; rfl)
theorem Opcode.vtravc (d : BitVec 8) (a : BitVec 8) (l : Bool) (o : BitVec 3) : Statement (.vtravc d a l o) := of_word (w := (0x61000000#32 ||| place 16 d ||| place 8 a ||| place 3 (BitVec.ofBool l) ||| place 0 o)) rfl (by simp only [opByte_or, opByte_place, Nat.or_zero, Nat.reduceAdd, Nat.reduceLeDiff]; rfl)
theorem Opcode.vrast (d : BitVec 8) (a : BitVec 8) (b : BitVec 8) : Statement (.vrast d a b) := of_word (w := (0x62000000#32 ||| place 16 d ||| place 8 a ||| place 0 b)) rfl (by simp only [opByte_or, opByte_place, Nat.or_zero, Nat.reduceAdd, Nat.reduceLeDiff]; rfl)
theorem Opcode.vsemit (d : BitVec 8) (l : Bool) : Statement (.vsemit d l) := of_word (w := (0x63000000#32 ||| place 16 d ||| place 3 (BitVec.ofBool l))) rfl (by simp only [opByte_or, opByte_place, Nat.or_zero, Nat.reduceAdd, Nat.reduceLeDiff]; rfl)
theorem Opcode.vsbg (d : BitVec 8) (a : BitVec 8) (b : BitVec 8) : Statement (.vsbg d a b) := of_word (w := (0x64000000#32 ||| place 16 d ||| place 8 a ||| place 0 b)) rfl (by simp only [opByte_or, opByte_place, Nat.or_zero, Nat.reduceAdd, Nat.reduceLeDiff]; rfl)
theorem Opcode.sadd (s : BitVec 6) (a : BitVec 6) (b : BitVec 6) : Statement (.sadd s a b) := of_word (w := (0x80000000#32 ||| place 18 s ||| place 12 a ||| place 6 b)) rfl (by simp only [opByte_or, opByte_place, Nat.or_zero, Nat.reduceAdd, Nat.reduceLeDiff]; rfl)
theorem Opcode.ssub (s : BitVec 6) (a : BitVec 6) (b : BitVec 6) : Statement (.ssub s a b) := of_word (w := (0x81000000#32 ||| place 18 s ||| place 12 a ||| place 6 b)) rfl (by simp only [opByte_or, opByte_place, Nat.or_zero, Nat.reduceAdd, Nat.reduceLeDiff]; rfl)
theorem Opcode.smul (s : BitVec 6) (a : BitVec 6) (b : BitVec 6) : Statement (.smul s a b) := of_word (w := (0x82000000#32 ||| place 18 s ||| place 12 a ||| place 6 b)) rfl (by simp only [opByte_or, opByte_place, Nat.or_zero, Nat.reduceAdd, Nat.reduceLeDiff]; rfl)
theorem Opcode.smulh (s : BitVec 6) (a : BitVec 6) (b : BitVec 6) : Statement (.smulh s a b) := of_word (w := (0x83000000#32 ||| place 18 s ||| place 12 a ||| place 6 b)) rfl (by simp only [opByte_or, opByte_place, Nat.or_zero, Nat.reduceAdd, Nat.reduceLeDiff]; rfl)
theorem Opcode.sand (s : BitVec 6) (a : BitVec 6) (b : BitVec 6) : Statement (.sand s a b) := of_word (w := (0x84000000#32 ||| place 18 s ||| place 12 a ||| place 6 b)) rfl (by simp only [opByte_or, opByte_place, Nat.or_zero, Nat.reduceAdd, Nat.reduceLeDiff]; rfl)
theorem Opcode.sor (s : BitVec 6) (a : BitVec 6) (b : BitVec 6) : Statement (.sor s a b) := of_word (w := (0x85000000#32 ||| place 18 s ||| place 12 a ||| place 6 b)) rfl (by simp only [opByte_or, opByte_place, Nat.or_zero, Nat.reduceAdd, Nat.reduceLeDiff]; rfl)
theorem Opcode.sxor (s : BitVec 6) (a : BitVec 6) (b : BitVec 6) : Statement (.sxor s a b) := of_word (w := (0x86000000#32 ||| place 18 s ||| place 12 a ||| place 6 b)) rfl (by simp only [opByte_or, opByte_place, Nat.or_zero, Nat.reduceAdd, Nat.reduceLeDiff]; rfl)
theorem Opcode.sshl (s : BitVec 6) (a : BitVec 6) (b : BitVec 6) : Statement (.sshl s a b) := of_word (w := (0x87000000#32 ||| place 18 s ||| place 12 a ||| place 6 b)) rfl (by simp only [opByte_or, opByte_place, Nat.or_zero, Nat.reduceAdd, Nat.reduceLeDiff]; rfl)
theorem Opcode.sshr (s : BitVec 6) (a : BitVec 6) (b : BitVec 6) : Statement (.sshr s a b) := of_word (w := (0x88000000#32 ||| place 18 s ||| place 12 a ||| place 6 b)) rfl (by simp only [opByte_or, opByte_place, Nat.or_zero, Nat.reduceAdd, Nat.reduceLeDiff]; rfl)
theorem Opcode.ssar (s : BitVec 6) (a : BitVec 6) (b : BitVec 6) : Statement (.ssar s a b) := of_word (w := (0x89000000#32 ||| place 18 s ||| place 12 a ||| place 6 b)) rfl (by simp only [opByte_or, opByte_place, Nat.or_zero, Nat.reduceAdd, Nat.reduceLeDiff]; rfl)
theorem Opcode.smin (s : BitVec 6) (a : BitVec 6) (b : BitVec 6) : Statement (.smin s a b) := of_word (w := (0x8A000000#32 ||| place 18 s ||| place 12 a ||| place 6 b)) rfl (by simp only [opByte_or, opByte_place, Nat.or_zero, Nat.reduceAdd, Nat.reduceLeDiff]; rfl)
theorem Opcode.smax (s : BitVec 6) (a : BitVec 6) (b : BitVec 6) : Statement (.smax s a b) := of_word (w := (0x8B000000#32 ||| place 18 s ||| place 12 a ||| place 6 b)) rfl (by simp only [opByte_or, opByte_place, Nat.or_zero, Nat.reduceAdd, Nat.reduceLeDiff]; rfl)
theorem Opcode.sminu (s : BitVec 6) (a : BitVec 6) (b : BitVec 6) : Statement (.sminu s a b) := of_word (w := (0x8C000000#32 ||| place 18 s ||| place 12 a ||| place 6 b)) rfl (by simp only [opByte_or, opByte_place, Nat.or_zero, Nat.reduceAdd, Nat.reduceLeDiff]; rfl)
theorem Opcode.smaxu (s : BitVec 6) (a : BitVec 6) (b : BitVec 6) : Statement (.smaxu s a b) := of_word (w := (0x8D000000#32 ||| place 18 s ||| place 12 a ||| place 6 b)) rfl (by simp only [opByte_or, opByte_place, Nat.or_zero, Nat.reduceAdd, Nat.reduceLeDiff]; rfl)
theorem Opcode.saddi (s : BitVec 6) (a : BitVec 6) (i : BitVec 12) : Statement (.saddi s a i) := of_word (w := (0x8E000000#32 ||| place 18 s ||| place 12 a ||| place 0 i)) rfl (by simp only [opByte_or, opByte_place, Nat.or_zero, Nat.reduceAdd, Nat.reduceLeDiff]; rfl)
theorem Opcode.sandi (s : BitVec 6) (a : BitVec 6) (i : BitVec 12) : Statement (.sandi s a i) := of_word (w := (0x8F000000#32 ||| place 18 s ||| place 12 a ||| place 0 i)) rfl (by simp only [opByte_or, opByte_place, Nat.or_zero, Nat.reduceAdd, Nat.reduceLeDiff]; rfl)
theorem Opcode.sori (s : BitVec 6) (a : BitVec 6) (i : BitVec 12) : Statement (.sori s a i) := of_word (w := (0x90000000#32 ||| place 18 s ||| place 12 a ||| place 0 i)) rfl (by simp only [opByte_or, opByte_place, Nat.or_zero, Nat.reduceAdd, Nat.reduceLeDiff]; rfl)
theorem Opcode.sxori (s : BitVec 6) (a : BitVec 6) (i : BitVec 12) : Statement (.sxori s a i) := of_word (w := (0x91000000#32 ||| place 18 s ||| place 12 a ||| place 0 i)) rfl (by simp only [opByte_or, opByte_place, Nat.or_zero, Nat.reduceAdd, Nat.reduceLeDiff]; rfl)
theorem Opcode.sshli (s : BitVec 6) (a : BitVec 6) (i : BitVec 5) : Statement (.sshli s a i) := of_word (w := (0x92000000#32 ||| place 18 s ||| place 12 a ||| place 0 i)) rfl (by simp only [opByte_or, opByte_place, Nat.or_zero, Nat.reduceAdd, Nat.reduceLeDiff]; rfl)
theorem Opcode.sshri (s : BitVec 6) (a : BitVec 6) (i : BitVec 5) : Statement (.sshri s a i) := of_word (w := (0x93000000#32 ||| place 18 s ||| place 12 a ||| place 0 i)) rfl (by simp only [opByte_or, opByte_place, Nat.or_zero, Nat.reduceAdd, Nat.reduceLeDiff]; rfl)
theorem Opcode.smovi (s : BitVec 6) (i : BitVec 18) : Statement (.smovi s i) := of_word (w := (0x94000000#32 ||| place 18 s ||| place 0 i)) rfl (by simp only [opByte_or, opByte_place, Nat.or_zero, Nat.reduceAdd, Nat.reduceLeDiff]; rfl)
theorem Opcode.slui (s : BitVec 6) (i : BitVec 18) : Statement (.slui s i) := of_word (w := (0x95000000#32 ||| place 18 s ||| place 0 i)) rfl (by simp only [opByte_or, opByte_place, Nat.or_zero, Nat.reduceAdd, Nat.reduceLeDiff]; rfl)
theorem Opcode.sun (s : BitVec 6) (a : BitVec 6) (f : SUnFn) : Statement (.sun s a f) := of_word (w := (0x96000000#32 ||| place 18 s ||| place 12 a ||| place 0 (BitVec.ofNat 6 f.code))) rfl (by simp only [opByte_or, opByte_place, Nat.or_zero, Nat.reduceAdd, Nat.reduceLeDiff]; rfl)
theorem Opcode.scmp (q : BitVec 2) (c : ICond) (a : BitVec 6) (b : BitVec 6) : Statement (.scmp q c a b) := of_word (w := (0x97000000#32 ||| place 22 q ||| place 18 (BitVec.ofNat 4 c.code) ||| place 12 a ||| place 6 b)) rfl (by simp only [opByte_or, opByte_place, Nat.or_zero, Nat.reduceAdd, Nat.reduceLeDiff]; rfl)
theorem Opcode.ssel (s : BitVec 6) (a : BitVec 6) (b : BitVec 6) (q : BitVec 2) : Statement (.ssel s a b q) := of_word (w := (0x98000000#32 ||| place 18 s ||| place 12 a ||| place 6 b ||| place 0 q)) rfl (by simp only [opByte_or, opByte_place, Nat.or_zero, Nat.reduceAdd, Nat.reduceLeDiff]; rfl)
theorem Opcode.sadd64 (s : BitVec 6) (a : BitVec 6) (b : BitVec 6) : Statement (.sadd64 s a b) := of_word (w := (0x99000000#32 ||| place 18 s ||| place 12 a ||| place 6 b)) rfl (by simp only [opByte_or, opByte_place, Nat.or_zero, Nat.reduceAdd, Nat.reduceLeDiff]; rfl)
theorem Opcode.sfadd (s : BitVec 6) (a : BitVec 6) (b : BitVec 6) (m : BitVec 3) : Statement (.sfadd s a b m) := of_word (w := (0x9A000000#32 ||| place 18 s ||| place 12 a ||| place 6 b ||| place 0 m)) rfl (by simp only [opByte_or, opByte_place, Nat.or_zero, Nat.reduceAdd, Nat.reduceLeDiff]; rfl)
theorem Opcode.sfmul (s : BitVec 6) (a : BitVec 6) (b : BitVec 6) (m : BitVec 3) : Statement (.sfmul s a b m) := of_word (w := (0x9B000000#32 ||| place 18 s ||| place 12 a ||| place 6 b ||| place 0 m)) rfl (by simp only [opByte_or, opByte_place, Nat.or_zero, Nat.reduceAdd, Nat.reduceLeDiff]; rfl)
theorem Opcode.sffma (s : BitVec 6) (a : BitVec 6) (b : BitVec 6) (m : BitVec 3) : Statement (.sffma s a b m) := of_word (w := (0x9C000000#32 ||| place 18 s ||| place 12 a ||| place 6 b ||| place 0 m)) rfl (by simp only [opByte_or, opByte_place, Nat.or_zero, Nat.reduceAdd, Nat.reduceLeDiff]; rfl)
theorem Opcode.sfcmp (q : BitVec 2) (c : FCond) (a : BitVec 6) (b : BitVec 6) : Statement (.sfcmp q c a b) := of_word (w := (0x9D000000#32 ||| place 22 q ||| place 18 (BitVec.ofNat 4 c.code) ||| place 12 a ||| place 6 b)) rfl (by simp only [opByte_or, opByte_place, Nat.or_zero, Nat.reduceAdd, Nat.reduceLeDiff]; rfl)
theorem Opcode.sfun (s : BitVec 6) (a : BitVec 6) (f : SFunFn) : Statement (.sfun s a f) := of_word (w := (0x9E000000#32 ||| place 18 s ||| place 12 a ||| place 0 (BitVec.ofNat 6 f.code))) rfl (by simp only [opByte_or, opByte_place, Nat.or_zero, Nat.reduceAdd, Nat.reduceLeDiff]; rfl)
theorem Opcode.srdlane (v : BitVec 8) (s : BitVec 6) (l : BitVec 5) : Statement (.srdlane v s l) := of_word (w := (0xA0000000#32 ||| place 16 v ||| place 10 s ||| place 0 l)) rfl (by simp only [opByte_or, opByte_place, Nat.or_zero, Nat.reduceAdd, Nat.reduceLeDiff]; rfl)
theorem Opcode.swrlane (v : BitVec 8) (s : BitVec 6) (l : BitVec 5) : Statement (.swrlane v s l) := of_word (w := (0xA1000000#32 ||| place 16 v ||| place 10 s ||| place 0 l)) rfl (by simp only [opByte_or, opByte_place, Nat.or_zero, Nat.reduceAdd, Nat.reduceLeDiff]; rfl)
theorem Opcode.sballot (s : BitVec 6) (n : BitVec 3) : Statement (.sballot s n) := of_word (w := (0xA2000000#32 ||| place 18 s ||| place 0 n)) rfl (by simp only [opByte_or, opByte_place, Nat.or_zero, Nat.reduceAdd, Nat.reduceLeDiff]; rfl)
theorem Opcode.skmov (s : BitVec 6) (n : BitVec 3) : Statement (.skmov s n) := of_word (w := (0xA3000000#32 ||| place 18 s ||| place 0 n)) rfl (by simp only [opByte_or, opByte_place, Nat.or_zero, Nat.reduceAdd, Nat.reduceLeDiff]; rfl)
theorem Opcode.skmovK (a : BitVec 6) (n : BitVec 3) : Statement (.skmovK a n) := of_word (w := (0xA3000008#32 ||| place 12 a ||| place 0 n)) rfl (by simp only [opByte_or, opByte_place, Nat.or_zero, Nat.reduceAdd, Nat.reduceLeDiff]; rfl)
theorem Opcode.skop (d : BitVec 3) (a : BitVec 3) (b : BitVec 3) (f : KOpFn) : Statement (.skop d a b f) := of_word (w := (0xA4000000#32 ||| place 18 d ||| place 12 a ||| place 6 b ||| place 0 (BitVec.ofNat 6 f.code))) rfl (by simp only [opByte_or, opByte_place, Nat.or_zero, Nat.reduceAdd, Nat.reduceLeDiff]; rfl)
theorem Opcode.sfirst (s : BitVec 6) (n : BitVec 3) : Statement (.sfirst s n) := of_word (w := (0xA5000000#32 ||| place 18 s ||| place 0 n)) rfl (by simp only [opByte_or, opByte_place, Nat.or_zero, Nat.reduceAdd, Nat.reduceLeDiff]; rfl)
theorem Opcode.sspec (s : BitVec 6) (c : BitVec 5) : Statement (.sspec s c) := of_word (w := (0xA6000000#32 ||| place 18 s ||| place 0 c)) rfl (by simp only [opByte_or, opByte_place, Nat.or_zero, Nat.reduceAdd, Nat.reduceLeDiff]; rfl)
theorem Opcode.sspecw (s : BitVec 6) (c : BitVec 5) : Statement (.sspecw s c) := of_word (w := (0xA7000000#32 ||| place 18 s ||| place 0 c)) rfl (by simp only [opByte_or, opByte_place, Nat.or_zero, Nat.reduceAdd, Nat.reduceLeDiff]; rfl)
theorem Opcode.setmr (a : BitVec 6) : Statement (.setmr a) := of_word (w := (0xA8000000#32 ||| place 12 a)) rfl (by simp only [opByte_or, opByte_place, Nat.or_zero, Nat.reduceAdd, Nat.reduceLeDiff]; rfl)
theorem Opcode.setmrNone : Statement .setmrNone := of_word (w := (0xA8000001#32)) rfl (by rfl)
theorem Opcode.trap (e : BitVec 8) : Statement (.trap e) := of_word (w := (0xA9000000#32 ||| place 0 e)) rfl (by simp only [opByte_or, opByte_place, Nat.or_zero, Nat.reduceAdd, Nat.reduceLeDiff]; rfl)
theorem Opcode.tret (k : Bool) : Statement (.tret k) := of_word (w := (0xAA000000#32 ||| place 0 (BitVec.ofBool k))) rfl (by simp only [opByte_or, opByte_place, Nat.or_zero, Nat.reduceAdd, Nat.reduceLeDiff]; rfl)
theorem Opcode.sleep (i : BitVec 11) : Statement (.sleep i) := of_word (w := (0xAB000000#32 ||| place 0 i)) rfl (by simp only [opByte_or, opByte_place, Nat.or_zero, Nat.reduceAdd, Nat.reduceLeDiff]; rfl)
theorem Opcode.sleepReg (a : BitVec 6) : Statement (.sleepReg a) := of_word (w := (0xAB000800#32 ||| place 12 a)) rfl (by simp only [opByte_or, opByte_place, Nat.or_zero, Nat.reduceAdd, Nat.reduceLeDiff]; rfl)
theorem Opcode.brk (e : BitVec 16) : Statement (.brk e) := of_word (w := (0xAC000000#32 ||| place 0 e)) rfl (by simp only [opByte_or, opByte_place, Nat.or_zero, Nat.reduceAdd, Nat.reduceLeDiff]; rfl)
theorem Opcode.nop : Statement .nop := of_word (w := (0xAD000000#32)) rfl (by rfl)
theorem Opcode.sld (s : BitVec 6) (r : BitVec 4) (w : UMemW) (o : BitVec 12) : Statement (.sld s r w o) := of_word (w := (0xB0000000#32 ||| place 18 s ||| place 14 r ||| place 12 (BitVec.ofNat 2 w.code) ||| place 0 o)) rfl (by simp only [opByte_or, opByte_place, Nat.or_zero, Nat.reduceAdd, Nat.reduceLeDiff]; rfl)
theorem Opcode.sst (s : BitVec 6) (r : BitVec 4) (w : UMemW) (o : BitVec 12) : Statement (.sst s r w o) := of_word (w := (0xB1000000#32 ||| place 18 s ||| place 14 r ||| place 12 (BitVec.ofNat 2 w.code) ||| place 0 o)) rfl (by simp only [opByte_or, opByte_place, Nat.or_zero, Nat.reduceAdd, Nat.reduceLeDiff]; rfl)
theorem Opcode.sldsp (s : BitVec 6) (r : BitVec 4) (w : UMemW) (o : BitVec 12) : Statement (.sldsp s r w o) := of_word (w := (0xB2000000#32 ||| place 18 s ||| place 14 r ||| place 12 (BitVec.ofNat 2 w.code) ||| place 0 o)) rfl (by simp only [opByte_or, opByte_place, Nat.or_zero, Nat.reduceAdd, Nat.reduceLeDiff]; rfl)
theorem Opcode.sstsp (s : BitVec 6) (r : BitVec 4) (w : UMemW) (o : BitVec 12) : Statement (.sstsp s r w o) := of_word (w := (0xB3000000#32 ||| place 18 s ||| place 14 r ||| place 12 (BitVec.ofNat 2 w.code) ||| place 0 o)) rfl (by simp only [opByte_or, opByte_place, Nat.or_zero, Nat.reduceAdd, Nat.reduceLeDiff]; rfl)
theorem Opcode.satom (p : Aop) (r : BitVec 4) (w : AtomW) (n : BitVec 6) (o : BitVec 6) : Statement (.satom p r w n o) := of_word (w := (0xB4000000#32 ||| place 18 (BitVec.ofNat 6 p.code) ||| place 14 r ||| place 12 (BitVec.ofNat 2 w.code) ||| place 6 n ||| place 0 o)) rfl (by simp only [opByte_or, opByte_place, Nat.or_zero, Nat.reduceAdd, Nat.reduceLeDiff]; rfl)
theorem Opcode.brset (n : BitVec 4) (a : BitVec 6) : Statement (.brset n a) := of_word (w := (0xB5000000#32 ||| place 18 n ||| place 12 a)) rfl (by simp only [opByte_or, opByte_place, Nat.or_zero, Nat.reduceAdd, Nat.reduceLeDiff]; rfl)
theorem Opcode.brget (s : BitVec 6) (n : BitVec 4) : Statement (.brget s n) := of_word (w := (0xB6000000#32 ||| place 18 s ||| place 12 n)) rfl (by simp only [opByte_or, opByte_place, Nat.or_zero, Nat.reduceAdd, Nat.reduceLeDiff]; rfl)
theorem Opcode.fence (c : BitVec 3) (o : BitVec 2) (p : BitVec 7) (d : BitVec 7) : Statement (.fence c o p d) := of_word (w := (0xB7000000#32 ||| place 21 c ||| place 19 o ||| place 12 p ||| place 5 d)) rfl (by simp only [opByte_or, opByte_place, Nat.or_zero, Nat.reduceAdd, Nat.reduceLeDiff]; rfl)
theorem Opcode.pgreq (s : BitVec 6) (a : BitVec 6) (b : BitVec 6) : Statement (.pgreq s a b) := of_word (w := (0xB8000000#32 ||| place 18 s ||| place 12 a ||| place 6 b)) rfl (by simp only [opByte_or, opByte_place, Nat.or_zero, Nat.reduceAdd, Nat.reduceLeDiff]; rfl)
theorem Opcode.sealPages (a : BitVec 6) (b : BitVec 6) : Statement (.sealPages a b) := of_word (w := (0xB9000000#32 ||| place 12 a ||| place 6 b)) rfl (by simp only [opByte_or, opByte_place, Nat.or_zero, Nat.reduceAdd, Nat.reduceLeDiff]; rfl)
theorem Opcode.unsealPages (a : BitVec 6) (b : BitVec 6) : Statement (.unsealPages a b) := of_word (w := (0xBA000000#32 ||| place 12 a ||| place 6 b)) rfl (by simp only [opByte_or, opByte_place, Nat.or_zero, Nat.reduceAdd, Nat.reduceLeDiff]; rfl)
theorem Opcode.cinv (a : BitVec 6) (b : BitVec 6) (n : BitVec 4) : Statement (.cinv a b n) := of_word (w := (0xBB000000#32 ||| place 12 a ||| place 6 b ||| place 0 n)) rfl (by simp only [opByte_or, opByte_place, Nat.or_zero, Nat.reduceAdd, Nat.reduceLeDiff]; rfl)
theorem Opcode.cwb (a : BitVec 6) (b : BitVec 6) (n : BitVec 4) : Statement (.cwb a b n) := of_word (w := (0xBC000000#32 ||| place 12 a ||| place 6 b ||| place 0 n)) rfl (by simp only [opByte_or, opByte_place, Nat.or_zero, Nat.reduceAdd, Nat.reduceLeDiff]; rfl)
theorem Opcode.cpy (a : BitVec 6) (x : Bool) : Statement (.cpy a x) := of_word (w := (0xC0000000#32 ||| place 12 a ||| place 0 (BitVec.ofBool x))) rfl (by simp only [opByte_or, opByte_place, Nat.or_zero, Nat.reduceAdd, Nat.reduceLeDiff]; rfl)
theorem Opcode.cpym (a : BitVec 6) (x : Bool) : Statement (.cpym a x) := of_word (w := (0xC1000000#32 ||| place 12 a ||| place 0 (BitVec.ofBool x))) rfl (by simp only [opByte_or, opByte_place, Nat.or_zero, Nat.reduceAdd, Nat.reduceLeDiff]; rfl)
theorem Opcode.cpys (a : BitVec 6) : Statement (.cpys a) := of_word (w := (0xC2000000#32 ||| place 12 a)) rfl (by simp only [opByte_or, opByte_place, Nat.or_zero, Nat.reduceAdd, Nat.reduceLeDiff]; rfl)
theorem Opcode.cpyg (a : BitVec 6) : Statement (.cpyg a) := of_word (w := (0xC3000000#32 ||| place 12 a)) rfl (by simp only [opByte_or, opByte_place, Nat.or_zero, Nat.reduceAdd, Nat.reduceLeDiff]; rfl)
theorem Opcode.chkin (a : BitVec 6) : Statement (.chkin a) := of_word (w := (0xC4000000#32 ||| place 12 a)) rfl (by simp only [opByte_or, opByte_place, Nat.or_zero, Nat.reduceAdd, Nat.reduceLeDiff]; rfl)
theorem Opcode.layseal (a : BitVec 6) : Statement (.layseal a) := of_word (w := (0xC5000000#32 ||| place 12 a)) rfl (by simp only [opByte_or, opByte_place, Nat.or_zero, Nat.reduceAdd, Nat.reduceLeDiff]; rfl)
theorem Opcode.launch (a : BitVec 6) (b : BitVec 6) (n : BitVec 6) : Statement (.launch a b n) := of_word (w := (0xC8000000#32 ||| place 12 a ||| place 6 b ||| place 0 n)) rfl (by simp only [opByte_or, opByte_place, Nat.or_zero, Nat.reduceAdd, Nat.reduceLeDiff]; rfl)
theorem Opcode.tenq (a : BitVec 6) (b : BitVec 6) (q : BitVec 2) : Statement (.tenq a b q) := of_word (w := (0xC9000000#32 ||| place 12 a ||| place 6 b ||| place 0 q)) rfl (by simp only [opByte_or, opByte_place, Nat.or_zero, Nat.reduceAdd, Nat.reduceLeDiff]; rfl)
theorem Opcode.moor (v : BitVec 8) (s : BitVec 6) (c : BitVec 3) (n : BitVec 3) : Statement (.moor v s c n) := of_word (w := (0xCA000000#32 ||| place 16 v ||| place 10 s ||| place 3 c ||| place 0 n)) rfl (by simp only [opByte_or, opByte_place, Nat.or_zero, Nat.reduceAdd, Nat.reduceLeDiff]; rfl)
theorem Opcode.castoff (a : BitVec 6) : Statement (.castoff a) := of_word (w := (0xCB000000#32 ||| place 12 a)) rfl (by simp only [opByte_or, opByte_place, Nat.or_zero, Nat.reduceAdd, Nat.reduceLeDiff]; rfl)
theorem Opcode.castoffAll : Statement .castoffAll := of_word (w := (0xCB000001#32)) rfl (by rfl)
theorem Opcode.dcset (d : BitVec 6) (a : BitVec 6) (i : BitVec 12) : Statement (.dcset d a i) := of_word (w := (0xCC000000#32 ||| place 18 d ||| place 12 a ||| place 0 i)) rfl (by simp only [opByte_or, opByte_place, Nat.or_zero, Nat.reduceAdd, Nat.reduceLeDiff]; rfl)
theorem Opcode.dcadd (a : BitVec 6) (i : BitVec 12) : Statement (.dcadd a i) := of_word (w := (0xCD000000#32 ||| place 12 a ||| place 0 i)) rfl (by simp only [opByte_or, opByte_place, Nat.or_zero, Nat.reduceAdd, Nat.reduceLeDiff]; rfl)
theorem Opcode.dcwait (i : BitVec 12) : Statement (.dcwait i) := of_word (w := (0xCE000000#32 ||| place 0 i)) rfl (by simp only [opByte_or, opByte_place, Nat.or_zero, Nat.reduceAdd, Nat.reduceLeDiff]; rfl)
theorem Opcode.stamp (a : BitVec 6) (f : StampFn) : Statement (.stamp a f) := of_word (w := (0xCF000000#32 ||| place 12 a ||| place 0 (BitVec.ofNat 6 f.code))) rfl (by simp only [opByte_or, opByte_place, Nat.or_zero, Nat.reduceAdd, Nat.reduceLeDiff]; rfl)
theorem Opcode.kcnt (a : BitVec 6) (n : BitVec 6) (d : BitVec 6) : Statement (.kcnt a n d) := of_word (w := (0xD0000000#32 ||| place 12 a ||| place 6 n ||| place 0 d)) rfl (by simp only [opByte_or, opByte_place, Nat.or_zero, Nat.reduceAdd, Nat.reduceLeDiff]; rfl)
theorem Opcode.kwait (a : BitVec 6) (n : BitVec 6) : Statement (.kwait a n) := of_word (w := (0xD1000000#32 ||| place 12 a ||| place 6 n)) rfl (by simp only [opByte_or, opByte_place, Nat.or_zero, Nat.reduceAdd, Nat.reduceLeDiff]; rfl)
theorem Opcode.kprobe (s : BitVec 6) (a : BitVec 6) (n : BitVec 6) : Statement (.kprobe s a n) := of_word (w := (0xD2000000#32 ||| place 18 s ||| place 12 a ||| place 6 n)) rfl (by simp only [opByte_or, opByte_place, Nat.or_zero, Nat.reduceAdd, Nat.reduceLeDiff]; rfl)
theorem Opcode.chload (h : BitVec 5) (x : BitVec 6) (y : BitVec 6) (b : BitVec 3) (l : Bool) : Statement (.chload h x y b l) := of_word (w := (0xD8000000#32 ||| place 19 h ||| place 13 x ||| place 7 y ||| place 1 b ||| place 0 (BitVec.ofBool l))) rfl (by simp only [opByte_or, opByte_place, Nat.or_zero, Nat.reduceAdd, Nat.reduceLeDiff]; rfl)
theorem Opcode.chrel (h : BitVec 5) (l : Bool) : Statement (.chrel h l) := of_word (w := (0xD9000000#32 ||| place 19 h ||| place 0 (BitVec.ofBool l))) rfl (by simp only [opByte_or, opByte_place, Nat.or_zero, Nat.reduceAdd, Nat.reduceLeDiff]; rfl)
theorem Opcode.atdef (h : BitVec 5) (x : BitVec 6) (y : BitVec 6) (a : BitVec 3) (l : Bool) : Statement (.atdef h x y a l) := of_word (w := (0xDA000000#32 ||| place 19 h ||| place 13 x ||| place 7 y ||| place 4 a ||| place 0 (BitVec.ofBool l))) rfl (by simp only [opByte_or, opByte_place, Nat.or_zero, Nat.reduceAdd, Nat.reduceLeDiff]; rfl)
theorem Opcode.mma (h : BitVec 5) (x : BitVec 6) (y : BitVec 6) (a : BitVec 3) (b : BitVec 3) (l : Bool) : Statement (.mma h x y a b l) := of_word (w := (0xDB000000#32 ||| place 19 h ||| place 13 x ||| place 7 y ||| place 4 a ||| place 1 b ||| place 0 (BitVec.ofBool l))) rfl (by simp only [opByte_or, opByte_place, Nat.or_zero, Nat.reduceAdd, Nat.reduceLeDiff]; rfl)
theorem Opcode.mmag (h : BitVec 5) (x : BitVec 6) (y : BitVec 6) (a : BitVec 3) (b : BitVec 3) (l : Bool) : Statement (.mmag h x y a b l) := of_word (w := (0xDC000000#32 ||| place 19 h ||| place 13 x ||| place 7 y ||| place 4 a ||| place 1 b ||| place 0 (BitVec.ofBool l))) rfl (by simp only [opByte_or, opByte_place, Nat.or_zero, Nat.reduceAdd, Nat.reduceLeDiff]; rfl)
theorem Opcode.mmav (h : BitVec 5) (x : BitVec 6) (y : BitVec 6) (a : BitVec 3) (b : BitVec 3) (l : Bool) : Statement (.mmav h x y a b l) := of_word (w := (0xDD000000#32 ||| place 19 h ||| place 13 x ||| place 7 y ||| place 4 a ||| place 1 b ||| place 0 (BitVec.ofBool l))) rfl (by simp only [opByte_or, opByte_place, Nat.or_zero, Nat.reduceAdd, Nat.reduceLeDiff]; rfl)
theorem Opcode.accz (h : BitVec 5) (l : Bool) : Statement (.accz h l) := of_word (w := (0xDE000000#32 ||| place 19 h ||| place 0 (BitVec.ofBool l))) rfl (by simp only [opByte_or, opByte_place, Nat.or_zero, Nat.reduceAdd, Nat.reduceLeDiff]; rfl)
theorem Opcode.accld (h : BitVec 5) (x : BitVec 6) (y : BitVec 6) (l : Bool) : Statement (.accld h x y l) := of_word (w := (0xDF000000#32 ||| place 19 h ||| place 13 x ||| place 7 y ||| place 0 (BitVec.ofBool l))) rfl (by simp only [opByte_or, opByte_place, Nat.or_zero, Nat.reduceAdd, Nat.reduceLeDiff]; rfl)
theorem Opcode.accst (h : BitVec 5) (x : BitVec 6) (y : BitVec 6) (l : Bool) : Statement (.accst h x y l) := of_word (w := (0xE0000000#32 ||| place 19 h ||| place 13 x ||| place 7 y ||| place 0 (BitVec.ofBool l))) rfl (by simp only [opByte_or, opByte_place, Nat.or_zero, Nat.reduceAdd, Nat.reduceLeDiff]; rfl)
theorem Opcode.accrd (h : BitVec 5) (x : BitVec 6) (y : BitVec 6) (c : BitVec 3) (l : Bool) : Statement (.accrd h x y c l) := of_word (w := (0xE1000000#32 ||| place 19 h ||| place 13 x ||| place 7 y ||| place 4 c ||| place 0 (BitVec.ofBool l))) rfl (by simp only [opByte_or, opByte_place, Nat.or_zero, Nat.reduceAdd, Nat.reduceLeDiff]; rfl)
theorem Opcode.accwr (h : BitVec 5) (x : BitVec 6) (y : BitVec 6) (c : BitVec 3) (l : Bool) : Statement (.accwr h x y c l) := of_word (w := (0xE2000000#32 ||| place 19 h ||| place 13 x ||| place 7 y ||| place 4 c ||| place 0 (BitVec.ofBool l))) rfl (by simp only [opByte_or, opByte_place, Nat.or_zero, Nat.reduceAdd, Nat.reduceLeDiff]; rfl)
theorem Opcode.accmap (h : BitVec 5) (x : BitVec 6) (y : BitVec 6) (f : MapFn) (l : Bool) : Statement (.accmap h x y f l) := of_word (w := (0xE3000000#32 ||| place 19 h ||| place 13 x ||| place 7 y ||| place 1 (BitVec.ofNat 3 f.code) ||| place 0 (BitVec.ofBool l))) rfl (by simp only [opByte_or, opByte_place, Nat.or_zero, Nat.reduceAdd, Nat.reduceLeDiff]; rfl)
theorem Opcode.rfil (h : BitVec 5) (x : BitVec 6) (y : BitVec 6) (a : BitVec 3) (l : Bool) : Statement (.rfil h x y a l) := of_word (w := (0xE4000000#32 ||| place 19 h ||| place 13 x ||| place 7 y ||| place 4 a ||| place 0 (BitVec.ofBool l))) rfl (by simp only [opByte_or, opByte_place, Nat.or_zero, Nat.reduceAdd, Nat.reduceLeDiff]; rfl)
theorem Opcode.rema (h : BitVec 5) (x : BitVec 6) (y : BitVec 6) (a : BitVec 3) (l : Bool) : Statement (.rema h x y a l) := of_word (w := (0xE5000000#32 ||| place 19 h ||| place 13 x ||| place 7 y ||| place 4 a ||| place 0 (BitVec.ofBool l))) rfl (by simp only [opByte_or, opByte_place, Nat.or_zero, Nat.reduceAdd, Nat.reduceLeDiff]; rfl)
theorem Opcode.mprog (e : BitVec 2) (x : BitVec 6) (y : BitVec 6) (l : Bool) : Statement (.mprog e x y l) := of_word (w := (0xE6000000#32 ||| place 19 e ||| place 13 x ||| place 7 y ||| place 0 (BitVec.ofBool l))) rfl (by simp only [opByte_or, opByte_place, Nat.or_zero, Nat.reduceAdd, Nat.reduceLeDiff]; rfl)
theorem Opcode.mseq (x : BitVec 6) (y : BitVec 6) (l : Bool) : Statement (.mseq x y l) := of_word (w := (0xE7000000#32 ||| place 13 x ||| place 7 y ||| place 0 (BitVec.ofBool l))) rfl (by simp only [opByte_or, opByte_place, Nat.or_zero, Nat.reduceAdd, Nat.reduceLeDiff]; rfl)
theorem Opcode.priow (a : BitVec 6) (b : BitVec 6) (c : BitVec 4) : Statement (.priow a b c) := of_word (w := (0xE8000000#32 ||| place 12 a ||| place 6 b ||| place 0 c)) rfl (by simp only [opByte_or, opByte_place, Nat.or_zero, Nat.reduceAdd, Nat.reduceLeDiff]; rfl)
theorem Opcode.rowout (v : BitVec 8) (s : BitVec 6) : Statement (.rowout v s) := of_word (w := (0xE9000000#32 ||| place 16 v ||| place 10 s)) rfl (by simp only [opByte_or, opByte_place, Nat.or_zero, Nat.reduceAdd, Nat.reduceLeDiff]; rfl)
theorem Opcode.sbstat (s : BitVec 6) (a : BitVec 6) (f : StatFn) : Statement (.sbstat s a f) := of_word (w := (0xEA000000#32 ||| place 18 s ||| place 12 a ||| place 0 (BitVec.ofNat 6 f.code))) rfl (by simp only [opByte_or, opByte_place, Nat.or_zero, Nat.reduceAdd, Nat.reduceLeDiff]; rfl)
theorem Opcode.sysrd (s : BitVec 6) (c : BitVec 18) : Statement (.sysrd s c) := of_word (w := (0xF0000000#32 ||| place 18 s ||| place 0 c)) rfl (by simp only [opByte_or, opByte_place, Nat.or_zero, Nat.reduceAdd, Nat.reduceLeDiff]; rfl)
theorem Opcode.syswr (s : BitVec 6) (c : BitVec 18) : Statement (.syswr s c) := of_word (w := (0xF1000000#32 ||| place 18 s ||| place 0 c)) rfl (by simp only [opByte_or, opByte_place, Nat.or_zero, Nat.reduceAdd, Nat.reduceLeDiff]; rfl)
theorem Opcode.lanest (v : BitVec 8) : Statement (.lanest v) := of_word (w := (0xF2000000#32 ||| place 16 v)) rfl (by simp only [opByte_or, opByte_place, Nat.or_zero, Nat.reduceAdd, Nat.reduceLeDiff]; rfl)
theorem Opcode.laneld (v : BitVec 8) : Statement (.laneld v) := of_word (w := (0xF3000000#32 ||| place 16 v)) rfl (by simp only [opByte_or, opByte_place, Nat.or_zero, Nat.reduceAdd, Nat.reduceLeDiff]; rfl)
theorem Opcode.tlbinv (a : BitVec 6) (b : BitVec 6) (c : BitVec 3) (k : BitVec 2) : Statement (.tlbinv a b c k) := of_word (w := (0xF4000000#32 ||| place 12 a ||| place 6 b ||| place 2 c ||| place 0 k)) rfl (by simp only [opByte_or, opByte_place, Nat.or_zero, Nat.reduceAdd, Nat.reduceLeDiff]; rfl)
theorem Opcode.preempt (a : BitVec 6) (r : BitVec 2) : Statement (.preempt a r) := of_word (w := (0xF5000000#32 ||| place 12 a ||| place 0 r)) rfl (by simp only [opByte_or, opByte_place, Nat.or_zero, Nat.reduceAdd, Nat.reduceLeDiff]; rfl)
theorem Opcode.halt (e : BitVec 8) : Statement (.halt e) := of_word (w := (0xF6000000#32 ||| place 0 e)) rfl (by simp only [opByte_or, opByte_place, Nat.or_zero, Nat.reduceAdd, Nat.reduceLeDiff]; rfl)
theorem Opcode.reservedEncoding (w : BitVec 32) : Statement (.reservedEncoding w) := fun _ h => nomatch h
theorem Opcode.clauseStart : Statement .clauseStart := fun _ h => nomatch h
theorem Opcode.next : Statement .next := fun _ h => nomatch h
theorem Opcode.jump (off : BitVec 24) : Statement (.jump off) := fun _ h => nomatch h
theorem Opcode.branch (off : BitVec 24) : Statement (.branch off) := fun _ h => nomatch h
theorem Opcode.loop (c : BitVec 6) (off : BitVec 18) : Statement (.loop c off) := fun _ h => nomatch h
theorem Opcode.call (off : BitVec 24) : Statement (.call off) := fun _ h => nomatch h
theorem Opcode.calli (op : BitVec 8) : Statement (.calli op) := fun _ h => nomatch h
theorem Opcode.ret : Statement .ret := fun _ h => nomatch h
theorem Opcode.jumpi (op : BitVec 8) : Statement (.jumpi op) := fun _ h => nomatch h
theorem Opcode.meet (off : BitVec 24) : Statement (.meet off) := fun _ h => nomatch h
theorem Opcode.exit : Statement .exit := fun _ h => nomatch h
theorem Opcode.yield : Statement .yield := fun _ h => nomatch h
theorem Opcode.trapif (code : BitVec 8) : Statement (.trapif code) := fun _ h => nomatch h
theorem Opcode.meetingRelease (gid : Nat) (pc : BitVec 52) : Statement (.meetingRelease gid pc) := fun _ h => nomatch h
theorem Opcode.wavePromotion (gid wid : Nat) : Statement (.wavePromotion gid wid) := fun _ h => nomatch h
theorem Opcode.sleepExpiry (gid wid : Nat) : Statement (.sleepExpiry gid wid) := fun _ h => nomatch h
theorem Opcode.groupExit (gid : Nat) : Statement (.groupExit gid) := fun _ h => nomatch h
theorem Opcode.trapEntry (gid : Nat) : Statement (.trapEntry gid) := fun _ h => nomatch h
theorem Opcode.vfxComplete (gid op : Nat) : Statement (.vfxComplete gid op) := fun _ h => nomatch h
theorem Opcode.memoryAccessComplete (gid op : Nat) : Statement (.memoryAccessComplete gid op) := fun _ h => nomatch h
theorem Opcode.scratchpadPresenceResume (gid wid : Nat) : Statement (.scratchpadPresenceResume gid wid) := fun _ h => nomatch h
theorem Opcode.fenceComplete (gid op : Nat) : Statement (.fenceComplete gid op) := fun _ h => nomatch h
theorem Opcode.sealComplete (gid op : Nat) : Statement (.sealComplete gid op) := fun _ h => nomatch h
theorem Opcode.unsealComplete (gid op : Nat) : Statement (.unsealComplete gid op) := fun _ h => nomatch h
theorem Opcode.cinvComplete (gid op : Nat) : Statement (.cinvComplete gid op) := fun _ h => nomatch h
theorem Opcode.cwbComplete (gid op : Nat) : Statement (.cwbComplete gid op) := fun _ h => nomatch h
theorem Opcode.tlbinvComplete (gid op : Nat) : Statement (.tlbinvComplete gid op) := fun _ h => nomatch h
theorem Opcode.engineOpComplete (core op : Nat) : Statement (.engineOpComplete core op) := fun _ h => nomatch h
theorem Opcode.chloadComplete (core op : Nat) : Statement (.chloadComplete core op) := fun _ h => nomatch h
theorem Opcode.chrelComplete (core op : Nat) : Statement (.chrelComplete core op) := fun _ h => nomatch h
theorem Opcode.mprogComplete (gid op : Nat) : Statement (.mprogComplete gid op) := fun _ h => nomatch h
theorem Opcode.mseqComplete (gid op : Nat) : Statement (.mseqComplete gid op) := fun _ h => nomatch h
theorem Opcode.pageRetry (core op : Nat) : Statement (.pageRetry core op) := fun _ h => nomatch h
theorem Opcode.feedbackReappend (core op : Nat) : Statement (.feedbackReappend core op) := fun _ h => nomatch h
theorem Opcode.engineStop (core op upto : Nat) : Statement (.engineStop core op upto) := fun _ h => nomatch h
theorem Opcode.streamerRecordCheck (core op : Nat) : Statement (.streamerRecordCheck core op) := fun _ h => nomatch h
theorem Opcode.cpymAccept (core op rank : Nat) : Statement (.cpymAccept core op rank) := fun _ h => nomatch h
theorem Opcode.copyLanding (core op rank line : Nat) : Statement (.copyLanding core op rank line) := fun _ h => nomatch h
theorem Opcode.copyComplete (core op : Nat) : Statement (.copyComplete core op) := fun _ h => nomatch h
theorem Opcode.laysealComplete (gid op : Nat) : Statement (.laysealComplete gid op) := fun _ h => nomatch h
theorem Opcode.chkinComplete (gid op : Nat) : Statement (.chkinComplete gid op) := fun _ h => nomatch h
theorem Opcode.traversalComplete (gid op : Nat) : Statement (.traversalComplete gid op) := fun _ h => nomatch h
theorem Opcode.vrastComplete (gid op : Nat) : Statement (.vrastComplete gid op) := fun _ h => nomatch h
theorem Opcode.vsemitComplete (gid op : Nat) : Statement (.vsemitComplete gid op) := fun _ h => nomatch h
theorem Opcode.mirrorReceive (die : Nat) : Statement (.mirrorReceive die) := fun _ h => nomatch h
theorem Opcode.vsbgComplete (gid op : Nat) : Statement (.vsbgComplete gid op) := fun _ h => nomatch h
theorem Opcode.rowoutComplete (gid op : Nat) : Statement (.rowoutComplete gid op) := fun _ h => nomatch h
theorem Opcode.priowComplete (gid op : Nat) : Statement (.priowComplete gid op) := fun _ h => nomatch h
theorem Opcode.sbstatComplete (gid op : Nat) : Statement (.sbstatComplete gid op) := fun _ h => nomatch h
theorem Opcode.deltaFlushTimer (core : Nat) : Statement (.deltaFlushTimer core) := fun _ h => nomatch h
theorem Opcode.keeperBatchApply (die : Nat) : Statement (.keeperBatchApply die) := fun _ h => nomatch h
theorem Opcode.deltaSend (die : Nat) : Statement (.deltaSend die) := fun _ h => nomatch h
theorem Opcode.delta (die : Nat) : Statement (.delta die) := fun _ h => nomatch h
theorem Opcode.ack (die : Nat) : Statement (.ack die) := fun _ h => nomatch h
theorem Opcode.flushreq (die : Nat) : Statement (.flushreq die) := fun _ h => nomatch h
theorem Opcode.done (die : Nat) : Statement (.done die) := fun _ h => nomatch h
theorem Opcode.pick (core : Nat) : Statement (.pick core) := fun _ h => nomatch h
theorem Opcode.tailWake (die ctx queue : Nat) : Statement (.tailWake die ctx queue) := fun _ h => nomatch h
theorem Opcode.launchRecordTake (die : Nat) : Statement (.launchRecordTake die) := fun _ h => nomatch h
theorem Opcode.recordReadRetry (die : Nat) : Statement (.recordReadRetry die) := fun _ h => nomatch h
theorem Opcode.schedulerPreempt (die core : Nat) : Statement (.schedulerPreempt die core) := fun _ h => nomatch h
theorem Opcode.stealRequest (core : Nat) : Statement (.stealRequest core) := fun _ h => nomatch h
theorem Opcode.stealAnswer (core : Nat) : Statement (.stealAnswer core) := fun _ h => nomatch h
theorem Opcode.stealBackoff (core : Nat) : Statement (.stealBackoff core) := fun _ h => nomatch h
theorem Opcode.binTimer (core bin : Nat) : Statement (.binTimer core bin) := fun _ h => nomatch h
theorem Opcode.moorPoolServe (die ctx pool : Nat) : Statement (.moorPoolServe die ctx pool) := fun _ h => nomatch h
theorem Opcode.preemptDelivery (die : Nat) : Statement (.preemptDelivery die) := fun _ h => nomatch h
theorem Opcode.vacate (gid : Nat) : Statement (.vacate gid) := fun _ h => nomatch h
theorem Opcode.sweepBoundary (die : Nat) : Statement (.sweepBoundary die) := fun _ h => nomatch h
theorem Opcode.blockRetry (die : Nat) : Statement (.blockRetry die) := fun _ h => nomatch h
theorem Opcode.bandOpen (die band : Nat) : Statement (.bandOpen die band) := fun _ h => nomatch h
theorem Opcode.sweepTick (die : Nat) : Statement (.sweepTick die) := fun _ h => nomatch h
theorem Opcode.wavewait (die band : Nat) : Statement (.wavewait die band) := fun _ h => nomatch h
theorem Opcode.bandCutoff (die band : Nat) : Statement (.bandCutoff die band) := fun _ h => nomatch h
theorem Opcode.basinAgeing (die band : Nat) : Statement (.basinAgeing die band) := fun _ h => nomatch h
theorem Opcode.rowSend (die : Nat) : Statement (.rowSend die) := fun _ h => nomatch h
theorem Opcode.gaze (die : Nat) (flit : BitVec 256) : Statement (.gaze die flit) := fun _ h => nomatch h
theorem Opcode.pose (die : Nat) (flit : BitVec 256) : Statement (.pose die flit) := fun _ h => nomatch h
theorem Opcode.position (die : Nat) (flit : BitVec 256) : Statement (.position die flit) := fun _ h => nomatch h
theorem Opcode.panelStatus (die : Nat) (flit : BitVec 256) : Statement (.panelStatus die flit) := fun _ h => nomatch h
theorem Opcode.sirricLinkDown (die : Nat) : Statement (.sirricLinkDown die) := fun _ h => nomatch h
theorem Opcode.sirricLinkUp (die : Nat) : Statement (.sirricLinkUp die) := fun _ h => nomatch h
theorem Opcode.patternSweep (die : Nat) : Statement (.patternSweep die) := fun _ h => nomatch h
theorem Opcode.hostMemRead (die pa len : Nat) : Statement (.hostMemRead die pa len) := fun _ h => nomatch h
theorem Opcode.hostMemWrite (die pa : Nat) (bytes : List Byte) : Statement (.hostMemWrite die pa bytes) := fun _ h => nomatch h
theorem Opcode.hostSnoop (die line : Nat) : Statement (.hostSnoop die line) := fun _ h => nomatch h
theorem Opcode.mailboxRegisterWrite (off : Nat) (value : BitVec 32) : Statement (.mailboxRegisterWrite off value) := fun _ h => nomatch h
theorem Opcode.loadCtx : Statement .loadCtx := fun _ h => nomatch h
theorem Opcode.unloadCtx : Statement .unloadCtx := fun _ h => nomatch h
theorem Opcode.preemptCmd : Statement .preemptCmd := fun _ h => nomatch h
theorem Opcode.setIndex : Statement .setIndex := fun _ h => nomatch h
theorem Opcode.setPeer : Statement .setPeer := fun _ h => nomatch h
theorem Opcode.fwWrite : Statement .fwWrite := fun _ h => nomatch h
theorem Opcode.fwStart : Statement .fwStart := fun _ h => nomatch h
theorem Opcode.fwVerifyDone : Statement .fwVerifyDone := fun _ h => nomatch h
theorem Opcode.firmwareStartup (failing short : List Nat) : Statement (.firmwareStartup failing short) := fun _ h => nomatch h
theorem Opcode.advanceSvn : Statement .advanceSvn := fun _ h => nomatch h
theorem Opcode.setEnvelope : Statement .setEnvelope := fun _ h => nomatch h
theorem Opcode.memtest : Statement .memtest := fun _ h => nomatch h
theorem Opcode.pattern : Statement .pattern := fun _ h => nomatch h
theorem Opcode.moduleReset : Statement .moduleReset := fun _ h => nomatch h
theorem Opcode.enterReset : Statement .enterReset := fun _ h => nomatch h
theorem Opcode.errRing : Statement .errRing := fun _ h => nomatch h
theorem Opcode.sensors : Statement .sensors := fun _ h => nomatch h
theorem Opcode.powerGood : Statement .powerGood := fun _ h => nomatch h
theorem Opcode.powerLoss : Statement .powerLoss := fun _ h => nomatch h
theorem Opcode.cxlLinkUp : Statement .cxlLinkUp := fun _ h => nomatch h
theorem Opcode.linkReset : Statement .linkReset := fun _ h => nomatch h
theorem Opcode.thermalSample (die : Nat) (readings : List Int) : Statement (.thermalSample die readings) := fun _ h => nomatch h
theorem Opcode.droop (core cycles : Nat) : Statement (.droop core cycles) := fun _ h => nomatch h
theorem Opcode.coreIdleGate (core : Nat) : Statement (.coreIdleGate core) := fun _ h => nomatch h
theorem Opcode.gateIsolation (core : Nat) : Statement (.gateIsolation core) := fun _ h => nomatch h
theorem Opcode.coreWake (core : Nat) : Statement (.coreWake core) := fun _ h => nomatch h
theorem Opcode.shedPower (die clock chambers : Nat) : Statement (.shedPower die clock chambers) := fun _ h => nomatch h
theorem Opcode.corePoweredUp (core : Nat) : Statement (.corePoweredUp core) := fun _ h => nomatch h
theorem Opcode.memtestComplete (corrected uncorrectable : Nat) : Statement (.memtestComplete corrected uncorrectable) := fun _ h => nomatch h
theorem Opcode.unknownCommand : Statement .unknownCommand := fun _ h => nomatch h
theorem Opcode.hdmDecoderProgram (decoder base : Nat) : Statement (.hdmDecoderProgram decoder base) := fun _ h => nomatch h

end Sys2Proof.Laws
end

