-- ==== Sys2Proof/Laws/Safety.lean ====
section
/-! SUPPORT. Laws/Safety.lean: the shared operations in the terms of Safety.lean: what a word that changes only its group
leaves, and what a V-set word does. -/
namespace Sys2Proof.Machine

/-- A WORD THAT CHANGES ONLY ITS GROUP, and neither the group's waves nor its core, has been done. -/
theorem State.wordDone_upd (s : State) (f : Group → Group) (hw : (f s.cg).waves = s.cg.waves)
    (hc : (f s.cg).core = s.cg.core) (hl : (f s.cg).late.map Late.base = s.cg.late.map Late.base := by rfl) :
    s.WordDone (s.updCur f).nextWord (f s.cg) := by
  refine ⟨⟨rfl, ?_, fun _ => rfl⟩, ?_, ?_, ?_, ?_⟩
  · intro h hh
    have : h ≠ (s.updCur f).curGroup := hh
    rw [State.group_nextWord_ne _ this, State.group_updCur_ne _ _ hh]
  · rw [State.cg_nextWord, State.cg_updCur]; rfl
  · rw [State.cg_nextWord, State.cg_updCur]; exact hl
  · rw [State.cw_nextWord, State.cg_updCur]
    have : (s.updCur f).cw = s.cw := by
      simp only [State.cw, State.cg_updCur, Group.wave, hw]; rfl
    rw [this, hc]; rfl
  · intro w h
    rw [State.cg_nextWord, State.cg_updCur]
    have h' : w ≠ (s.updCur f).curWave := h
    rw [Group.wave_setWave_ne _ _ h']
    simp [Group.wave, hw]

/-- A word that only moves on has been done and leaves the group as it was. -/
theorem State.wordDone_nextWord (s : State) : s.WordDone s.nextWord s.cg := by
  refine ⟨⟨rfl, fun h hh => State.group_nextWord_ne _ hh, fun _ => rfl⟩, ?_, ?_, ?_, ?_⟩
  · rw [State.cg_nextWord]; rfl
  · rw [State.cg_nextWord]; rfl
  · rw [State.cw_nextWord]; rfl
  · intro w h; rw [State.cg_nextWord, Group.wave_setWave_ne _ _ h]

/-- The group of a word, with another reading of the same group: the marks of its unobserved completions are not part of it. -/
theorem State.WordDone.congr {s t : State} {g h : Group} (w : s.WordDone t g)
    (e : { g with late := t.cg.late } = { h with late := t.cg.late }) : s.WordDone t h := by
  obtain ⟨h1, h2, h3⟩ := w
  exact ⟨h1, h2.trans (congrArg (fun x : Group => { x with waves := t.cg.waves }) e), h3⟩

/-- What the group is, field by field but its waves, after a word that changed only it. -/
theorem State.cg_upd_nextWord (s : State) (f : Group → Group) :
    (s.updCur f).nextWord.cg = { f s.cg with waves := (s.updCur f).nextWord.cg.waves } := by
  rw [State.cg_nextWord, State.cg_updCur]; rfl

/-- A uniform word that writes one s-register. -/
theorem State.wroteS_one (s : State) (d : BitVec 6) (v : Word) :
    (s.updCur (fun g => g.setS d.toNat v)).nextWord.cg.sreg d.toNat = v
      ∧ s.WroteS (s.updCur (fun g => g.setS d.toNat v)).nextWord d.toNat 1 := by
  have e : (s.updCur (fun g => g.setS d.toNat v)).nextWord.cg.s = (s.cg.setS d.toNat v).s := by
    rw [State.cg_upd_nextWord]
  refine ⟨?_, ?_, ?_⟩
  · unfold Group.sreg; rw [e]; exact Group.sreg_setS_same _ _ d.isLt
  · rw [e]
    refine State.WordDone.congr (s.wordDone_upd (fun g => g.setS d.toNat v) rfl rfl (by simp)) rfl
  · intro r hr
    unfold Group.sreg; rw [e]; exact Group.sreg_setS_ne _ _ (by omega)

/-- WHAT A V-SET WORD SEES (R91, R92, R117): with valid fields and a prefix that fits, it runs on its view. -/
theorem State.vWord_view {s : State} {h : Honours} {d : Nat} {x : VIn} (hv : s.laneView h d = some x)
    (k : VIn → State → State) : s.vWord h true d false k = k x s := by
  unfold State.laneView at hv
  unfold State.vWord
  cases hp : s.cw.pfx with
  | none =>
    simp only [hp] at hv ⊢
    split_ifs at hv with hn
    injection hv with hv; subst hv
    simp [hn]
  | some w =>
    simp only [hp] at hv ⊢
    have hm : ∀ e m : Mask, e &&& ~~~(e &&& m) = e &&& ~~~m := by
      intro e m
      apply BitVec.eq_of_getLsbD_eq
      intro i hi
      simp only [BitVec.getLsbD_and, BitVec.getLsbD_not, hi, decide_true, Bool.true_and]
      cases e.getLsbD i <;> simp
    by_cases ho : (gpfx w).ok h s.cg.n = true
    · rw [if_pos ho] at hv; injection hv with hv; subst hv; simp only [ho, Bool.not_true, Bool.false_eq_true, if_false, hm]
    · rw [if_neg ho] at hv; cases hv

/-- WHAT A SHORT V-SET WORD DOES (R117): its rule, once. -/
theorem vOp_done {s : State} {r : LaneRule} {x : VIn} {ok : Group → Bool} (hf : r.fits s.cg)
    (hok : (∀ p ∈ r.srcs, srcOk s.cg.n p.1.toNat p.2 = true) → ok s.cg = true)
    (hv : s.laneView r.h r.d.toNat = some x) :
    ∃ t, vOp r.h ok r.d.toNat r.n r.val s = .next t ∧ r.Done x s t := by
  obtain ⟨h1, h2⟩ := hf
  refine ⟨(s.updCur (fun g => g.vResults x r.d.toNat r.n (r.val x g))).nextWord, ?_, ?_⟩
  · unfold vOp; rw [h1, hok h2]; exact congrArg _ (State.vWord_view hv _)
  obtain ⟨e1, e2, e3, e4, e5⟩ := Group.vResults_spec s.cg x r.d.toNat r.n (r.val x s.cg)
  have ew : (s.cg.vResults x r.d.toNat r.n (r.val x s.cg)).waves = s.cg.waves := by rw [e1]
  have ec : (s.cg.vResults x r.d.toNat r.n (r.val x s.cg)).core = s.cg.core := by rw [e1]
  have hw := s.wordDone_upd (fun g => g.vResults x r.d.toNat r.n (r.val x g)) ew ec e4
  have hcg := s.cg_upd_nextWord (fun g => g.vResults x r.d.toNat r.n (r.val x g))
  set t := (s.updCur (fun g => g.vResults x r.d.toNat r.n (r.val x g))).nextWord with ht
  have ev : t.cg.v = (s.cg.vResults x r.d.toNat r.n (r.val x s.cg)).v := by rw [hcg]
  have el : t.cg.lanes = (s.cg.vResults x r.d.toNat r.n (r.val x s.cg)).lanes := by rw [hcg]
  have eb : t.cg.bad = (s.cg.vResults x r.d.toNat r.n (r.val x s.cg)).bad := by rw [hcg]
  refine ⟨?_, fun k l hl => by rw [eb]; exact e5 k l hl, ?_, ?_⟩
  · rw [ev, el, eb]; obtain ⟨h1, h2, h3⟩ := hw; exact ⟨h1, by rw [h2, e1], h3⟩
  · intro k l hl
    have : t.cg.vreg k l = (s.cg.vResults x r.d.toNat r.n (r.val x s.cg)).vreg k l := by
      unfold Group.vreg; rw [ev]
    rw [this, e2 k l hl]
    by_cases hr : r.d.toNat ≤ k ∧ k < r.d.toNat + r.n
    · rw [if_pos hr]
      by_cases hz : inMask x.zero l = true
      · simp [hr, hz]
      · by_cases ha : inMask x.act l = true <;> simp [hr, hz, ha]
    · rw [if_neg hr, if_neg (by tauto), if_neg (by tauto)]
  · intro l hl
    have : t.cg.lane l = (s.cg.vResults x r.d.toNat r.n (r.val x s.cg)).lane l := by
      unfold Group.lane; rw [el]
    rw [this, e3 l hl]

end Sys2Proof.Machine
end

