-- ==== Sys2Proof/Tests/Slice0.lean ====
section
/-! SUPPORT. Tests/Slice0.lean: checks of single steps and of single words, whose expected values come from the manual's tables
and worked examples, and states that meet the hypotheses of the statements. -/
namespace Sys2Proof.Tests
set_option Elab.async false
open Sys2Proof.Machine

/-! ### States for tests -/

/-- A module in Full with one running group of 32 lanes and 192 v-registers at its first word. -/
def on : State :=
  let s := State.reset.withFetchWord 32 0
  { s with agenda := [] }.updCur (fun g => { g with n := 192, width := 32 })

/-- The same with s-registers set. -/
def onS (l : List (Nat × Word)) : State := on.updCur (fun g => l.foldl (fun g e => g.setS e.1 e.2) g)

/-- The same with v-registers of lane 0 set. -/
def onV (l : List (Nat × Word)) : State := on.updCur (fun g => l.foldl (fun g e => g.setV e.1 0 e.2) g)

/-- The s-register `r` after a meaning, or none where it does not go on. -/
def sAfter (r : Nat) : Res → Option Word
  | .next t => some (t.cg.sreg r)
  | _ => none

/-- The v-register `r` of lane 0 after a meaning. -/
def vAfter (r : Nat) : Res → Option Word
  | .next t => some (t.cg.vreg r 0)
  | _ => none

/-- The same after a prefix. -/
def onP (p : Word) (l : List (Nat × Word)) : State := (onV l).updWave (fun w => { w with pfx := some p })

/-- The cause of the trap whose handler the group of a meaning has entered or is entering, 0 where there is none. -/
def causeOf : Res → Nat
  | .next t => if t.cg.sup then t.cg.tcause else (t.cg.entering.map (·.cause)).getD 0
  | _ => 0

/-- What holds of the state after a meaning, false where it does not go on. -/
def goesTo (r : Res) (p : State → Bool) : Bool :=
  match r with
  | .next t => p t
  | _ => false

/-- VA page 1 mapped to page 1 of die 0 for every access of a user, its A and D bits set (R407, R408). -/
def page1 : TlbEntry := { vpn := 1, leaf := 0x1027F }
/-- A context whose lanes' private memory, 512 bytes each, starts at VA 0x10000, on a core that holds that page. -/
def mapped : State := { on with ctxs := [(0, { privBase := 0x10000, privSize := 512, dies := 3 })] }.updCore 0
  (fun c => { c with tlb := [page1], stlb := [page1] })
/-- The bytes of a clause. -/
def clauseBytes (h : DWord) (ws : List Word) : List Byte := natLe 8 h.toNat ++ ws.flatMap (fun w => natLe 4 w.toNat)
/-- The same with a clause at VA 0x10000 and its line in the clause fetch buffer, at which the group's wave is. -/
def atClause (h : DWord) (ws : List Word) : State :=
  (({ mapped with mem := putBytes [] 0x10000 (clauseBytes h ws) }.updCore 0 (fun c => { c with
    fetchBuf := [(512, clauseBytes h ws ++ List.replicate (128 - (clauseBytes h ws).length) 0)] })).updCur
    (fun g => { g with lanes := Vector.replicate 32 { pc := 0x10000 } })).updWave (fun _ => { lanes := lowLanes 32 })
/-- A wave past the last word of a clause at 0x10000 whose header is `h`. -/
def atEnd (h : DWord) (en : Mask) : State :=
  mapped.updWave (fun w => { w with addr := 0x10000, hdr := h, words := [0], idx := 1, en := en })

/-- State.Maps as a Bool, to be evaluated. -/
def mapsB (s : State) (core ctx : Nat) (user sampler : Bool) (want : Want) (va key : Nat) : Bool :=
  match ((s.core core).held sampler).find? (fun t => t.hits (dieOf core) ctx va) with
  | some t => pteP t.leaf && t.leaf.getLsbD 5
      && (decide (want ≠ .write) || t.leaf.getLsbD 6 && pteW t.leaf && !pteReplica t.leaf)
      && (decide (want ≠ .fetch) || pteX t.leaf) && (!user || pteUser t.leaf) && decide (t.key va = key)
  | none => false

theorem maps_of {s core ctx user sampler want va key} (h : mapsB s core ctx user sampler want va key = true) :
    s.Maps core ctx user sampler want va key := by
  unfold mapsB at h
  split at h
  · next t ht =>
    simp only [Bool.and_eq_true, Bool.or_eq_true, decide_eq_true_eq, Bool.not_eq_true', ne_eq] at h
    obtain ⟨⟨⟨⟨⟨h1, h2⟩, h3⟩, h4⟩, h5⟩, h6⟩ := h
    refine ⟨t, ht, h1, h2, ?_, ?_, ?_, h6⟩
    · rintro rfl; obtain h3 | ⟨⟨a, b⟩, c⟩ := h3
      · exact absurd rfl h3
      · exact ⟨a, b, c⟩
    · rintro rfl; exact h4.resolve_left (fun h => h rfl)
    · rintro rfl; exact h5.resolve_left (by simp)
  · cases h

theorem inMask_lt {m : Mask} {l : Nat} (h : inMask m l = true) : l < 32 := by
  by_contra hl
  simp [inMask, BitVec.getLsbD_of_ge m l (by omega)] at h

/-- A claim for every lane of a mask, from the 32 lanes. -/
theorem forLanes {m : Mask} {p : Nat → Prop} (h : ∀ l < 32, inMask m l = true → p l) : ∀ l, inMask m l = true → p l :=
  fun l hl => h l (inMask_lt hl) hl

theorem reachable_low {s : State} {key n : Nat} (h : key + n ≤ 2 ^ 20) : s.Reachable key n := by
  have h1 : key / 2 ^ 48 = 0 := by omega
  have h2 : key % 2 ^ 48 = key := by omega
  have h3 : (key + n - 1) / 2 ^ 48 = 0 := by omega
  refine ⟨by simp [State.unreachable, outsideHome]; omega, by simp [State.unreachable, outsideHome]; omega, ?_⟩
  rw [h1, h2, if_pos (by norm_num), lpddrBytes]
  omega

/-- The group in supervisor mode. -/
def asSup (s : State) : State := s.updCur (fun g => { g with sup := true })
def onSup : State := asSup on
/-- The current group's context changed. -/
def withCtx (s : State) (f : Ctx → Ctx) : State := s.updCtx s.cg.ctx f
/-- A data record at VA 0x10000: 32-bit elements, an extent of 16384 (one page), every permission (R174). -/
def dataRec : QWord := (0xF000000000004000_0200000000010000 : BitVec 128)
/-- Records in b2, and v2 of lanes 0 and 1 at the last element and one beyond. -/
def withRec (r : QWord) : State := mapped.updCur (fun g =>
  ({ g with b := vecSet g.b 2 r }.setV 2 0 16383).setV 2 1 16384)


/-! ### Well-formedness: each check refuses a term -/

theorem smoke_postedDest : Instr.check (.vwop 0xFF 1 2 .add32) = some .postedDest := by decide
theorem smoke_floatAtom64 : Instr.check (.vatom64 1 2 3 .fadd) = some .floatAtom64 := by decide
theorem smoke_floatSatom64 : Instr.check (.satom .fmin 3 .w64 2 1) = some .floatAtom64 := by decide
theorem smoke_unusedSource_viun : Instr.check (.viun 1 2 .lane) = some .unusedSource := by decide
theorem smoke_unusedSource_skop : Instr.check (.skop 1 2 3 .not) = some .unusedSource := by decide
theorem smoke_unusedSource_stamp : Instr.check (.stamp 1 .pop) = some .unusedSource := by decide
theorem smoke_unusedSource_accmap : Instr.check (.accmap 1 2 0 .relu false) = some .unusedSource := by decide
theorem smoke_unusedSource_sbstat : Instr.check (.sbstat 1 2 .missed) = some .unusedSource := by decide

/-! ### Decoding: words from the manual (R89 to R97) -/

/-- The worked example of the chapter on clauses: its words and its header. -/
theorem test_decode_worked_loop :
    decodeWord 0x50080124#32 none = .ok (.vld 8 1 2 false .w32)
    ∧ decodeWord 0x7F095400#32 (some 0x33040203#32) = .ok (.prefixGeneral 9 2 true 2 false false false)
    ∧ decodeWord 0x33040203#32 none = .ok (.vfma 4 2 3)
    ∧ headerOk 0xA013FFFCC3F10012#64 = true ∧ hdrLen 0xA013FFFCC3F10012#64 = 3
    ∧ decodeSeq (hdrSeq 0xA013FFFCC3F10012#64) (hdrTgt 0xA013FFFCC3F10012#64) = .ok (.loop 4 (-4))
    ∧ seqOf 0x1000#52 0xA013FFFCC3F10012#64 = 0x1018#52 ∧ directTarget 0x1000#52 (-4 : BitVec 18) = 0x0FE0#52 := by decide +kernel

/-- Formats VB, VL, VU, VC: VSARI v1, v2, 31; VMOVI v3, 0x8000; VIUN SLICE v4; VFCMP k7, UNE, v5, s0. -/
theorem test_decode_lane :
    decodeWord 0b0_0011011_00000001_00000010_00011111#32 none = .ok (.vsari 1 2 31)
    ∧ decodeWord 0b0_0011101_00000011_1000000000000000#32 none = .ok (.vmovi 3 0x8000)
    ∧ decodeWord 0b0_0011111_00000100_00000000_00001110#32 none = .ok (.viun 4 0 .slice)
    ∧ decodeWord 0b0_0110110_111_01001_00000101_11000000#32 none = .ok (.vfcmp 7 .une 5 192)
    ∧ decodeWord 0b0_1001010_00000001_00000010_000_11_101#32 none = .ok (.vcvtin 1 2 3 5)
    ∧ decodeWord 0b0_0100011_00000001_00000010_10_0_00111#32 none = .ok (.vshfli 1 2 .down 7) := by decide +kernel

/-- Formats VM, VT, VR: VSTSP on flag B, VATOM CAS, VWOP posted, VTRAV, VRAST, VSEMIT, VSBG. -/
theorem test_decode_lane_memory :
    decodeWord 0b0_1010011_00000001_00000010_0000_1_110#32 none = .ok (.vstsp 1 2 true .w128)
    ∧ decodeWord 0b0_1010100_00000001_00000010_1111_1010#32 none = .ok (.vatom 1 2 15 .cas)
    ∧ decodeWord 0b0_1011011_11111111_00000010_0011_1101#32 none = .ok (.vwopPosted 2 3 .xchg)
    ∧ decodeWord 0b0_1100000_00001000_00000000_0010_1_100#32 none = .ok (.vtrav 8 0 2 true 4)
    ∧ decodeWord 0b0_1100010_00000001_11000010_11000011#32 none = .ok (.vrast 1 194 195)
    ∧ decodeWord 0b0_1100011_00001000_00000000_0000_1_000#32 none = .ok (.vsemit 8 true)
    ∧ decodeWord 0b0_1100100_00001000_00000010_00000011#32 none = .ok (.vsbg 8 2 3) := by decide +kernel

/-- Formats UA, UB, UL, UC, UV, US: SMINU, SADDI −1, SLUI, SCMP q3 GEU, SRDLANE, SSEL on q2, SSPEC 12, BRK. -/
theorem test_decode_uniform :
    decodeWord 0b1_0001100_000001_000010_000011_000000#32 none = .ok (.sminu 1 2 3)
    ∧ decodeWord 0b1_0001110_000001_000010_111111111111#32 none = .ok (.saddi 1 2 (-1))
    ∧ decodeWord 0b1_0010101_000001_100000000000000001#32 none = .ok (.slui 1 0x20001)
    ∧ decodeWord 0b1_0010111_11_1001_000010_000011_000000#32 none = .ok (.scmp 3 .geu 2 3)
    ∧ decodeWord 0b1_0011000_000001_000010_000011_000010#32 none = .ok (.ssel 1 2 3 2)
    ∧ decodeWord 0b1_0100110_000001_000000000000001100#32 none = .ok (.sspec 1 12)
    ∧ decodeWord 0b1_0101100_000000_001111111111111111#32 none = .ok (.brk 0xFFFF) := by decide +kernel

/-- Formats UM, UF, UE: SLD s4, b2, w128, +9; FENCE at module scope, full, from L and M to C; MMA; ACCMAP LEAKY. -/
theorem test_decode_uniform_memory :
    decodeWord 0b1_0110000_000100_0010_10_000000001001#32 none = .ok (.sld 4 2 .w128 9)
    ∧ decodeWord 0b1_0110111_100_11_0001001_0000100_00000#32 none = .ok (.fence 4 3 9 4)
    ∧ decodeWord 0b1_1011011_00101_000001_000010_011_100_1#32 none = .ok (.mma 5 1 2 3 4 true)
    ∧ decodeWord 0b1_1100011_00101_000001_000000_000_001_0#32 none = .ok (.accmap 5 1 0 .leaky false)
    ∧ decodeWord 0b1_1000000_000000_000110_000000_000000#32 none = .ok (.cpy 6 false) := by decide +kernel

/-- Words that R89 to R97 reserve: opcode 0x26, a SUN function of 8, SATOM with w = 2. -/
theorem test_decode_reserved :
    (decodeWord 0x26000000#32 none).toOption = none ∧ (decodeWord 0x96042008#32 none).toOption = none
    ∧ (decodeWord 0b1_0110100_000000_0010_10_000000000000#32 none).toOption = none := by decide +kernel


/-! ### Uniform words: hypotheses met, and values from R152 to R158 -/

theorem witness_Enabled : on.Enabled := by unfold State.Enabled; decide +kernel
theorem witness_NotEnabled : (on.updWave (fun w => { w with en := 0 })).cw.en = 0#32
    ∧ (on.updWave (fun w => { w with en := 0 })).stop = none := by decide +kernel

/-- R152: a sum wraps. -/
theorem test_sadd_wraps : sAfter 1 (execSadd 1 2 3 (onS [(2, 0xFFFFFFFF), (3, 2)])) = some 1 := by decide +kernel
/-- R152: the signed high product of the two most negative numbers. -/
theorem test_smulh : sAfter 1 (execSmulh 1 2 2 (onS [(2, 0x80000000)])) = some 0x40000000 := by decide +kernel
/-- R152: an arithmetic shift of 32 or more leaves the sign. -/
theorem test_ssar_wide : sAfter 1 (execSsar 1 2 3 (onS [(2, 0x80000000), (3, 32)])) = some 0xFFFFFFFF := by decide +kernel
/-- R152: a left shift of 32 or more leaves zero. -/
theorem test_sshl_wide : sAfter 1 (execSshl 1 2 3 (onS [(2, 1), (3, 33)])) = some 0 := by decide +kernel
/-- R153: an immediate is sign-extended, and SLUI keeps the low 14 bits. -/
theorem test_saddi_slui : sAfter 1 (execSaddi 1 2 (-1) (onS [(2, 0)])) = some 0xFFFFFFFF
    ∧ sAfter 1 (execSlui 1 0x20001 (onS [(1, 0xFFFFFFFF)])) = some 0x80007FFF := by decide +kernel
/-- R154: SUN CLZ of zero is 32; SADD64 carries from the low register. -/
theorem test_sun_sadd64 : sAfter 1 (execSun 1 2 .clz (onS [(2, 0)])) = some 32
    ∧ sAfter 7 (execSadd64 6 2 4 (onS [(2, 0xFFFFFFFF), (3, 0), (4, 1), (5, 0)])) = some 1 := by decide +kernel
/-- R29: a pair that would run past s63 traps ILLEGAL, cause 0x01. -/
theorem test_sadd64_past_end : causeOf (execSadd64 63 2 4 on) = 1 := by decide +kernel
/-- R155: 1 + 2⁻²⁴ is a tie that rounds to even in mode 0 and up in mode 3; code 7 traps. -/
theorem test_sfadd : sAfter 1 (execSfadd 1 2 3 0 (onS [(2, 0x3F800000), (3, 0x33800000)])) = some 0x3F800000
    ∧ sAfter 1 (execSfadd 1 2 3 3 (onS [(2, 0x3F800000), (3, 0x33800000)])) = some 0x3F800001
    ∧ causeOf (execSfadd 1 2 3 7 on) = 1 := by decide +kernel
/-- R157: a lane beyond the group's width reads zero. -/
theorem test_srdlane : sAfter 1 (execSrdlane 3 1 31 (onV [(3, 7)])) = some 0
    ∧ sAfter 1 (execSrdlane 3 1 0 (onV [(3, 7)])) = some 7 := by decide +kernel
/-- R158: the lowest enabled lane of a mask, and 32 where there is none. -/
theorem test_sfirst : sAfter 1 (execSfirst 1 0 on) = some 0 ∧ sAfter 1 (execSfirst 1 1 on) = some 32 := by decide +kernel
/-- The operands of UniformIntegerResults at the edges of its ranges. -/
theorem witness_uniform_ranges :
    (62#6).toNat < 63 ∧ (KOpFn.not ≠ .not ∨ (0#3) = 0) ∧ (191#8).toNat < on.cg.n ∧ on.cg.n ≤ 192 ∧ (60#6).toNat ≤ 60
    ∧ 60 < (61#6).toNat := by decide +kernel
theorem witness_UniformRule : UniformRule 1#32 (.skmov 1 2) 1 (fun g => (g.kmask 2).toNat % 2 ^ min g.width 32) := .skmov

/-! ### Special registers -/

/-- R48: code 21 is the busy word, code 22 traps ILLEGAL; R51: PRIO can only fall. -/
theorem test_sspec : sAfter 1 (execSspec 1 8 on) = some 0xFFFFFFFF ∧ causeOf (execSspec 1 22 on) = 1 := by decide +kernel
theorem test_sspecw_prio : goesTo (execSspecw 2 16 (onS [(2, 0x7F)])) (fun t => decide (t.cg.prio = on.cg.prio)) = true := by
  decide +kernel
/-- A STAMPHI that makes a stamp the group may not change to. -/
theorem witness_stampHi : ∃ s : State, s.Enabled ∧ stampSetOk s.cg (s.cg.sreg 2 ++ s.cg.staging) = false := by
  refine ⟨(onS [(2, 0)]).updCur (fun g => { g with stamp := 2 ^ 62 }), ?_, ?_⟩
  · unfold State.Enabled; decide +kernel
  · decide +kernel

/-! ### V-set words -/

/-- v4 masked by k2 and zeroed, rounded toward zero: the prefix of the manual's worked example. -/
def masked : State := (onP 0x7F095400 [(2, 0x3F800000), (3, 0x40000000), (9, 0x3F800000), (4, 9)]).updCur
  (fun g => g.setK 2 0xFFFFFFFE#32)

theorem witness_LaneIntRule : ∃ x, LaneIntRule (.vmad 4 2 3) x ∧ x.fits masked.cg ∧ (onP 0x7F095000 []).laneView x.h 4 ≠ none := by
  refine ⟨_, .vmad, ?_, by decide +kernel⟩
  constructor
  · decide +kernel
  · intro p hp; fin_cases hp <;> decide +kernel
/-- A pair whose last register is the group's last, and one beyond it. -/
theorem witness_LaneIntRule_edge : ∃ x, LaneIntRule (.vadd64 190 2 254) x ∧ x.fits on.cg ∧ on.laneView x.h 190 ≠ none := by
  refine ⟨_, .vadd64, ?_, by decide +kernel⟩
  constructor
  · decide +kernel
  · intro p hp; fin_cases hp <;> decide +kernel
theorem witness_LaneIntRule_unfit : ∃ x, LaneIntRule (.vadd64 191 2 4) x ∧ ¬ x.fits on.cg := by
  refine ⟨_, .vadd64, fun h => absurd h.1 (by decide +kernel)⟩
theorem witness_LaneIntRule_badPrefix : ∃ x w, LaneIntRule (.vadd 1 2 3) x ∧ x.fits masked.cg ∧ masked.cw.pfx = some w
    ∧ (gpfx w).ok x.h masked.cg.n = false := by
  refine ⟨_, _, .vadd, ?_, rfl, by decide +kernel⟩
  constructor
  · decide +kernel
  · intro p hp; fin_cases hp <;> decide +kernel
theorem witness_LaneFoldRule : ∃ x, LaneFoldRule (.viscan 1 2 .addexc) x ∧ x.fits on.cg ∧ on.laneView x.h 1 ≠ none := by
  refine ⟨_, .viscan, ?_, by decide +kernel⟩
  constructor
  · decide +kernel
  · intro p hp; fin_cases hp ; decide +kernel
theorem witness_LaneFloatRule : ∃ x, LaneFloatRule (.vfma 4 2 3) x ∧ x.fits masked.cg ∧ masked.laneView x.h 4 ≠ none := by
  refine ⟨_, .vfma, ?_, by decide +kernel⟩
  constructor
  · decide +kernel
  · intro p hp; fin_cases hp <;> decide +kernel
theorem witness_LaneCvtRule : ∃ x, LaneCvtRule (.vcvt 1 2 .f2i) x ∧ x.fits on.cg ∧ on.laneView x.h 1 ≠ none := by
  refine ⟨_, .toInt (.head _), ?_, by decide +kernel⟩
  constructor
  · decide +kernel
  · intro p hp; fin_cases hp ; decide +kernel

/-- R117: a wrapping and a saturating sum. -/
theorem test_vadd : vAfter 1 (execVadd 1 2 3 (onV [(2, 0x7FFFFFFF), (3, 1)])) = some 0x80000000
    ∧ vAfter 1 (execVadd 1 2 3 (onP 0x7F000100 [(2, 0x7FFFFFFF), (3, 1)])) = some 0x7FFFFFFF := by decide +kernel
/-- R117: a lane masked under z is zeroed, and one that is not masked gets 1·2 + 1 = 3. -/
theorem test_vfma_masked : vAfter 4 (execVfma 4 2 3 masked) = some 0
    ∧ vAfter 4 (execVfma 4 2 3 (masked.updCur (fun g => g.setK 2 1#32))) = some 0x40400000 := by decide +kernel
/-- R122: an 8-bit field from bit 4 of 0xABC is 0xAB, sign-extended it is −85. -/
theorem test_vbfx : vAfter 1 (execVbfxu 1 2 3 (onV [(2, 0xABC), (3, 0x0804)])) = some 0xAB
    ∧ vAfter 1 (execVbfxs 1 2 3 (onV [(2, 0xABC), (3, 0x0804)])) = some 0xFFFFFFAB := by decide +kernel
/-- R126: VMOVI extends its sign. -/
theorem test_vmovi : vAfter 1 (execVmovi 1 0x8000 on) = some 0xFFFF8000 := by decide +kernel
/-- R132: the sum of lane 0's seven and 31 zeros, delivered to every lane. -/
theorem test_vired : vAfter 1 (execVired 1 2 .add (onV [(2, 7)])) = some 7 := by decide +kernel
/-- R133: an exclusive scan gives lane 0 the identity. -/
theorem test_viscan : vAfter 1 (execViscan 1 2 .addexc (onV [(2, 7)])) = some 0 := by decide +kernel
/-- R146: −1.5 to an integer rounds to even. -/
theorem test_vcvt : vAfter 1 (execVcvt 1 2 .f2i (onV [(2, 0xBFC00000)])) = some 0xFFFFFFFE := by decide +kernel
/-- R138: infinity less infinity is the canonical NaN. -/
theorem test_vfsub : vAfter 1 (execVfsub 1 2 2 (onV [(2, 0x7F800000)])) = some 0x7FC00000 := by decide +kernel
/-- R95: VSEL without its prefix traps ILLEGAL. -/
theorem test_vsel : causeOf (execVsel 1 2 3 on) = 1 := by decide +kernel

/-- A slot that holds E4M3, code 0 (R62), element 3; and one that holds the scale format 4, which they do not take. -/
def slots (w : Word) : State := { on with grids := tset on.grids on.cg.grid { lr := { fs := Vector.replicate 8 w } } }
theorem witness_SlotConversions :
    dstOk on.cg.n 191 1 = true ∧ srcOk on.cg.n 2 1 = true ∧ on.laneView { mods := true } 191 ≠ none
    ∧ on.laneView (fArith 0) 191 ≠ none ∧ (slots 4).laneView (fArith 0) 191 ≠ none
    ∧ slotElem ((slots 4).slot 5) 0 = none ∧ slotElem ((slots 0).slot 5) 3 = some e4m3 := by
  refine ⟨?_, ?_, ?_, ?_, ?_, ?_, by with_unfolding_all rfl⟩ <;> decide +kernel
/-- R147: E4M3 0x38 in element 3 is 1.0; a slot of another role traps SLOTKIND, cause 0x12. -/
theorem test_vcvtin : vAfter 1 (execVcvtin 1 2 3 5 ((slots 0).updCur (fun g => g.setV 2 0 0x38000000))) = some 0x3F800000
    ∧ causeOf (execVcvtin 1 2 0 5 (slots 4)) = 0x12 := by decide +kernel

theorem witness_compares : srcOk on.cg.n 191 1 = true ∧ srcOk on.cg.n 255 1 = true ∧ on.laneView {} 0 ≠ none
    ∧ on.laneView { mods := true } 0 ≠ none ∧ dstOk on.cg.n 191 1 = true
    ∧ (onP 0x7F004000 []).cw.pfx = some 0x7F004000 ∧ (gpfx 0x7F004000).ok { z := false, need := true } (onP 0x7F004000 []).cg.n = true
    ∧ on.laneView { rm := true, sat := true, mods := true } 191 ≠ none ∧ on.laneView (fArith 0) 191 ≠ none := by decide +kernel
/-- R32: a compare into k0 is discarded, one into k1 is kept. -/
theorem test_vicmp : goesTo (execVicmp 0 .ne 2 2 on) (fun t => decide (t.cg.kmask 0 = on.cg.kmask 0)) = true
    ∧ goesTo (execVicmp 1 .eq 2 2 on) (fun t => decide (t.cg.kmask 1 = 0xFFFFFFFF#32)) = true := by decide +kernel

theorem witness_ReservoirUpdates : (onP 0x7F090000 []).laneView reservoirHonours 4 ≠ none
    ∧ reservoirFits (onP 0x7F090000 []).cg 188 4 8 1 ∧ reservoirFits (onP 0x7F090000 []).cg 188 4 8 4 := by
  refine ⟨by decide +kernel, ?_, ?_⟩ <;> (unfold reservoirFits; decide +kernel)
/-- R149: a first candidate of weight 1 into an empty reservoir with cap 0 is taken and counts one. -/
theorem test_vrsvu : vAfter 4 (execVrsvu 4 2 3 (onP 0x7F090000 [(2, 5), (3, 0x3F800000)])) = some 5
    ∧ vAfter 5 (execVrsvu 4 2 3 (onP 0x7F090000 [(2, 5), (3, 0x3F800000)])) = some 0x3F800000 := by decide +kernel


/-! ### Clauses, traps and returns -/

/-- The worked example's header with WAIT empty, at a wave of a group. -/
theorem witness_ClauseStarts : ∃ h ws i, (atClause h ws).stop = none ∧ (atClause h ws).Fetches h ws ∧ headerOk h = true
    ∧ ws.getD (hdrLen h) 0 = 0#32 ∧ decodeSeq (hdrSeq h) (hdrTgt h) = .ok i ∧ i = .loop 4 (-4)
    ∧ (atClause h ws).cg.waitDone h = true := by
  refine ⟨0xA013FFFCC3F10002, [0x50080124, 0x7F095400, 0x33040203, 0], .loop 4 (-4), by decide +kernel, ?_, by decide +kernel,
    by decide +kernel, by decide +kernel, rfl, by decide +kernel⟩
  refine ⟨by decide +kernel, by decide +kernel, by decide +kernel, by decide +kernel, by decide +kernel⟩
/-- A flag that WAIT names counts one. -/
theorem witness_ClauseStarts_waiting : ((atClause 0xA013FFFCC3F10012 [0, 0, 0, 0]).updCur
    (fun g => { g with flags := vecSet g.flags 0 1 })).cg.waitDone 0xA013FFFCC3F10012 = false := by decide +kernel
/-- A pad word that is not zero. -/
theorem witness_ClauseStarts_illegal : ∃ h ws, (atClause h ws).stop = none ∧ (atClause h ws).Fetches h ws
    ∧ ws.getD (hdrLen h) 0 ≠ 0#32 := by
  refine ⟨0xA013FFFCC3F10002, [0x50080124, 0x7F095400, 0x33040203, 1], by decide +kernel, ?_, by decide +kernel⟩
  refine ⟨by decide +kernel, by decide +kernel, by decide +kernel, by decide +kernel, by decide +kernel⟩
/-- Every lane at its meeting point. -/
def meeting : State := (atClause 0 []).updCur (fun g => { g with lanes := Vector.replicate 32 { pc := 0x10000, mr := some 0x10000 } })
theorem witness_ClauseStarts_held : meeting.cw.phase = .start ∧ meeting.cw.lanes ≠ 0#32 ∧ meeting.cw.resumed = false
    ∧ ∀ l, inMask meeting.cw.lanes l = true → (meeting.cg.lane l).mr = some (meeting.cg.lane (lowLane meeting.cw.lanes)).pc :=
  ⟨by decide +kernel, by decide +kernel, by decide +kernel, forLanes (by decide +kernel)⟩
/-- Lane 0 at its meeting point, lane 1 with the same MR still in the body of another clause, lane 2 with none there as well; and lane
0 as the last to come. -/
def meetingFew (m : Option (BitVec 52)) : State := (atClause 0 []).updCur (fun g => { g with
  live := 7, lanes := (Vector.replicate 32 { pc := 0x10000 }).set 0 { pc := 0x10000, mr := some 0x10000 } |>.set 1 { pc := 0x10040, mr := m }
  waves := [(0, { lanes := 1 }), (1, { lanes := 6, phase := .body })] })
theorem witness_ClauseStarts_others : (meetingFew (some 0x10000)).cw.phase = .start ∧ (meetingFew (some 0x10000)).cw.freed = false
    ∧ ((meetingFew (some 0x10000)).cg.waves.map (·.1)).Nodup ∧ (meetingFew (some 0x10000)).cg.OthersUnheld (meetingFew (some 0x10000)).curWave
    ∧ (∃ l, inMask (meetingFew (some 0x10000)).cg.live l = true ∧ inMask (meetingFew (some 0x10000)).cw.lanes l = false
        ∧ ((meetingFew (some 0x10000)).cg.lane l).mr = some 0x10000)
    ∧ (∀ l, inMask (meetingFew none).cg.live l = true → ((meetingFew none).cg.lane l).mr = some 0x10000 → inMask (meetingFew none).cw.lanes l = true)
    ∧ (meetingFew none).cg.entering = none := by
  refine ⟨by decide +kernel, by decide +kernel, by decide +kernel, by unfold Group.OthersUnheld; decide +kernel,
    ⟨1, by decide +kernel, by decide +kernel, by decide +kernel⟩, forLanes (by decide +kernel), by decide +kernel⟩
/-- R270: the wave waits while lane 1 is to come; without it it goes on, its MR none. -/
theorem test_hold : goesTo (execClauseStart (meetingFew (some 0x10000))) (fun t => decide (t.cw.phase = .held)) = true
    ∧ goesTo (execClauseStart (meetingFew none)) (fun t => decide (t.cw.phase = .start ∧ (t.cg.lane 0).mr = none)) = true := by decide +kernel
/-- R79: a clause whose flag is not zero waits; the same clause with its flag at zero stands at its first word. -/
theorem test_clauseStart :
    goesTo (execClauseStart (atClause 0xA013FFFCC3F10012 [0x50080124, 0x7F095400, 0x33040203, 0])) (fun t =>
      decide (t.cw.phase = .body ∧ t.cw.idx = 0 ∧ t.cw.en = 0xFFFFFFFF#32)) = true
    ∧ causeOf (execClauseStart (atClause 0xD000000000000000 [0, 0])) = 1 := by decide +kernel

theorem witness_AtEnd : (atEnd 0xA013FFFCC3F10002 3).AtEnd := by
  unfold State.AtEnd Group.Quiet; decide +kernel
theorem witness_ClauseEnds : ClauseEnd (.loop 4 (-4)) ∧ (∀ l, (endPc (.loop 4 (-4)) (atEnd 0xA013FFFCC3F10002 3) l).isSome)
    ∧ (∀ l, (endPc (.jump 5) (atEnd 0xA013FFFCC3F10002 3) l).isSome)
    ∧ ∀ l, (endPc (.trapif 5) (atEnd 0xA013FFFCC3F10002 0) l).isSome := by
  refine ⟨.loop, ?_, ?_, ?_⟩ <;> intro l
  · simp [endPc]
  · simp [endPc]
  · simp only [endPc]; rw [if_pos (by decide +kernel)]; rfl
/-- R82: a loop whose counter is 3 lowers it and goes to its target; one whose counter is 1 falls through to seq. -/
theorem test_loop : goesTo (execLoop 4 (-4) ((atEnd 0xA013FFFCC3F10002 3).updCur (fun g => g.setS 4 3))) (fun t =>
      decide (t.cg.sreg 4 = 2 ∧ (t.cg.lane 31).pc = 0xFFE0)) = true
    ∧ goesTo (execLoop 4 (-4) ((atEnd 0xA013FFFCC3F10002 3).updCur (fun g => g.setS 4 1))) (fun t =>
      decide (t.cg.sreg 4 = 0 ∧ (t.cg.lane 31).pc = 0x10018)) = true := by decide +kernel
/-- R81: a branch splits the wave: lanes of E go to the target, the others to seq. -/
theorem test_branch : goesTo (execBranch 4 (atEnd 0xA013FFFCC3F10002 3)) (fun t =>
    decide ((t.cg.lane 1).pc = 0x10020 ∧ (t.cg.lane 2).pc = 0x10018 ∧ t.cg.waves.length = 2)) = true := by decide +kernel

/-- Lanes 0 and 1 enabled at a CALL, with room for one more entry on their stacks. -/
def calling (csp : BitVec 6) : State := (atEnd 0xA000000CC3F10002 3).updCur
  (fun g => { g with lanes := Vector.replicate 32 { csp := csp } })
theorem witness_Call : (calling 62).AtEnd ∧ (calling 62).cg.live &&& ~~~(calling 62).cw.lanes = 0#32
    ∧ (let s := calling 62
       let key := fun l => 0x101F0 + 512 * l
       (∀ l, inMask s.cw.en l = true → inMask s.cw.lanes l = true ∧ (s.cg.lane l).csp.toNat < 63
         ∧ s.Maps s.cg.core s.cg.ctx (!s.cg.sup) false .write (s.stackVa s.cg l (s.cg.lane l).csp.toNat) (key l)
         ∧ s.Reachable (key l) 8)
       ∧ ∀ l m, inMask s.cw.en l = true → inMask s.cw.en m = true → l ≠ m → key l + 8 ≤ key m ∨ key m + 8 ≤ key l) := by
  refine ⟨by unfold State.AtEnd Group.Quiet; decide +kernel, by decide +kernel, forLanes ?_, ?_⟩
  · have h : ∀ l < 32, inMask (calling 62).cw.en l = true → inMask (calling 62).cw.lanes l = true
        ∧ ((calling 62).cg.lane l).csp.toNat < 63
        ∧ mapsB (calling 62) (calling 62).cg.core (calling 62).cg.ctx (!(calling 62).cg.sup) false .write
          ((calling 62).stackVa (calling 62).cg l ((calling 62).cg.lane l).csp.toNat) (0x101F0 + 512 * l) = true := by decide +kernel
    intro l hl he
    obtain ⟨a, b, c⟩ := h l hl he
    exact ⟨a, b, maps_of c, reachable_low (by dsimp only; omega)⟩
  · intro l m _ _ hn; dsimp only; omega
/-- The same lanes at a RET, each with the address 0x10040 in its top entry, whose lines the L1 holds. -/
def returning : State := (calling 1).updCore 0 (fun c => { c with
  l1 := [(512, natLe 8 0x10040), (516, natLe 8 0x10040)] })
theorem witness_Ret : returning.AtEnd ∧ returning.cg.live &&& ~~~returning.cw.lanes = 0#32
    ∧ (∀ l, inMask returning.cw.en l = true → inMask returning.cw.lanes l = true ∧ 0 < (returning.cg.lane l).csp.toNat
         ∧ 0x10040 < 2 ^ 52 ∧ 0x10040 % 8 = 0
         ∧ returning.Maps returning.cg.core returning.cg.ctx (!returning.cg.sup) false .read
            (returning.stackVa returning.cg l ((returning.cg.lane l).csp.toNat - 1)) (0x10000 + 512 * l)
         ∧ returning.Cached returning.cg.core .l1 (0x10000 + 512 * l) 8 0x10040) := by
  refine ⟨by unfold State.AtEnd Group.Quiet; decide +kernel, by decide +kernel, forLanes ?_⟩
  have h : ∀ l < 32, inMask returning.cw.en l = true → inMask returning.cw.lanes l = true
      ∧ 0 < (returning.cg.lane l).csp.toNat
      ∧ mapsB returning returning.cg.core returning.cg.ctx (!returning.cg.sup) false .read
          (returning.stackVa returning.cg l ((returning.cg.lane l).csp.toNat - 1)) (0x10000 + 512 * l) = true
      ∧ (∀ x ∈ linesOf (0x10000 + 512 * l) 8, (tget? ((returning.core returning.cg.core).cache .l1) x).isSome = true)
      ∧ 0x10040 = leNat ((List.range 8).map (fun i => returning.cachedByte returning.cg.core .l1 (0x10000 + 512 * l + i))) := by
    decide +kernel
  intro l hl he
  obtain ⟨a, b, c, d, e⟩ := h l hl he
  exact ⟨a, b, by norm_num, by norm_num, maps_of c, fun x hx => ⟨d x hx, fun h => absurd rfl h⟩, reachable_low (by omega), e⟩
/-- R84: RET takes the lane to the address in its entry; CALL raises the pointer and goes to its target. -/
theorem test_ret : goesTo (execRet returning) (fun t => decide ((t.cg.lane 1).pc = 0x10040 ∧ (t.cg.lane 1).csp = 0)) = true := by
  decide +kernel
theorem test_call : goesTo (execCall 4 (calling 62)) (fun t =>
    decide ((t.cg.lane 0).pc = 0x10020 ∧ (t.cg.lane 0).csp = 63 ∧ t.homeNat 0x101F0 8 = 0x10018)) = true := by decide +kernel
theorem witness_Exit : (calling 0).cg.sup = false ∧ (calling 0).cg.inlines = [] ∧ (calling 0).cg.spawns = [] := by decide +kernel
theorem test_exit : goesTo (execExit (calling 0)) (fun t => decide (t.cg.live = 0xFFFFFFFC#32 ∧ t.cg.exiting = false)) = true := by
  decide +kernel

theorem witness_Setmr : (62#6).toNat < 63 ∧ ((onS [(62, 0xFFFFFFF8), (63, 0xFFFFF)]).cg.spair 62).toNat % 8 = 0
    ∧ ((onS [(62, 0xFFFFFFF8), (63, 0xFFFFF)]).cg.spair 62).toNat < 2 ^ 52 ∧ ((onS [(62, 4)]).cg.spair 62).toNat % 8 ≠ 0
    ∧ 2 ^ 52 ≤ ((onS [(63, 0x100000)]).cg.spair 62).toNat ∧ ((onS [(63, 0x100000)]).cg.spair 62).toNat % 8 = 0 := by decide +kernel
/-- All lanes held at one meeting point. -/
def heldAll : State := meeting.updWave (fun w => { w with phase := .held })
theorem witness_Release : (heldAll.group 0).releaseDue 0x10000 = true ∧ (heldAll.group 0).entering = none := by decide +kernel
theorem test_meetingRelease : goesTo (execMeetingRelease 0 0x10000 heldAll) (fun t =>
    decide ((t.cg.lane 5).mr = none ∧ t.cw.phase = .start ∧ t.cw.lanes = 0xFFFFFFFF#32)) = true := by decide +kernel
theorem witness_Sleep : ∃ m : BitVec 11, m.toNat = 0 ∨ m.toNat = 2047 := ⟨0, .inl rfl⟩
/-- A sleeping wave at the cycle its sleep ends, one before it, and a wave that has been ready for 1024 cycles. -/
def sleeping (till now ready : Nat) : State := (on.updWave (fun w => { w with phase := .sleeping till, readyAt := ready })).updCore 0
  (fun c => { c with cycles := now })
theorem witness_SleepExpiry : (sleeping 7 7 0).cw.phase = .sleeping 7 ∧ 7 ≤ ((sleeping 7 7 0).core 0).cycles
    ∧ ((sleeping 7 6 0).core 0).cycles < 7 := by decide +kernel
theorem test_sleepExpiry : goesTo (execSleepExpiry 0 0 (sleeping 7 7 0)) (fun t => decide (t.cw.phase = .body)) = true
    ∧ goesTo (execSleepExpiry 0 0 (sleeping 7 6 0)) (fun t => decide (t.cw.phase = .sleeping 7)) = true := by decide +kernel
def readySince (ready now : Nat) : State := (on.updWave (fun w => { w with readyAt := ready })).updCore 0 (fun c => { c with cycles := now })
theorem witness_Promotion : (readySince 5 1029).cw.phase = .body ∧ (readySince 5 1029).cw.readyAt + 1024 ≤ ((readySince 5 1029).core 0).cycles
    ∧ ((readySince 5 1028).core 0).cycles < (readySince 5 1028).cw.readyAt + 1024 := by decide +kernel
theorem test_wavePromotion : goesTo (execWavePromotion 0 0 (readySince 5 1029)) (fun t => t.cw.promoted) = true
    ∧ goesTo (execWavePromotion 0 0 (readySince 5 1028)) (fun t => !t.cw.promoted) = true := by decide +kernel
theorem witness_Prefix : (on.updWave (fun w => { w with words := [0x7F000000, 0x33040203] })).cw.words[0 + 1]? = some 0x33040203
    ∧ (0x33040203#32).getLsbD 31 = false ∧ opByte 0x33040203 ≠ 0x7F ∧ (0xC0000000#32).getLsbD 31 = true
    ∧ opByte 0x7F000000 = 0x7F := by decide +kernel

theorem witness_OneWave : (atEnd 0xA013FFFCC3F10002 3).OneWave ∧ (atEnd 0xA013FFFCC3F10002 3).Enabled
    ∧ (atEnd 0xA013FFFCC3F10002 3).cw.lanes = (atEnd 0xA013FFFCC3F10002 3).cg.live
    ∧ (atEnd 0xA013FFFCC3F10002 3).cg.undrained 0 = false ∧ (atEnd 0xA013FFFCC3F10002 3).cw.inl = none
    ∧ (atEnd 0xA013FFFCC3F10002 3).cw.en &&& ~~~(atEnd 0xA013FFFCC3F10002 3).cw.lanes = 0#32 := by
  refine ⟨⟨by decide +kernel, by decide +kernel, by unfold Group.Quiet; decide +kernel, by decide +kernel, ?_⟩,
    by unfold State.Enabled; decide +kernel, by decide +kernel, by decide +kernel, by decide +kernel, by decide +kernel⟩
  intro o ho; exact absurd ho (by have : (atEnd 0xA013FFFCC3F10002 3).cg.ops = [] := by decide +kernel
                                  rw [this]; simp)
/-- R163: TRAP 5 enters the handler with cause 0x0A and the software code with bit 8 set. -/
theorem test_trap : causeOf (execTrap 5 on) = 0x0A ∧ goesTo (execTrap 5 on) (fun t => decide (t.cg.tdetail = 0x105 ∧ t.cg.sup)) = true := by
  decide +kernel
/-- R164: the handler's clause for cause c is at the trap base + 64 c. -/
theorem test_trap_handler : goesTo (execBrk 0xFFFF ({ on with ctxs := [(0, { trapBase := 0x20000 })] })) (fun t =>
    decide ((t.cg.lane 0).pc = 0x20300 ∧ (t.cg.lane 0).mr = none ∧ t.cg.tmask = 0xFFFFFFFF#32)) = true := by decide +kernel

/-- A trap under way whose group has one stopped wave, and one whose wave has not stopped. -/
def entering (p : Phase) : State := (on.updCur (fun g => { g with entering := some { cause := 0x0A } })).updWave (fun w => { w with phase := p })
theorem witness_TrapEntry : (entering .stopped).stop = none ∧ ((entering .stopped).group 0).entering = some { cause := 0x0A }
    ∧ ((entering .stopped).group 0).sup = false ∧ ((entering .stopped).group 0).ops = []
    ∧ ((entering .stopped).group 0).allStopped = true ∧ ((entering .body).group 0).allStopped = false := by decide +kernel
/-- An error completion and a PREEMPT pending at a boundary. -/
def pendingTraps (es : List Trap) (p : Option DWord) : State := (on.updCur (fun g => { g with errors := es, preempt := p })).updWave
  (fun w => { w with phase := .start })
theorem witness_TrapEntry_pending :
    let s := pendingTraps [{ cause := 0x0E, kind := 3 }] (some 1)
    s.stop = none ∧ (s.group 0).entering = none ∧ (s.group 0).sup = false ∧ (s.group 0).exiting = false
    ∧ (s.group 0).atBoundary = true ∧ ((pendingTraps [] (some 1)).group 0).preempt = some 1
    ∧ ((pendingTraps [] none).group 0).errors = [] := by decide +kernel
/-- R166: the error completion is reported before the PREEMPT. -/
theorem test_trapEntry : causeOf (execTrapEntry 0 (pendingTraps [{ cause := 0x0E, kind := 3 }] (some 1))) = 0x0E
    ∧ causeOf (execTrapEntry 0 (pendingTraps [] (some 1))) = 0x0B := by decide +kernel

/-- The last word of a NEXT clause of a handler. -/
def handler (kind : Nat) : State := (on.updCur (fun g => { g with
  sup := true, tkind := kind, tmask := 3
  lanes := Vector.replicate 32 { savePc := 0x10000, saveMr := some 8, saveCsp := 2, saveRwi := 1 } })).updWave
  (fun w => { w with hdr := 0xA0000000C0000000, words := [0] })
theorem witness_Tret : (handler 1).stop = none ∧ (handler 1).Enabled ∧ (handler 1).cg.sup = true
    ∧ (handler 1).cw.idx + 1 = (handler 1).cw.words.length ∧ hdrSeq (handler 1).cw.hdr = 0 ∧ (handler 1).cg.flagsZero = true
    ∧ (handler 1).cg.tkind ≠ 0 ∧ (handler 1).cg.Quiet ∧ (handler 1).cg.live ≠ 0#32 ∧ (handler 1).cg.ops = [] := by
  unfold State.Enabled Group.Quiet; decide +kernel
theorem witness_Tret_flags : ((handler 1).updCur (fun g => { g with flags := vecSet g.flags 11 1 })).cg.flagsZero = false := by decide +kernel
theorem test_tret : goesTo (execTret false (handler 1)) (fun t =>
    decide ((t.cg.lane 9).pc = 0x10000 ∧ (t.cg.lane 9).csp = 2 ∧ (t.cg.lane 9).rwi = 1 ∧ t.cg.sup = false ∧ t.cw.resumed)) = true
    ∧ causeOf (execTret false on) = 1 := by decide +kernel

/-- A handler entered at word 0 of a clause of two words at 0x10000, lanes 0 and 1 in SYS_TMASK. -/
def skipping : State := ((atClause 0xA000000CC0000001 [0, 0]).updCur (fun g => { g with
    sup := true, tkind := 0, tmask := 3, lanes := Vector.replicate 32 { savePc := 0x10000 } })).updWave
  (fun _ => { lanes := lowLanes 32, en := lowLanes 32, phase := .body, hdr := 0xA0000000C0000000, words := [0] })

theorem skipping_unit (g : Group) (va : Nat) (b : List Byte)
    (hm : mapsB skipping 0 0 false false .fetch va va = true) (hv : va + 8 ≤ 2 ^ 20)
    (hl : ∀ l ∈ linesOf va 8, (tget? ((skipping.core 0).cache .fetch) l).isSome = true
      ∧ (CacheSel.fetch ≠ .l1 → tget? ((skipping.core 0).cache .fetch) l = some (skipping.homeBytes (l * 128) 128)))
    (hb : (List.range 8).map (fun i => skipping.cachedByte 0 .fetch (va + i)) = b) (hp : skipping.poisoned va 8 = false) :
    (skipping.setGroup 0 g).fetchBytes 0 0 false va 8 = (.ok (b, none), skipping.setGroup 0 g) := by
  have h1 : (skipping.setGroup 0 g).Maps 0 0 false false .fetch va va := maps_of hm
  have h2 : (skipping.setGroup 0 g).Cached 0 .fetch va 8
      (leNat ((List.range 8).map (fun i => (skipping.setGroup 0 g).cachedByte 0 .fetch (va + i)))) := ⟨hl, reachable_low hv, rfl⟩
  rw [State.fetchBytes_held h1 h2]
  have e1 : (List.range 8).map (fun i => (skipping.setGroup 0 g).cachedByte 0 .fetch (va + i)) = b := hb
  have e2 : (skipping.setGroup 0 g).poisoned va 8 = false := hp
  rw [e1, e2]; rfl

theorem witness_TretSkip : skipping.stop = none ∧ skipping.Enabled ∧ skipping.cg.sup = true
    ∧ skipping.cw.idx + 1 = skipping.cw.words.length ∧ hdrSeq skipping.cw.hdr = 0 ∧ skipping.cg.flagsZero = true
    ∧ skipping.cg.tkind = 0 ∧ skipping.cg.Quiet ∧ skipping.cg.live ≠ 0#32 ∧ skipping.cg.ops = []
    ∧ skipping.cg.tmask &&& ~~~skipping.cg.live = 0#32
    ∧ (∀ l, inMask skipping.cg.tmask l = true → (skipping.cg.lane l).savePc = 0x10000 ∧ (skipping.cg.lane l).saveRwi = 0
        ∧ (skipping.cg.lane l).saveWave = 0)
    ∧ afterWord [0, 0] 0 < hdrLen 0xA000000CC0000001
    ∧ ∀ g, (skipping.setGroup skipping.curGroup g).fetchClause skipping.cg.core skipping.cg.ctx false 0x10000
        = (.ok (0xA000000CC0000001, [0, 0], none), skipping.setGroup skipping.curGroup g) := by
  refine ⟨by decide +kernel, by unfold State.Enabled; decide +kernel, by decide +kernel, by decide +kernel, by decide +kernel,
    by decide +kernel, by decide +kernel, by unfold Group.Quiet; decide +kernel, by decide +kernel, by decide +kernel,
    by decide +kernel, forLanes (by decide +kernel), by decide +kernel, fun g => ?_⟩
  have c1 : skipping.curGroup = 0 := by decide +kernel
  have c2 : skipping.cg.core = 0 := by decide +kernel
  have c3 : skipping.cg.ctx = 0 := by decide +kernel
  have u1 := skipping_unit g 0x10000 (natLe 8 0xA000000CC0000001) (by decide +kernel) (by norm_num) (by decide +kernel)
    (by decide +kernel) (by decide +kernel)
  have u2 := skipping_unit g 0x10008 (natLe 8 0) (by decide +kernel) (by norm_num) (by decide +kernel)
    (by decide +kernel) (by decide +kernel)
  rw [c1, c2, c3]
  have v1 : vaWrap 0x10000 = 0x10000 := by decide
  have v2 : vaWrap 0x10008 = 0x10008 := by decide
  have n1 : (0x10000 : BitVec 52).toNat = 0x10000 := by decide
  have h1 : BitVec.ofNat 64 (leNat (natLe 8 0xA000000CC0000001)) = (0xA000000CC0000001 : BitVec 64) := by decide +kernel
  have h2 : (hdrLen (0xA000000CC0000001 : BitVec 64) + 1) / 2 = 1 := by decide +kernel
  have h3 : wordsOf (natLe 8 0) = [0, 0] := by decide +kernel
  simp only [State.fetchClause, State.fetchUnits, n1, v1, u1, List.append_nil, Option.or_none, h1, h2, v2, u2, h3]
/-- R167: TRET.SKIP puts the lanes of SYS_TMASK at the next word, the others where they were. -/
theorem test_tret_skip : goesTo (execTret true skipping) (fun t =>
    decide ((t.cg.lane 1).rwi = 1 ∧ (t.cg.lane 2).rwi = 0 ∧ (t.cg.lane 2).pc = 0x10000)) = true := by decide +kernel


/-! ### System registers and privileged words -/

theorem witness_Privileged : on.stop = none ∧ on.Enabled ∧ on.cg.sup = false ∧ Privileged on.cg.n (.laneld 188)
    ∧ Privileged on.cg.n (.sysrd 1 0x13) ∧ onSup.cg.sup = true ∧ onSup.Enabled ∧ onSup.stop = none := by
  refine ⟨by decide +kernel, by unfold State.Enabled; decide +kernel, by decide +kernel, .laneld (by decide +kernel),
    .sysrd (by decide), by decide +kernel, by unfold State.Enabled; decide +kernel, by decide +kernel⟩
/-- R163: a privileged word in user mode traps PRIV, cause 0x02. -/
theorem test_priv : causeOf (execHalt 1 on) = 2 ∧ causeOf (execSysrd 1 0 on) = 2 := by decide +kernel
/-- R168: SYS_TCAUSE reads the cause, and the kind from bit 8. -/
theorem test_sysrd : sAfter 1 (execSysrd 1 0 (onSup.updCur (fun g => { g with tcause := 5, tkind := 3 }))) = some 0x305 := by decide +kernel

/-- A supervisor whose context has system rights, its descriptor at PA 0x20000 of die 0. -/
def sysOn : State := withCtx onSup (fun _ => { sysr := true, descPa := 0x20000, dies := 3 })
theorem witness_Syswr : sysOn.stop = none ∧ sysOn.Enabled ∧ sysOn.cg.sup = true ∧ sysOn.sysr = true
    ∧ sysValueOk 8 0x12345000 = true ∧ sysValueOk 8 1 = false ∧ sysValueOk 0xF 0 = true
    ∧ sysOn.Reachable (homeKey 0 (0x20000 + sysOffset 0xF 0 + 4)) 4 ∧ onSup.sysr = false := by
  refine ⟨by decide +kernel, by unfold State.Enabled; decide +kernel, by decide +kernel, by decide +kernel, by decide +kernel,
    by decide +kernel, by decide +kernel, reachable_low (by decide), by decide +kernel⟩
/-- R169: a write of SYS_TRAPBASE changes the context and its descriptor, not what the core sees; scratch 3 takes its value;
without system rights the handler's PRIV is a double trap (R166). -/
theorem test_syswr : goesTo (execSyswr 2 8 (sysOn.updCur (fun g => g.setS 2 0x12345000))) (fun t =>
      decide ((t.ctx 0).trapBase = 0x12345000 ∧ t.homeNat 0x20018 4 = 0x12345000 ∧ (t.core 0).views = (sysOn.core 0).views)) = true
    ∧ goesTo (execSyswr 2 8 (onSup.updCur (fun g => g.setS 2 0x12345000))) (fun t => t.cg.exiting) = true := by decide +kernel

theorem witness_SaveSlots : dstOk onSup.cg.n 188 4 = true
    ∧ (∃ l, inMask onSup.cw.en l = true ∧ slotWordsOk ((onSup.updCur (fun g => g.setV 188 0 4)).cg.srcs 188 l 4) 0 = false)
    ∧ ∀ l, inMask onSup.cw.en l = true → slotWordsOk (onSup.cg.srcs 188 l 4) onSup.cg.callLimit = true :=
  ⟨by decide +kernel, ⟨0, by decide +kernel, by decide +kernel⟩, forLanes (by decide +kernel)⟩
/-- R170: the slot's PC is in the first word, and the mark of no MR in bit 31 of the fourth. -/
theorem test_lanest : vAfter 4 (execLanest 4 (onSup.updCur (fun g => { g with lanes := Vector.replicate 32 { savePc := 0x10008 } }))) = some 0x10008
    ∧ vAfter 7 (execLanest 4 onSup) = some 0x80000000 := by decide +kernel
theorem test_laneld : goesTo (execLaneld 4 (onSup.updCur (fun g => g.setV 4 0 0x10008))) (fun t =>
    decide ((t.cg.lane 0).savePc = 0x10008 ∧ (t.cg.lane 0).saveMr = some 0)) = true := by decide +kernel

theorem witness_Tlbinv : Privileged 192 (.tlbinv 0 0 4 2) ∧ Privileged 192 (.tlbinv 62 1 1 0) ∧ sysOn.sysr = true :=
  ⟨.tlbinv (by decide) (by decide), .tlbinvPages (by decide) (by decide), by decide +kernel⟩
/-- A TLBINV of the context on its core in flight after other operations. -/
def invalidating (ops : List POp) : State := (mapped.updCur (fun g => { g with
    ops := ops ++ [{ id := 7, instr := .tlbinv 0 0 1 1, args := [1, 0, 0, 0, 1] }] })).updWave
  (fun w => { w with phase := .fencedTlb 7 })
theorem witness_TlbinvComplete :
    let busy := fun (s : State) => s.groups.any (fun e => decide (e.2.core ∈ scopeCores 0 1)
      && e.2.ops.any (fun x => s.usesRemoved { kind := 1 } e.2.ctx e.2.core x))
    (((invalidating []).group 0).op? 7).map (·.instr) = some (.tlbinv 0 0 1 1) ∧ busy (invalidating []) = false
    ∧ busy (invalidating [{ id := 6, instr := .vld 1 2 2 false .w32, pas := [(0, 0x10000)] }]) = true := by decide +kernel
theorem witness_SlotAndTlbWordsComplete :
    (onSup.stop = none ∧ onSup.Enabled ∧ onSup.cg.sup = true ∧ 4 + 4 ≤ onSup.cg.n ∧ onSup.cg.n ≤ 192
      ∧ ∀ l < 32, inMask onSup.cw.en l = true → slotWordsOk (onSup.cg.srcs 4 l 4) onSup.cg.callLimit = true)
    ∧ (asSup sysOn).stop = none ∧ (asSup sysOn).Enabled ∧ (asSup sysOn).cg.sup = true ∧ (asSup sysOn).sysr = true
    ∧ (((invalidating []).group 0).wave 0).phase = .fencedTlb 7 ∧ (((invalidating []).group 0).op? 7).map (·.wid) = some 0
    ∧ ∀ e ∈ (invalidating []).groups, ∀ x ∈ e.2.ops, (invalidating []).usesRemoved { kind := 1 } e.2.ctx e.2.core x = false := by
  unfold State.Enabled; decide +kernel
/-- R171: the core's translations are gone and the wave goes on; with a load in flight it waits. -/
theorem test_tlbinvComplete : goesTo (execTlbinvComplete 0 7 (invalidating [])) (fun t =>
      decide ((t.core 0).tlb = [] ∧ t.cw.phase = .body ∧ t.cg.ops = [])) = true
    ∧ goesTo (execTlbinvComplete 0 7 (invalidating [{ id := 6, pas := [(0, 0x10000)] }])) (fun t => decide (t.cw.phase = .fencedTlb 7)) = true := by
  decide +kernel

theorem witness_Preempt : ((onSup.updCur (fun g => g.setS 2 0x00020001)).cg.sreg 2).extractLsb' 0 8 ≠ 0
    ∧ ((onSup.updCur (fun g => g.setS 2 0x00021000)).cg.sreg 2).extractLsb' 0 8 = 0
    ∧ onSup.sysr = false ∧ (onSup.die (dieOf onSup.cg.core)).errRing = none := by decide +kernel
/-- R172: PREEMPT at die reach posts to the caller's die alone; HALT ends the group and counts a record. -/
theorem test_preempt_halt : goesTo (execPreempt 2 1 (onSup.updCur (fun g => g.setS 2 0x00021000))) (fun t =>
      decide ((t.die 0).preempts.length = 1 ∧ (t.die 1).preempts = [])) = true
    ∧ goesTo (execHalt 5 onSup) (fun t => decide (t.cg.live = 0 ∧ t.cg.exiting = true ∧ (t.die 0).errSeq = 1)) = true := by decide +kernel

/-- A team of one group on core 0 that a posted preemption names, at a clause boundary or inside its clause. -/
def posted (p : Phase) : State :=
  let s := { on with teams := [(0, { groups := [0], prio := 3 })] }.updWave (fun w => { w with phase := p })
  s.updDie 0 (fun d => { d with preempts := [{ ctx := 0, bound := 4, cores := [0] }] })
theorem witness_PreemptDelivery : ((posted .start).die 0).preempts = [{ ctx := 0, bound := 4, cores := [0] }] ∧ (posted .start).stop = none
    ∧ (∀ e ∈ (posted .start).teams, e.2.gang = none)
    ∧ (∀ e ∈ (posted .start).groups, e.2.vacate = 0 ∧ e.2.exiting = false ∧ e.2.errors = [])
    ∧ ((posted .start).teams.flatMap (fun e => e.2.groups)).Nodup ∧ rising (posted .start).teams
    ∧ (∀ e ∈ (posted .start).teams, ∀ g ∈ e.2.groups, tget? (posted .start).groups g ≠ none)
    ∧ ({ ctx := 0, bound := 4, cores := [0] } : PreemptReq).names 0 { groups := [0], prio := 3 } = true
    ∧ ((posted .start).group 0).atBoundary = true ∧ ((posted .body).group 0).atBoundary = false := by unfold rising; decide +kernel
/-- R433: at a boundary the group traps PREEMPT, cause 0x0B; inside a clause it is held pending. -/
theorem test_preemptDelivery : causeOf (execPreemptDelivery 0 (posted .start)) = 0x0B
    ∧ goesTo (execPreemptDelivery 0 (posted .body)) (fun t => decide (t.cg.preempt = some 0)) = true := by decide +kernel

/-- A group of a team of its own at a step of R435. -/
def vacating (n : Nat) : State := { on with teams := [(0, { groups := [0] })] }.updCur (fun g => { g with vacate := n })
theorem witness_Vacate : ((vacating 1).group 0).vacate = 1 ∧ ((vacating 2).group 0).flagsZero = true ∧ ((vacating 2).group 0).ops = []
    ∧ ((vacating 2).updCur (fun g => { g with flags := vecSet g.flags 0 1 })).cg.flagsZero = false
    ∧ ((vacating 3).team 0).groups = [0] ∧ ((vacating 3).team 0).core = ((vacating 3).group 0).core
    ∧ ((vacating 3).team 0).gang = none ∧ ((vacating 3).team 0).inbound = 0 ∧ ((vacating 3).die 0).leaving = []
    ∧ ((vacating 3).die 0).restores.length < 256 ∧ rising (vacating 3).groups ∧ rising (vacating 3).teams
    ∧ (vacating 3).DistinctDeltas 0 := by unfold rising State.DistinctDeltas; decide +kernel
/-- Two groups of one team, of which the second has not come to step 3. -/
def vacatingPair : State := { vacating 3 with groups := tset (vacating 3).groups 1 {}, teams := [(0, { groups := [0, 1] })] }
theorem witness_Vacate_sibling : ∃ x ∈ (vacatingPair.team (vacatingPair.group 0).team).groups, (vacatingPair.group x).vacate ≠ 3 :=
  ⟨1, by decide +kernel, by decide +kernel⟩
/-- R436: the team enters the restore list and leaves its core. -/
theorem test_vacate : goesTo (execVacate 0 (vacating 3)) (fun t =>
    decide ((t.die 0).restores.length = 1 ∧ t.teams = [] ∧ t.groups = [])) = true := by decide +kernel

/-! ### Memory words -/

theorem clear_of {m : MemShape} {i : Instr} {s : State} {act : Mask} {key : Nat → Nat → Nat}
    (h : recOk (s.ctx s.cg.ctx) (s.cg.brec m.br.toNat) m.kinds m.perm = true) (hp : m.path ≠ pathW)
    (hl : ∀ l < 32, inMask act l = true → (m.at_ s.cg l).1 % m.align i = 0 ∧ ((m.at_ s.cg l).2 = true →
      (m.write = true → (s.ctx s.cg.ctx).sealed (m.at_ s.cg l).1 m.bytes = false) ∧
      ∀ e ∈ pieces (m.at_ s.cg l).1 m.bytes,
        mapsB s s.cg.core s.cg.ctx (!s.cg.sup) false (if m.write then .write else .read) e.2 (key l e.1) = true)) :
    m.Clear i s act key := by
  refine ⟨h, forLanes fun l hl32 ha => ?_⟩
  obtain ⟨h1, h2⟩ := hl l hl32 ha
  refine ⟨h1, fun hb => ?_⟩
  rw [if_neg hp]
  exact ⟨(h2 hb).1, fun e he => maps_of ((h2 hb).2 e he)⟩

/-- A store of lanes, the last element of its page in bounds and the next element out. -/
theorem witness_MemoryWordsIssue : ∃ m x, MemWord (.vst 4 2 2 true .w32) m ∧ m.fits (withRec dataRec).cg.n = true
    ∧ (withRec dataRec).memView m.orders m.cRegs = some x ∧ (withRec dataRec).PipeFree ((withRec dataRec).cw.flagOf m.fl)
    ∧ (withRec dataRec).stop = none
    ∧ m.Clear (.vst 4 2 2 true .w32) (withRec dataRec) x.act (fun l _ => if l = 0 then 0x1FFFC else 0x10000)
    ∧ (m.at_ (withRec dataRec).cg 0).2 = true ∧ (m.at_ (withRec dataRec).cg 1).2 = false := by
  refine ⟨_, _, .vst, by decide +kernel, rfl, by unfold State.PipeFree; decide +kernel, by decide +kernel,
    clear_of (by decide +kernel) (by decide +kernel) (by decide +kernel), by decide +kernel, by decide +kernel⟩
/-- A record of the Wharf: die 0, 4-byte elements, 64 of them, at the end of the context's window of 64 KiB. -/
def wharfRec : QWord := (0x7000000000000040_022000000000FF00 : BitVec 128)
def withWharf : State := withCtx ((withRec wharfRec).updCur (fun g => (g.setV 2 0 63).setV 2 1 64)) (fun c => { c with whSize0 := 1 })
theorem witness_WharfWordsIssue : ∃ m x, MemWord (.vwop 4 2 2 .add32) m ∧ m.fits withWharf.cg.n = true
    ∧ withWharf.memView m.orders m.cRegs = some x ∧ withWharf.PipeFree (withWharf.cw.flagOf m.fl)
    ∧ m.Clear (.vwop 4 2 2 .add32) withWharf x.act (fun l _ => bankKey 0 (if l = 0 then 0xFFFC else 0xFF00))
    ∧ (m.at_ withWharf.cg 0).2 = true ∧ (m.at_ withWharf.cg 1).2 = false := by
  refine ⟨_, _, .vwop, by decide +kernel, rfl, by unfold State.PipeFree; decide +kernel,
    ⟨by decide +kernel, forLanes ?_⟩, by decide +kernel, by decide +kernel⟩
  intro l hl ha
  rw [if_pos rfl]
  revert ha; revert l; decide +kernel
/-- R182: the load and the store issue with the lane in bounds; the flag rises. -/
theorem test_vld_issue : goesTo (execVld 4 2 2 false .w32 (withRec dataRec)) (fun t =>
    decide (t.cg.ops.length = 1 ∧ (t.cg.ops.map (fun o => (o.oob, tget? o.pas 0, tget? o.pas 64))) = [(2#32, some 0x1FFFC, none)])) = true := by
  decide +kernel

/-- One active lane: its record unusable, its address not aligned, its page not allowed. -/
def oneLane (r : QWord) (idx : Word) : State := ((withRec r).updCur (fun g => g.setV 2 0 idx)).updWave (fun w => { w with en := 1 })
theorem witness_MemoryTraps : ∃ m x, MemWord (.vld 4 2 2 false .w64) m ∧ m.fits (oneLane dataRec 1).cg.n = true
    ∧ (oneLane dataRec 1).memView m.orders m.cRegs = some x ∧ x.act = 1#32 <<< 0
    ∧ recOk ((oneLane 0 0).ctx 0) ((oneLane 0 0).cg.brec 2) m.kinds m.perm = false
    ∧ recOk ((oneLane dataRec 1).ctx 0) ((oneLane dataRec 1).cg.brec 2) m.kinds m.perm = true
    ∧ (m.at_ (oneLane dataRec 1).cg 0).1 % m.align (.vld 4 2 2 false .w64) ≠ 0 ∧ m.bytes ≤ 8 := by
  refine ⟨_, _, .vld, by decide +kernel, rfl, by decide +kernel, by decide +kernel, by decide +kernel, by decide +kernel, by decide +kernel⟩
/-- A record of two words 512 bytes apart, of which the span of its two elements is in the window of 64 KiB and the second is not. -/
def windowEnd : State := withCtx (oneLane (0x7000020000000002_022000000000FE00 : BitVec 128) 1) (fun c => { c with whSize0 := 1 })
theorem witness_WharfTrap : ∃ m x, MemWord (.vldwh 4 2 2 false .w32) m ∧ windowEnd.memView m.orders m.cRegs = some x
    ∧ m.path = pathW ∧ x.act = 1#32 <<< 0 ∧ recOk (windowEnd.ctx windowEnd.cg.ctx) (windowEnd.cg.brec m.br.toNat) m.kinds m.perm = true
    ∧ (m.at_ windowEnd.cg 0).2 = true
    ∧ ((windowEnd.ctx windowEnd.cg.ctx).window (recDie (windowEnd.cg.brec m.br.toNat))).1
        + ((windowEnd.ctx windowEnd.cg.ctx).window (recDie (windowEnd.cg.brec m.br.toNat))).2 < (m.at_ windowEnd.cg 0).1 + m.bytes := by
  refine ⟨_, _, .vldwh, rfl, by decide +kernel, by decide +kernel, by decide +kernel, by decide +kernel, by decide +kernel⟩
/-- A page that only a supervisor may use. -/
def denied : State := (oneLane dataRec 0).updCore 0 (fun c => { c with tlb := [{ vpn := 1, leaf := 0x1026F }] })
theorem witness_MemoryAccess : ∃ m x, MemWord (.vld 4 2 2 false .w32) m ∧ denied.memView m.orders m.cRegs = some x
    ∧ recOk (denied.ctx 0) (denied.cg.brec 2) m.kinds m.perm = true ∧ (m.at_ denied.cg 0).1 % m.align (.vld 4 2 2 false .w32) = 0
    ∧ (m.at_ denied.cg 0).2 = true
    ∧ denied.reach denied.cg.core denied.cg.ctx (!denied.cg.sup) false .read (m.at_ denied.cg 0).1 true = (.access, denied) := by
  refine ⟨_, _, .vld, rfl, by decide +kernel, by decide +kernel, by decide +kernel, by decide +kernel⟩
/-- R163: ACCESS is cause 0x04 and ALIGN cause 0x03. -/
theorem test_memory_traps : causeOf (execVld 4 2 2 false .w32 (oneLane 0 0)) = 4
    ∧ causeOf (execVld 4 2 2 false .w64 (oneLane dataRec 1)) = 3 ∧ causeOf (execVld 4 2 2 false .w32 denied) = 4 := by decide +kernel

/-- SLD of 16 bytes at the end of the page, one word beyond it, and SATOM CAS of 64 bits in s60 to s63. -/
theorem witness_UniformMemory :
    let s := withRec ((0xF000000000004000_0200000000010000 : BitVec 128))
    let s' := withRec ((0xF000000000004000_020000000001C000 : BitVec 128))
    (60 : Nat) + umemBytes .w128 / 4 ≤ 64 ∧ recOk (s'.ctx s'.cg.ctx) (s'.cg.brec 2) [0, 4, 5, 6] recPr = true
    ∧ vaWrap (recBase (s'.cg.brec 2) + 4 * 4092) % min 16 8 = 0
    ∧ (∀ e ∈ pieces (vaWrap (recBase (s'.cg.brec 2) + 4 * 4092)) 16,
        mapsB s' s'.cg.core s'.cg.ctx (!s'.cg.sup) false .read e.2 (0x1FFF0 + 8 * e.1) = true)
    ∧ 4 * 4092 + 16 ≤ recExtent (s'.cg.brec 2) * recEz (s'.cg.brec 2)
    ∧ (60 : Nat) + atomBytes .w64 / 2 ≤ 64 ∧ (s'.ctx s'.cg.ctx).sealed 0x1FFF0 16 = false
    ∧ recOk (s.ctx s.cg.ctx) (s.cg.brec 2) [0, 6] recPa = true := by decide +kernel
theorem test_sld_issue : goesTo (execSld 4 2 .w128 4092 (withRec (0xF000000000004000_020000000001C000 : BitVec 128))) (fun t =>
    decide (t.cg.ops.map (fun o => (o.oob, o.size, o.pas)) = [(0#32, 16, [(0, 0x1FFF0), (1, 0x1FFF8)])])) = true := by decide +kernel

/-- A team with 256 bytes of scratchpad, line 1 of it absent; lane 0 at offset 124 and lane 1 at 252 or 256. -/
def spad (c : Tab Nat) (o1 : Word) : State := { on with teams := [(0, { groups := [0], spadLen := 256, cleared := c })] }.updCur
  (fun g => (g.setV 2 0 124).setV 2 1 o1)
theorem witness_Scratchpad : (spad [] 256).memView [0, 1] 0 ≠ none ∧ dstOk (spad [] 256).cg.n 4 1 = true
    ∧ (spad [] 256).PipeFree ((spad [] 256).cw.flagOf true)
    ∧ (∀ l, inMask (spad [] 256).cw.en l = true → ((spad [] 256).cg.src 2 l).toNat % min 4 8 = 0)
    ∧ ((spad [] 256).team 0).present 252 4 = true ∧ ((spad [(1, 1)] 252).team 0).present 252 4 = false := by
  refine ⟨by decide +kernel, by decide +kernel, by unfold State.PipeFree; decide +kernel, forLanes (by decide +kernel),
    by decide +kernel, by decide +kernel⟩
/-- R184, R303: an absent line parks the wave; an offset at the end of the allocation is out of bounds. -/
theorem test_vldsp : goesTo (execVldsp 4 2 false .w32 (spad [(1, 1)] 252)) (fun t => decide (t.cw.phase = .parked .presence)) = true
    ∧ goesTo (execVldsp 4 2 false .w32 (spad [] 256)) (fun t => decide (t.cg.ops.map (fun o => (o.oob, tget? o.pas 0)) =
        [(2#32, some (spadKey 0 124))])) = true := by decide +kernel
theorem test_presenceResume : goesTo (execScratchpadPresenceResume 0 0 (on.updWave (fun w => { w with phase := .parked .presence })))
    (fun t => decide (t.cw.phase = .body)) = true := by decide +kernel

/-- A load of bytes in flight, alone: lane 0 at 0x10003, whose line the L1 holds, lane 1 out of bounds. -/
def aLoad : POp := { id := 3, instr := .vld 191 2 2 false .s8, flag := some 1, act := 3, oob := 2, size := 1, unit := 1, pas := [(0, 0x10003)], vas := [(0, 0x10003)] }
def loading (o : POp) : State := (mapped.updCur (fun g => { g with ops := [o], flags := vecSet g.flags 1 1 })).updCore 0
  (fun c => { c with l1 := [(512, [0, 1, 2, 0x80])] })
/-- State.Settles from an evaluation. -/
theorem settles_of {s : State} {gid : Nat} {o : POp} (hp : o.pas.Pairwise (fun a b => a.1 < b.1))
    (h : ∀ e ∈ o.pas, mapsB s (s.group gid).core (s.group gid).ctx (!(s.group gid).sup) false
      (if instrWrites o.instr then .write else .read) (vaWrap (tget o.vas (e.1 / 64 * 64) 0 + 8 * (e.1 % 64))) e.2 = true) :
    s.Settles gid o := ⟨hp, fun e he _ => maps_of (h e he)⟩
theorem witness_Settles : (loading aLoad).Settles 0 aLoad := settles_of (by decide +kernel) (by decide +kernel)
theorem witness_LoadsComplete : (loading aLoad).MayPerform 0 aLoad ∧ ((loading aLoad).group 0).ops = [aLoad] ∧ aLoad.order = 0
    ∧ aLoad.unit = min (memBytes .s8) 8 ∧ 191 + regsOf (memBytes .s8) ≤ 192
    ∧ ∀ l, inMask aLoad.act l = true → inMask (aLoad.oob ||| aLoad.absent) l = false →
        ∃ key, aLoad.keysOf l = [key] ∧ memBytes .s8 ≤ 8 ∧ key < 2 ^ 63
          ∧ (loading aLoad).Cached ((loading aLoad).group 0).core .l1 key (memBytes .s8) 0x80
          ∧ (loading aLoad).poisoned key (memBytes .s8) = false := by
  refine ⟨by unfold State.MayPerform; decide +kernel, by decide +kernel, rfl, by decide +kernel, by decide +kernel, forLanes ?_⟩
  intro l hl ha ho
  have : l = 0 := by
    have h : ∀ l < 32, inMask aLoad.act l = true → inMask (aLoad.oob ||| aLoad.absent) l = false → l = 0 := by decide +kernel
    exact h l hl ha ho
  subst this
  exact ⟨0x10003, by decide +kernel, by decide +kernel, by norm_num, ⟨by decide +kernel, reachable_low (by decide), by decide +kernel⟩,
    by decide +kernel⟩
/-- R181: the byte 0x80 is sign-extended, the lane out of bounds gets 0, the flag falls. -/
theorem test_vld_complete : goesTo (execMemoryAccessComplete 0 3 (loading aLoad)) (fun t =>
    decide (t.cg.vreg 191 0 = 0xFFFFFF80 ∧ t.cg.vreg 191 1 = 0 ∧ t.cg.flag (some 1) = 0 ∧ t.cg.status = 1)) = true := by decide +kernel
/-- A load from the scratchpad. -/
theorem witness_SpadLoadKey : 2 ^ 64 ≤ spadKey 0 0 ∧ leNat (bytesAt ({ spad := [(4, 7)] } : Team).spad (spadKey 0 4 % 2 ^ 48) 4) = 7 := by
  decide +kernel
/-- A store of two lanes that meet at a word: the higher lane's bytes remain (R183). -/
def aStore : POp := { id := 3, instr := .vst 4 2 2 false .w32, flag := some 1, act := 3, size := 4, unit := 4
                      pas := [(0, 0x10000), (64, 0x10000)], vas := [(0, 0x10000), (64, 0x10000)], vals := [(0, 5), (64, 6)] }
theorem witness_Settles_store : (loading aStore).Settles 0 aStore ∧ ((loading aStore).drainGroup 0).stop = none :=
  ⟨settles_of (by decide +kernel) (by decide +kernel), by decide +kernel⟩
theorem witness_StoresComplete : (loading aStore).MayPerform 0 aStore ∧ ((loading aStore).group 0).ops = [aStore]
    ∧ (∀ e ∈ aStore.pas, inMask aStore.act (e.1 / 64) = true ∧ e.1 < 2048) ∧ aStore.pas.Pairwise (fun a b => a.1 < b.1)
    ∧ ∀ e ∈ aStore.pas, e.1 % 64 < 2 ∧ e.2 < 2 ^ 63 ∧ (loading aStore).Reachable e.2 aStore.unit ∧ (loading aStore).unreachable e.2 = false := by
  refine ⟨by unfold State.MayPerform; decide +kernel, by decide +kernel, by decide +kernel, by decide +kernel, ?_⟩
  intro e he
  have he' : e ∈ [(0, 0x10000), (64, 0x10000)] := he
  fin_cases he' <;> exact ⟨by decide, by decide, reachable_low (by decide), by decide +kernel⟩
theorem test_vst_complete : goesTo (execMemoryAccessComplete 0 3 (loading aStore)) (fun t =>
    decide (t.homeNat 0x10000 8 = 6 ∧ t.cg.flag (some 1) = 0 ∧ t.cg.ops = [])) = true := by decide +kernel
/-- The same store behind an earlier one to the next word, in a group alone on its core. -/
def firstStore : POp := { id := 2, instr := .vst 4 2 2 false .w32, flag := some 1, act := 1, size := 4, unit := 4
                          pas := [(0, 0x10004)], vas := [(0, 0x10004)], vals := [(0, 7)] }
def twoStores : State := (loading aStore).updCur (fun g => { g with ops := [firstStore, aStore], flags := vecSet g.flags 1 2 })
theorem witness_StoreAhead : (twoStores.group 0).ops = [firstStore, aStore] ∧ twoStores.aloneOnCore 0 = true ∧ twoStores.stop = none
    ∧ shareByte firstStore aStore = false ∧ (twoStores.drainGroup 0).stop = none
    ∧ (∀ x ∈ [firstStore, aStore], ∀ e ∈ x.pas, inMask x.act (e.1 / 64) = true ∧ e.1 < 2048)
    ∧ (∀ x ∈ [firstStore, aStore], ∀ e ∈ x.pas, e.1 % 64 < 2 ∧ e.2 < 2 ^ 49 ∧ twoStores.unreachable e.2 = false
        ∧ e.2 % 2 ^ 48 + x.unit ≤ 45 * 2 ^ 30 ∧ e.2 / 2 ^ 48 < 2) := by
  refine ⟨by decide +kernel, by decide +kernel, by decide +kernel, by decide +kernel, by decide +kernel, by decide +kernel, ?_⟩
  decide +kernel
theorem witness_StoreAhead_settles : twoStores.Settles 0 aStore := settles_of (by decide +kernel) (by decide +kernel)
/-- R290, R339: the later store is at its home, the earlier one is not and stays in flight; its own turn takes it there. -/
theorem test_storeAhead : goesTo (execMemoryAccessComplete 0 3 twoStores) (fun t =>
    decide (t.homeNat 0x10000 8 = 6 ∧ t.cg.ops = [{ firstStore with lag := true }]) && goesTo (execMemoryAccessComplete 0 2 t) (fun u =>
      decide (u.homeNat 0x10000 8 = 7 * 2 ^ 32 + 6 ∧ u.lagging 0 = false))) = true := by decide +kernel

/-! ### What the other memory operations deliver -/

theorem witness_LaneReads : (loading aLoad).LaneReads 0 aLoad 0 0x80 :=
  ⟨[(0x10003, 0x80)], by decide +kernel, by decide +kernel, fun e he => by
    rw [List.mem_singleton.mp he]
    unfold State.PieceIs
    rw [if_neg (by decide +kernel), if_neg (by decide +kernel)]
    exact ⟨by decide +kernel, by decide +kernel, reachable_low (by decide +kernel), by decide +kernel⟩⟩
/-- Loads of the wave from memory, of lane 0 from the scratchpad and from the Wharf. -/
def aSld : POp := { id := 3, instr := .sld 4 2 .w32 0, flag := some 1, act := 1, size := 4, unit := 4, pas := [(0, 0x10000)], vas := [(0, 0x10000)] }
def aVldsp : POp := { id := 3, instr := .vldsp 4 2 false .w32, flag := some 1, act := 1, size := 4, unit := 4, pas := [(0, spadKey 0 124)] }
def aVldwh : POp := { id := 3, instr := .vldwh 4 2 2 false .w32, flag := some 1, act := 1, size := 4, unit := 4, pas := [(0, bankKey 0 0x40)] }
/-- Stores of lane 0 there, an atomic of 16 bytes, SATOM, and operations on one element of the Wharf. -/
def aVstsp : POp := { aVldsp with instr := .vstsp 4 2 false .w32, vals := [(0, 9)] }
def aSstsp : POp := { aVldsp with instr := .sstsp 4 2 .w32 0, vals := [(0, 9)] }
def aVstwh : POp := { aVldwh with instr := .vstwh 4 2 2 false .w32, vals := [(0, 9)] }
def aCas128 : POp := { id := 3, instr := .vcas128 4 2 2, flag := some 1, act := 1, size := 16, unit := 16, pas := [(0, 0x10010)], vas := [(0, 0x10010)]
                       vals := [(0, 2 ^ 127 + 3), (1, 0)] }
def aSatom : POp := { id := 3, instr := .satom .cas 2 .w64 4 0, flag := some 1, act := 1, size := 8, unit := 8, pas := [(0, 0x10008)], vas := [(0, 0x10008)]
                      vals := [(0, 5), (1, 0)] }
def aVwop (p : Wop) : POp :=
  if p = .add32 then
    { aVldwh with instr := .vwop 4 2 2 p, act := 3, pas := [(0, bankKey 0 0x40), (64, bankKey 0 0x40)], vals := [(0, 9), (64, 1)] }
  else { aVldwh with instr := .vwop 4 2 2 p, vals := [(0, 0x3C003C00)] }
def aPosted : POp := { aVldwh with instr := .vwopPosted 2 2 .add32, vals := [(0, 9)] }
def local_ (o : POp) : State := { loading o with teams := [(0, { groups := [0], spadLen := 256, spad := putBytes [] 124 (natLe 4 7) })]
                                                 wharf := putBytes [] (wharfKey 0 0x40) (natLe 4 6) }
theorem witness_LocalReads : (local_ aVldsp).LaneReads 0 aVldsp 0 7 ∧ (local_ aVldwh).LaneReads 0 aVldwh 0 6 := by
  refine ⟨⟨[(spadKey 0 124, 7)], by decide +kernel, by decide +kernel, fun e he => ?_⟩,
    ⟨[(bankKey 0 0x40, 6)], by decide +kernel, by decide +kernel, fun e he => ?_⟩⟩ <;> rw [List.mem_singleton.mp he] <;> unfold State.PieceIs
  · rw [if_pos (by decide +kernel)]; decide +kernel
  · rw [if_neg (by decide +kernel), if_pos (by decide +kernel)]; decide +kernel
theorem witness_SldReads : (loading aSld).LaneReads 0 aSld 0 0x80020100 :=
  ⟨[(0x10000, 0x80020100)], by decide +kernel, by decide +kernel, fun e he => by
    rw [List.mem_singleton.mp he]
    unfold State.PieceIs
    rw [if_neg (by decide +kernel), if_neg (by decide +kernel)]
    exact ⟨by decide +kernel, by decide +kernel, reachable_low (by decide +kernel), by decide +kernel⟩⟩
theorem settles_local {s : State} {gid : Nat} {o : POp} (hp : o.pas.Pairwise (fun a b => a.1 < b.1))
    (h : ∀ e ∈ o.pas, 2 ^ 15 ≤ e.2 / 2 ^ 48) : s.Settles gid o := ⟨hp, fun e he hk => absurd hk (by have := h e he; omega)⟩
theorem witness_LocalSettles : (local_ aVstsp).Settles 0 aVstsp ∧ (local_ aVstwh).Settles 0 aVstwh ∧ (local_ (aVwop .add32)).Settles 0 (aVwop .add32)
    ∧ (loading aSld).Settles 0 aSld ∧ (loading aCas128).Settles 0 aCas128 ∧ (loading aSatom).Settles 0 aSatom :=
  ⟨settles_local (by decide +kernel) (by decide +kernel), settles_local (by decide +kernel) (by decide +kernel),
   settles_local (by decide +kernel) (by decide +kernel), settles_of (by decide +kernel) (by decide +kernel),
   settles_of (by decide +kernel) (by decide +kernel), settles_of (by decide +kernel) (by decide +kernel)⟩
theorem witness_LocalPerform : (local_ aVldsp).MayPerform 0 aVldsp ∧ (local_ aVldwh).MayPerform 0 aVldwh ∧ (local_ aVstsp).MayPerform 0 aVstsp
    ∧ (local_ aSstsp).MayPerform 0 aSstsp ∧ (local_ aVstwh).MayPerform 0 aVstwh ∧ (local_ (aVwop .add32)).MayPerform 0 (aVwop .add32)
    ∧ (local_ (aVwop .faddh2)).MayPerform 0 (aVwop .faddh2) ∧ (local_ aPosted).MayPerform 0 aPosted := by
  unfold State.MayPerform; decide +kernel
theorem witness_AtomsPerform : (loading aSld).MayPerform 0 aSld ∧ (loading aCas128).MayPerform 0 aCas128 ∧ (loading aSatom).MayPerform 0 aSatom
    ∧ aSld.size = umemBytes .w32 ∧ ((loading aSatom).drainGroup 0).stop = none := by
  unfold State.MayPerform; decide +kernel
theorem witness_AtomWord : AtomWord aCas128.instr 4 .cas 16 ∧ aCas128.Fits 16 ∧ aSatom.Fits 8 ∧ (aVwop .faddh2).Fits (wopBytes .faddh2)
    ∧ (loading aCas128).AtomKey 0x10010 16 ∧ (loading aSatom).AtomKey 0x10008 8 := by
  refine ⟨.vcas128, by unfold POp.Fits; decide +kernel, by unfold POp.Fits; decide +kernel, by unfold POp.Fits; decide +kernel, ?_, ?_⟩ <;>
    exact ⟨by decide, by norm_num, reachable_low (by decide), by decide +kernel⟩
theorem witness_WharfElement : 0x40 % wopBytes .add32 = 0 ∧ 0x40 + wopBytes .add32 ≤ wharfBytes
    ∧ tget? (aVwop .add32).pas 64 = some (bankKey 0 0x40) ∧ (local_ (aVwop .add32)).wharfBad 0 0x40 4 = false
    ∧ (lanesOf (aVwop .faddh2).act).length ≤ 1 ∧ ∃ off, off + 4 ≤ 2 ^ 40 ∧ (spadKey 0 124) = spadKey 0 off := by
  refine ⟨by decide +kernel, by decide +kernel, by decide +kernel, by decide +kernel, by decide +kernel, 124, by norm_num, rfl⟩
/-- R184, R182, R187: the loads deliver, the stores write, CAS of 16 bytes and of 8 swaps; R189: the second lane's sum follows the
first's; FADDH2 of 1 to the halves of 6, of which the upper is +0. -/
theorem test_local : goesTo (execMemoryAccessComplete 0 3 (local_ aVldsp)) (fun t => decide (t.cg.vreg 4 0 = 7)) = true
    ∧ goesTo (execMemoryAccessComplete 0 3 (local_ aVldwh)) (fun t => decide (t.cg.vreg 4 0 = 6)) = true
    ∧ goesTo (execMemoryAccessComplete 0 3 (local_ aVstsp)) (fun t => decide (leNat (bytesAt (t.team 0).spad 124 4) = 9)) = true
    ∧ goesTo (execMemoryAccessComplete 0 3 (local_ aSstsp)) (fun t => decide (leNat (bytesAt (t.team 0).spad 124 4) = 9)) = true
    ∧ goesTo (execMemoryAccessComplete 0 3 (local_ aVstwh)) (fun t => decide (t.wharfNat 0 0x40 4 = 9)) = true
    ∧ goesTo (execMemoryAccessComplete 0 3 (loading aSld)) (fun t => decide (t.cg.sreg 4 = 0x80020100)) = true := by decide +kernel
theorem test_atoms : goesTo (execMemoryAccessComplete 0 3 (loading aCas128)) (fun t => decide (t.homeNat 0x10010 16 = 2 ^ 127 + 3 ∧ t.cg.vreg 7 0 = 0)) = true
    ∧ goesTo (execMemoryAccessComplete 0 3 (loading aSatom)) (fun t => decide (t.homeNat 0x10008 8 = 5 ∧ t.cg.sreg 4 = 0)) = true
    ∧ goesTo (execMemoryAccessComplete 0 3 (local_ (aVwop .add32))) (fun t => decide (t.wharfNat 0 0x40 4 = 16 ∧ t.cg.vreg 4 0 = 6 ∧ t.cg.vreg 4 1 = 15)) = true
    ∧ goesTo (execMemoryAccessComplete 0 3 (local_ aPosted)) (fun t => decide (t.wharfNat 0 0x40 4 = 15)) = true
    ∧ goesTo (execMemoryAccessComplete 0 3 (local_ (aVwop .faddh2))) (fun t => decide (t.wharfNat 0 0x40 4 / 2 ^ 16 = 0x3C00 ∧ t.cg.vreg 4 0 = 6)) = true := by
  decide +kernel


/-! ### Atomics, functions, LOD words, fences, range words -/

/-- VATOM ADD of lanes 0 to 2 in flight: lanes 0 and 1 at one word, lane 2 out of bounds. -/
def anAdd : POp := { id := 3, instr := .vatom 191 2 2 .add, flag := some 1, act := 7, oob := 4, size := 4, unit := 4
                     pas := [(0, 0x10004), (64, 0x10004)], vas := [(0, 0x10004), (64, 0x10004)], vals := [(0, 5), (64, 6)] }
theorem witness_Settles_atomic : (loading anAdd).Settles 0 anAdd := settles_of (by decide +kernel) (by decide +kernel)
theorem witness_AtomicAdds : (loading anAdd).MayPerform 0 anAdd ∧ ((loading anAdd).group 0).ops = [anAdd] ∧ (191#8).toNat < 192
    ∧ ∀ l < 32, inMask anAdd.act l = true → (inMask anAdd.oob l = true ∧ tget? anAdd.pas (l * 64) = none)
        ∨ (inMask anAdd.oob l = false ∧ ∃ key, tget? anAdd.pas (l * 64) = some key ∧ (loading anAdd).AtomKey key 4) := by
  refine ⟨by unfold State.MayPerform; decide +kernel, by decide +kernel, by decide, ?_⟩
  intro l hl ha
  have h : ∀ l < 32, inMask anAdd.act l = true → (inMask anAdd.oob l = true ∧ tget? anAdd.pas (l * 64) = none)
      ∨ (inMask anAdd.oob l = false ∧ tget? anAdd.pas (l * 64) = some 0x10004) := by decide +kernel
  refine (h l hl ha).imp id (fun ⟨a, b⟩ => ⟨a, 0x10004, b, by decide, by norm_num, reachable_low (by decide), by decide +kernel⟩)
/-- R73: memory gains both operands; lane 1 receives the old value with lane 0's operand. -/
theorem test_vatom_complete : goesTo (execMemoryAccessComplete 0 3 (loading anAdd)) (fun t =>
    decide (t.homeNat 0x10004 4 = 11 ∧ t.cg.vreg 191 0 = 0 ∧ t.cg.vreg 191 1 = 5 ∧ t.cg.vreg 191 2 = 0)) = true := by decide +kernel

theorem witness_Vfx : dstOk on.cg.n 191 1 = true ∧ srcOk on.cg.n 2 1 = true
    ∧ on.laneView { rm := true, sat := true, mods := true } 191 ≠ none
    ∧ on.laneView { rm := false, sat := true, mods := true } 191 ≠ none ∧ on.cg.flag (on.cw.flagOf false) < 63 := by decide +kernel
/-- VFX in flight: lane 0 active, lane 1 masked under z. -/
def aVfx (f : XFn) (v : Nat) : POp := { id := 3, instr := .vfx 4 2 f, flag := some 1, act := 1, zero := 2, vals := [(0, v)], args := [0, 0] }
theorem witness_VfxComplete : ((loading (aVfx .sqrt 0)).group 0).op? 3 = some (aVfx .sqrt 0)
    ∧ (aVfx .sqrt 0).act &&& (aVfx .sqrt 0).zero = 0#32 := by decide +kernel
/-- R142: the square root of 2 rounds to 0x3FB504F3; the masked lane is zeroed; the flag falls. -/
theorem test_vfx_complete : goesTo (execVfxComplete 0 3 ((loading (aVfx .sqrt 0x40000000)).updCur (fun g => g.setV 4 1 9))) (fun t =>
    decide (t.cg.vreg 4 0 = 0x3FB504F3 ∧ t.cg.vreg 4 1 = 0 ∧ t.cg.flag (some 1) = 0)) = true := by decide +kernel
theorem test_vfx_issue : goesTo (execVfx 4 2 .rcp on) (fun t => decide (t.cg.ops.length = 1)) = true := by decide +kernel

/-- An image of one level of 8 × 8 F32X1 texels at VA 0x10000 (R175). -/
def imageRec : QWord := (0x0000000000070007_0010000000010000 : BitVec 128)
theorem witness_LodWord : LodWord (.vsmp 4 8 2 true) 4 8 2 true 5 3 [1] (fun _ => true) true
    ∧ dstOk (withRec imageRec).cg.n 187 5 = true ∧ srcOk (withRec imageRec).cg.n 189 3 = true
    ∧ (withRec imageRec).memView [0] 0 ≠ none ∧ (withRec imageRec).PipeFree ((withRec imageRec).cw.flagOf true)
    ∧ recOk ((withRec imageRec).ctx (withRec imageRec).cg.ctx) ((withRec imageRec).cg.brec 2) [1] (fun _ => true) = true
    ∧ recOk ((withRec dataRec).ctx 0) ((withRec dataRec).cg.brec 2) [0, 4, 5, 6] (fun b => recPr b || recPw b || recPs b) = true
    ∧ (withRec dataRec).AlignedLanes 2 2 (memBytes .w32) (withRec dataRec).cw.en
    ∧ recOk ((withRec 0).ctx 0) ((withRec 0).cg.brec 2) [0, 4, 5, 6] recPr = false := by
  refine ⟨.vsmp, by decide +kernel, by decide +kernel, by decide +kernel, by unfold State.PipeFree; decide +kernel, by decide +kernel,
    by decide +kernel, forLanes (by decide +kernel), by decide +kernel⟩
theorem test_lod_issue : goesTo (execVldl 4 8 2 false (withRec imageRec)) (fun t => decide (t.cg.ops.map (·.recd) = [imageRec])) = true
    ∧ causeOf (execVldl 4 8 2 false (withRec dataRec)) = 4 := by decide +kernel
/-- The same image with its residency map behind it at VA 0x10100; the texel (1, 0) is 1.0; path S holds both lines. -/
def mappedRec : QWord := (0x0000004000070007_0010000000010000 : BitVec 128)
def anLod (i : Instr) (x y r : Nat) : POp := { id := 3, instr := i, flag := some 1, act := 1, recd := mappedRec, vals := [(0, x), (1, y), (2, r)] }
def sampling (o : POp) : State :=
  let s := { loading o with mem := putBytes [] 0x10004 (natLe 4 0x3F800000) }
  s.updCore 0 (fun c => { c with sampler := [(512, s.homeBytes 0x10000 128), (514, s.homeBytes 0x10100 128)] })
theorem sampler_of {s : State} {gid va n v : Nat}
    (h : (mapsB s (s.group gid).core (s.group gid).ctx (!(s.group gid).sup) true .read va va
      && (linesOf va n).all (fun l => decide (tget? ((s.core (s.group gid).core).cache .sampler) l = some (s.homeBytes (l * 128) 128)))
      && decide (va + n ≤ 2 ^ 20) && decide (v = leNat ((List.range n).map (fun i => s.cachedByte (s.group gid).core .sampler (va + i))))
      && !s.poisoned va n) = true) : s.SamplerShows gid va n v := by
  simp only [Bool.and_eq_true, decide_eq_true_eq, Bool.not_eq_true', List.all_eq_true] at h
  obtain ⟨⟨⟨⟨h1, h2⟩, h3⟩, h4⟩, h5⟩ := h
  exact ⟨va, maps_of h1, ⟨fun l hl => ⟨by rw [h2 l hl]; rfl, fun _ => h2 l hl⟩, reachable_low h3, h4⟩, h5⟩
/-- VLDL of texel (1, 0), VSMP at its centre, and VLDL beyond the image. -/
def aVldl : POp := anLod (.vldl 4 8 2 false) 1 0 0
def aVsmp : POp := anLod (.vsmp 4 8 2 false) 0x3E400000 0x3D800000 0
theorem witness_LodReady : (sampling aVldl).LodReady 0 aVldl 0 4 ∧ (sampling aVsmp).LodReady 0 aVsmp 0 4
    ∧ imgW mappedRec 0 ≤ tget (anLod (.vldl 4 8 2 false) 8 0 0).vals 0 0 ∧ (1 : Nat) < imgW mappedRec 0 := by
  unfold State.LodReady State.MayPerform; decide +kernel
theorem witness_LodShows : (sampling aVldl).MapShows 0 mappedRec (min (1 * 2 ^ 0) (imgW mappedRec 0 - 1)) (min (0 * 2 ^ 0) (imgH mappedRec 0 - 1)) 0 0
    ∧ (sampling aVldl).SamplerShows 0 (texelVa mappedRec 0 1 0) (texBytes (imgFmt mappedRec)) 0x3F800000
    ∧ (sampling aVsmp).MapShows 0 mappedRec 1 0 0 0
    ∧ ∀ q < 4, (sampling aVsmp).SamplerShows 0 (texelVa mappedRec 0 (1 + q % 2) (q / 2)) (texBytes (imgFmt mappedRec)) (if q = 0 then 0x3F800000 else 0) := by
  refine ⟨⟨sampler_of (by decide +kernel), sampler_of (by decide +kernel)⟩, sampler_of (by decide +kernel),
    ⟨sampler_of (by decide +kernel), sampler_of (by decide +kernel)⟩, fun q hq => ?_⟩
  interval_cases q <;> exact sampler_of (by decide +kernel)
/-- The point that VSMP asks for is the centre of texel (1, 0), whose weights are 1 and 0. -/
theorem witness_SamplePoint : let u := prepCoord (fp32.decode 0x3E400000)
    let v := prepCoord (fp32.decode 0x3D800000)
    lodLevel (fp32.decode 0) (imgMips mappedRec) = 0 ∧ Ratio.floor (texCoord u 8) = 1 ∧ Ratio.floor (texCoord v 8) = 0
    ∧ clampTo (Ratio.floor (u.1 * (8 : Int), u.2)) 8 = 1 ∧ clampTo (Ratio.floor (v.1 * (8 : Int), v.2)) 8 = 0 := by decide +kernel
/-- R190: VLDL delivers the texel, VSMP at its centre the same, and a point beyond the image 0 with status bit 7. -/
theorem test_lod : goesTo (execMemoryAccessComplete 0 3 (sampling aVldl)) (fun t => decide (t.cg.vreg 4 0 = 0x3F800000 ∧ t.cg.vreg 8 0 = 0)) = true
    ∧ goesTo (execMemoryAccessComplete 0 3 (sampling aVsmp)) (fun t => decide (t.cg.vreg 4 0 = 0x3F800000)) = true
    ∧ goesTo (execMemoryAccessComplete 0 3 (sampling (anLod (.vldl 4 8 2 false) 8 0 0))) (fun t => decide (t.cg.vreg 4 0 = 0 ∧ t.cg.vreg 8 0 = 128)) = true := by
  decide +kernel
theorem witness_Prefetch : ∀ j, inMask (withRec dataRec).cw.en j = true →
    (laneOffset ((withRec dataRec).cg.brec 2) ((withRec dataRec).cg.src 2 j).toNat 1).2 = true →
    ((withRec dataRec).ctx 0).sealed (vaWrap (recBase ((withRec dataRec).cg.brec 2)
        + (laneOffset ((withRec dataRec).cg.brec 2) ((withRec dataRec).cg.src 2 j).toNat 1).1)) 1 = false
    ∧ (withRec dataRec).Maps 0 0 true false .read (vaWrap (recBase ((withRec dataRec).cg.brec 2)
        + (laneOffset ((withRec dataRec).cg.brec 2) ((withRec dataRec).cg.src 2 j).toNat 1).1))
      (if j = 0 then 0x1FFFC else 0x10000) := by
  have h : ∀ j < 32, inMask (withRec dataRec).cw.en j = true →
    (laneOffset ((withRec dataRec).cg.brec 2) ((withRec dataRec).cg.src 2 j).toNat 1).2 = true →
    ((withRec dataRec).ctx 0).sealed (vaWrap (recBase ((withRec dataRec).cg.brec 2)
        + (laneOffset ((withRec dataRec).cg.brec 2) ((withRec dataRec).cg.src 2 j).toNat 1).1)) 1 = false
    ∧ mapsB (withRec dataRec) 0 0 true false .read (vaWrap (recBase ((withRec dataRec).cg.brec 2)
        + (laneOffset ((withRec dataRec).cg.brec 2) ((withRec dataRec).cg.src 2 j).toNat 1).1))
      (if j = 0 then 0x1FFFC else 0x10000) = true := by decide +kernel
  exact forLanes (fun j hj ha hb => ⟨(h j hj ha hb).1, maps_of (h j hj ha hb).2⟩)
/-- R194: PGREQ takes the page of its address and at most 256 pages. -/
theorem test_pgreq_issue : goesTo (execPgreq 1 2 4 ((withRec dataRec).updCur (fun g => (g.setS 2 0x12345).setS 4 1000))) (fun t =>
    decide (t.cg.ops.map (fun o => (o.arg 0, o.arg 1)) = [(0x10000, 256)])) = true := by decide +kernel
/-- VPGREQ in flight: lane 0 at a present page, lane 1 at one without an entry, lane 2 out of bounds. -/
def aPgreq : POp := { id := 3, instr := .vpgreq 191 2 2 false .w32, flag := some 1, act := 7, oob := 4, vals := [(0, 0x10000), (64, 0x50000), (128, 0)] }
theorem witness_VpgreqComplete : (loading aPgreq).MayPerform 0 aPgreq ∧ ∀ j < 32, inMask aPgreq.act j = true →
      (inMask aPgreq.oob j = true ∧ 4 = 4)
      ∨ (inMask aPgreq.oob j = false ∧ (loading aPgreq).translate 0 0 false (tget aPgreq.vals (j * 64) 0) = (none, loading aPgreq))
      ∨ (inMask aPgreq.oob j = false ∧ ∃ e, pteP e.leaf = true ∧
          (loading aPgreq).translate 0 0 false (tget aPgreq.vals (j * 64) 0) = (some e, loading aPgreq)) := by
  refine ⟨by unfold State.MayPerform; decide +kernel, ?_⟩
  intro j hj ha
  have h : ∀ j < 32, inMask aPgreq.act j = true → (inMask aPgreq.oob j = true ∧ 4 = 4)
      ∨ (inMask aPgreq.oob j = false ∧ (loading aPgreq).translate 0 0 false (tget aPgreq.vals (j * 64) 0) = (none, loading aPgreq))
      ∨ (inMask aPgreq.oob j = false ∧ pteP page1.leaf = true ∧
          (loading aPgreq).translate 0 0 false (tget aPgreq.vals (j * 64) 0) = (some page1, loading aPgreq)) := by decide +kernel
  exact (h j hj ha).imp id (Or.imp id (fun ⟨a, b⟩ => ⟨a, page1, b⟩))
/-- R193: the codes of a present page, a page without an entry, and a lane out of bounds. -/
theorem test_vpgreq_complete : goesTo (execMemoryAccessComplete 0 3 (loading aPgreq)) (fun t =>
    decide (t.cg.vreg 191 0 = 0 ∧ t.cg.vreg 191 1 = 5 ∧ t.cg.vreg 191 2 = 4)) = true := by decide +kernel

theorem witness_Fence : on.PipeFree (on.cw.flagOf false) ∧ (5#3).toNat ≤ 5 ∧ (6#3).toNat > 5 ∧ (64#7) ≠ 0
    ∧ (on.updCur (fun g => { g with fence := some 3 })).cg.fence ≠ none ∧ (60#6).toNat + umemBytes .w128 / 4 ≤ 64 := by
  unfold State.PipeFree; decide +kernel
/-- A group with a FENCE in flight, and words of both pipes. -/
theorem witness_PipeWord : let s := on.updCur (fun g => { g with fence := some 3 })
    s.Enabled ∧ PipeWord s (.sst 4 2 .w128 0) ∧ PipeWord s (.satom .cas 2 .w64 60 0) ∧ PipeWord s (.accz 5 false)
    ∧ PipeWord s (.accmap 5 0 0 .tanh false) ∧ PipeWord s (.cpyg 53) ∧ PipeWord s (.vldsp 191 2 false .w32) := by
  refine ⟨by unfold State.Enabled; decide +kernel, .sst (by decide), .satom (by decide) (by decide), .accz, .accmap (by decide) (by decide),
    .cpyg (by decide), .vldsp (by decide +kernel) (by decide +kernel) rfl⟩
theorem test_fenceHolds : goesTo (execAccz 5 false (on.updCur (fun g => { g with fence := some 3 }))) (fun t => decide (t.cw.idx = 0 ∧ t.cg.ops = [])) = true
    ∧ goesTo (execSst 4 2 .w128 0 (on.updCur (fun g => { g with fence := some 3 }))) (fun t => decide (t.cw.idx = 0 ∧ t.cg.ops = [])) = true := by
  decide +kernel
/-- A FENCE that acquires for paths L and S at die scope, alone and after a load of path L. -/
def aFence : POp := { id := 7, instr := .fence 3 0 1 3, flag := some 1 }
def fencing (ops : List POp) : State := (loading aFence).updCur (fun g => { g with ops := ops ++ [aFence], fence := some 7 })
theorem witness_FenceComplete : ((fencing []).group 0).op? 7 = some aFence
    ∧ (((fencing []).group 0).earlier aFence).any (fenceWaits 0 1) = false
    ∧ (((fencing [aLoad]).group 0).earlier aFence).any (fenceWaits 0 1) = true
    ∧ (fencing []).walksOn [0] = false ∧ ((fencing []).drainGroup 0).stop = none
    ∧ (fencing [{ instr := .vtrav 4 0 2 false 0, walks := [(0, {})] }]).walksOn [0] = true := by decide +kernel
/-- R293: the L1 is emptied and the fence is over; with a load on a source path in flight it waits. -/
theorem test_fenceComplete : goesTo (execFenceComplete 0 7 (fencing [])) (fun t => decide ((t.core 0).l1 = [] ∧ t.cg.fence = none)) = true
    ∧ goesTo (execFenceComplete 0 7 (fencing [aLoad])) (fun t => decide (t.cg.fence = some 7)) = true
    ∧ causeOf (execFence 3 0 0 3 on) = 1 := by decide +kernel

/-- s2 and s3 name VA 0x10000 or another, s4 the length. -/
def ranged (va len : Word) : State := withCtx ((withRec dataRec).updCur (fun g => (g.setS 2 va).setS 4 len)) (fun c => { c with seals := [(0x20000, 0x10000)] })
theorem witness_Seal : (62#6).toNat < 63
    ∧ ((ranged 0x10000 0x10000).cg.spair 2).toNat % 2 ^ 52 = 0x10000 ∧ ((ranged 0x10000 0x10000).cg.sreg 4).toNat = 0x10000
    ∧ (0x20000, 0x10000) ∈ ((ranged 0x20000 0x10000).ctx 0).seals ∧ (0x10000, 0x10000) ∉ ((ranged 0x10000 0x10000).ctx 0).seals
    ∧ (∀ i < 0x10000 / 2 ^ 16, (ranged 0x10000 0x10000).translate 0 0 false (vaWrap (0x10000 + i * 2 ^ 16)) = (some page1, ranged 0x10000 0x10000)
        ∧ pteW page1.leaf = true)
    ∧ (((ranged 0x10000 0x10000).ctx 0).seals ++ ((ranged 0x10000 0x10000).ctx 0).sealing).length < 32
    ∧ ∀ r ∈ ((ranged 0x10000 0x10000).ctx 0).seals ++ ((ranged 0x10000 0x10000).ctx 0).sealing, r.1 + r.2 ≤ 0x10000 ∨ 0x10000 + 0x10000 ≤ r.1 := by
  decide +kernel
/-- R197, R163: a length that is not whole pages traps RANGEALIGN, cause 0x11; an UNSEAL of no seal ACCESS. -/
theorem test_seal : causeOf (execSealPages 2 4 (ranged 0x10000 0x8000)) = 0x11 ∧ causeOf (execUnsealPages 2 4 (ranged 0x10000 0x10000)) = 4
    ∧ goesTo (execSealPages 2 4 (ranged 0x10000 0x10000)) (fun t => decide ((t.ctx 0).sealing = [(0x10000, 0x10000)])) = true := by decide +kernel
def aSeal (i : Instr) : POp := { id := 3, instr := i, flag := some 1, args := [0x20000, 0x10000] }
def sealing (i : Instr) : State := withCtx (loading (aSeal i)) (fun c => { c with seals := if i = .unsealPages 2 4 then [(0x20000, 0x10000)] else [], sealing := [(0x20000, 0x10000)] })
/-- A store of another group to the range has not performed. -/
def sealingBusy : State :=
  let g : Machine.Group := { ops := [{ id := 1, instr := .vst 4 2 2 false .w32, size := 4, pas := [(0, 0x20000)], vas := [(0, 0x20000)] }] }
  { sealing (.sealPages 2 4) with groups := tset (sealing (.sealPages 2 4)).groups 1 g }
theorem witness_SealComplete : ((sealing (.sealPages 2 4)).group 0).op? 3 = some (aSeal (.sealPages 2 4))
    ∧ (sealing (.sealPages 2 4)).groups.any (fun e => sealWaits 0 0x20000 0x10000 3 e.2) = false
    ∧ sealingBusy.groups.any (fun e => sealWaits 0 0x20000 0x10000 3 e.2) = true
    ∧ ((sealing (.unsealPages 2 4)).pageKeys 0 0 0x20000 1).2.stop = none := by decide +kernel
theorem test_sealComplete : goesTo (execSealComplete 0 3 (sealing (.sealPages 2 4))) (fun t =>
      decide ((t.ctx 0).seals = [(0x20000, 0x10000)] ∧ (t.ctx 0).sealing = [])) = true
    ∧ goesTo (execUnsealComplete 0 3 (sealing (.unsealPages 2 4))) (fun t => decide ((t.ctx 0).seals = [])) = true := by decide +kernel

/-- The record in b2 made discardable (kind 6), offset and length in s2 and s4. -/
def discardRec : QWord := (0xF000000000004000_0260000000010000 : BitVec 128)
def cinvOn (off len : Word) : State := (withRec discardRec).updCur (fun g => (g.setS 2 off).setS 4 len)
theorem witness_Cinv : let s := cinvOn 0xFFC0 64
    0xFFC0 + 64 ≤ recExtent (s.cg.brec 2) * recEz (s.cg.brec 2) ∧ (0x10000 + 0xFFC0) / 2 ^ 16 = (0x10000 + 0xFFC0 + 64 - 1) / 2 ^ 16
    ∧ recOk (s.ctx s.cg.ctx) (s.cg.brec 2) [6] recPw = true ∧ (s.ctx s.cg.ctx).sealed 0x1FFC0 1 = false
    ∧ mapsB s s.cg.core s.cg.ctx (!s.cg.sup) false .write 0x1FFC0 0x1FFC0 = true
    ∧ recOk ((withRec dataRec).ctx 0) ((withRec dataRec).cg.brec 2) [0, 5, 6] recPr = true
    ∧ ((cinvOn 0xFFC0 33).cg.sreg 4).toNat % 32 ≠ 0 := by decide +kernel
theorem test_cinv : causeOf (execCinv 2 4 2 (cinvOn 0xFFC0 33)) = 0x11
    ∧ goesTo (execCinv 2 4 2 (cinvOn 0xFFC0 64)) (fun t => decide (t.cg.ops.map (·.pas) = [[(0, 0x1FFC0)]])) = true := by decide +kernel
/-- CINV or CWB of one atom in flight with a dirty byte in the L2 inside the range and one beyond. -/
def aRange (i : Instr) : POp := { id := 3, instr := i, flag := some 1, pas := [(0, 0x10000)], vals := [(0, 32)] }
def dirtying (i : Instr) : State := { loading (aRange i) with l2 := [(0x1001F, 5), (0x10020, 6)] }
theorem witness_CinvComplete : ((dirtying (.cinv 2 4 2)).group 0).op? 3 = some (aRange (.cinv 2 4 2)) ∧ rising (dirtying (.cinv 2 4 2)).l2
 := by unfold rising; decide +kernel
theorem test_cinvComplete : goesTo (execCinvComplete 0 3 (dirtying (.cinv 2 4 2))) (fun t =>
      decide (t.homeByte 0x1001F = 0 ∧ t.homeByte 0x10020 = 6)) = true
    ∧ goesTo (execCwbComplete 0 3 (dirtying (.cwb 2 4 2))) (fun t => decide (byteAt t.mem 0x1001F = 5 ∧ t.l2 = [(0x10020, 6)])) = true := by
  decide +kernel

/-! ### The matrix engine -/

/-- A team with a tile of 32 × 16 FP32 in a5, chambers of W8-H in h1, slots BF16, W8-H and F32. -/
def tile5 : Tile := { base := 0, rows := 32, cols := 16 }
def engineOn (y x : Word) : State :=
  let s := (withRec dataRec).updCur (fun g => ((({ g with a := vecSet g.a 5 (some tile5) }.setS 2 y).setS 1 x)))
  { s with
    teams := [(0, { groups := [0], spadLen := 65536, accLen := 4096, reserved := 2
                    h := vecSet (Vector.replicate 32 none) 1 (some 3)
                    chambers := [(3, { count := 1, fmt := 12, kBlocks := 1, cols := 16, loaded := true })] })]
    grids := tset s.grids s.cg.grid { lr := { fs := vecSet (vecSet (vecSet (Vector.replicate 8 0) 0 2) 1 12) 2 18 } } }
/-- MMA's rows of 48 bytes end with the scratchpad. -/
theorem witness_Mma : EngineWord (engineOn 0x30001 64000) (.mma 5 1 2 0 1 true) true (engineOn 0x30001 64000).cg
    ∧ (engineOn 0x30001 64000).EngineRoom ∧ (engineOn 0x30001 64000).PipeFree ((engineOn 0x30001 64000).cw.flagOf true)
    ∧ (engineOn 0x30001 64000).Enabled ∧ (engineOn 0x30001 64000).stop = none := by
  refine ⟨.mma (t := tile5) (kb := 1) (stride := 48) (by unfold State.TileIs; decide +kernel)
      ⟨3, _, by decide +kernel, rfl, by decide +kernel, by decide +kernel, by decide +kernel, by decide +kernel,
        ⟨by decide +kernel, by decide +kernel⟩, ⟨by decide +kernel, by decide +kernel⟩, by decide +kernel⟩
      (by decide +kernel) (forLanes (by decide +kernel)), by unfold State.EngineRoom; decide +kernel,
    by unfold State.PipeFree; decide +kernel, by unfold State.Enabled; decide +kernel, by decide +kernel⟩
theorem witness_Mmag : EngineWord (engineOn 0x32001 0) (.mmag 5 1 2 0 1 false) false (engineOn 0x32001 0).cg :=
  .mmag (t := tile5) (kb := 1) (stride := 48) (br := 2) (by unfold State.TileIs; decide +kernel)
      ⟨3, _, by decide +kernel, rfl, by decide +kernel, by decide +kernel, by decide +kernel, by decide +kernel,
        ⟨by decide +kernel, by decide +kernel⟩, ⟨by decide +kernel, by decide +kernel⟩, by decide +kernel⟩
      (by decide +kernel) (by decide +kernel)
theorem witness_Mmav : EngineWord (engineOn 1 180) (.mmav 5 1 2 0 1 false) false (engineOn 1 180).cg :=
  .mmav (t := tile5) (kb := 1) (by unfold State.TileIs; decide +kernel)
      ⟨3, _, by decide +kernel, rfl, by decide +kernel, by decide +kernel, by decide +kernel, by decide +kernel,
        ⟨by decide +kernel, by decide +kernel⟩, ⟨by decide +kernel, by decide +kernel⟩, by decide +kernel⟩
      (by decide +kernel)
/-- A weight stream record in b2 (kind 5): 128 columns of 8 blocks take the one chamber that is free. -/
def engineW : State := (engineOn 0x80082 0).updCur (fun g => { g with b := vecSet g.b 2 (0xF000000000004000_0250000000010000 : BitVec 128) })
theorem witness_Chload : EngineWord engineW (.chload 2 1 2 1 false) false engineW.cg :=
by
  refine .chload rfl rfl rfl rfl ?_ ⟨?_, ?_⟩ ?_ ?_ ?_ ?_ ?_ ?_ <;> decide +kernel
theorem test_chload : goesTo (execChload 2 1 2 1 false engineW) (fun t => decide (((t.team 0).chambers.map (·.2.count)).sum = 2)) = true := by
  decide +kernel
theorem witness_Chrel : EngineWord (engineOn 0 0) (.chrel 1 false) false (engineOn 0 0).cg := .chrel (id := 3) (by decide +kernel)
theorem witness_Atdef : EngineWord (engineOn 16 2048) (.atdef 6 1 2 2 true) true
    { (engineOn 16 2048).cg with a := vecSet (engineOn 16 2048).cg.a (6 : BitVec 5).toNat (some { base := 2048, rows := 32, cols := 16 }) } :=
by
  refine .atdef ?_ ?_ ?_ ?_ ?_ ?_ ?_ ?_ ?_ ?_ ⟨?_, ?_⟩ <;> decide +kernel
theorem witness_EngineMoves : EngineWord (engineOn 0x00030002 0) (.accld 5 1 2 false) false (engineOn 0x00030002 0).cg
    ∧ EngineWord (engineOn 0x00030002 0) (.accst 5 1 2 false) false (engineOn 0x00030002 0).cg
    ∧ EngineWord (engineOn 8 184) (.accrd 5 1 2 7 false) false (engineOn 8 184).cg
    ∧ EngineWord (engineOn 8 184) (.accwr 5 1 2 7 false) false (engineOn 8 184).cg
    ∧ EngineWord (engineOn 0 0) (.accz 5 false) false (engineOn 0 0).cg
    ∧ EngineWord (engineOn 0 0) (.accmap 5 0 0 .tanh false) false (engineOn 0 0).cg
    ∧ EngineWord (engineOn 0 0) (.accmap 5 1 0 .leaky false) false (engineOn 0 0).cg
    ∧ EngineWord (engineOn 65472 0) (.accmap 5 1 2 .scalebias false) false (engineOn 65472 0).cg
    ∧ EngineWord (engineOn 65408 0) (.rfil 5 1 2 0 false) false (engineOn 65408 0).cg
    ∧ EngineWord (engineOn 65472 0) (.rema 5 1 2 0 false) false (engineOn 65472 0).cg := by
  have h : ∀ y x, (engineOn y x).TileIs 5 tile5 := fun y x => by unfold State.TileIs; rfl
  refine ⟨.accld (h _ _) ?_ ?_ ?_, .accst (h _ _) ?_ ?_ ?_, .accrd (h _ _) ?_ ?_, .accwr (h _ _) ?_ ?_, .accz (h _ _),
    .accmap (h _ _) (by decide) (by decide), .leaky (h _ _), .scalebias (h _ _) ?_ ?_ ?_,
    .rfil (h _ _) ⟨?_, ?_⟩ ?_ ?_ (forLanes ?_) ?_, .rema (h _ _) ⟨?_, ?_⟩ ?_ ?_ (forLanes ?_) ?_⟩ <;> decide +kernel
/-- The engine full of the group's own operations, and a tile that is not bound. -/
theorem witness_EngineFull : ¬ ((engineOn 0 0).updCore 0 (fun c => { c with engine := [(0, 1), (0, 2), (0, 4), (0, 5)] })).EngineRoom
    ∧ vecGet (engineOn 0 0).cg.a 6 none = none := by unfold State.EngineRoom; decide +kernel
/-- R203: the word is accepted; with a tile that is not bound it traps SHAPE, cause 0x13. -/
theorem test_engine : goesTo (execMma 5 1 2 0 1 true (engineOn 0x30001 64000)) (fun t => decide ((t.core 0).engine.length = 1)) = true
    ∧ causeOf (execAccz 6 false (engineOn 0 0)) = 0x13 := by decide +kernel
theorem test_engine_accepts : goesTo (execMmag 5 1 2 0 1 false (engineOn 0x32001 0)) (fun t => decide ((t.core 0).engine.length = 1)) = true
    ∧ goesTo (execAtdef 6 1 2 2 true (engineOn 16 2048)) (fun t => decide (vecGet t.cg.a 6 none = some { base := 2048, rows := 32, cols := 16 })) = true := by
  decide +kernel

/-- An operation of the tile in the engine: row 0 of A is 1.0 in BF16, its column 0 has the weight 2 under the scale 1.0. -/
def engineOp (i : Instr) (more : List Nat) : POp := { id := 4, instr := i, flag := some 1, act := 1, args := [0, 32, 16, 0, 0, 0] ++ more }
def running (o : POp) : State :=
  let s := (engineOn 0 0).updCur (fun g => { g with ops := [o], flags := vecSet g.flags 1 1 })
  (s.updCore 0 (fun c => { c with engine := [(0, 4)] })).updTeam 0 (fun t => { t with
    spad := putBytes [] 0 (natLe 2 0x3F80), acc := putBytes [] 0 (natLe 4 0x3F800000)
    chambers := [(3, { count := 1, fmt := 12, kBlocks := 1, cols := 16, loaded := true, weights := [(0, 2)], scales := [(0, 0x3C00)] })] })
theorem witness_EngineResults : (running (engineOp (.accz 5 false) [])).MayRun 0 0 (engineOp (.accz 5 false) [])
    ∧ (engineOp (.accz 5 false) []).tile.f16 = false
    ∧ (running (engineOp (.accrd 5 1 2 0 false) [4, 0, 1])).MayRun 0 0 (engineOp (.accrd 5 1 2 0 false) [4, 0, 1])
    ∧ (running (engineOp (.mma 5 1 2 0 1 false) [3, 1, 2, 0, 0, 48])).MayRun 0 0 (engineOp (.mma 5 1 2 0 1 false) [3, 1, 2, 0, 0, 48])
    ∧ (tget? ((running (engineOp (.mma 5 1 2 0 1 false) [3, 1, 2, 0, 0, 48])).team 0).chambers 3).map (·.cols) = some 16 := by
  unfold State.MayRun; decide +kernel
/-- R211: 1.0 + 1.0 × 2 = 3.0 in element (0, 0). -/
theorem test_mma_complete : goesTo (execEngineOpComplete 0 4 (running (engineOp (.mma 5 1 2 0 1 false) [3, 1, 2, 0, 0, 48]))) (fun t =>
    decide ((t.team 0).elem32 tile5 0 0 = 0x40400000 ∧ t.cg.seq = 1 ∧ t.cg.flag (some 1) = 0)) = true := by decide +kernel
theorem test_accz_accrd : goesTo (execEngineOpComplete 0 4 (running (engineOp (.accz 5 false) []))) (fun t => decide ((t.team 0).elem32 tile5 0 0 = 0)) = true
    ∧ goesTo (execEngineOpComplete 0 4 (running (engineOp (.accrd 5 1 2 0 false) [4, 0, 1]))) (fun t => decide (t.cg.vreg 4 0 = 0x3F800000)) = true := by
  decide +kernel


/-! ### Chambers, stopped and suspended operations, progress -/

/-- A CHLOAD of one W8-H column of one block at VA 0x10000 in the engine. -/
def aChload : POp := { id := 4, instr := .chload 2 1 2 1 false, flag := some 1, args := [4, 1, 1, 12, 0x10000, 0x20000, 1] }
def chloading (o : POp) : State := (running o).updTeam 0 (fun t => { t with chambers := t.chambers ++ [(4, { count := 1, fmt := 12, kBlocks := 1, cols := 1 })] })
/-- What path M shows where pages map to the same address, as `mapped` has them. -/
def shown (s : State) (gid va n limit : Nat) : List Byte :=
  (pageSpans va (min n (limit - va))).flatMap (fun e => s.mBytes (some { gid := gid }) e.1 e.2) ++ List.replicate (n - min n (limit - va)) 0
theorem shows_of {s : State} {gid : Nat} {user : Bool} {va n limit : Nat}
    (h : (pageSpans va (min n (limit - va))).all (fun e => mapsB s (s.group gid).core (s.group gid).ctx user false .read e.1 e.1
      && decide (e.1 + e.2 ≤ 2 ^ 20) && !s.poisoned e.1 e.2) = true) : s.MatrixShows gid user va n limit (shown s gid va n limit) := by
  refine ⟨id, fun e he => ?_, rfl⟩
  have := List.all_eq_true.mp h e he
  simp only [Bool.and_eq_true, decide_eq_true_eq, Bool.not_eq_true'] at this
  exact ⟨maps_of this.1.1, reachable_low this.1.2, this.2⟩
theorem witness_Chloading : (chloading aChload).MayRun 0 0 aChload ∧ isSparse (aChload.arg 3) = false ∧ rising ((chloading aChload).team 0).chambers
    ∧ (tget ((chloading aChload).team 0).chambers 4 {}).released = false ∧ (chloading aChload).chamberGone 0 aChload = false
    ∧ (chloading aChload).MatrixShows 0 true 0x10000 28 0x20000 (List.replicate 28 0)
    ∧ aChload.arg 2 = 1 ∧ aChload.arg 1 * unitBytes (aChload.arg 3) = 28
    ∧ (denseColumn (aChload.arg 3) (aChload.arg 1) (List.replicate 28 0)).isSome = true := by
  have h := shows_of (s := chloading aChload) (gid := 0) (user := true) (va := 0x10000) (n := 28) (limit := 0x20000) (by decide +kernel)
  rw [show shown (chloading aChload) 0 0x10000 28 0x20000 = List.replicate 28 0 by decide +kernel] at h
  exact ⟨by unfold State.MayRun; decide +kernel, by decide +kernel, by unfold rising; decide +kernel, by decide +kernel, by decide +kernel,
    h, by decide +kernel, by decide +kernel, by decide +kernel⟩
/-- The other operations: MMAG from VA 0x10000, MMAV from registers, ACCWR, ACCLD, ACCST, SCALEBIAS, RFIL and REMA over states at 256
and coefficients at 512. -/
def aMmag : POp := engineOp (.mmag 5 1 2 0 1 false) [3, 1, 2, 1, 0x10000, 48, 0x20000, 1]
def aMmav : POp := { engineOp (.mmav 5 1 2 0 1 false) [3, 1, 2, 2, 0, 48] with vals := [(0, 0x3F80)] }
def anAccwr : POp := { engineOp (.accwr 5 1 2 0 false) [4, 15, 1] with vals := [(0, 0x7F800001)] }
def anAccld : POp := engineOp (.accld 5 1 2 false) [0x10000, 64, 0x20000, 1]
def anAccst : POp := engineOp (.accst 5 1 2 false) [0x10000, 64, 0x20000, 1]
def aScale : POp := engineOp (.accmap 5 1 2 .scalebias false) [0, 64]
def aRfil : POp := engineOp (.rfil 5 1 2 0 false) [256, 512, 2, 0, 0]
def aRema : POp := engineOp (.rema 5 1 2 0 false) [256, 512, 3, 0, 0]
/-- Coefficient words of column 0: `a` at 512, `b` after 16 words. -/
def recurring (o : POp) (a b : Nat) : State := (running o).updTeam 0 (fun t => { t with
  spad := putBytes (putBytes [] 512 (natLe 4 a)) 576 (natLe 4 b) })
theorem witness_EngineProducts : (running aMmag).MayRun 0 0 aMmag ∧ (running aMmav).MayRun 0 0 aMmav ∧ (running anAccwr).MayRun 0 0 anAccwr
    ∧ (running anAccld).MayRun 0 0 anAccld ∧ (running anAccst).MayRun 0 0 anAccst ∧ (running aScale).MayRun 0 0 aScale
    ∧ (recurring aRfil 0 0).MayRun 0 0 aRfil ∧ (recurring aRema 0 0).MayRun 0 0 aRema := by
  unfold State.MayRun; decide +kernel
theorem witness_EngineOperands : rising aMmav.vals ∧ (∀ e ∈ aMmav.vals, e.1 < 2 ^ 20)
    ∧ aMmav.stage = 0 ∧ aMmav.tile.cols = 16 ∧ anAccwr.arg 7 + anAccwr.arg 8 ≤ anAccwr.tile.cols
    ∧ (running anAccst).hHeld 0 anAccst 0x10000 = false ∧ ((running anAccst).ctx 0).sealed 0x10000 64 = false
    ∧ 256 + 16 * 2 ≤ 512 := by
  unfold rising; decide +kernel
theorem witness_BlockShows : (running aMmag).BlockShows 0 aMmag 0 0 (shown (running aMmag) 0 0x10000 48 0x20000) 0
    ∧ (running aMmav).BlockShows 0 aMmav 0 0 (natLe 48 0x3F80) 0
    ∧ (running anAccld).MatrixShows 0 true 0x10000 64 0x20000 (shown (running anAccld) 0 0x10000 64 0x20000)
    ∧ ∀ e ∈ pageSpans 0x10000 (min 64 (0x20000 - 0x10000)), (running anAccst).Maps 0 0 true false .write e.1 e.1 ∧ (running anAccst).Reachable e.1 e.2 := by
  refine ⟨?_, ?_, shows_of (by decide +kernel), ?_⟩
  · unfold State.BlockShows
    rw [if_neg (by decide), if_pos (by decide), if_neg (by decide)]
    refine ⟨?_, rfl⟩
    exact shows_of (s := running aMmag) (gid := 0) (user := true) (va := 0x10000) (n := 48) (limit := 0x20000) (by decide +kernel)
  · unfold State.BlockShows
    rw [if_neg (by decide), if_neg (by decide)]
    decide +kernel
  · have h : ∀ e ∈ pageSpans 0x10000 (min 64 (0x20000 - 0x10000)), mapsB (running anAccst) 0 0 true false .write e.1 e.1 = true ∧ e.1 + e.2 ≤ 2 ^ 20 := by
      decide +kernel
    exact fun e he => ⟨maps_of (h e he).1, reachable_low (h e he).2⟩
/-- R211: 1.0 of the registers times 2 onto 1.0; R213: a NaN is stored as the quiet NaN; R214: a row goes to path M's queue;
R217: 0 × 0 + 2 × 1 under RFIL, and 0 + 0.5 × (1 − 0) under REMA in F16. -/
theorem test_engineResults : goesTo (execEngineOpComplete 0 4 (running aMmav)) (fun t => decide ((t.team 0).elem32 tile5 0 0 = 0x40400000)) = true
    ∧ goesTo (execEngineOpComplete 0 4 (running anAccwr)) (fun t => decide ((t.team 0).elem32 tile5 0 15 = 0x7FC00000)) = true
    ∧ goesTo (execEngineOpComplete 0 4 (running anAccst)) (fun t => decide (t.mq.map (fun w => (w.key, w.bytes.length, w.bytes.take 4))
        = [(0x10000, 64, [0, 0, 0x80, 0x3F])])) = true
    ∧ goesTo (execEngineOpComplete 0 4 (recurring aRfil 0 0x40000000)) (fun t => decide ((t.team 0).elem32 tile5 0 0 = 0x40000000)) = true
    ∧ goesTo (execEngineOpComplete 0 4 (recurring aRema 0x3F000000 0)) (fun t => decide ((t.team 0).elem32 tile5 0 0 = 0x3F000000
        ∧ leNat (bytesAt (t.team 0).spad 256 2) = 0x3800)) = true := by decide +kernel
theorem test_chloadComplete : goesTo (execChloadComplete 0 4 (chloading aChload)) (fun t =>
    decide ((tget (t.team 0).chambers 4 {}).loaded = true ∧ (t.core 0).engine = [])) = true := by decide +kernel
/-- A CHREL of chamber group 3, whose handle is unbound already, alone in the module. -/
def aChrel : POp := { id := 4, instr := .chrel 1 false, flag := some 1, args := [3] }
theorem witness_Chrel_complete : (running aChrel).MayRun 0 0 aChrel ∧ rising ((running aChrel).team 0).chambers
    ∧ (running aChrel).chamberGone 0 aChrel = false ∧ (running aChrel).groups = [(0, (running aChrel).group 0)] ∧ ((running aChrel).group 0).ops = [aChrel] := by
  unfold State.MayRun rising; decide +kernel
theorem test_chrelComplete : goesTo (execChrelComplete 0 4 (running aChrel)) (fun t => decide ((t.team 0).chambers = [])) = true := by decide +kernel

/-- An operation told to stop whose limit is reached; one that is suspended on a page and was dropped from the ring. -/
def stopping : POp := { engineOp (.mma 5 1 2 0 1 false) [3, 1, 2, 0, 0, 48] with stopReq := true, stage := 2 }
theorem witness_EngineStop : (running stopping).stop = none ∧ (running stopping).ownerOf 4 = some (0, stopping) ∧ stopping.stopReq = true
    ∧ stopping.stopped = false ∧ 2 ≤ stopping.stage := by decide +kernel
theorem test_engineStop : goesTo (execEngineStop 0 4 2 (running stopping)) (fun t =>
    decide (t.cg.ops.map (·.stopped) = [true] ∧ t.cg.flag (some 1) = 0)) = true := by decide +kernel
def suspendedOp : POp := { aChload with suspended := some { va := 0x10000, retryAt := 4000, again := some 100 } }
def suspendedAt (ns : Nat) : State := { running suspendedOp with ns := ns }
theorem witness_PageRetry : (suspendedAt 4000).ownerOf 4 = some (0, suspendedOp) ∧ (3999 : Nat) < 4000
    ∧ ((suspendedAt 4000).reach 0 0 false false .read 0x10000 true).2.stop = none
    ∧ ((suspendedAt 16100).request 0 (pageEntry 2 0x10000 false)).2.stop = none ∧ (16099 : Nat) < 100 + 16000 := by decide +kernel
/-- R414: the page is present at the retry, so the operation is no longer suspended; before its time nothing changes. -/
theorem test_pageRetry : goesTo (execPageRetry 0 4 (suspendedAt 4000)) (fun t => decide (t.cg.ops.map (·.suspended) = [none])) = true
    ∧ goesTo (execPageRetry 0 4 (suspendedAt 3999)) (fun t => decide (t.cg.ops.map (fun o => o.suspended.isSome) = [true])) = true := by decide +kernel
theorem test_feedbackReappend : goesTo (execFeedbackReappend 0 4 (suspendedAt 16100)) (fun t =>
    t.cg.ops.all (fun o => decide (o.suspended ≠ suspendedOp.suspended))) = true := by decide +kernel

theorem witness_Mprog : on.PipeFree (on.cw.flagOf true) ∧ (running aChload).engineList 0 ≠ [] ∧ ((running aChload).engineList 0)[3]? = none := by
  unfold State.PipeFree; decide +kernel
/-- MSEQ whose target is the sequence number, and one beyond it. -/
def aMseq (n : Nat) : POp := { id := 3, instr := .mseq 6 7 false, flag := some 1, args := [n] }
def sequenced (n : Nat) : State := (loading (aMseq n)).updCur (fun g => { g with seq := 5 })
theorem witness_Mseq : ((sequenced 5).group 0).op? 3 = some (aMseq 5) ∧ (((sequenced 5).group 0).seq - BitVec.ofNat 32 5).toNat < 2 ^ 31
    ∧ ¬ (((sequenced 6).group 0).seq - BitVec.ofNat 32 6).toNat < 2 ^ 31 := by decide +kernel
/-- R223: the wait ends at the target with the sequence number. -/
theorem test_mseqComplete : goesTo (execMseqComplete 0 3 (sequenced 5)) (fun t => decide (t.cg.sreg 6 = 5 ∧ t.cg.ops = [])) = true
    ∧ goesTo (execMseqComplete 0 3 (sequenced 6)) (fun t => decide (t.cg.ops.length = 1)) = true := by decide +kernel
/-- R222: an entry that the group does not have reads as two zeros. -/
def aMprog : POp := { id := 3, instr := .mprog 3 6 7 false, flag := some 1 }
theorem test_mprogComplete : goesTo (execMprogComplete 0 3 ((loading aMprog).updCur (fun g => (g.setS 6 9).setS 7 9))) (fun t =>
    decide (t.cg.sreg 6 = 0 ∧ t.cg.sreg 7 = 0 ∧ t.cg.flag (some 1) = 0)) = true := by decide +kernel

/-! ### Copies -/

/-- A layout record (R227): a tensor of 64 × 4 words at VA 0x14000, boxes of 16 × 2, version 7, sealed. -/
def rawBody : Nat := 0x14000 + 64 * 2 ^ 64 + 4 * 2 ^ 80 + 4 * 2 ^ 128 + 256 * 2 ^ 160 + 16 * 2 ^ 256 + 2 * 2 ^ 272 + 2 * 2 ^ 320 + 2 ^ 336 + 7 * 2 ^ 352
def rawRec : Nat := rawBody + (crc32c (natLe 60 rawBody)).toNat * 2 ^ 480
theorem test_layout : (⟨rawRec⟩ : Layout).ok = true ∧ (⟨rawRec⟩ : Layout).sealOk = true ∧ (⟨rawRec⟩ : Layout).version = 7
    ∧ (⟨rawRec⟩ : Layout).span { origin := [0, 0, 0, 0] } = some (0x14000, 0x14140) := by decide +kernel
/-- The record at VA 0x10000, a copy block from s0, a team of 4096 bytes of scratchpad, a stamp of depth 1. -/
def copying (s7 s8 s10 : Word) : State :=
  let s := mapped.updCur (fun g => { ((((g.setS 0 0x10000).setS 2 7).setS 7 s7).setS 8 s8).setS 10 s10 with stamp := 2 ^ 62 })
  { s with mem := putBytes [] 0x10000 (natLe 64 rawRec), teams := [(0, { groups := [0], spadLen := 4096 })] }
theorem layoutAt_of {s : State} (hq : s.cg.acquiring = false) (h : s.cg.cPending 0x10000 64 = false)
    (m : mapsB s s.cg.core s.cg.ctx (!s.cg.sup) false .read 0x10000 0x10000 = true) (p : s.poisoned 0x10000 64 = false) :
    s.LayoutAt 0x10000 0x10000 :=
  ⟨hq, h, maps_of m, reachable_low (by decide), p⟩
theorem witness_CopiesGoInFlight :
    ((copying 0xFFFF 0 0).BlockFits 0 false false ∧ (copying 0xFFFF 0 0).LayoutAt 0x10000 0x10000)
    ∧ ((copying 0x0010FFFF 0xFFFF 0).BlockFits 0 true false ∧ CopyWord (.cpym 0 false) 0 9 false true false false)
    ∧ ((copying 0xFFFF 0x14000 65536).BlockFits 0 false true ∧ CopyWord (.cpyg 0) 0 11 false false true true)
    ∧ (copying 0xFFFF 0 0).cg.gidx = (copying 0xFFFF 0 0).cg.producer
    ∧ (copying 0xFFFF 0 0).canCount 0 0 0 (2 ^ 62) = true ∧ (copying 0xFFFF 0 0).DistinctDeltas 0
    ∧ ((copying 0xFFFF 0 0).updCur (fun g => { g with gidx := 1 })).cg.gidx ≠ 0
    ∧ (copying 0xFFFF 0 0).homeNat 0x10000 64 = rawRec
    ∧ 0 + copyElems (.cpy 0 false) ⟨rawRec⟩ {} * (⟨rawRec⟩ : Layout).ez ≤ 4096 := by
  refine ⟨⟨by unfold State.BlockFits; decide +kernel, layoutAt_of (by decide +kernel) (by decide +kernel) (by decide +kernel) (by decide +kernel)⟩,
    ⟨by unfold State.BlockFits; decide +kernel, .cpym⟩, ⟨by unfold State.BlockFits; decide +kernel, .cpyg⟩, ?_⟩
  unfold State.DistinctDeltas; decide +kernel
/-- R232: CPY clears the line of its box and counts; a group that is not the producer traps STREAMRIGHTS, cause 0x10. -/
theorem test_cpy : goesTo (execCpy 0 false (copying 0xFFFF 0 0)) (fun t =>
      decide ((t.team 0).cleared = [(0, 1)] ∧ (t.team 0).inbound = 1 ∧ t.cg.ops.length = 1)) = true
    ∧ causeOf (execCpy 0 false ((copying 0xFFFF 0 0).updCur (fun g => { g with gidx := 1 }))) ≠ 0 := by decide +kernel
theorem witness_Layseal : ((copying 0 0 0).cg.spair 0).toNat % 64 = 0 ∧ ((copying 0 0 0).cg.spair 0).toNat < 2 ^ 52
    ∧ (((copying 0 0 0).updCur (fun g => g.setS 0 8)).cg.spair 0).toNat % 64 ≠ 0 := by decide +kernel

/-- A copy in flight, as issued, accepted at its own team. -/
def aCopy (i : Instr) (stage : Nat) (vals : Tab Nat) (nt : Bool) : POp :=
  { id := 3, instr := i, flag := some 1, stage := stage, vals := vals
    args := ({ va := 0x10000, version := 7, origin := [0, 0, 0, 0], notrack := nt, mask := 1 } : CopyArgs).list' 1 rawRec 0 (2 ^ 62) }
def flying (o : POp) : State :=
  let s := { copying 0xFFFF 0 0 with teams := [(0, { groups := [0], spadLen := 4096, cleared := [(0, 1)], inbound := 1 })] }
  (s.updCur (fun g => { g with ops := [o], flags := vecSet g.flags 1 1 })).updCore 0 (fun c => { c with engine := [] })
theorem witness_RecordCheck :
    let o := aCopy (.cpy 0 false) 0 [(0, 4), (2 ^ 20, 0)] false
    (flying o).ownerOf 3 = some (0, o) ∧ isCopy o.instr = true ∧ o.layout.sealOk = true ∧ o.layout.version = o.copy.version ∧ o.layout.ok = true
    ∧ o.layout.span o.copy = some (0x14000, 0x14140) ∧ (flying o).earlierWaits 0 o 0x14000 0x14140 = false
    ∧ (flying o).reach 0 0 true false .read 0x14000 true = (.ok 0x14000, flying o)
    ∧ (flying o).ranges.any (fun e => conflicts e 0 0 0x14000 0x14140 false false) = false := by decide +kernel
/-- Another team's exclusive entry over the copy's span. -/
def flyingClash (o : POp) : State := { flying o with ranges := [{ slice := 0, ctx := 0, team := 9, lo := 0x1413F, hi := 0x15000, excl := true }] }
theorem witness_RecordCheck_clash : (flyingClash (aCopy (.cpy 0 false) 0 [] false)).ranges.any
    (fun e => conflicts e 0 0 0x14000 0x14140 false false) = true := by decide +kernel
theorem witness_CpymAccept :
    let o := aCopy (.cpym 0 false) 1 [] true
    (flying o).ownerOf 3 = some (0, o) ∧ 0 ∈ o.ranks ∧ o.acceptedAt 0 = false ∧ ((flying o).group 0).origin = .grid
    ∧ ((flying o).teams.find? (fun e => decide (e.2.ctx = 0) && decide (e.2.grid = 0) && !e.2.ended
        && !e.2.groups.isEmpty && decide (e.2.tidx = (flying o).rankTeam ((flying o).group 0) 0))).isSome = true := by decide +kernel
theorem test_cpymAccept : goesTo (execCpymAccept 0 3 0 (flying (aCopy (.cpym 0 false) 1 [] true))) (fun t =>
    decide ((t.team 0).inbound = 2 ∧ (t.team 0).cleared = [(0, 2)])) = true := by decide +kernel
theorem witness_CopyLanding :
    let o := aCopy (.cpy 0 false) 1 [(0, 4), (2 ^ 20, 0)] true
    o.acceptedAt 0 = true ∧ 0 ∈ o.toLand 0 ∧ (flying o).landsFirst (tget o.vals (markTeam 0) 0) (tget o.vals (markAccept 0) 0) 0 = false
    ∧ ((flying o).group 0).cHeld o = false ∧ ((flying o).lineBytes 0 o 0).1.toOption.isSome = true
    ∧ ((flying o).lineBytes 0 o 0).2.2.stop = none ∧ ((flying o).team 0).ended = false ∧ rising ((flying o).team 0).cleared := by
  unfold rising; decide +kernel
/-- The word at (0, 0) of the tensor is at the start of the line that lands; its mark is gone. -/
theorem test_copyLanding : goesTo (execCopyLanding 0 3 0 0 ({ flying (aCopy (.cpy 0 false) 1 [(0, 4), (2 ^ 20, 0)] true) with l2 := [(0x14000, 5)] }))
    (fun t => decide (byteAt (t.team 0).spad 0 = 5 ∧ (t.team 0).cleared = [])) = true := by decide +kernel
theorem tensorShows_of {s : State} {gid : Nat} {user : Bool} {va n : Nat}
    (h : (pageSpans va n).all (fun e => mapsB s (s.group gid).core (s.group gid).ctx user false .read e.1 e.1
      && decide (e.1 + e.2 ≤ 2 ^ 20) && !s.poisoned e.1 e.2) = true) :
    s.TensorShows gid user va n ((pageSpans va n).flatMap (fun e => s.homeBytes e.1 e.2)) := by
  refine ⟨id, fun e he => ?_, rfl⟩
  have := List.all_eq_true.mp h e he
  simp only [Bool.and_eq_true, decide_eq_true_eq, Bool.not_eq_true'] at this
  exact ⟨maps_of this.1.1, reachable_low this.1.2, this.2⟩
/-- A CPY whose one line is to land, and a CPYG whose first row is row 0 as the list in memory says, and whose second was read as null. -/
def aCpy : POp := aCopy (.cpy 0 false) 1 [(0, 4), (2 ^ 20, 0)] true
def aCpyg : POp := { aCopy (.cpyg 0) 1 [(0, 4), (2 ^ 20, 0), (2 ^ 23 + 1, 0x80000000)] true with
  args := ({ va := 0x10000, version := 7, origin := [0, 0, 0, 0], notrack := true, mask := 1, list := 0x14200, count := 2 } : CopyArgs).list' 1 rawRec 0 (2 ^ 62) }
theorem elem_of {s : State} {gid : Nat} {o : POp} {p : Nat} {xs : List Nat} (hc : s.CoordsAre gid o p (some xs))
    (hi : o.layout.inside xs = true)
    (h : (pageSpans (o.layout.va xs) o.layout.ez).all (fun e => mapsB s (s.group gid).core (s.group gid).ctx o.copyUser false .read e.1 e.1
      && decide (e.1 + e.2 ≤ 2 ^ 20) && !s.poisoned e.1 e.2) = true) :
    s.ElemShows gid o p ((pageSpans (o.layout.va xs) o.layout.ez).flatMap (fun e => s.homeBytes e.1 e.2)) := by
  refine ⟨some xs, hc, ?_⟩
  simp only [Option.filter, hi, if_true]
  exact tensorShows_of h
theorem witness_LineShows : ∃ bs, (flying aCpy).LineShows 0 aCpy 0 bs := by
  have h : ∀ p < 32, aCpy.layout.inside (boxCoords aCpy.layout aCpy.copy p) = true
      ∧ (pageSpans (aCpy.layout.va (boxCoords aCpy.layout aCpy.copy p)) aCpy.layout.ez).all (fun e => mapsB (flying aCpy) 0 0 true false .read e.1 e.1
        && decide (e.1 + e.2 ≤ 2 ^ 20) && !(flying aCpy).poisoned e.1 e.2) = true := by decide +kernel
  have hv : tget? aCpy.vals (markBytes 0) = none := by decide +kernel
  have hl : lineElems aCpy.instr aCpy.layout aCpy.copy 0 = (0, 32) := by decide +kernel
  refine ⟨(List.range 32).flatMap (fun i => (pageSpans (aCpy.layout.va (boxCoords aCpy.layout aCpy.copy (0 + i))) aCpy.layout.ez).flatMap
    (fun e => (flying aCpy).homeBytes e.1 e.2)), ?_⟩
  unfold State.LineShows
  simp only [hv, hl]
  refine ⟨fun p => (pageSpans (aCpy.layout.va (boxCoords aCpy.layout aCpy.copy p)) aCpy.layout.ez).flatMap
    (fun e => (flying aCpy).homeBytes e.1 e.2), fun p _ hp => ?_, by with_reducible rfl⟩
  refine elem_of (xs := boxCoords aCpy.layout aCpy.copy p) ?_ (h p (by omega)).1 (h p (by omega)).2
  unfold State.CoordsAre
  rw [if_neg (by decide)]
theorem witness_GatherRows : (flying aCpyg).CoordsAre 0 aCpyg 3 (some [3, 0, 0, 0]) ∧ (flying aCpyg).CoordsAre 0 aCpyg 16 none
    ∧ (flying aCpyg).ElemShows 0 aCpyg 16 [0, 0, 0, 0] := by
  have h1 : (flying aCpyg).CoordsAre 0 aCpyg 3 (some [3, 0, 0, 0]) := by
    unfold State.CoordsAre
    rw [if_pos (by decide)]
    refine ⟨0, Or.inr ⟨by decide +kernel, _, tensorShows_of (by decide +kernel), by decide +kernel⟩, by decide +kernel⟩
  have h2 : (flying aCpyg).CoordsAre 0 aCpyg 16 none := by
    unfold State.CoordsAre
    rw [if_pos (by decide)]
    exact ⟨0x80000000, Or.inl (by decide +kernel), by decide +kernel⟩
  exact ⟨h1, h2, none, h2, show [0, 0, 0, 0] = List.replicate aCpyg.layout.ez 0 by decide +kernel⟩
/-- CPYM's arrival counter, and CPYS of a box whose lines are present: its operands are as its completion asks. -/
def aCpys : POp := aCopy (.cpys 0) 1 [] true
def storingBox : State := (flying aCpys).updTeam 0 (fun t => { t with cleared := [], spad := putBytes [] 0 (natLe 4 77) })
theorem witness_Cpys : (storingBox.group 0).cHeld aCpys = false ∧ copyElems aCpys.instr aCpys.layout aCpys.copy = 32
    ∧ (storingBox.team 0).present 0 128 = true ∧ storingBox.poisoned (spadKey 0 0) 128 = false ∧ storingBox.mq = []
    ∧ aCpys.stage = 1 ∧ (flying aCpys).ownerOf 3 = some (0, aCpys)
    ∧ (∀ p < 32, storingBox.hHeld 0 aCpys (aCpys.layout.va (boxCoords aCpys.layout aCpys.copy p)) = false)
    ∧ ∀ p < 32, ∀ e ∈ pageSpans (aCpys.layout.va (boxCoords aCpys.layout aCpys.copy p)) aCpys.layout.ez,
        storingBox.Maps 0 0 aCpys.copyUser false .write e.1 e.1 ∧ storingBox.Reachable e.1 e.2 ∧ (storingBox.ctx 0).sealed e.1 e.2 = false := by
  refine ⟨by decide +kernel, by decide +kernel, by decide +kernel, by decide +kernel, by decide +kernel, by decide +kernel, by decide +kernel,
    by decide +kernel, ?_⟩
  have h : ∀ p < 32, ∀ e ∈ pageSpans (aCpys.layout.va (boxCoords aCpys.layout aCpys.copy p)) aCpys.layout.ez,
      mapsB storingBox 0 0 aCpys.copyUser false .write e.1 e.1 = true ∧ e.1 + e.2 ≤ 2 ^ 20 ∧ (storingBox.ctx 0).sealed e.1 e.2 = false := by
    decide +kernel
  exact fun p hp e he => ⟨maps_of (h p hp e he).1, reachable_low (h p hp e he).2.1, (h p hp e he).2.2⟩
/-- R231: CPYS stores the scratchpad's word at the tensor's first element; R235: a null row of CPYG lands as zeros. -/
theorem test_cpys : goesTo (execCopyComplete 0 3 storingBox) (fun t => decide (t.homeNat 0x14000 4 = 77 ∧ t.cg.ops = [])) = true
    ∧ goesTo (execCopyLanding 0 3 0 0 (flying aCpyg)) (fun t => decide (byteAt (t.team 0).spad 64 = 0)) = true := by decide +kernel
/-- Its one line has landed. -/
def landed : POp := aCopy (.cpy 0 false) 1 [(0, 4), (2 ^ 20, 0), (2 ^ 21, 1)] true
theorem witness_CopyComplete : (∀ k ∈ landed.ranks, landed.acceptedAt k = true ∧ landed.toLand k = []) ∧ (flying landed).DistinctDeltas 0
    ∧ (flying landed).ownerOf 3 = some (0, landed) := by unfold State.DistinctDeltas; decide +kernel
theorem test_copyComplete : goesTo (execCopyComplete 0 3 (flying landed)) (fun t => decide (t.cg.ops = [] ∧ t.cg.flag (some 1) = 0)) = true := by
  decide +kernel
/-- CHKIN in flight, and the entry it names. -/
def checkingIn : State :=
  let o := aCopy (.chkin 0) 0 [] false
  { flying o with ranges := [{ team := 0, key := copyKey o.layout o.copy }, { team := 1, key := copyKey o.layout o.copy }] }
theorem witness_Chkin : (checkingIn.group 0).op? 3 = some (aCopy (.chkin 0) 0 [] false) := by decide +kernel
theorem test_chkin : goesTo (execChkinComplete 0 3 checkingIn) (fun t => decide (t.ranges.map (·.team) = [1])) = true := by decide +kernel
def aLayseal : POp := { id := 3, instr := .layseal 0, flag := some 1, args := [0x10000, 1] }
theorem witness_LaysealComplete : ((flying aLayseal).group 0).op? 3 = some aLayseal ∧ ((flying aLayseal).group 0).cHeld aLayseal = false
    ∧ (flying aLayseal).hHeld 0 aLayseal 0x10000 = false
    ∧ mapsB (flying aLayseal) 0 0 true false .write 0x10000 0x10000 = true ∧ (flying aLayseal).poisoned 0x10000 64 = false
    ∧ ((flying aLayseal).ctx 0).sealed (0x10000 + 60) 4 = false := by decide +kernel
/-- R229: the seal of the record is the CRC-32C of its first 60 bytes. -/
theorem test_layseal : goesTo (execLaysealComplete 0 3 ({ flying aLayseal with mem := putBytes [] 0x10000 (natLe 64 rawBody) })) (fun t =>
    decide (t.homeNat 0x10000 64 = rawRec)) = true := by decide +kernel

/-! ### Posting work -/

/-- s2 and s3: VA 0x10000; s4 and s5, and from s16 a task record: the stamp of depth 1; entry 0x10000; no completion counter. -/
def postingWith (q : List QEntry) (w : Word) : State :=
  let s := mapped.updCur (fun g => { (((((g.setS 2 0x10000).setS 5 0x40000000).setS 16 0x10000).setS 19 0x40000000).setS 21 0xFFFF).setS 4 w with stamp := 2 ^ 62 })
  (withCtx s (fun c => { c with dcCount := 16 })).updCore 0 (fun c => { c with queue := q })
def posting : State := postingWith [] 0
theorem witness_Launch : (4#6).toNat % 2 = 0 ∧ (2#6).toNat < 63 ∧ posting.cg.lPending = [] ∧ (posting.cg.spair 2).toNat = 0x10000
    ∧ stampOk (posting.cg.spair 4) = true ∧ posting.canCount 0 0 63 (posting.cg.spair 4) = true ∧ posting.DistinctDeltas 0
    ∧ (posting.updCur (fun g => { g with ops := [aStore] })).cg.lPending ≠ []
    ∧ ((posting.updCur (fun g => g.setS 2 0x10020)).cg.spair 2).toNat % 64 ≠ 0 := by unfold State.DistinctDeltas; decide +kernel
theorem test_launch : goesTo (execLaunch 2 4 63 posting) (fun t => decide ((t.die 0).launches.map (fun l => (l.va, l.node)) = [(0x10000, 63)])) = true := by
  decide +kernel
/-- A full core queue, and an issuer that may run a task inline. -/
def fullQueue (limit : Nat) : State := (postingWith (List.replicate 256 { work := .restore [] }) 0).updCur (fun g => { g with inlineLimit := limit, callLimit := 4 })
theorem witness_Tenq : (16#6).toNat + 16 ≤ 64 ∧ taskFault (posting.ctx 0) (posting.taskWords 16) = none ∧ (posting.core 0).queue.length < 256
    ∧ posting.canCount 0 0 0 (2 ^ 62) = true ∧ posting.placeFired 0 = posting ∧ (posting.die 0).fired = [] ∧ (posting.die 0).queue.length < 4096
    ∧ 256 ≤ ((fullQueue 0).core 0).queue.length ∧ (fullQueue 1).cg.inlines.length < (fullQueue 1).cg.inlineLimit
    ∧ neverInline (fullQueue 1).cw.hdr = false ∧ (fullQueue 1).cw.inl = none
    ∧ (fullQueue 0).cg.inlineLimit ≤ (fullQueue 0).cg.inlines.length := by decide +kernel
theorem witness_Tenq_inline : (fullQueue 1).callCheck = (none, fullQueue 1) := by decide +kernel
/-- R237, R238: the task joins the queue; with a full queue it is left to the clause's end, or the wave parks. -/
theorem test_tenq : goesTo (execTenq 16 0 0 posting) (fun t => decide ((t.core 0).queue.length = 1)) = true
    ∧ goesTo (execTenq 16 0 0 (fullQueue 1)) (fun t => decide (t.cw.inl.map (·.entry) = some 0x10000)) = true
    ∧ goesTo (execTenq 16 0 0 (fullQueue 0)) (fun t => decide (t.cw.phase = .parked .tenqFull)) = true := by decide +kernel

/-- A mooring table whose entry 0x10000 uses pool 1 of 32 blocks, of which `free` are free. -/
def mooringOn (free : Nat) : State := (postingWith [] 0xFFFF).updDie 0 (fun d => { d with
  moorings := [(0, [{ entry := 0x10000, cap := 32, pool := 1 }])], pools := [(1, { blocks := 32, free := free })] })
def entry1 : MoorEntry := { entry := 0x10000, cap := 32, pool := 1 }
theorem witness_Moor : (mooringOn 32).MoorFits 4 2 5 0 entry1 ∧ (mooringOn 32).MoorServed entry1 ∧ (mooringOn 32).cw.phase = .body
    ∧ (lanesOf (mooringOn 32).cw.en).length ≤ (tget ((mooringOn 32).die 0).pools 1 {}).free ∧ (mooringOn 31).MoorFits 4 2 5 0 entry1
    ∧ (tget ((mooringOn 31).die 0).pools 1 {}).free < (lanesOf (mooringOn 31).cw.en).length := by
  unfold State.MoorFits State.MoorServed State.Enabled State.DistinctDeltas; decide +kernel
/-- R395, R396: the lanes are moored and the pool's blocks taken; one block short, the wave parks. -/
theorem test_moor : goesTo (execMoor 4 2 5 0 (mooringOn 32)) (fun t =>
      decide ((t.core 0).moored = 32 ∧ (tget (t.die 0).pools 1 {}).free = 0)) = true
    ∧ goesTo (execMoor 4 2 5 0 (mooringOn 31)) (fun t => decide (t.cw.phase = .parked .moorPool)) = true := by decide +kernel
/-- The wave parked at the word, first in its pool's line. -/
def moorParked (free : Nat) : State := ((mooringOn free).updWave (fun w => { w with
    phase := .parked .moorPool, words := [(encode (.moor 4 2 5 0)).getD 0], snap := some ((mooringOn free).cg.snap none) })).updDie 0 (fun d => { d with moorLine := [(0, 1, 0, 0)] })
theorem witness_MoorServe : (((moorParked 32).die 0).moorLine.find? (fun x => decide (x.1 = 0) && decide (x.2.1 = 1))) = some (0, 1, 0, 0)
    ∧ ((moorParked 32).cw.phase = .parked .moorPool) ∧ decodeWord ((moorParked 32).cw.word) none = .ok (.moor 4 2 5 0)
    ∧ (tget ((moorParked 31).die 0).pools 1 {}).free < 32
    ∧ (let x : State := { ((moorParked 32).unpark 0 0).updGroup 0 (fun g => g.seen 0) with curGroup := 0, curWave := 0 }
       x.MoorFits 4 2 5 0 entry1 ∧ x.MoorServed entry1) := by
  unfold State.MoorFits State.MoorServed State.Enabled State.DistinctDeltas; decide +kernel
theorem test_moorPoolServe : goesTo (execMoorPoolServe 0 0 1 (moorParked 32)) (fun t => decide ((t.core 0).moored = 32)) = true := by decide +kernel
/-- A filling bin of the entry and the stamp, its timer at cycle 9. -/
def binned (now : Nat) : State := (mooringOn 32).updCore 0 (fun c =>
  { c with cycles := now, bins := [{ ctx := 0, entry := entry1, stamp := 2 ^ 62, timer := 9, lanes := [{}] }] })
theorem witness_Castoff : (binned 0).Enabled ∧ (2#6).toNat < 63 ∧ (∀ b ∈ ((binned 0).core 0).bins, b.fills 0 0x10000 (2 ^ 62) = true)
    ∧ ((binned 8).core 0).cycles < 9 ∧ 9 ≤ ((binned 9).core 0).cycles ∧ ((binned 9).core 0).queue.length + ((binned 10).core 0).bins.length < 256 := by
  unfold State.Enabled; decide +kernel
/-- R241, R402: CASTOFF and the timer turn the bin into a cast-off group in the core's queue. -/
theorem test_castoff : goesTo (execCastoff 2 (binned 0)) (fun t => decide ((t.core 0).bins = [] ∧ (t.core 0).queue.length = 1)) = true
    ∧ goesTo (execBinTimer 0 0 (binned 9)) (fun t => decide ((t.core 0).queue.length = 1)) = true
    ∧ goesTo (execBinTimer 0 0 (binned 8)) (fun t => decide ((t.core 0).queue = [])) = true := by decide +kernel

/-! ### Dependence counters and the Keeper -/

/-- The first counter of the context's range of 16, and the first beyond it. -/
theorem witness_CtrRange : ctrInRange (posting.ctx 0) 15 = true ∧ ctrInRange (posting.ctx 0) 16 = false ∧ posting.cw.phase = .body := by decide +kernel
/-- A task record at VA 0x10000 in the L1. -/
def armingOn : State := posting.updCore 0 (fun c => { c with l1 := [(512, natLe 8 0x10000 ++ natLe 8 (2 ^ 62) ++ natLe 4 0 ++ natLe 4 0xFFFF)] })
def armN : Nat := leNat ((List.range 64).map (fun i => armingOn.cachedByte 0 .l1 (0x10000 + i)))
theorem witness_Dcset : (2#6).toNat < 63 ∧ armingOn.cg.fencing pathL = false ∧ armingOn.poisoned 0x10000 64 = false ∧ armingOn.DistinctDeltas 0 ∧ armingOn.cg.lPending = [] ∧ armingOn.cg.acquiring = false
    ∧ armingOn.Maps 0 0 true false .read 0x10000 0x10000 ∧ armingOn.Cached 0 .l1 0x10000 64 armN
    ∧ taskFault (armingOn.ctx 0) (wordsOf (natLe 64 armN)) = none
    ∧ armingOn.canCount 0 0 (taskOf (wordsOf (natLe 64 armN)) 0 0 0).node (taskOf (wordsOf (natLe 64 armN)) 0 0 0).stamp = true := by
  refine ⟨by decide, by decide +kernel, by decide +kernel, by unfold State.DistinctDeltas; decide +kernel, by decide +kernel, by decide +kernel,
    maps_of (by decide +kernel), ⟨by decide +kernel, reachable_low (by decide), rfl⟩, by decide +kernel, by decide +kernel⟩
/-- R243: a task armed on 5 waits; set to 0 it fires; DCADD of −1 to a counter of 1 fires its task. -/
theorem test_dcset : goesTo (execDcset 2 6 15 (armingOn.updCur (fun g => g.setS 6 5))) (fun t =>
      decide ((tget (t.die 0).dcs 15 {}).armed.isSome = true ∧ (t.die 0).fired = [])) = true
    ∧ goesTo (execDcset 2 6 15 armingOn) (fun t => decide ((t.die 0).fired.length = 1)) = true
    ∧ goesTo (execDcadd 6 15 ((armingOn.updCur (fun g => g.setS 6 0xFFFFFFFF)).updDie 0 (fun d => { d with dcs := [(15, { value := 1, armed := some {} })] })))
        (fun t => decide ((t.die 0).fired.length = 1 ∧ (tget (t.die 0).dcs 15 {}).value = 0)) = true := by decide +kernel
theorem test_dcwait : goesTo (execDcwait 15 armingOn) (fun t => decide ((t.core 0).l1 = [])) = true
    ∧ goesTo (execDcwait 15 (armingOn.updDie 0 (fun d => { d with dcs := [(15, { value := 1 })] }))) (fun t => decide (t.cw.phase = .parked .dcwait)) = true
    ∧ causeOf (execDcwait 16 armingOn) = 4 := by decide +kernel

theorem witness_StampRule : StampRule posting.cg (.stamp 4 .set) (posting.cg.spair 4) ∧ posting.cg.origin ≠ .castoff
    ∧ posting.keeperRoom 0 0 0 (posting.cg.spair 4) = true ∧ StampRule posting.cg (.stamp 0 .push) (mkStamp 2 0 0 0)
    ∧ stampDepth posting.cg.stamp = 1 ∧ stampCtr posting.cg.stamp 0 < 2 ^ 22 - 1 := by
  refine ⟨.set (by decide) (by decide +kernel), by decide +kernel, by decide +kernel, ?_, by decide +kernel, by decide +kernel⟩
  have : mkStamp 2 0 0 0 = mkStamp (stampDepth posting.cg.stamp + 1) (stampCtr posting.cg.stamp 0) (stampCtr posting.cg.stamp 1)
      (stampCtr posting.cg.stamp 2) := by decide +kernel
  rw [this]
  exact .push (by decide +kernel)
theorem witness_StampIllegal : (posting.updCur (fun g => { g with origin := .castoff })).cg.origin = .castoff
    ∧ stampDepth (mkStamp 3 0 0 0) = 3 ∧ stampDepth (2 ^ 62) = 1 := by decide +kernel
/-- R245: INC0 raises c0; POP at depth 1 traps ILLEGAL. -/
theorem test_stamp : goesTo (execStamp 0 .inc0 posting) (fun t => decide (t.cg.stamp = mkStamp 1 1 0 0 ∧ t.cg.node = 0)) = true
    ∧ causeOf (execStamp 0 .pop posting) = 1 := by decide +kernel
/-- The pointstamp announced at node 2. -/
def announcedOn : State := posting.updDie 0 (fun d => { d with announced := [(0, 2, 2 ^ 62)] })
theorem witness_KeeperWords : (4#6).toNat % 2 = 0 ∧ (-1 : BitVec 6) ≠ 0 ∧ (announcedOn.die 0).announcedAt 0 2 (posting.cg.spair 4) = true
    ∧ (posting.die 0).announcedAt 0 2 (posting.cg.spair 4) = false ∧ (posting.die 0).waiters = []
    ∧ ((posting.die 0).roundFresh && posting.clearOf 0 0 2 (posting.cg.spair 4)) = false := by decide +kernel
/-- R246: KWAIT goes on when its pointstamp is announced, and parks with a round open when not; KPROBE reads 1 and 0. -/
theorem test_kwait : goesTo (execKwait 4 2 announcedOn) (fun t => decide (t.cw.idx = 1)) = true
    ∧ goesTo (execKwait 4 2 posting) (fun t => decide (t.cw.phase = .parked .kwait ∧ (t.die 0).roundOpen)) = true
    ∧ sAfter 8 (execKprobe 8 4 2 announcedOn) = some 1 ∧ sAfter 8 (execKprobe 8 4 2 posting) = some 0 := by decide +kernel
theorem test_kcnt : goesTo (execKcnt 4 2 (-1) posting) (fun t => decide (((t.core 0).deltas.map (·.d)) = [-1])) = true := by decide +kernel

/-- Deltas in a core's buffer since time 0, a batch at the Keeper, a batch to send, messages from the other die. -/
def keeping (ns : Nat) (inbox : List Msg) : State := { (on.updCore 0 (fun c => { c with deltas := [{ node := 2, stamp := 2 ^ 62, d := 1 }] })).updDie 0
  (fun d => { d with batches := [(1, [{ node := 2, stamp := 2 ^ 62, d := 3 }])], toSend := [(4, [{ node := 2, stamp := 2 ^ 62, d := 1 }])]
                     inbox := inbox, roundOpen := true }) with ns := ns }
theorem witness_Keepers : ((keeping 250 []).core 0).deltas ≠ [] ∧ (249 : Nat) < ((keeping 249 []).core 0).deltaSince + 250
    ∧ ((keeping 250 []).core 0).deltaSince + 250 ≤ (keeping 250 []).ns ∧ ((keeping 0 []).die 0).DistinctEntries
    ∧ (((keeping 0 []).die 0).view.map (fun e => (e.ctx, e.node, e.stamp))).Nodup ∧ ((keeping 0 []).die 0).viewNo < 1
    ∧ 0 ≤ ((keeping 0 []).die 0).viewNo ∧ ((keeping 0 []).die 0).waiters = [] := by
  unfold Die.DistinctEntries; decide +kernel
theorem test_deltaFlush : goesTo (execDeltaFlushTimer 0 (keeping 250 [])) (fun t => decide ((t.core 0).deltas = [] ∧ (t.die 0).batches.length = 2)) = true
    ∧ goesTo (execDeltaFlushTimer 0 (keeping 249 [])) (fun t => decide ((t.die 0).batches.length = 1)) = true := by decide +kernel
theorem test_keeperMessages :
    goesTo (execKeeperBatchApply 0 (keeping 0 [])) (fun t => decide ((t.die 0).batchNo = 1 ∧ countIn (t.die 0).keeper 0 2 (2 ^ 62) = 3)) = true
    ∧ goesTo (execDeltaSend 0 (keeping 0 [])) (fun t => decide ((t.die 1).inbox.length = 1 ∧ (t.die 0).toSend = [])) = true
    ∧ goesTo (execDelta 0 (keeping 0 [.delta 1 [{ node := 2, stamp := 2 ^ 62, d := 1 }]])) (fun t =>
        decide ((t.die 0).viewNo = 1 ∧ countIn (t.die 0).view 0 2 (2 ^ 62) = 1)) = true
    ∧ goesTo (execAck 0 (keeping 0 [.ack 4])) (fun t => decide ((t.die 0).acked = 4)) = true
    ∧ goesTo (execFlushreq 0 (keeping 0 [.flushReq])) (fun t => decide ((t.die 0).batches = [] ∧ (t.core 0).deltas = [])) = true
    ∧ goesTo (execDone 0 (keeping 0 [.done 0])) (fun t => decide (¬ (t.die 0).roundOpen)) = true := by decide +kernel


/-! ### The scheduler -/

/-- A walk whose two non-leaf entries the die holds and whose page is present for an access, as a Bool. -/
def walkB (s : State) (die ctx va key : Nat) (want : Want) (user : Bool) : Bool :=
  let held := fun level index => (s.die die).walks.find?
    (fun w => decide (w.ctx = ctx) && decide (w.level = level) && decide (w.index = index))
  match held 1 (va / 2 ^ 40), held 2 (va / 2 ^ 28) with
  | some w1, some w2 =>
    let at3 := homeKey die (ptePa w2.entry + 8 * (va / 2 ^ 16 % 4096))
    let e := BitVec.ofNat 64 (s.homeNat at3 8)
    paInDie 0 ((s.ctx ctx).root die) 32768 && nodeOk w1.entry && nodeOk w2.entry && leafUsable s.modIndex false e
      && decide (at3 + 8 ≤ 2 ^ 20) && decide (classify (some { ctx := ctx, die := die, vpn := vpnOf false va, leaf := e, at_ := at3 })
        want user va = .ok key)
  | _, _ => false

theorem walk_of {s : State} {die ctx va key want user} (h : walkB s die ctx va key want user = true) :
    ∃ t, s.walk die ctx va = (t, s) ∧ classify t want user va = .ok key := by
  unfold walkB at h
  dsimp only at h
  split at h
  · next w1 w2 h1 h2 =>
    simp only [Bool.and_eq_true, decide_eq_true_eq] at h
    obtain ⟨⟨⟨⟨⟨r, a⟩, b⟩, c⟩, _⟩, e⟩ := h
    have b' : (pteV w2.entry && pteLeaf w2.entry) = false := by
      simp only [nodeOk, Bool.and_eq_true, Bool.not_eq_true'] at b
      rw [b.1.2, Bool.and_false]
    refine ⟨_, ?_, e⟩
    have n1 : ∀ x, s.walkNode die ctx 1 (va / 2 ^ 40) x = (w1.entry, s) := fun x => by unfold State.walkNode; rw [h1]
    have n2 : ∀ x, s.walkNode die ctx 2 (va / 2 ^ 28) x = (w2.entry, s) := fun x => by unfold State.walkNode; rw [h2]
    unfold State.walk
    simp only [n1, n2, r, a, b, b', c, Bool.not_true, if_true, Bool.false_eq_true, if_false]
  · cases h

theorem dieRead_of {s : State} {die ctx va key} (n : Nat) (h : walkB s die ctx va key .read true = true) (hk : key + n ≤ 2 ^ 20)
    (hp : pageSpans va n = [(va, n)]) : s.dieRead die ctx va n = (.ok (s.homeNat key n), s) := by
  obtain ⟨t, h1, h2⟩ := walk_of h
  unfold State.dieRead
  rw [hp]
  simp only [State.dieSpans, h1, h2, (reachable_low hk).checkPa, Nat.mul_zero, Nat.add_zero]

theorem homeNat_same {a s : State} (hm : a.mem = s.mem) (hl : a.l2 = s.l2) (key n : Nat) : a.homeNat key n = s.homeNat key n := by
  unfold State.homeNat State.homeBytes State.homeByte; rw [hm, hl]
theorem walkB_same {a s : State} {die : Nat} (hw : (a.die die).walks = (s.die die).walks) (hc : a.ctxs = s.ctxs) (hi : a.modIndex = s.modIndex)
    (hm : a.mem = s.mem) (hl : a.l2 = s.l2) (ctx va key : Nat) (want : Want) (user : Bool) :
    walkB a die ctx va key want user = walkB s die ctx va key want user := by
  unfold walkB State.ctx; simp only [hw, hc, hi, homeNat_same hm hl]

/-- The page table of die 0: VA page 1 is page 1 of die 0. -/
def walkOn : State := ({ on with
    ctxs := [(0, { dies := 3, dcFirst := 0, dcCount := 16 })], mem := [(0x20008, 0x7F), (0x20009, 0x02), (0x2000A, 0x01)] }).updDie 0 (fun d => { d with
  walks := [{ level := 1, entry := 0x10001 }, { level := 2, entry := 0x20001 }] })

/-- A core queue with a task, and a pending grid of four teams of two groups. -/
def k1 : Task := { entry := 0x20000, node := 3, stamp := 2 ^ 62, grid := 5, payload := [7, 8] }
def g5 : Grid := { lr := { lanes := 4, teams := 4, groups := 2, node := 3, stamp := 2 ^ 62 }, pending := true, toStart := [1, 2], groupsLeft := 8 }
def queued (q : List QEntry) : State := ({ on with grids := [(5, g5)], groups := [], teams := [] }).updCore 1 (fun c => { c with queue := q })
theorem witness_Pick_task : (queued [{ work := .task k1, prio := 5 }]).stop = none ∧ (queued [{ work := .task k1, prio := 5 }]).NothingWaits 0
    ∧ ((queued []).core 1).bins = []
    ∧ (queued [{ work := .task k1, prio := 5 }]).choose 1 ((queued [{ work := .task k1, prio := 5 }]).candidates 1) 129
        = some (.coreEntry 0 { work := .task k1, prio := 5 })
    ∧ (queued [{ work := .task k1, prio := 5 }]).groups.all (fun e => decide (e.1 < (queued []).nextGroup)) = true := by
  unfold State.NothingWaits; decide +kernel
theorem witness_Pick_team : (queued []).NothingWaits 0 ∧ (queued []).choose 1 ((queued []).candidates 1) 129 = some (.team 5 1)
    ∧ ((queued []).lr 5).cols = 1 ∧ ((queued []).lr 5).gang = false ∧ ((queued []).lr 5).mcast = false
    ∧ (queued []).DistinctDeltas 1 := by unfold State.NothingWaits State.DistinctDeltas; decide +kernel
/-- R359, R44: of equal candidates the queue's task starts; without it, team 1 of the grid starts with two groups. -/
theorem test_pick : goesTo (execPick 1 (queued [{ work := .task k1, prio := 5 }])) (fun t =>
      decide (t.groups.length = 1 ∧ (t.core 1).queue = [] ∧ (t.group 1).sreg 1 = 8 ∧ (t.group 1).tidx = 0xFFFFFFFF)) = true
    ∧ goesTo (execPick 1 (queued [])) (fun t =>
      decide (t.groups.length = 2 ∧ (tget t.grids 5 {}).toStart = [2] ∧ (t.group 1).tidx = 1 ∧ (t.group 2).gidx = 1)) = true := by decide +kernel

/-- R348: a launch record of one team of one group of 4 lanes, entry 0x20000, 16 v-registers, node 3, no counter. -/
def recBytes (teams : Nat) : Nat := 0x20000 + teams * 2 ^ 64 + 0x11 * 2 ^ 96 + (1 + 4 * 2 ^ 5 + 16 * 2 ^ 11) * 2 ^ 128
  + 2 ^ 62 * 2 ^ (8 * 0xC0) + 3 * 2 ^ (8 * 0xC8) + 0xFFFF * 2 ^ (8 * 0xCA)
/-- The record at the page, an issued LAUNCH that waits or not. -/
def launching (teams : Nat) (wait : Option Susp) : State := (State.updDie { walkOn with
    l2 := ((natLe 256 (recBytes teams)).mapIdx (fun i b => (0x10000 + i, b))).filter (fun e => decide (e.2 ≠ 0)) } 0 (fun d => { d with
  launches := [{ va := 0x10000, stamp := 2 ^ 62, node := 3, cap := 9, wait := wait }] }))
theorem launching_walk : walkB (launching 1 none) 0 0 0x10000 0x10000 .read true = true := by decide +kernel
theorem witness_Launch_read (ls : List LaunchReq) : let x := (launching 1 none).updDie 0 (fun d => { d with launches := ls })
    x.dieRead 0 0 0x10000 256 = (.ok ((launching 1 none).homeNat 0x10000 256), x) := by
  intro x
  have h : walkB x 0 0 0x10000 0x10000 .read true = true :=
    (walkB_same (by simp [x]) (by simp [x]) (by simp [x]) (by simp [x]) (by simp [x]) _ _ _ _ _).trans launching_walk
  rw [dieRead_of 256 h (by norm_num) (by decide +kernel)]
  rw [homeNat_same (s := launching 1 none) (by simp [x]) (by simp [x])]
theorem test_launchFault : (launching 1 none).homeNat 0x10000 256 = recBytes 1 ∧ launchFault ((launching 1 none).ctx 0) (recBytes 1) = 0
    ∧ launchFault ((launching 1 none).ctx 0) (recBytes 0) = 2 ∧ (launching 1 none).gridRoom 0 = true := by decide +kernel

/-- When the record's page was absent, to read again at time 7. -/
def absent7 : Susp := { va := 0x10000, retryAt := 7 }
theorem witness_LaunchTake : (launching 1 none).stop = none
    ∧ ((launching 1 none).die 0).launches.find? (fun x => x.wait.isNone) = some { va := 0x10000, stamp := 2 ^ 62, node := 3, cap := 9 }
    ∧ ((launching 1 (some absent7)).die 0).hostQueues = [] ∧ absent7.retryAt ≤ ({ launching 1 (some absent7) with ns := 7 } : State).ns
    ∧ ((launching 0 none).die 0).errRing = none ∧ dieOf 0 = 0 ∧ (launching 0 none).DistinctDeltas 0 := by
  unfold State.DistinctDeltas; decide +kernel
/-- R352, R349: the record becomes grid 0, counted already at its LAUNCH; with TEAMS 0 it is rejected, recorded, and uncounted; read
again when it is time. -/
theorem test_launchRecordTake : goesTo (execLaunchRecordTake 0 (launching 1 none)) (fun t =>
      decide ((tget t.grids 0 {}).toStart = [0] ∧ (tget t.grids 0 {}).lr.lanes = 4 ∧ (t.die 0).launches = [])) = true
    ∧ goesTo (execLaunchRecordTake 0 (launching 0 none)) (fun t =>
      decide (t.grids = [] ∧ (t.die 0).errSeq = 1 ∧ ((t.core 0).deltas.map (·.d)) = [-1])) = true
    ∧ goesTo (execRecordReadRetry 0 { launching 1 (some absent7) with ns := 7 }) (fun t => decide ((t.die 0).launches = [])) = true
    ∧ goesTo (execRecordReadRetry 0 { launching 1 (some absent7) with ns := 6 }) (fun t => decide (t.grids = [])) = true := by decide +kernel

/-- A submission queue of four entries at the page whose tail stands at 1. -/
def serving : State := (State.updDie { launching 1 none with
    l2 := ((natLe 256 (recBytes 1) ++ [1]).mapIdx (fun i b => (0x10000 + i, b))).filter (fun e => decide (e.2 ≠ 0)) } 0 (fun d => { d with
  launches := [], hostQueues := [(0, { ring := 0x10000, tailVa := 0x10100, statVa := 0x10140, woken := true })] }))
theorem serving_walks : walkB serving 0 0 0x10100 0x10100 .read true = true ∧ walkB serving 0 0 0x10000 0x10000 .read true = true
    ∧ walkB serving 0 0 0x10140 0x10140 .write true = true := by decide +kernel
theorem witness_TailWake : serving.stop = none ∧ (0 + 1) % 2 ^ 32 = serving.homeNat 0x10100 4
    ∧ tget? (serving.die 0).hostQueues 0 = some { ring := 0x10000, tailVa := 0x10100, statVa := 0x10140, woken := true }
    ∧ launchFault (serving.ctx 0) (serving.homeNat 0x10000 256) = 0 ∧ serving.gridRoom 0 = true
    ∧ serving.keeperRoom 0 0 3 (2 ^ 62) = true ∧ launchRec (serving.homeNat 0x10000 256) = launchRec (recBytes 1) := by
  decide +kernel
theorem witness_TailWake_reads (hq : Tab HostQueue) : let x := serving.updDie 0 (fun d => { d with hostQueues := hq })
    x.dieRead 0 0 0x10100 4 = (.ok (serving.homeNat 0x10100 4), x) ∧ x.dieRead 0 0 0x10000 256 = (.ok (serving.homeNat 0x10000 256), x) := by
  intro x
  have h (va : Nat) (w : walkB serving 0 0 va va .read true = true) : walkB x 0 0 va va .read true = true :=
    (walkB_same (by simp [x]) (by simp [x]) (by simp [x]) (by simp [x]) (by simp [x]) _ _ _ _ _).trans w
  rw [dieRead_of 4 (h _ serving_walks.1) (by norm_num) (by decide +kernel),
    dieRead_of 256 (h _ serving_walks.2.1) (by norm_num) (by decide +kernel),
    homeNat_same (a := x) (s := serving) (by simp [x]) (by simp [x]), homeNat_same (a := x) (s := serving) (by simp [x]) (by simp [x])]
  exact ⟨rfl, rfl⟩
theorem witness_TailWake_status (a : State) (hm : a.mem = serving.mem) (hl : a.l2 = serving.l2) (hc : a.ctxs = serving.ctxs) (hi : a.modIndex = serving.modIndex)
    (hw : ∀ d, (a.die d).walks = (serving.die d).walks) (hs : a.stop = none) (v : Nat) : (a.dieWrite 0 0 0x10140 64 v).stop = none := by
  obtain ⟨t, h1, h2⟩ := walk_of ((walkB_same (hw 0) hc hi hm hl _ _ _ _ _).trans serving_walks.2.2)
  have hn : (natLe 64 v).length = 64 := by simp [natLe]
  have hr : a.Reachable 0x10140 64 := reachable_low (by norm_num)
  unfold State.dieWrite State.putHomeNat State.putHome
  simp only [h1, h2, hn, hr.checkPa]
  split_ifs
  · exact hs
  · simpa [State.putHomeRaw_stop] using hs
/-- The queue at rest. -/
def resting : State := serving.updDie 0 (fun d => { d with hostQueues := [(0, { ring := 0x10000, tailVa := 0x10100, statVa := 0x10140 })] })
theorem witness_TailWake_rest : (resting.die 0).hostQueues.map (fun e => (e.2.woken, decide (e.2.tail = e.2.head))) = [(false, true)] := by
  decide +kernel
/-- R355: the record becomes a grid, is counted, and HEAD is 1. -/
theorem test_tailWake : goesTo (execTailWake 0 0 0 serving) (fun t => decide ((tget t.grids 0 {}).lr.lanes = 4
    ∧ ((tget? (t.die 0).hostQueues 0).map (·.head)) = some 1 ∧ t.homeNat 0x10140 4 = 1)) = true := by decide +kernel

/-- Core 1 idle, its wait over; core 2 with a task and a thief. -/
def room1 : Thief := (queued []).thief 1
def stealing : State := ((queued []).updCore 2 (fun c => { c with queue := [{ work := .task k1, prio := 5 }], thieves := [room1] }))
/-- The same where the work of the victim's own Pick is a team. -/
def victim : State := { stealing with grids := [(5, { g5 with prio := 9 })] }
/-- An answer that has come to core 1. -/
def answered (a : Option QEntry) : State := stealing.updCore 1 (fun c => { c with answer := some a })
def noGrid (s : State) : State := { s with grids := [(5, { g5 with pending := false, toStart := [] })] }
theorem witness_Steal : ((noGrid stealing).core 1).asked = none ∧ ((noGrid stealing).core 1).stealAt ≤ ((noGrid stealing).core 1).cycles
    ∧ (noGrid stealing).idle 1 = true ∧ (stealing.core 2).thieves = [room1] ∧ room1.core = 1 ∧ (stealing.core 2).off = false ∧ (stealing.core 2).gateAt = none
    ∧ victim.NothingWaits 0 ∧ (victim.core 2).bins = [] ∧ victim.stop = none ∧ (victim.core 2).thieves = [room1]
    ∧ victim.choose 2 (victim.candidates 2) 129 = some (.team 5 1)
    ∧ victim.stealChoice 2 room1 = some (0, { work := .task k1, prio := 5 })
    ∧ stealing.stealChoice 2 room1 = some (0, { work := .task k1, prio := 5 })
    ∧ (stealing.updCore 2 (fun c => { c with queue := [] })).stealChoice 2 room1 = none
    ∧ (answered (some { work := .task k1, prio := 5 })).workFits 1 (.task k1) = true
    ∧ (answered (some { work := .task k1, prio := 5 })).mayTake 1 5 0 = true
    ∧ (answered (some { work := .task k1, prio := 5 })).teams.all (fun x => decide (x.1 < (answered none).nextTeam)) = true
    ∧ (answered (some { work := .task k1, prio := 5 })).groups.all (fun x => decide (x.1 < (answered none).nextGroup)) = true := by
  unfold State.NothingWaits; decide +kernel
/-- R362, R363. -/
theorem test_steal : goesTo (execStealBackoff 1 (noGrid stealing)) (fun t => decide ((t.core 1).asked.isSome ∧ (t.core 1).asked ≠ some 1)) = true
    ∧ goesTo (execStealRequest 2 victim) (fun t => decide ((t.core 2).queue = [] ∧ (t.core 1).answer.isSome)) = true
    ∧ goesTo (execStealAnswer 1 (answered none)) (fun t => decide ((t.core 1).backoff = 128 ∧ (t.core 1).stealAt = 64)) = true
    ∧ goesTo (execStealAnswer 1 (answered (some { work := .task k1, prio := 5 }))) (fun t => decide (t.groups.length = 1)) = true := by decide +kernel

/-- Every core of die 0 with a team of priority 3 that has 2 MiB of scratchpad; a waiting task of priority 120 that asks as much. -/
def crowded : State :=
  (State.updCore { on with
    groups := [], teams := (List.range 16).map (fun i => (i, { core := i, prio := 3, spadLen := 2 ^ 21 }))
    grids := [(5, { g5 with pending := false, lr := { g5.lr with scratch := 2 ^ 21 } })], ns := 2000 } 1
    (fun c => { c with queue := [{ work := .task k1, prio := 120 }] }))
theorem witness_SchedulerPreempt : crowded.candidates 1 = [.coreEntry 0 { work := .task k1, prio := 120 }]
    ∧ crowded.host.preemptAt ≤ crowded.candPrio (.coreEntry 0 { work := .task k1, prio := 120 })
    ∧ crowded.candSince (.coreEntry 0 { work := .task k1, prio := 120 }) + 2000 ≤ crowded.ns
    ∧ State.candFits { crowded with teams := crowded.teams.filter (fun e => decide (e.1 ≠ 1)) } 1
        (.coreEntry 0 { work := .task k1, prio := 120 }) = true
    ∧ (∀ i < 16, crowded.candFits (dieOf 1 * 16 + i) (.coreEntry 0 { work := .task k1, prio := 120 }) = false)
    ∧ ((crowded.teams.filter (fun e => decide (e.2.core = 1) && !e.2.ended)).map (fun e => e.2.prio)) = [3]
    ∧ ((crowded.teams.filter (fun e => decide (e.2.core = 1) && !e.2.ended)).map (·.1)).any crowded.teamPreempting = false := by decide +kernel
/-- R361: the teams of core 1 get a PREEMPT of bound 0. -/
theorem test_schedulerPreempt : goesTo (execSchedulerPreempt 0 1 crowded) (fun t =>
    decide ((t.die 0).preempts.map (fun r => (r.cores, r.bound)) = [([1], 0)] ∧ (t.core 1).hold = some (120, 0))) = true := by decide +kernel

/-- The last group of its grid, exiting; the same with an operation not done. -/
def ending (ops : List POp) : State := { (on.updCur (fun g => { g with exiting := true, ops := ops, stamp := 2 ^ 62, node := 3, grid := 5 })) with
  grids := [(5, { g5 with groupsLeft := 1 })], teams := [(0, { groups := [0] })] }
theorem witness_GroupEnd : ((ending []).group 0).exiting = true ∧ (∃ o ∈ ((ending [{ instr := .sbstat 0 0 .missed }]).group 0).ops, o.stopped = false)
    ∧ ((ending []).group 0).spawns = [] ∧ rising (ending []).groups ∧ rising (ending []).teams ∧ (ending []).DistinctDeltas 0
    ∧ ((ending []).group 0).origin = .grid ∧ (tget (ending []).grids 5 {}).groupsLeft = 1
    ∧ ((ending []).team ((ending []).group 0).team).groups = [0]
    ∧ ((ending []).team ((ending []).group 0).team).inbound = 0 := by unfold State.DistinctDeltas rising; decide +kernel
theorem test_groupExit : goesTo (execGroupExit 0 (ending [])) (fun t =>
    decide (t.groups = [] ∧ t.teams = [] ∧ ((t.core 0).deltas.map (·.d)) = [-2] ∧ (tget t.grids 5 {}).groupsLeft = 0)) = true := by decide +kernel


/-! ### Visibility and samples -/

/-- A node record at VA 0x10000 (R174). -/
def nodeRec : QWord := (0x8000000000004000_0040000000010000 : BitVec 128)
theorem witness_Traversals : on.stop = none ∧ (withRec nodeRec).laneView {} 0 ≠ none ∧ (withRec nodeRec).PipeFree ((withRec nodeRec).cw.flagOf true)
    ∧ dstOk (withRec nodeRec).cg.n 185 7 = true ∧ srcOk (withRec nodeRec).cg.n 183 9 = true ∧ srcOk (withRec nodeRec).cg.n 255 1 = true
    ∧ recOk ((withRec nodeRec).ctx 0) ((withRec nodeRec).cg.brec 2) [4] recPs = true ∧ recBase ((withRec nodeRec).cg.brec 2) % 128 = 0
    ∧ recOk ((withRec nodeRec).ctx 0) ((withRec nodeRec).cg.brec 3) [4] recPs = false
    ∧ ((withRec nodeRec).cg.src 255 0).toNat < 2 ^ 16
    ∧ 2 ^ 16 ≤ (((withRec nodeRec).updCur (fun g => g.setV 5 0 0x10000)).cg.src 5 0).toNat := by unfold State.PipeFree; decide +kernel

/-- A VTRAV of lanes 0 and 1 in flight whose rays' interval is empty; a VTRAVC with END, ACCEPT or not. -/
def travOp (i : Instr) : POp := { id := 7, instr := i, act := 3, zero := 4, vals := [(3, 0x40000000), (7, 0x3F800000), (64, 0x7FC00000)] }
def travOn (i : Instr) (w : Option Walk) : State := onV [(9, 1)] |>.updCur (fun g =>
  { g with ops := [travOp i], lanes := Vector.replicate 32 { walk := w } })
theorem witness_TraversalEnds : (travOn (.vtrav 4 0 2 false 0) none).MayEnd 0 (travOp (.vtrav 4 0 2 false 0))
    ∧ travWord (.vtrav 4 0 2 false 0) = some (4, 0x60) ∧ (travOp (.vtrav 4 0 2 false 0)).act &&& (travOp (.vtrav 4 0 2 false 0)).zero = 0#32
    ∧ ((travOn (.vtrav 4 0 2 false 0) none).group 0).errors = [] ∧ ((travOn (.vtrav 4 0 2 false 0) none).group 0).preempt = none
    ∧ (∀ k < 32, inMask (travOp (.vtrav 4 0 2 false 0)).act k = true → RayEnds (travOp (.vtrav 4 0 2 false 0)) k {} missWords) := by
  refine ⟨by unfold State.MayEnd; decide +kernel, rfl, by decide +kernel, by decide +kernel, by decide +kernel, ?_⟩
  have h : ∀ k < 32, inMask (travOp (.vtrav 4 0 2 false 0)).act k = true → k = 0 ∨ k = 1 := by decide +kernel
  intro k hk ha
  obtain rfl | rfl := h k hk ha
  · exact .noRay rfl (.inr (by decide +kernel))
  · exact .noRay rfl (.inl ⟨0, by decide, by decide +kernel⟩)
def hitA : Hit := { t32 := 0x3F800000, w1 := 1, w2 := 2, prim := 3, inst := 4, geom := 5, back := true }
theorem witness_RayEnds (o : POp) (k : Nat) (ho : tget o.vals (k * 64) 0 = 9) :
    (o.instr = .vtravc 4 8 false 3 → RayEnds o k { walk := some { gen := 9, status := some 2, cand := some hitA } } hitA.words)
    ∧ (o.instr = .vtravc 4 8 false 2 → RayEnds o k { walk := some { gen := 9, status := some 2, best := some hitA } } hitA.words)
    ∧ (o.instr = .vtravc 4 8 false 2 → RayEnds o k { walk := some { gen := 9, status := some 3, best := some hitA } } hitA.words)
    ∧ (o.instr = .vtravc 4 8 false 2 → RayEnds o k { walk := some { gen := 9, status := some 2 } } missWords)
    ∧ (o.instr = .vtravc 4 8 false 2 → StaleLane o k { walk := some { gen := 8, status := some 2 } }) := by
  refine ⟨fun h => .accepted h rfl rfl rfl ho.symm rfl rfl, fun h => .discarded h rfl rfl rfl ho.symm rfl rfl,
    fun h => .deep h rfl rfl ho.symm rfl rfl, fun h => .nothing h (.inl rfl) rfl rfl ho.symm (.inl rfl) rfl, fun h => ⟨⟨_, _, _, _, h⟩, ?_⟩⟩
  rintro w ⟨⟩
  rw [ho]
  decide
/-- R253: both rays miss, and the masked lane's registers are zero. -/
theorem test_vtravEnds : goesTo (execTraversalComplete 0 7 (travOn (.vtrav 4 0 2 false 0) none)) (fun t => decide
      ((t.group 0).vreg 4 0 = 0x7F800000 ∧ (t.group 0).vreg 4 1 = 0x7F800000 ∧ (t.group 0).vreg 9 0 = 0)) = true := by decide +kernel
theorem witness_Vrast : on.laneView {} 0 ≠ none ∧ on.PipeFree (on.cw.flagOf false) ∧ dstOk on.cg.n 188 4 = true ∧ (250#8).toNat ≤ 250
    ∧ (255#8).toNat ≥ 192 ∧ (let tok := 383 + 383 * 2 ^ 9 + 256 * 2 ^ 18 + 15 * 2 ^ 27
      tok % 512 ≤ 383 ∧ tok / 2 ^ 9 % 512 ≤ 383 ∧ tok / 2 ^ 18 % 512 ≤ 256 ∧ tok < 2 ^ 31) ∧ ¬ (384 % 512 ≤ 383) := by
  unfold State.PipeFree; decide +kernel
/-- A VRAST of lanes 0 and 1 whose first coordinate is no number, NEXT at 256, SIZE code 0. -/
def rastOp : POp := { id := 7, instr := .vrast 4 200 210, act := 3, args := [0x7FC00000, 0, 0, 0, 0, 0, 256 * 2 ^ 18] }
def rastOn : State := on.updCur (fun g => { g with ops := [rastOp] })
theorem witness_VrastEnds : (rastOn.group 0).op? 7 = some rastOp ∧ rastOp.act &&& rastOp.zero = 0#32 ∧ rastOp.act ≠ 0#32
    ∧ (rastOn.disp (dieOf (rastOn.group 0).core)).block = none ∧ rastOp.arg 6 < 2 ^ 31 ∧ rastOp.arg 6 / 2 ^ 18 % 512 ≤ 256
    ∧ ∃ j < 6, snap (rastOp.arg j) = none := by decide +kernel
/-- R257. -/
theorem test_vrastComplete : goesTo (execVrastComplete 0 7 rastOn) (fun t => decide ((t.group 0).vreg 7 1 = 0x80000000
    ∧ (t.group 0).sreg 18 = BitVec.ofNat 32 (256 * 2 ^ 18))) = true := by decide +kernel

/-- R367: a block of one band, of 16 rows of 16 pixels, of a sweep each 16 ms from module time 32 ms on, its lead 1 ms, a tick each 1 µs, a wave's
wait 250 ns, two rows sent ahead; its history image and shader record in page 1; the last two columns overlap; caps of
four slots, half-life 10 µs, expiry 100 µs. -/
def blk : Nat := 1 + 32000000 * 2 ^ (8 * 0x10) + 16000000 * 2 ^ (8 * 0x18) + 16 * 2 ^ (8 * 0x1C) + 16 * 2 ^ (8 * 0x1E) + 1000000 * 2 ^ (8 * 0x20)
  + 1000 * 2 ^ (8 * 0x24) + 250 * 2 ^ (8 * 0x26) + (2 + 2 ^ 4) * 2 ^ (8 * 0x28) + 0x18000 * 2 ^ (8 * 0x30) + 14 * 2 ^ (8 * 0x4A) + 15 * 2 ^ (8 * 0x4C)
  + 0x10000 * 2 ^ (8 * 0x58) + (0x1F000 + 4 * 2 ^ 52) * 2 ^ (8 * 0x60) + (10 * 2 ^ 8 + 100 * 2 ^ 24) * 2 ^ (8 * 0x400)
theorem test_blockOk : blockOk {} blk = true ∧ bRows blk = 16 ∧ bWidth blk = 16 ∧ lightTime blk 1 8 = 56000000 ∧ sendTime blk 1 8 = 54000000
    ∧ cutoffTime blk 1 0 = 47000000 ∧ bBand blk 0 = (4, 10, 100) := by decide +kernel
/-- The group of context 0 with the display right, and the units of die 0 as `f` makes them. -/
def showing (f : Display → Display) : State := (withCtx on (fun c => { c with disp := 1 })).updDie 0 (fun d =>
  { d with disp := f { granted := some 0, block := some blk, run := true, enableBit := true, linkUp := true } })
theorem witness_DisplayWords : (showing id).displayRight (showing id).cg = true ∧ on.displayRight on.cg = false
    ∧ (showing id).laneView {} 0 ≠ none ∧ (showing id).PipeFree ((showing id).cw.flagOf true) ∧ (showing id).PipeFree ((showing id).cw.flagOf false)
    ∧ (showing id).Enabled ∧ srcOk on.cg.n 184 8 = true ∧ dstOk on.cg.n 184 8 = true ∧ dstOk on.cg.n 190 2 = true ∧ srcOk on.cg.n 255 1 = true
    ∧ (∀ k < 32, ((onV [(1, 0x0FFFFFFF)]).cg.vreg 1 k).toNat < 2 ^ 28) ∧ 2 ^ 28 ≤ ((onV [(1, 0x10000000)]).cg.vreg 1 0).toNat
    ∧ (60#6).toNat + (15#4).toNat / 4 < 64 ∧ (62#6).toNat ≤ 62 ∧ ((onS [(4, 0x1FFF1FFF)]).cg.sreg 4 &&& 0xE000E000#32) = 0#32
    ∧ ((onS [(4, 0x2000)]).cg.sreg 4 &&& 0xE000E000#32) ≠ 0#32 := by unfold State.PipeFree State.Enabled; decide +kernel
/-- R247: without the right VSEMIT traps ACCESS; with it, it goes in flight. -/
theorem test_displayRight : causeOf (execVsemit 0 false on) = 4
    ∧ goesTo (execVsemit 0 false (showing id)) (fun t => decide (t.cg.ops.length = 1)) = true
    ∧ causeOf (execVsbg 8 0 16 ((showing id).updCur (fun g => g.setV 1 0 0x10000000))) = 1 := by decide +kernel

/-- An operation in flight on the display. -/
def inFlight (f : Display → Display) (o : POp) : State := (showing f).updCur (fun g => { g with ops := [o] })
def priowOp : POp := { id := 7, instr := .priow 0 1 1, args := [384 * 384 - 1, 0x12, 0x34] }
/-- Two pixels from x0 14 of row 9 of sweep 1. -/
def rowoutOp : POp := { id := 7, instr := .rowout 0 1, act := 0x80000001, args := [9 + 14 * 2 ^ 16, 1], vals := [(0, 0x3FFFFFFF), (31 * 64, 5)] }
def sbstatOp : POp := { id := 7, instr := .sbstat 9 0 .freepages }
theorem witness_DisplayEnds : (inFlight id priowOp).MayEnd 0 priowOp ∧ (inFlight id rowoutOp).MayEnd 0 rowoutOp
    ∧ (inFlight id sbstatOp).MayEnd 0 sbstatOp ∧ 9 < bRows blk ∧ ((inFlight id rowoutOp).disp 0).nextRow ≤ 1 * bRows blk + 9
    ∧ 1 * bRows blk + 9 < ((inFlight id rowoutOp).disp 0).nextRow + 64 ∧ (inFlight id rowoutOp).ns < sendTime blk 1 9
    ∧ 1 < priowOp.args.length ∧ 384 * 384 + 1 < priowOp.arg 0 + priowOp.args.length := by unfold State.MayEnd; decide +kernel
/-- R264: the last tile has its byte, and the one past the grid sets OOB; R265: the pixel of the second active lane stands at 15. -/
theorem test_displayEnds : goesTo (execPriowComplete 0 7 (inFlight id priowOp)) (fun t => decide
      (((t.disp 0).tile (384 * 384 - 1)).prio = 0x12 ∧ (t.group 0).status.getLsbD 0 = true)) = true
    ∧ goesTo (execRowoutComplete 0 7 (inFlight id rowoutOp)) (fun t => decide
      ((t.disp 0).ring = [(25 * 2 ^ 13 + 14, 0x3FFFFFFF), (25 * 2 ^ 13 + 15, 5)] ∧ (t.disp 0).rowRej = 0)) = true
    ∧ goesTo (execSbstatComplete 0 7 (inFlight id sbstatOp)) (fun t => decide ((t.group 0).sreg 9 = 1048576)) = true := by decide +kernel


/-- Record of a lane: X 40, Y 24 in eighths of a pixel, TIME 0, IDEPTH 0, CONF one. -/
def recWords : List Word := [40 + 24 * 2 ^ 16, 0, 0x3C000000, 0, 0, 0, 0, 0]
def emitOp (x : Nat) : POp := { id := 7, instr := .vsemit 0 false, act := 8, vals := [(192, x + 24 * 2 ^ 16), (194, 0x3C000000)] }
theorem test_lanesOf : lanesOf (emitOp 0).act = [3] := by decide +kernel
theorem witness_Samples : (inFlight id (emitOp 40)).MayEnd 0 (emitOp 40) ∧ ((inFlight id (emitOp 40)).disp 0).block = some blk
    ∧ recordTile ((inFlight id (emitOp 40)).record 0 (emitOp 40) 3) = 0
    ∧ (((inFlight id (emitOp 40)).record 0 (emitOp 40) 3).getD 7 0).getLsbD 17 = false
    ∧ (((inFlight id (emitOp 112)).record 0 (emitOp 112) 3).getD 7 0).getLsbD 17 = true
    ∧ mirrorX blk ((inFlight id (emitOp 112)).record 0 (emitOp 112) 3) = some 112
    ∧ (((inFlight id (emitOp 40)).disp 0).tile 0) = {} := by unfold State.MayEnd; decide +kernel
theorem witness_onDisplay : onDisplay blk ((inFlight id (emitOp 127)).record 0 (emitOp 127) 3)
    ∧ ¬ onDisplay blk ((inFlight id (emitOp 128)).record 0 (emitOp 128) 3) := by unfold onDisplay; decide +kernel
/-- A new page for the first sample; the lowest free slot of a page; and, of a full cap, the older. -/
theorem witness_SlotFor : SlotFor blk 0 {} 9 (bBand blk 0) 0 1 0
    ∧ SlotFor blk 0 { pages := 1, slots := [(0, recWords), (2, recWords)] } 9 (bBand blk 0) 1 0 0
    ∧ SlotFor blk 125 { pages := 1, slots := [(0, recWords), (1, recWords.set 1 1), (2, recWords), (3, recWords)] } 9 (4, 10, 100) 0 0 1 := by
  refine ⟨.newPage (by decide +kernel) (by decide +kernel) (by decide), .lowestFree (by decide +kernel) (by decide +kernel) (by decide +kernel),
    .leastRetained (by decide +kernel) (by decide) (by decide) (by decide +kernel) (by decide +kernel)⟩
/-- R259, R261: the sample stands in slot 0 of its tile; one on an overlap column is mirrored; one beyond the last column is dropped. -/
theorem test_vsemit : goesTo (execVsemitComplete 0 7 (inFlight id (emitOp 40))) (fun t => decide
      (((t.disp 0).tile 0).slots.map (·.1) = [0] ∧ (t.disp 0).freePages = 1048575 ∧ (t.disp 1).inbox = [])) = true
    ∧ goesTo (execVsemitComplete 0 7 (inFlight id (emitOp 127))) (fun t => decide ((t.disp 1).inbox.map (·.x) = [127])) = true
    ∧ goesTo (execVsemitComplete 0 7 (inFlight id (emitOp 128))) (fun t => decide ((t.disp 0).dropped = 1)) = true := by decide +kernel
/-- A mirror that has arrived. -/
def mirrored (x : Int) : State := showing (fun d => { d with inbox := [{ x := x, words := recWords }] })
theorem witness_Mirror : ((mirrored 40).disp 0).granted = some 0 ∧ ((mirrored 40).disp 0).enableBit = true ∧ ((mirrored 40).disp 0).block = some blk
    ∧ onDisplay blk ((recWords.set 0 (((recWords.getD 0 0) &&& 0xFFFF0000#32) ||| BitVec.ofNat 32 (40 : Int).toNat)).set 7 ((recWords.getD 7 0) ||| 0x10000#32))
    ∧ ¬ onDisplay blk ((recWords.set 0 (((recWords.getD 0 0) &&& 0xFFFF0000#32) ||| BitVec.ofNat 32 (65535 : Int).toNat)).set 7
        ((recWords.getD 7 0) ||| 0x10000#32)) := by unfold onDisplay; decide +kernel
theorem test_mirrorReceive : goesTo (execMirrorReceive 0 (mirrored 40)) (fun t => decide ((t.disp 0).mirrorIn = 1
      ∧ (((t.disp 0).tile 0).slots.map (fun e => e.2.getD 7 0)) = [0x10000])) = true
    ∧ goesTo (execMirrorReceive 0 (mirrored (-1))) (fun t => decide ((t.disp 0).dropped = 1)) = true := by decide +kernel
/-- A VSBG of lane 0 from slot 1 on, with a limit of 100 units, over samples of ages 0, 101 and 100. -/
def sbgOp : POp := { id := 7, instr := .vsbg 8 0 16, act := 1, vals := [(0, 101), (1, 2 ^ 18), (2, 100)] }
def gathering : State := inFlight (fun d => { d with tiles := [(0, { pages := 1, slots :=
  [(0, recWords.set 1 101), (1, recWords), (3, recWords.set 1 1)] })] }) sbgOp
theorem witness_Vsbg : gathering.MayEnd 0 sbgOp ∧ sbgOp.act &&& sbgOp.zero = 0#32 ∧ inMask sbgOp.act 0 = true
    ∧ ((gathering.disp 0).tile 0).slots.Pairwise (fun a b => a.1 < b.1) ∧ tget? ((gathering.disp 0).tile 0).slots 3 = some (recWords.set 1 1)
    ∧ (BitVec.ofNat 32 101 - (recWords.set 1 1).getD 1 0).toInt ≤ 100 ∧ ¬ ((BitVec.ofNat 32 101 - recWords.getD 1 0).toInt ≤ 100)
    ∧ 16 * 0 < bWidth blk ∧ ¬ (16 * 1 < bWidth blk) := by unfold State.MayEnd; decide +kernel
/-- R262: the sample of slot 1 is too old, that of slot 3 is not; the token's NEXT is 4. -/
theorem test_vsbg : goesTo (execVsbgComplete 0 7 gathering) (fun t => decide
    ((t.group 0).vreg 9 0 = 1 ∧ (t.group 0).vreg 1 0 = 4 * 2 ^ 18)) = true := by decide +kernel

/-! ### Display control block, bands, rows -/

/-- The bytes that are not zero of the block `blk` at VA 0x10000 and of a shader record at 0x18000. -/
def blkCells : Tab Byte := [
  (0x10000, 1), (0x10011, 72), (0x10012, 232), (0x10013, 1), (0x10019, 36), (0x1001A, 244), (0x1001C, 16), (0x1001E, 16),
  (0x10020, 64), (0x10021, 66), (0x10022, 15), (0x10024, 232), (0x10025, 3), (0x10026, 250), (0x10028, 18), (0x10031, 128),
  (0x10032, 1), (0x1004A, 14), (0x1004C, 15), (0x1005A, 1), (0x10061, 240), (0x10062, 1), (0x10066, 64), (0x10401, 10),
  (0x10403, 100), (0x18002, 2), (0x18008, 1), (0x1800C, 17), (0x18010, 1), (0x18011, 132), (0x180C7, 64), (0x180C8, 3),
  (0x180CA, 255), (0x180CB, 255)]
/-- Both in the memory of context 0, which has the display right. -/
def blockAt (f : Display → Display) : State :=
  (withCtx ({ walkOn with l2 := blkCells }) (fun c => { c with disp := 1, dispVa0 := 0x10000 })).updDie 0 (fun d =>
    { d with disp := f { granted := some 0, linkUp := true } })
theorem blockAt_walk : walkB (blockAt id) 0 0 0x10000 0x10000 .read false = true
    ∧ walkB (blockAt id) 0 0 0x18000 0x18000 .read false = true := by decide +kernel
theorem unitRead_of {s : State} {die ctx va key} (n : Nat) (h : walkB s die ctx va key .read false = true) (hk : key + n ≤ 2 ^ 20)
    (hp : pageSpans va n = [(va, n)]) :
    s.UnitReads die ctx va n (some (s.homeNat key n)) := by
  have go : ∀ s' : State, walkB s' die ctx va key .read false = true → s'.unitRead die ctx va n = (some (s'.homeNat key n), s') := by
    intro s' h'
    obtain ⟨t, h1, h2⟩ := walk_of h'
    unfold State.unitRead
    simp only [hp, State.dieSpans, h1, h2, (reachable_low hk).checkPa, Nat.mul_zero, Nat.add_zero]
  refine ⟨go s h, fun f => ?_⟩
  have h' : walkB (s.updDisp die f) die ctx va key .read false = true :=
    (walkB_same (by simp [State.updDisp]) (by simp [State.updDisp]) (by simp [State.updDisp]) (by simp [State.updDisp]) (by simp [State.updDisp]) _ _ _ _ _).trans h
  rw [go _ h', homeNat_same (a := s.updDisp die f) (s := s) (by simp [State.updDisp]) (by simp [State.updDisp])]
theorem test_shaderOk : shaderOk (recBytes 1 + 28 * 2 ^ (8 * 16 + 5)) = true ∧ blockOk ((blockAt id).ctx 0) blk = true
    ∧ (blockAt id).homeNat 0x18000 256 = recBytes 1 + 28 * 2 ^ (8 * 16 + 5) := by decide +kernel
theorem leNat_append : ∀ xs ys : List Byte, leNat (xs ++ ys) = leNat xs + 256 ^ xs.length * leNat ys
  | [], ys => by simp [leNat]
  | x :: xs, ys => by simp only [List.cons_append, leNat, leNat_append xs ys, List.length_cons, pow_succ]; ring
theorem homeNat_add (s : State) (key a b : Nat) : s.homeNat key (a + b) = s.homeNat key a + 256 ^ a * s.homeNat (key + a) b := by
  unfold State.homeNat State.homeBytes
  rw [List.range_add, List.map_append, leNat_append, List.map_map]
  simp [Function.comp_def, Nat.add_assoc]
theorem byteAt_none : ∀ (t : Bytes) (a : Nat), (∀ e ∈ t, e.1 ≠ a) → byteAt t a = 0
  | [], _, _ => rfl
  | (j, x) :: t, a, h => by
    have h1 : a ≠ j := fun e => h (j, x) (by simp) e.symm
    unfold byteAt
    split_ifs
    · rfl
    · exact byteAt_none t a (fun e he => h e (by simp [he]))
theorem tget?_none : ∀ (t : Tab Byte) (a : Nat), (∀ e ∈ t, e.1 ≠ a) → tget? t a = none
  | [], _, _ => rfl
  | (j, x) :: t, a, h => by
    have h1 : a ≠ j := fun e => h (j, x) (by simp) e.symm
    unfold tget?
    split_ifs
    · rfl
    · exact tget?_none t a (fun e he => h e (by simp [he]))
theorem homeNat_zero {s : State} {key n : Nat} (h : (s.l2 ++ s.mem).all (fun e => decide (e.1 < key ∨ key + n ≤ e.1)) = true) :
    s.homeNat key n = 0 := by
  have hb : ∀ i < n, s.homeByte (key + i) = 0 := by
    intro i hi
    have hx : ∀ e ∈ s.l2 ++ s.mem, e.1 ≠ key + i := by
      intro e he
      have := List.all_eq_true.mp h e he
      simp only [decide_eq_true_eq] at this
      omega
    have h1 := byteAt_none s.mem (key + i) (fun e he => hx e (by simp [he]))
    have h2 := tget?_none s.l2 (key + i) (fun e he => hx e (by simp [he]))
    unfold State.homeByte
    rw [h1, h2]; rfl
  have hz : ∀ m, leNat (List.replicate m (0 : Byte)) = 0 := by
    intro m; induction m with
    | zero => rfl
    | succ m ih => rw [List.replicate_succ, leNat, ih]; rfl
  have : s.homeBytes key n = List.replicate n 0 := by
    unfold State.homeBytes
    refine List.ext_getElem (by simp) (fun i h1 h2 => ?_)
    simp only [List.length_map, List.length_range] at h1
    simpa using hb i h1
  rw [State.homeNat, this, hz]
theorem test_blockBytes : (blockAt id).homeNat 0x10000 4096 = blk := by
  rw [show 4096 = 112 + (912 + (8 + 3064)) from rfl, homeNat_add, homeNat_add, homeNat_add,
    homeNat_zero (key := 0x10000 + 112) (by decide +kernel), homeNat_zero (n := 3064) (by decide +kernel)]
  decide +kernel
theorem witness_BlockStands : (blockAt id).BlockStands 0 0 blk (recBytes 1 + 28 * 2 ^ (8 * 16 + 5)) := by
  have h1 := unitRead_of 4096 blockAt_walk.1 (by norm_num) (by decide +kernel)
  have h2 := unitRead_of 256 blockAt_walk.2 (by norm_num) (by decide +kernel)
  rw [test_blockBytes] at h1
  rw [test_shaderOk.2.2] at h2
  have e1 : ((blockAt id).ctx 0).dispVa0 = 0x10000 := by decide +kernel
  have e2 : recField blk 0x30 64 0 = 0x18000 := by decide +kernel
  refine ⟨?_, test_shaderOk.2.1, by decide +kernel, ?_, test_shaderOk.1⟩
  · rw [if_pos rfl, e1]; exact h1
  · rw [e2]; exact h2

theorem unitRead_none {s : State} {die ctx va n m : Nat} {ps} (hp : pageSpans va n = (va, m) :: ps) (hw : (s.die die).walks = [])
    (hk : homeKey die ((s.ctx ctx).root die + 8 * (va / 2 ^ 40 % 4096)) + 8 ≤ 2 ^ 20)
    (hz : s.homeNat (homeKey die ((s.ctx ctx).root die + 8 * (va / 2 ^ 40 % 4096))) 8 = 0) : s.UnitReads die ctx va n none := by
  have go : ∀ s' : State, (s'.die die).walks = [] → s'.ctxs = s.ctxs → s'.mem = s.mem → s'.l2 = s.l2 →
      s'.unitRead die ctx va n = (none, s') := by
    intro s' h1 h2 h3 h4
    have hc : s'.ctx ctx = s.ctx ctx := by unfold State.ctx; rw [h2]
    have hz' := (homeNat_same h3 h4 (homeKey die ((s.ctx ctx).root die + 8 * (va / 2 ^ 40 % 4096))) 8).trans hz
    have hv : (pteV 0#64 && !pteLeaf 0#64) = false := by decide
    have hv' : nodeOk 0#64 = false := by decide
    have hc' : classify none .read false va = .access := rfl
    have hn : s'.walkNode die ctx 1 (va / 2 ^ 40) (homeKey die ((s.ctx ctx).root die + 8 * (va / 2 ^ 40 % 4096))) = (0#64, s') := by
      unfold State.walkNode
      simp only [h1, List.find?_nil, (reachable_low hk).checkPa, hz', hv, Bool.false_eq_true, if_false]
    simp only [State.unitRead, hp, State.dieSpans]
    unfold State.walk
    simp only [hc, hn, hv', Bool.not_false, if_true, hc']; split_ifs <;> rfl
  exact ⟨go s hw rfl rfl rfl, fun f => go _ (by simp [State.updDisp, hw]) (by simp [State.updDisp]) (by simp [State.updDisp])
    (by simp [State.updDisp])⟩

theorem witness_UnitReads_none : (showing id).UnitReads 0 0 0x10000 4096 none :=
  unitRead_none (m := 4096) (ps := []) (by decide +kernel) (by decide +kernel) (by decide +kernel) (by decide +kernel)
theorem witness_BlockRetry : ((blockAt id).disp 0).granted = some 0 ∧ ((blockAt id).disp 0).block = none ∧ ((blockAt id).disp 0).run = false
    ∧ ((blockAt id).disp 0).enableBit = false ∧ ((blockAt id).disp 0).retryAt ≤ (blockAt id).ns
    ∧ tget? (blockAt id).grids ((blockAt id).disp 0).shader = none ∧ blk % 2 = 1
    ∧ (blockAt id).ns + 1000000 ≤ lightTime blk 0 0 ∧ (0 : Nat) < ((showing (fun d => { d with block := none, retryAt := 1 })).disp 0).retryAt := by
  decide +kernel
/-- The block held, sweeps on, module time 40 ms, in sweep 0; a sweep boundary at 48 ms or due. -/
def sweeping (next : Nat) : State := { blockAt (fun d => { d with block := some blk, run := true, enableBit := true, nextSweep := next }) with
  ns := 40000000, grids := [(0, { lr := launchRec (recBytes 1 + 28 * 2 ^ (8 * 16 + 5)) })] }
theorem witness_SweepBoundary : (sweeping 1).ns < lightTime blk ((sweeping 1).disp 0).nextSweep 0 ∧ lightTime blk ((sweeping 0).disp 0).nextSweep 0 ≤ (sweeping 0).ns
    ∧ bSweep0 blk ≤ (sweeping 0).ns ∧ ((sweeping 0).ns - bSweep0 blk) / bSweepNs blk + 1 ≤ 2 ^ 22
    ∧ tget? (sweeping 0).grids ((sweeping 0).disp 0).shader = some { lr := launchRec (recBytes 1 + 28 * 2 ^ (8 * 16 + 5)) }
    ∧ ((sweeping 0).disp 0).recon = ((sweeping 0).disp 0).shader ∧ (State.reportStatus (showing id) 0 1).stop = none
    ∧ (∀ e ∈ ((showing id).disp 0).bands, e.2.isOpen = false) := by decide +kernel
/-- R367, R368, R370. -/
theorem test_blockRetry_none : goesTo (execBlockRetry 0 (showing (fun d => { d with block := none }))) (fun t => decide ((t.disp 0).block = none
    ∧ (t.disp 0).retryAt = 1000000)) = true := by decide +kernel
/-- Band 0 as `x`, at module time `ns`. -/
def banding (ns : Nat) (x : Band) : State := { showing (fun d => { d with bands := [(0, x)], tiles := [(0, { prio := 7 })], tickAt := ns }) with
  ns := ns, grids := [(0, { lr := { node := 3, prio := 5 } })] }
theorem witness_Bands : ((banding 40000000 { sweep := 1 }).disp 0).run = true ∧ 16 * 0 < bRows blk ∧ openTime blk 1 0 ≤ 40000000
    ∧ (40000000 : Nat) < cutoffTime blk 1 0 ∧ cutoffTime blk 0 0 ≤ 40000000 ∧ (banding 40000000 { sweep := 1 }).keeperRoom 0 0 3 (mkStamp 2 1 0 0) = true
    ∧ (banding 40000000 {}).NothingWaits 0 ∧ recField blk 0x28 2 10 = 0 ∧ rising ((banding 40000000 {}).disp 0).bands
    ∧ rising ((banding 40000000 {}).disp 0).tiles ∧ ((banding 40000000 {}).die 0).queue.length < 4096
    ∧ (∀ e ∈ ((banding 40000000 {}).disp 0).tiles, e.2.accum + ((banding 40000000 {}).disp 0).effective blk e.1 < 256)
    ∧ (0 : Nat) + recField blk 0x26 16 0 ≤ 40000000 ∧ (40000000 : Nat) < 39999751 + recField blk 0x26 16 0 := by
  unfold State.NothingWaits rising; decide +kernel
/-- A Keeper whose table is full of other pointstamps. -/
theorem witness_BandWaits : ((banding 40000000 { sweep := 1 }).updDie 0 (fun d => { d with
    keeper := (List.replicate 4096 { node := 9, stamp := 1, count := 1 }) })).keeperRoom 0 0 3 (mkStamp 2 1 0 0) = false
    ∧ ((banding 40000000 { node := 5 }).lr ((banding 40000000 { node := 5 }).disp 0).shader).node ≠ (((banding 40000000 { node := 5 }).disp 0).band 0).node
    ∧ ((banding 40000000 { node := 3 }).lr ((banding 40000000 { node := 3 }).disp 0).shader).node = (((banding 40000000 { node := 3 }).disp 0).band 0).node
    ∧ (banding 40000000 {}).keeperRoom 0 0 3 (mkStamp 2 0 0 0) = true := by decide +kernel
/-- R369, R374, R375: the band opens and is counted once; at its cutoff it closes, and its samples become a gathering wave. -/
theorem test_bands : goesTo (execBandOpen 0 0 (banding 40000000 { sweep := 1 })) (fun t => decide
      (((t.disp 0).band 0).isOpen ∧ (t.die 0).batches.length = 1)) = true
    ∧ goesTo (execBandCutoff 0 0 (banding 48000000 { sweep := 1, isOpen := true, gather := [(1, 2)] })) (fun t => decide
      (((t.disp 0).band 0).sweep = 2 ∧ (t.die 0).queue.length = 1)) = true
    ∧ goesTo (execWavewait 0 0 (banding 250 { gather := [(1, 2)] })) (fun t => decide ((t.die 0).queue.length = 1)) = true
    ∧ goesTo (execSweepTick 0 (banding 40000000 { sweep := 1, isOpen := true })) (fun t => decide
      ((t.disp 0).tickAt = 40001000 ∧ ((t.disp 0).tile 0).accum = ((banding 0 {}).disp 0).effective blk 0)) = true := by decide +kernel
/-- A band whose ageing is due, over a sample 100 µs old and one older. -/
def ageing : State := { banding 0 { ageAt := 100000 } with ns := 100000 } |>.updDisp 0 (fun d => { d with
  tiles := [(0, { pages := 2, slots := [(0, recWords), (17, recWords.set 1 0xFFFFFFFF)] })] })
theorem witness_Ageing : ((ageing.disp 0).band 0).ageAt ≤ ageing.ns ∧ rising (ageing.disp 0).tiles ∧ sampleAge blk 100000 0 = 2000 * (bBand blk 0).2.2
    ∧ ((banding 0 { ageAt := 100000 }).disp 0).band 0 = { ageAt := 100000 } := by unfold rising; decide +kernel
/-- R377: the older sample goes with its page. -/
theorem test_ageing : goesTo (execBasinAgeing 0 0 ageing) (fun t => decide (((t.disp 0).tile 0).slots.map (·.1) = [0]
    ∧ ((t.disp 0).tile 0).pages = 1 ∧ (t.disp 0).freePages = 1048577)) = true := by decide +kernel


/-- The row feeder at row 1 of sweep 2 (row number 33), due at 62 ms, with `n` of its 16 pixels in the window. -/
def feeding (n ns : Nat) (f : Display → Display) : State := { showing (fun d => f { d with
  nextRow := 33, ring := (List.range n).map (fun x => (33 * 2 ^ 13 + x, x)) }) with ns := ns }
theorem witness_Rows : (feeding 16 0 id).ns < sendTime blk (33 / bRows blk) (33 % bRows blk)
    ∧ sendTime blk (33 / bRows blk) (33 % bRows blk) ≤ (feeding 16 63000000 id).ns
    ∧ ((feeding 16 63000000 (fun d => { d with linkUp := false })).disp 0).linkUp = false
    ∧ ((feeding 16 63000000 (fun d => { d with pattern := some [0] })).disp 0).pattern ≠ none
    ∧ (∀ x < bWidth blk, tget? ((feeding 16 63000000 id).disp 0).ring (33 * 2 ^ 13 + x) ≠ none)
    ∧ (∃ x < bWidth blk, tget? ((feeding 15 63000000 id).disp 0).ring (33 * 2 ^ 13 + x) = none)
    ∧ 33 % bRows blk ∉ ((feeding 15 63000000 id).disp 0).history := by decide +kernel
/-- With no page of the history image mapped, no part of the row is stored. -/
theorem witness_PutHistory (va : Nat) (bs : List Byte) (hva : va + 23040 < 2 ^ 40) : ((feeding 16 63000000 id).putHistory 0 0 va bs 45).stop = none := by
  have hw : ∀ v, v < 2 ^ 40 → ∀ b, (feeding 16 63000000 id).unitWrite 0 0 v b = feeding 16 63000000 id := by
    intro v hv b
    have hn : (feeding 16 63000000 id).walkNode 0 0 1 (v / 2 ^ 40) (homeKey 0 (((feeding 16 63000000 id).ctx 0).root 0 + 8 * (v / 2 ^ 40 % 4096)))
        = (0#64, feeding 16 63000000 id) := by rw [show v / 2 ^ 40 = 0 by omega]; rfl
    have hv' : (pteV 0#64 && !pteLeaf 0#64) = false := by decide
    unfold State.unitWrite State.walk
    simp only [hn, hv', Bool.not_false, if_true]
    rfl
  have go : ∀ n v b, v + 512 * n < 2 ^ 40 → (feeding 16 63000000 id).putHistory 0 0 v b n = feeding 16 63000000 id := by
    intro n
    induction n with
    | zero => intros; rfl
    | succ n ih => intro v b h; rw [State.putHistory, hw v (by omega)]; exact ih _ _ (by omega)
  rw [go 45 va bs (by omega)]
  decide +kernel
/-- R381: an incomplete row without history counts as MISSED; R386: a valid GAZE moves the gaze tile. -/
theorem test_rowSend : goesTo (execRowSend 0 (feeding 15 63000000 id)) (fun t => decide ((t.disp 0).missed = 1 ∧ (t.disp 0).nextRow = 34)) = true
    ∧ goesTo (execRowSend 0 (feeding 15 0 id)) (fun t => decide ((t.disp 0).nextRow = 33)) = true := by decide +kernel
/-- A GAZE flit, valid, at pixel (33, 17). -/
def gazeFlit : BitVec 256 := 2 + 33 * 2 ^ 64 + 17 * 2 ^ 80 + 2 ^ 96
theorem witness_Flits : (gazeFlit.extractLsb' 0 16).toNat = 2 ∧ ((3 : BitVec 256).extractLsb' 0 16).toNat = 3 ∧ ((4 : BitVec 256).extractLsb' 0 16).toNat = 4
    ∧ ((5 : BitVec 256).extractLsb' 0 16).toNat = 5 ∧ ((showing id).report_ 0 (natLe 32 gazeFlit.toNat)).stop = none
    ∧ ((showing id).disp 0).linkUp = true ∧ on.host.service ≠ .reset
    ∧ ((showing (fun d => { d with patternNext := some [0] })).disp 0).patternAt ≤ (showing id).ns := by decide +kernel
/-- A pattern between two rows of a sweep, and a port that ENABLE governs. -/
theorem witness_Pattern : ((showing (fun d => { d with pattern := some [0], patternRow := 5, patternAt := 1 })).disp 0).patternRow ≠ 0
    ∧ (showing id).ns < ((showing (fun d => { d with pattern := some [0], patternRow := 5, patternAt := 1 })).disp 0).patternAt
    ∧ ((showing (fun d => { d with enableBit := true })).disp 0).enableBit = true ∧ ((showing id).disp 0).patternNext = none := by decide +kernel
theorem test_gaze : goesTo (execGaze 0 gazeFlit (showing id)) (fun t => decide ((t.disp 0).gaze = some (2, 1) ∧ (t.disp 0).reportSeq = 1)) = true
    ∧ goesTo (execSirricLinkDown 0 (showing (fun d => { d with block := none }))) (fun t => decide ((t.disp 0).linkUp = false)) = true
    ∧ goesTo (execSirricLinkUp 0 on) (fun t => decide ((t.disp 0).linkUp = true)) = true
    ∧ goesTo (execPatternSweep 0 (showing (fun d => { d with patternNext := some [0] }))) (fun t => decide
      ((t.disp 0).pattern = some [0] ∧ (t.disp 0).patternAt = 33333333 / 6144 ∧ (t.disp 0).patternRow = 1)) = true := by decide +kernel

/-! ### Contexts and the host -/

/-- The host has given a command with a payload in a service state. -/
def commanded (code : Nat) (payload : Bytes) (sv : Service) : State := { on with
  ctxs := [], groups := [], teams := [], agenda := [], host := { on.host with service := sv, go := true, cmd := code, payload := payload } }
/-- R451: every command is refused in a state that does not allow it, and an unknown one in any. -/
theorem witness_Commands : (commanded 1 [] .reduced).Commanded 1 ∧ (commanded 1 [] .reduced).host.service ∉ [Service.full]
    ∧ (commanded 1 [] .reduced).host.testing = none ∧ (commanded 1 [] .full).host.cmd ≠ 2
    ∧ (commanded 6 [] .full).host.cmd ∉ [0x01, 0x02, 0x03, 0x04, 0x05, 0x10, 0x11, 0x12, 0x13, 0x14, 0x15, 0x16, 0x20, 0x21] := by
  unfold State.Commanded; decide +kernel
theorem witness_MailboxCommand : MailboxCommand .loadCtx 0x01 [.full] ∧ MailboxCommand .sensors 0x21 [.reduced, .full] := ⟨.loadCtx, .sensors⟩
/-- Descriptor at PA 0x1000 of die 0 (R430): Roots 0, LOG2N 8, lane private memory of 512 bytes, no window; and with a field that is wrong. -/
def described (ctx dies : Nat) (flags : Byte) : State := { commanded 1 [(0, BitVec.ofNat 8 ctx), (1, BitVec.ofNat 8 dies), (3, 0x10)] .full with
  mem := [(0x1000, flags), (0x1028, 8), (0x1039, 2)] }
theorem witness_LoadCtx : (described 3 1 1).payload64 0 = 3 + 2 ^ 8 + 0x1000 * 2 ^ 16 ∧ descFault ((described 3 1 1).homeNat 0x1000 256) = none
    ∧ PlainDescriptor (ctxOf ((described 3 1 1).homeNat 0x1000 256) 0 0x1000) ∧ ((described 3 1 1).ctx 3).dies = 0#2
    ∧ descFault ((described 3 1 0).homeNat 0x1000 256) = some 0 ∧ (described 3 0 1).payload64 0 / 2 ^ 8 % 4 = 0
    ∧ ({ described 3 1 1 with ctxs := [(3, { dies := 1 })] }.ctx 3).dies.getLsbD 0 = true
    ∧ ((described 3 1 5).updDisp 0 (fun d => { d with granted := some 9 })).disp 0 ≠ {}
    ∧ (ctxOf ((described 3 1 5).homeNat 0x1000 256) 0 0x1000).disp.getLsbD 0 = true := by unfold PlainDescriptor; decide +kernel
theorem test_loadCtx : goesTo (execLoadCtx (described 3 1 1)) (fun t => decide (t.host.result = 0 ∧ (t.ctx 3).dies = 1 ∧ (t.ctx 3).privSize = 512)) = true
    ∧ goesTo (execLoadCtx (described 3 1 0)) (fun t => decide (t.host.result = 1 ∧ t.host.detail = 0 ∧ t.ctxs = [])) = true
    ∧ goesTo (execLoadCtx (described 3 0 1)) (fun t => decide (t.host.detail = 0x8001)) = true := by decide +kernel
/-- Context 3 loaded on die 0. -/
def loaded (code : Nat) (payload : Bytes) : State := { commanded code payload .full with ctxs := [(3, { dies := 1 })] }
theorem witness_ContextCommands : (∀ c < 32, ((loaded 2 [(0, 3), (1, 1)]).core c).bins = []) ∧ (loaded 2 [(0, 3), (1, 1)]).payload16 0 / 2 ^ 8 % 4 = 2 ^ 0
    ∧ ((loaded 2 [(0, 3), (1, 1)]).ctx 3).dies = 1#2 <<< 0 ∧ rising (loaded 2 [(0, 3), (1, 1)]).ctxs ∧ (loaded 2 [(0, 3), (1, 1)]).inUse 0 3 = false
    ∧ ({ loaded 2 [(0, 3), (1, 1)] with teams := [(0, { ctx := 3 })] }).inUse 0 3 = true
    ∧ (loaded 3 [(4, 3)]).payloadByte 4 = 3 ∧ (loaded 3 [(4, 2)]).payloadByte 4 < 3 ∧ (loaded 4 []).ctxs ≠ [] ∧ (commanded 4 [] .full).ctxs = []
    ∧ (commanded 5 [(0, 1)] .full).payloadByte 0 % 4 ≠ (commanded 5 [(0, 1)] .full).modIndex := by unfold rising; decide +kernel
theorem test_contextCommands : goesTo (execUnloadCtx (loaded 2 [(0, 3), (1, 1)])) (fun t => decide (t.ctxs = [] ∧ t.host.result = 0)) = true
    ∧ goesTo (execUnloadCtx { loaded 2 [(0, 3), (1, 1)] with teams := [(0, { ctx := 3, groups := [0] })] }) (fun t => decide (t.host.result = 1)) = true
    ∧ goesTo (execPreemptCmd (loaded 3 [(4, 2)])) (fun t => decide ((t.die 0).preempts.length = 1)) = true
    ∧ goesTo (execSetIndex (commanded 4 [(0, 2), (1, 7)] .full)) (fun t => decide (t.modIndex = 2 ∧ t.host.port = some 7)) = true
    ∧ goesTo (execSetPeer (commanded 5 [(0, 1), (1, 7), (2, 1)] .full)) (fun t => decide (tget? t.host.peers 1 = some 7)) = true := by decide +kernel

/-- A module with both decoders programmed. -/
def attached (sv : Service) : State := { commanded 0 [] sv with host := { (commanded 0 [] sv).host with decoders := [(0, 0), (1, 2 ^ 40)], go := false } }
theorem witness_HostAccesses : (attached .full).host.go = false ∧ tget? (attached .full).host.decoders 1 = some (2 ^ 40) ∧ tget? (attached .full).host.decoders 2 = none ∧ (attached .full).host.service = .full
    ∧ (attached .reduced).host.service ≠ .full ∧ (attached .full).sealedAt (homeKey 1 0x40) 4 = [] ∧ 45 * 2 ^ 30 - 4 + 4 ≤ 45 * 2 ^ 30
    ∧ (∀ e ∈ (attached .full).l2, outsideHome e.1 = false) := by decide +kernel
/-- R444, R452: the host's write is read back; in Reduced it is discarded, and a read is poison. -/
theorem test_hostAccess : goesTo (execHostMemWrite 1 (2 ^ 40 + 0x40) [1, 2] (attached .full)) (fun t =>
      goesTo (execHostMemRead 1 (2 ^ 40 + 0x40) 3 t) (fun u => decide (u.host.readData = [1, 2, 0] ∧ u.host.readPoison = false))) = true
    ∧ goesTo (execHostMemRead 1 (2 ^ 40 + 0x40) 3 (attached .reduced)) (fun u => decide u.host.readPoison) = true
    ∧ goesTo (execHostMemRead 1 0x40 3 (attached .full)) (fun u => decide (u.host.readData = [])) = true
    ∧ goesTo (execMailboxRegisterWrite 0x1804 0x12345678 (attached .full)) (fun t => decide (t.payload32 4 = 0x12345678)) = true := by decide +kernel
theorem witness_Snoop : tget? (serving.die 0).hostQueues 0 = some { ring := 0x10000, tailVa := 0x10100, statVa := 0x10140, woken := true } ∧
    ∃ k, classify (serving.walk 0 0 0x10100).1 .read false 0x10100 = .ok k := by
  refine ⟨by decide +kernel, 0x10100, ?_⟩
  obtain ⟨t, h1, h2⟩ := walk_of (s := serving) (die := 0) (ctx := 0) (va := 0x10100) (key := 0x10100) (want := .read) (user := false) (by decide +kernel)
  rw [h1]; exact h2
/-- The host writes the tail line of that queue, through a decoder of die 0. -/
theorem witness_HostWriteWakes : ∃ k, classify ((serving.putHome 0x10100 [1]).walk 0 0 0x10100).1 .read false 0x10100 = .ok k
    ∧ 0x10100 / 64 ≤ k / 64 ∧ k / 64 ≤ (0x10100 + 1 - 1) / 64 ∧ serving.sealedAt 0x10100 1 = [] := by
  refine ⟨0x10100, ?_, by decide, by decide, by decide +kernel⟩
  obtain ⟨t, h1, h2⟩ := walk_of (s := serving.putHome 0x10100 [1]) (die := 0) (ctx := 0) (va := 0x10100) (key := 0x10100) (want := .read) (user := false) (by decide +kernel)
  rw [h1]; exact h2

/-! ### Bring-up, reset and power -/

/-- A module in a service state with an image and a burned counter. -/
def serviceIn (sv : Service) (img : List Byte) (verified : Bool) : State := { commanded 0 [] sv with
  host := { (commanded 0 [] sv).host with go := false, image := img, verified := verified, powered := true, resetBy := some 5, fused := 2, svn := 4 } }
/-- The clause of an image whose checks pass rests on log entry 2: whether a key or a signature matches is a constant without a body. -/
theorem witness_BringUp : State.reset.host.powered = false ∧ (serviceIn .full [] false).host.service ≠ .reset
    ∧ (serviceIn .full [] false).host.resetBy ≠ none ∧ State.reset.host.hot = false
    ∧ (commanded 0x16 [] .full).Commanded 0x16 ∧ (commanded 0x10 [] .reduced).Commanded 0x10 ∧ (commanded 0x11 [] .reduced).Commanded 0x11
    ∧ (serviceIn .verifying [] false).host.verified = false ∧ imageFault (serviceIn .verifying [] false).host.image 2 ≠ 0
    ∧ (serviceIn .verifying [] true).host.verified = true ∧ ((serviceIn .verifying [] true).die 0).errRing = none
    ∧ (commanded 0x12 [] .full).Commanded 0x12 := by unfold State.Commanded; decide +kernel
/-- R457: SHA-256 of "abc" (FIPS 180-4, the worked example of its appendix). -/
theorem test_sha256 : sha256 [0x61, 0x62, 0x63] = [0xba, 0x78, 0x16, 0xbf, 0x8f, 0x01, 0xcf, 0xea, 0x41, 0x41, 0x40, 0xde, 0x5d, 0xae, 0x22, 0x23,
    0xb0, 0x03, 0x61, 0xa3, 0x96, 0x17, 0x7a, 0x9c, 0xb4, 0x10, 0xff, 0x61, 0xf2, 0x00, 0x15, 0xad] := by decide +kernel
theorem test_bringUp : goesTo (execPowerGood State.reset) (fun t => decide (t.host.powered ∧ t.host.service = .reset)) = true
    ∧ goesTo (execCxlLinkUp (serviceIn .reset [] false)) (fun t => decide (t.host.service = .reduced)) = true
    ∧ goesTo (execFwVerifyDone (serviceIn .verifying [] false)) (fun t => decide (t.host.service = .reduced ∧ t.host.fwFail = 1)) = true
    ∧ goesTo (execFwStart (commanded 0x11 [] .reduced)) (fun t => decide (t.host.service = .verifying)) = true
    ∧ goesTo (execFirmwareStartup [3] [] (serviceIn .verifying [] true)) (fun t => decide (t.host.service = .full)) = true
    ∧ goesTo (execFirmwareStartup [5] [6] (serviceIn .verifying [] true)) (fun t => decide (t.host.service = .reduced ∧ t.host.fwFail = 6
      ∧ t.host.repairLog = [5, 6])) = true := by
  decide +kernel
/-- R454: the first write of an image, of 4 bytes at 0; one of a length that is no multiple of 4. -/
theorem test_fwWrite : goesTo (execFwWrite (commanded 0x10 [(4, 4), (32, 9), (35, 8)] .reduced)) (fun t => decide (t.host.image = [9, 0, 0, 8])) = true
    ∧ goesTo (execFwWrite (commanded 0x10 [(4, 5)] .reduced)) (fun t => decide (t.host.result = 1 ∧ t.host.image = [])) = true := by decide +kernel
theorem witness_FirmwareCommands : (commanded 0x13 [(0, 95)] .full).payload16 0 = 95 ∧ (commanded 0x13 [(0, 45), (1, 1)] .full).payload16 0 = 301
    ∧ (commanded 0x14 [] .reduced).Commanded 0x14 ∧ (commanded 0x14 [] .reduced).host.testing = none
    ∧ (commanded 0x15 [(0, 1), (1, 1), (13, 1)] .full).payloadByte 13 ≠ 0
    ∧ (commanded 0x20 [(1, 0x10), (9, 4)] .full).payload64 0 % 4096 = 0 ∧ (commanded 0x20 [(1, 0x10), (9, 4)] .full).payloadByte 9 = 4
    ∧ (commanded 0x20 [(1, 0x10), (8, 2), (9, 17)] .full).payloadByte 9 = 17 ∧ rising (commanded 0 [] .full).mem ∧ rising (commanded 0 [] .full).l2
    ∧ ((commanded 0x13 [(0, 95)] .full).die 0).thermal = 0
    ∧ (((commanded 0x13 [(0, 95)] .full).updDie 1 (fun d => { d with thermal := 1 })).die 1).thermal ≠ 0
    ∧ (commanded 0x21 [] .full).Commanded 0x21 := by unfold State.Commanded rising; decide +kernel
theorem test_firmwareCommands : goesTo (execSetEnvelope (commanded 0x13 [(0, 95)] .full)) (fun t => decide (t.host.envelope = 95)) = true
    ∧ goesTo (execMemtest (commanded 0x14 [(0, 3)] .reduced)) (fun t => decide (t.host.testing = some 3 ∧ t.host.go)) = true
    ∧ goesTo (execMemtestComplete 1 2 { commanded 0x14 [] .reduced with host := { (commanded 0x14 [] .reduced).host with testing := some 3 } })
        (fun t => decide (t.payload64 0 = 2 * (45 * 2 ^ 30 / 32) ∧ t.host.go = false)) = true
    ∧ goesTo (execPattern (commanded 0x15 [(0, 1), (1, 1)] .full)) (fun t => decide ((t.disp 0).patternNext = some [0])) = true
    ∧ goesTo (execErrRing (commanded 0x20 [(1, 0x10), (9, 4)] .full)) (fun t => decide ((t.die 0).errRing = some (0x1000, 4))) = true
    ∧ goesTo (execErrRing (commanded 0x20 [(1, 0x10), (9, 17)] .full)) (fun t => decide (t.host.detail = 9)) = true
    ∧ goesTo (execSensors (commanded 0x21 [] .full)) (fun t => decide (t.host.result = 0)) = true := by decide +kernel
/-- Readings with one sensor at `x` half degrees. -/
def readings (x : Int) : List Int := (List.replicate 24 0).set 5 x
theorem witness_Heat : (readings 200).length = 24 ∧ thermalStep 0 200 = 1 ∧ thermalStep 0 199 = 0 ∧ thermalStep 1 194 = 1 ∧ thermalStep 1 193 = 0
    ∧ on.host.service = .full ∧ (on.die 1).chamberLimit = 96 ∧ ((on.setPoint 1 2).die 1).point ≠ 0 ∧ thermalStep 2 240 = 2 ∧ thermalStep 0 249 = 2 ∧ thermalStep 0 250 = 3 ∧ (hottest (readings 200)).2 = 200 ∧ on.coreIdle 3 { idleSince := some 0 } = true := by decide +kernel
/-- A core that a thief has asked while it is being gated, and one that nothing wakes. -/
theorem witness_Gating : (on.updCore 3 (fun c => { c with gateAt := some 0, thieves := [{}] })).wakeDue 3 = true
    ∧ (on.updCore 3 (fun c => { c with gateAt := some 0 })).wakeDue 3 = false
    ∧ ((on.updDie 1 (fun d => { d with chamberLimit := 0 })).die 1).chamberLimit = 0 := by decide +kernel
/-- R469, R472. -/
theorem test_heat : goesTo (execThermalSample 0 (readings 200) { on with host := { on.host with service := .reduced } }) (fun t => decide ((t.die 0).thermal = 1 ∧ (t.die 0).errSeq = 1)) = true
    ∧ goesTo (execThermalSample 0 (readings 250) on) (fun t => decide (t.host.service = .reset ∧ t.host.hot)) = true
    ∧ goesTo (execShedPower 1 1 90 (on.setPoint 1 2)) (fun t => decide ((t.die 1).chamberLimit = 90 ∧ (t.die 1).point = 2)) = true
    ∧ goesTo (execShedPower 1 1 96 ((on.setPoint 1 2).updDie 1 (fun d => { d with chamberLimit := 0 }))) (fun t => decide ((t.die 1).chamberLimit = 0
      ∧ (t.die 1).point = 1)) = true
    ∧ goesTo (execThermalSample 0 (readings 240) (on.setPoint 0 2)) (fun t => decide ((t.die 0).chamberLimit = 0 ∧ (t.die 0).point = 0)) = true
    ∧ goesTo (execCoreIdleGate 3 ({ on with ns := 20000 }.updCore 3 (fun c => { c with idleSince := some 0 }))) (fun t => decide ((t.core 3).gateAt = some 0)) = true
    ∧ goesTo (execGateIsolation 3 (on.updCore 3 (fun c => { c with gateAt := some 0, cycles := 80 }))) (fun t => decide ((t.core 3).gated)) = true
    ∧ goesTo (execCoreWake 3 (on.updCore 3 (fun c => { c with gated := true }))) (fun t => decide ((t.core 3).gated = false)) = true
    ∧ goesTo (execCorePoweredUp 3 ({ on with ns := 7 }.updCore 3 (fun c => { c with wakeAt := some 7 }))) (fun t => decide ((t.core 3).wakeAt = none)) = true := by
  decide +kernel


/-! ### The step and the encoder -/

/-- The next turn is wave 0 of group 0 in the given phase at word 0 of a clause. -/
def turning (ws : List Word) (p : Phase) : State := { on.updWave (fun w => { w with words := ws, phase := p, hdr := 0xA000000000000000 }) with
  agenda := [{ move := .wave 0 0 }] }
/-- The same after time has passed. -/
def turningLater (ws : List Word) (p : Phase) : State := { turning ws p with agenda := [{ move := .wave 0 0, ns := 1, cycles := 1 }] }
theorem witness_Step : ((turning [0x000304C5] .body).agenda.map (·.move)) = [.wave 0 0] ∧ (((turning [0x000304C5] .body).group 0).wave 0).phase = .body
    ∧ (((turning [0x000304C5] .body).group 0).wave 0).words[(((turning [0x000304C5] .body).group 0).wave 0).idx]? = some 0x000304C5
    ∧ decodeWord 0x000304C5 none = .ok (.vadd 3 4 197) ∧ (((turning [] .start).group 0).wave 0).phase = .start
    ∧ (((turning [] .body).group 0).wave 0).words.length ≤ (((turning [] .body).group 0).wave 0).idx
    ∧ (decodeSeq (hdrSeq 0xA000000000000000) (hdrTgt 0xA000000000000000)).toOption = some .next ∧ (decodeWord 0x70000000 none).toOption = none
    ∧ (({ turning [0x000304C5] .body with agenda := [] } : State).elapse 0 0).mayIssue 0 0 = true
    ∧ ((({ turning [0x000304C5] .body with agenda := [] } : State).updCore 0 (fun c => { c with
        issued := [{ part := 0, pipe := .v0, gid := 9, at_ := 0, till := 1 }, { part := 0, pipe := .v1, gid := 8, at_ := 0, till := 1 }] })).elapse 0 0).mayIssue 0 0 = false
    ∧ ({ move := .wave 0 0 } : Turn).passes = false ∧ ((turning [0x000304C5] .body).group 0).late = []
    ∧ (((turning [0x000304C5] .body).group 0).wave 0).snap = none ∧ ((turning [0x000304C5] .body).die 0).halted = false
    ∧ opByte 0x000304C5 ≠ 0x7F ∧ opByte 0x7F004000 = 0x7F ∧ (decodeWord 0x7F004000 (some 0x000304C5)).toOption.isSome = true
    ∧ ({ move := .wave 0 0, ns := 1, cycles := 1 } : Turn).passes = true ∧ (turningLater [0x000304C5] .body).due.isSome = true
    ∧ (turningLater [] .start).due.isNone = true
    ∧ (((({ turningLater [] .start with agenda := [] } : State).elapse 1 1).group 0).wave 0).phase = .start
    ∧ isDevice (.memtestComplete 0 0) = true ∧ isDevice (.vadd 0 0 0) = false := by decide +kernel
/-- A step runs the word: VADD of 2 and s5 = 3; where time is to pass first, the word that is due still goes before it. -/
theorem test_step : goesTo (step ((turning [0x000304C5] .body).updCur (fun g => (g.setV 4 0 2).setS 5 3))) (fun t => decide (t.cg.vreg 3 0 = 5
    ∧ t.cw.idx = 1 ∧ t.ns = 0 ∧ t.agenda = [])) = true
    ∧ goesTo (step ((turningLater [0x000304C5] .body).updCur (fun g => (g.setV 4 0 2).setS 5 3))) (fun t => decide (t.cg.vreg 3 0 = 5
    ∧ t.ns = 0 ∧ t.agenda.length = 1)) = true := by decide +kernel
/-- Operands at the ends of their fields; a prefix of each reading. -/
theorem witness_EncodeDecode : (Instr.vadd 255 0 255).WellFormed ∧ encode (.vadd 255 0 255) = some 0x00FF00FF
    ∧ (encode (.prefixGeneral 0xC1 2 true 1 true true false)).isSome = true ∧ takesMemoryPrefix 0x000304C5 = false
    ∧ takesMemoryPrefix 0b01010000_00000110_00000111_0010_1_101 = true ∧ ClauseEnd .next ∧ (12#4).toNat = 12 := by
  refine ⟨rfl, by decide +kernel, by decide +kernel, by decide +kernel, by decide +kernel, ?_, by decide⟩
  constructor


/-! ### Errors -/

/-- The next turn is an incident. -/
def struck (s : State) (e : Incident) : State := { s with agenda := [{ move := .incident e }] }
/-- A team with a chamber group; a dirty byte of die 0 at PA 0x21. -/
def withTeam : State := { on with mq := [{ gid := 0, key := 0x80, bytes := [4, 5] }], teams := [(0, { ctx := 5, chambers := [(2, {})] })], l2 := [(0x21, 7)] }
theorem witness_Errors : (struck withTeam (.corrected 0 1 0 0 7 1)).host.service = .full ∧ (struck withTeam (.corrected 0 1 0 0 7 1)).stop = none
    ∧ withTeam.drainOne.stop = none ∧ withTeam.unreachable 0x80 = false ∧ (∀ d < 2, (withTeam.die d).errRing = none) ∧ (withTeam.die 0).recorded = [] ∧ (tget? withTeam.teams 0).isSome = true
    ∧ (tget? withTeam.l2 (homeKey 0 (0x3F / 32 * 32) + 1)).isSome = true ∧ withTeam.l2.Pairwise (fun a b => a.1 < b.1) := by decide +kernel
/-- R463, R465: a dirty atom found bad on write-back is poisoned and stored, and the record is charged to the owner of its frame; a
clean one is counted as corrected. -/
theorem test_l2Atom : goesTo (step (struck withTeam (.l2Atom 0 0x3F true))) (fun t => decide (t.poisoned 0x20 1 ∧ ¬ t.poisoned 0x40 4 ∧ t.l2 = []
      ∧ t.homeByte 0x21 = 7 ∧ (t.die 0).errLost = 1)) = true
    ∧ goesTo (step (struck withTeam .drainM)) (fun t => decide (t.mq = [] ∧ t.homeBytes 0x80 2 = [4, 5])) = true
    ∧ goesTo (step (struck withTeam (.preemptThreshold 99))) (fun t => decide (t.host.preemptAt = 99)) = true
    ∧ goesTo (step (struck withTeam (.l2Atom 0 0x40 false))) (fun t => decide (t.poison = [] ∧ (t.die 0).corrected = 1)) = true := by decide +kernel
/-- R464, R465: a load that reads a poisoned scratchpad line gives 0 and traps ECCPOISON, charged to the team's context. -/
theorem test_spadPoison : goesTo (step (struck withTeam (.scratchpadLine 0 1))) (fun t => decide (t.poisoned (spadKey 0 255) 1
      ∧ ¬ t.poisoned (spadKey 0 256) 1 ∧ (t.poisonTrap 0x80 (spadKey 0 128) 1).cause = 0x0E ∧ (t.poisonTrap 0x80 (spadKey 0 128) 1).detail = 5)) = true
    ∧ goesTo (step (struck withTeam (.schedulerStore 1))) (fun t => decide (t.die 1).halted) = true
    ∧ goesTo (step (struck withTeam (.accElement 0 6 2))) (fun t => decide (t.poisoned (accKey 0 6) 32 ∧ ¬ t.poisoned (accKey 0 8) 32)) = true := by
  decide +kernel
theorem witness_Incidents : (tget? on.groups 0).isSome = true ∧ (5 : Nat) < (on.group 0).n ∧ rising withTeam.l2 ∧ (0 : Nat) + 1 ≤ 2 ^ 47
    ∧ (1 : Nat) ≠ 3 ∧ (7, 1) ∈ ({ on.host with rowDays := [(7, 1), (7, 2)] } : HostSide).rowDays := by unfold rising; decide +kernel
/-- R463: a register's value is lost; R468: a row with corrections on three days enters the repair log; R448: a line that fails reads as
poisoned; R450: what the host writes it reads; R458: GEN ends even. -/
theorem test_incidents : goesTo (step (struck (on.updCur (fun g => g.setV 5 2 9)) (.register 0 5 2))) (fun t => decide ((t.group 0).bad = [162])) = true
    ∧ goesTo (step (struck { on with host := { on.host with rowDays := [(7, 1), (7, 2)] } } (.corrected 0 1 0 0 7 3))) (fun t =>
      decide (t.host.repairLog = [7])) = true
    ∧ goesTo (step (struck on (.lineFails (homeKey 0x80 0 / 128) true))) (fun t => decide (t.poisoned (homeKey 0x80 4) 4)) = true
    ∧ goesTo (step (struck on (.hostWrite 0x40 [7]))) (fun t => decide (t.homeByte (homeKey 0x80 0x40) = 7)) = true
    ∧ goesTo (step (struck { on with host := { on.host with gen := 3 } } .tableDone)) (fun t => decide (t.host.gen = 4)) = true := by decide +kernel

end Sys2Proof.Tests
end

section
/-! PROOFS. What reset leaves, and the mailbox reads after it. -/
namespace Sys2Proof.Machine

/-- Bytes of an empty store are the unlisted byte (log entry 3). -/
@[simp] theorem bytesAt_nil (a n : Nat) : bytesAt [] a n = List.replicate n unlisted := by
  simp [bytesAt, byteAt, List.map_const']

/-- R451: with the mailbox's registers as reset leaves them, every word from 0x1000 on reads as zero. -/
theorem State.reset_barRead {off : Nat} (h : 0x1000 ≤ off) : State.reset.barRead off = 0#32 := by
  have hpay : leNat (bytesAt State.reset.host.payload (off - 0x1800) 4) = 0 := by
    rw [show State.reset.host.payload = [] from rfl, bytesAt_nil]; rfl
  unfold State.barRead
  dsimp only
  rw [if_neg (by omega), hpay, show State.reset.host.go = false from rfl, if_neg Bool.false_ne_true]
  split_ifs <;> rfl

/-- R472: a module that lists no core has no wrong idle mark. -/
theorem State.reset_settled : State.reset.Settled := ⟨rfl, fun _ he => nomatch he⟩

/-- Settles O60: every table of the state is empty at reset, so a read of it is the default entry. -/
theorem resetIsEmpty : Obligations.ResetIsEmpty := by
  refine ⟨State.reset_settled, rfl, rfl, State.reset_mem_wf, fun _ => rfl, rfl, rfl, rfl, rfl, rfl, rfl,
    fun _ => State.reset_barRead, fun _ => ⟨rfl, rfl, rfl, rfl, rfl⟩, fun _ => ⟨rfl, rfl, rfl, rfl⟩⟩

end Sys2Proof.Machine
end

section
/-! PROOFS. What firmware and the host's commands leave as they were: the mailbox, the operating points, and numbers in
memory. -/
namespace Sys2Proof.Machine

/-! ### Changes of the dies and the host's side -/

/-- Firmware has acted on the dies, the host's side and the run's free values alone. -/
def State.FirmwareOnly (s t : State) : Prop := t = { s with dies := t.dies, host := t.host, free := t.free }

theorem State.FirmwareOnly.refl (s : State) : s.FirmwareOnly s := rfl

theorem State.FirmwareOnly.trans {s t u : State} (h : s.FirmwareOnly t) (h' : t.FirmwareOnly u) : s.FirmwareOnly u := by
  unfold State.FirmwareOnly at h h' ⊢
  rw [h', h]

theorem State.firmwareOnly_updDie (s : State) (d : Nat) (f : Die → Die) : s.FirmwareOnly (s.updDie d f) := rfl
theorem State.firmwareOnly_updHost (s : State) (f : HostSide → HostSide) : s.FirmwareOnly (s.updHost f) := rfl
theorem State.firmwareOnly_takeFree (s : State) : s.FirmwareOnly s.takeFree.2 := rfl

/-- WHAT FIRMWARE LEAVES (R25): no group, team or core, no byte of memory, no pending access. -/
theorem State.FirmwareOnly.frame {s t : State} (h : s.FirmwareOnly t) :
    t.groups = s.groups ∧ t.teams = s.teams ∧ t.cores = s.cores ∧ (∀ key, t.homeByte key = s.homeByte key) := by
  unfold State.FirmwareOnly at h
  rw [h]
  exact ⟨rfl, rfl, rfl, fun _ => rfl⟩

theorem State.FirmwareOnly.stop {s t : State} (h : s.FirmwareOnly t) : t.stop = s.stop := by
  unfold State.FirmwareOnly at h
  rw [h]

/-- A change of the host's side leaves the dies. -/
@[simp] theorem State.die_updHost (s : State) (f : HostSide → HostSide) (d : Nat) : (s.updHost f).die d = s.die d := rfl

/-! ### Operating points (R24, R458, R470) -/

/-- The clock of a die as the capability table shows it: CLK0 of die 0, CLK1 of the other (R458). -/
def State.clockShown (s : State) (d : Nat) : Nat := if d = 0 then s.host.clk0 else s.host.clk1

theorem State.firmwareOnly_setPoint (s : State) (d p : Nat) : s.FirmwareOnly (s.setPoint d p) := rfl

@[simp] theorem State.die_setPoint (s : State) (d p : Nat) : (s.setPoint d p).die d = { s.die d with point := p } :=
  s.die_updDie d fun x => { x with point := p }

theorem State.die_setPoint_ne (s : State) {d e : Nat} (p : Nat) (h : e ≠ d) : (s.setPoint d p).die e = s.die e :=
  s.die_updDie_ne (fun x => { x with point := p }) h

@[simp] theorem State.clockShown_setPoint (s : State) (d p : Nat) : (s.setPoint d p).clockShown d = clockOf d p := by
  by_cases h : d = 0 <;> simp [State.clockShown, State.setPoint, State.updTable, State.updHost, h]

/-- The point of die 1 leaves CLK0. -/
theorem State.clk0_setPoint (s : State) {d : Nat} (p : Nat) (h : d ≠ 0) : (s.setPoint d p).host.clk0 = s.host.clk0 := by
  simp [State.setPoint, State.updTable, State.updHost, h]

@[simp] theorem State.envelope_setPoint (s : State) (d p : Nat) : (s.setPoint d p).host.envelope = s.host.envelope := by
  by_cases h : d = 0 <;> simp [State.setPoint, State.updTable, State.updHost, h]

theorem State.firmwareOnly_envelopePoint (s : State) (d : Nat) : s.FirmwareOnly (s.envelopePoint d) := rfl

/-- Without heat a die goes to its envelope's point, with every chamber. -/
@[simp] theorem State.die_envelopePoint (s : State) (d : Nat) :
    (s.envelopePoint d).die d = { s.die d with chamberLimit := 96, point := Config.pointFor d s.host.envelope } := by
  simp [State.envelopePoint]

/-- R24, R470: A HIGHER POINT HAS A HIGHER CLOCK, for every step adds at least 1 MHz. -/
theorem clockOf_strictMono (die : Nat) : StrictMono (clockOf die) := by
  refine strictMono_nat_of_lt_succ fun p => ?_
  have hstep : clockOf die (p + 1) = clockOf die p + (Config.clockStep die (p + 1) + 1) := by
    rw [clockOf, List.range_succ, List.map_append, List.sum_append]
    simp [clockOf]
  omega

end Sys2Proof.Machine
end

section
/-! PROOFS. Heat, power and gating (R24, R25, R469, R471, R472). -/
namespace Sys2Proof.Machine

/-! ### Readings and steps (R469) -/

/-- The hotter of a reading seen so far and the next one, as `hottest` compares them. -/
theorem foldl_hotter_spec (es : List (Nat × Int)) (m : Nat × Int) :
    let h := es.foldl (fun m e => if m.2 < e.2 then e else m) m
    m.2 ≤ h.2 ∧ (∀ e ∈ es, e.2 ≤ h.2) ∧ (h = m ∨ h ∈ es) := by
  induction es generalizing m with
  | nil => simp
  | cons e es ih =>
    obtain ⟨hm, hes, hmem⟩ := ih (if m.2 < e.2 then e else m)
    have hboth : m.2 ≤ (if m.2 < e.2 then e else m).2 ∧ e.2 ≤ (if m.2 < e.2 then e else m).2 := by
      split_ifs <;> omega
    refine ⟨hboth.1.trans hm, List.forall_mem_cons.mpr ⟨hboth.2.trans hm, hes⟩, ?_⟩
    rw [List.mem_cons]
    rcases hmem with h | h
    · rw [List.foldl_cons, h]
      split_ifs <;> simp
    · exact .inr (.inr h)

/-- The hottest reading bounds every reading. -/
theorem le_hottest {r : List Int} {x : Int} (hx : x ∈ r) : x ≤ (hottest r).2 := by
  obtain ⟨i, hi, rfl⟩ := List.mem_iff_getElem.mp hx
  exact (foldl_hotter_spec _ (0, r.headD 0)).2.1 (i, r[i]) (List.mem_mapIdx.mpr ⟨i, hi, rfl⟩)

/-- The hottest reading is one of the readings. -/
theorem hottest_mem {r : List Int} (hr : r ≠ []) : (hottest r).2 ∈ r := by
  obtain h | h := (foldl_hotter_spec (r.mapIdx fun i t => (i, t)) (0, r.headD 0)).2.2
  · have hhead : (hottest r).2 = r.headD 0 := congrArg Prod.snd h
    obtain ⟨x, xs, rfl⟩ := List.exists_cons_of_ne_nil hr
    simp [hhead]
  · obtain ⟨i, hi, he⟩ := List.mem_mapIdx.mp h
    have hval : r[i] = (hottest r).2 := congrArg Prod.snd he
    exact hval ▸ List.getElem_mem hi

/-- R469: WHEN EACH STEP IS IN FORCE: 3 from 125 °C, and 0 only below 100 °C, after another step only below 97 °C. -/
theorem thermalStep_spec (old : Nat) (t : Int) :
    (thermalStep old t = 3 ↔ 250 ≤ t) ∧ (thermalStep old t = 0 → t < 200)
      ∧ (old ≠ 0 → thermalStep old t = 0 → t < 194) ∧ thermalStep old t ≤ 3 := by
  unfold thermalStep
  by_cases h3 : 250 ≤ t
  · simp [h3]
  by_cases h2 : 230 ≤ t
  · simp [h3, h2]
  by_cases h1 : 200 ≤ t
  · simp [h3, h2, h1]
  by_cases h0 : old ≠ 0 ∧ 194 ≤ t
  · simp [h3, h2, h1, h0]
  · rw [if_neg h3, if_neg h2, if_neg h1, if_neg h0]
    exact ⟨by omega, by omega, by omega, by omega⟩

/-! ### What firmware does with a die (R25, R469) -/

/-- R25: ONE REDUCTION, in order: chambers while any may work, then the clock while there is a lower point, else nothing. -/
theorem State.reduce_chambers (s : State) {die : Nat} (chambers : Nat) (clock : Bool) (h : (s.die die).chamberLimit ≠ 0) :
    s.reduce die chambers clock = s.updDie die (fun d => { d with chamberLimit := min chambers d.chamberLimit }) := by
  simp [State.reduce, h]

theorem State.reduce_clock (s : State) {die : Nat} (chambers : Nat) {clock : Bool} (h : (s.die die).chamberLimit = 0)
    (hc : clock = true) (hp : (s.die die).point ≠ 0) : s.reduce die chambers clock = s.setPoint die ((s.die die).point - 1) := by
  simp [State.reduce, h, hc, hp]

theorem State.reduce_none (s : State) {die : Nat} (chambers : Nat) {clock : Bool} (h : (s.die die).chamberLimit = 0)
    (hc : clock = false ∨ (s.die die).point = 0) : s.reduce die chambers clock = s := by
  unfold State.reduce
  rw [if_neg (by simpa using h), if_neg (by rcases hc with hc | hc <;> simp [hc])]

/-- Firmware has changed the limit on chambers and the operating point of a die, and nothing else of it. -/
def State.PowerOnly (s t : State) (die : Nat) : Prop :=
  s.FirmwareOnly t ∧ ∃ l p, t.die die = { s.die die with chamberLimit := l, point := p }

theorem State.PowerOnly.refl (s : State) (die : Nat) : s.PowerOnly s die := ⟨.refl s, _, _, rfl⟩

/-- A reduction raises neither the limit on chambers nor the operating point, and changes nothing else of its die. -/
theorem State.die_reduce (s : State) (die chambers : Nat) (clock : Bool) :
    s.PowerOnly (s.reduce die chambers clock) die
      ∧ ((s.reduce die chambers clock).die die).chamberLimit ≤ (s.die die).chamberLimit
      ∧ ((s.reduce die chambers clock).die die).point ≤ (s.die die).point := by
  by_cases hl : (s.die die).chamberLimit = 0
  · by_cases hc : clock = true ∧ (s.die die).point ≠ 0
    · rw [s.reduce_clock chambers hl hc.1 hc.2]
      exact ⟨⟨s.firmwareOnly_setPoint _ _, _, _, s.die_setPoint die _⟩, by simp, by simp⟩
    · rw [s.reduce_none chambers hl (by cases clock <;> simp_all)]
      exact ⟨.refl s die, le_rfl, le_rfl⟩
  · rw [s.reduce_chambers chambers clock hl]
    exact ⟨⟨s.firmwareOnly_updDie _ _, min chambers (s.die die).chamberLimit, (s.die die).point, s.die_updDie die _⟩,
      by simp, by simp⟩

/-- Outside Full firmware does nothing with the die (log entry 44). -/
theorem State.thermalAct_of_ne_full (s : State) (die old n : Nat) (h : s.host.service ≠ .full) : s.thermalAct die old n = s := by
  simp [State.thermalAct, h]

/-- A step that stays 0 asks nothing of firmware. -/
theorem State.thermalAct_zero_zero (s : State) (die : Nat) : s.thermalAct die 0 0 = s := by
  simp [State.thermalAct]

/-- The end of a step gives back what the envelope allows. -/
theorem State.thermalAct_zero (s : State) (die : Nat) {old : Nat} (hf : s.host.service = .full) (h : old ≠ 0) :
    s.thermalAct die old 0 = s.envelopePoint die := by
  simp [State.thermalAct, hf, h]

/-- Step 1 asks for one reduction, whose extent is a free value (log entry 64). -/
theorem State.thermalAct_one (s : State) (die old : Nat) (hf : s.host.service = .full) :
    s.thermalAct die old 1 = s.takeFree.2.reduce die (s.takeFree.1 % max 1 (s.die die).chamberLimit) true := by
  simp [State.thermalAct, hf]

/-- From step 2 on no chamber below the highest priority works, at the lowest point. -/
theorem State.thermalAct_two (s : State) (die old n : Nat) (hf : s.host.service = .full) :
    s.thermalAct die old (n + 2) = (s.updDie die (fun d => { d with chamberLimit := 0 })).setPoint die 0 := by
  simp [State.thermalAct, hf]

/-- Whatever the step, firmware changes only the power of the die. -/
theorem State.powerOnly_thermalAct (s : State) (die old n : Nat) : s.PowerOnly (s.thermalAct die old n) die := by
  by_cases hf : s.host.service = .full
  · match n with
    | 0 =>
      by_cases h0 : old = 0
      · rw [h0, s.thermalAct_zero_zero]
        exact .refl s die
      · rw [s.thermalAct_zero die hf h0]
        exact ⟨s.firmwareOnly_envelopePoint die, _, _, s.die_envelopePoint die⟩
    | 1 =>
      rw [s.thermalAct_one die old hf]
      obtain ⟨⟨hfw, l, p, hd⟩, -⟩ :=
        s.takeFree.2.die_reduce die (s.takeFree.1 % max 1 (s.die die).chamberLimit) true
      exact ⟨s.firmwareOnly_takeFree.trans hfw, l, p, hd⟩
    | n + 2 =>
      rw [s.thermalAct_two die old n hf]
      exact ⟨(s.firmwareOnly_updDie _ _).trans (State.firmwareOnly_setPoint _ _ _), 0, 0, by simp⟩
  · rw [s.thermalAct_of_ne_full die old n hf]
    exact .refl s die

/-- R469: IN FULL A STEP BELOW 3 REDUCES THE DIE'S POWER, and its end ends that. A step that stays 0 is the exception: nothing
is to be done. -/
theorem State.reduced_thermalAct (s : State) (die : Nat) {old n : Nat} (hf : s.host.service = .full) (hn : n < 3)
    (h0 : n = 0 → old ≠ 0) : s.Reduced (s.thermalAct die old n) die n := by
  match n, hn with
  | 0, _ =>
    rw [s.thermalAct_zero die hf (h0 rfl)]
    simp [State.Reduced]
  | 1, _ =>
    rw [s.thermalAct_one die old hf]
    exact ⟨nofun, fun _ => (s.takeFree.2.die_reduce die _ true).2, nofun⟩
  | 2, _ =>
    rw [s.thermalAct_two die old 0 hf]
    simp [State.Reduced]

/-- Readings are no part of what `Reduced` compares. -/
theorem State.Reduced.of_die {s u t : State} {die n : Nat} (h : u.Reduced t die n) (hh : u.host = s.host)
    (hl : (u.die die).chamberLimit = (s.die die).chamberLimit) (hp : (u.die die).point = (s.die die).point) :
    s.Reduced t die n := by
  simpa only [State.Reduced, hh, hl, hp] using h

/-! ### A sample (R469) -/

/-- A record of a die has been counted, its ring not placed (R466). -/
def State.counted (s : State) (die : Nat) : State :=
  s.updDie die (fun d => { d with errLost := d.errLost + 1, errSeq := d.errSeq + 1 })

/-- Without a ring a record is counted, whatever it says. -/
theorem State.errorRecord_unplaced (s : State) {die : Nat} (type core ctx : Nat) (charged : Bool) (addr detail : Nat)
    (extra : List Byte) (h : (s.die die).errRing = none) :
    s.errorRecord die type core ctx charged addr detail extra = s.counted die := by
  simp [State.errorRecord, State.counted, h]

/-- An entry of a table whose entries all change alike. -/
theorem tget?_map {α β : Type} (f : α → β) (t : Tab α) (k : Nat) :
    tget? (t.map fun e => (e.1, f e.2)) k = (tget? t k).map f := by
  induction t with
  | nil => rfl
  | cons e t ih =>
    simp only [List.map_cons, tget?, ih]
    split_ifs <;> rfl

/-- A die in Reset keeps the readings of its sensors alone (log entry 3). -/
theorem State.die_toReset (s : State) (powered hot : Bool) (d : Nat) :
    (s.toReset powered hot).die d = { ({} : Die) with sensors := (s.die d).sensors } := by
  simp only [State.die, State.toReset, tget, tget?_map (fun x : Die => { ({} : Die) with sensors := x.sensors })]
  cases tget? s.dies d <;> rfl

/-- The readings of a die have been taken. -/
def State.sampled (s : State) (die : Nat) (r : List Int) : State := s.updDie die (fun d => { d with sensors := r })

theorem State.die_sampled (s : State) (die : Nat) (r : List Int) :
    (s.sampled die r).die die = { s.die die with sensors := r } := s.die_updDie die fun x => { x with sensors := r }

/-- A die has come to a thermal step. -/
def State.atStep (s : State) (die n : Nat) : State := s.updDie die (fun d => { d with thermal := n })

section
variable {s : State} {die : Nat} {r : List Int}

/-- R469: WHAT A SAMPLE OF 24 READINGS DOES, step by step. -/
theorem exec_thermalSample (hd : die < 2) (hr : r.length = 24) {n : Nat}
    (hn : thermalStep (s.die die).thermal (hottest r).2 = n) :
    exec (.thermalSample die r) s =
      if s.host.service = .reset then .next (s.sampled die r)
      else if n = (s.die die).thermal then .next ((s.sampled die r).thermalAct die (s.die die).thermal n)
      else
        let u := ((s.sampled die r).atStep die n).errorRecord die 8 0xFF 0xFF false 0
          (n + 2 ^ 8 * (BitVec.ofInt 16 (hottest r).2).toNat + 2 ^ 24 * (hottest r).1)
        if n = 3 then
          let v := u.errorRecord die 5 0xFF 0xFF false 0 2
          finish (v.toReset v.host.powered true)
        else finish (u.thermalAct die (s.die die).thermal n) := by
  subst hn
  exact if_neg (by omega)

/-- A sample that changes the step, the ring not placed: it is counted; step 3 leads to Reset, at the others firmware acts. -/
theorem exec_thermalSample_change (hd : die < 2) (hr : r.length = 24) {n : Nat}
    (hn : thermalStep (s.die die).thermal (hottest r).2 = n) (hs : s.host.service ≠ .reset) (h : n ≠ (s.die die).thermal)
    (hstop : s.stop = none) (hring : (s.die die).errRing = none) :
    exec (.thermalSample die r) s =
      .next (if n = 3 then (((s.sampled die r).atStep die n).counted die |>.counted die).toReset s.host.powered true
        else (((s.sampled die r).atStep die n).counted die).thermalAct die (s.die die).thermal n) := by
  rw [exec_thermalSample hd hr hn, if_neg hs, if_neg h, State.errorRecord_unplaced]
  · dsimp only
    split_ifs
    · rw [State.errorRecord_unplaced]
      · rfl
      · simpa [State.sampled, State.atStep, State.counted] using hring
    · exact finish_next ((State.powerOnly_thermalAct _ _ _ _).1.stop.trans hstop)
  · simpa [State.sampled, State.atStep] using hring

/-- A sample in Reset, or one that keeps a step at which firmware does nothing, is only read. -/
theorem exec_thermalSample_quiet (hd : die < 2) (hr : r.length = 24) {n : Nat}
    (hn : thermalStep (s.die die).thermal (hottest r).2 = n)
    (h : s.host.service = .reset ∨ (n = (s.die die).thermal ∧ (n = 0 ∨ s.host.service ≠ .full))) :
    exec (.thermalSample die r) s = .next (s.sampled die r) := by
  rw [exec_thermalSample hd hr hn]
  by_cases hs : s.host.service = .reset
  · exact if_pos hs
  · obtain ⟨hold, h⟩ := h.resolve_left hs
    rw [if_neg hs, if_pos hold, ← hold]
    rcases h with rfl | h
    · rw [State.thermalAct_zero_zero]
    · exact congrArg Host.Outcome.next (State.thermalAct_of_ne_full _ _ _ _ h)

/-- A sample that keeps step 1 or 2 in Full has firmware reduce the die's power again. -/
theorem exec_thermalSample_same (hd : die < 2) (hr : r.length = 24) {n : Nat}
    (hn : thermalStep (s.die die).thermal (hottest r).2 = n) (hf : s.host.service = .full) (h : n = (s.die die).thermal)
    (h12 : n = 1 ∨ n = 2) :
    ∃ t, exec (.thermalSample die r) s = .next t ∧ (t.die die).sensors = r ∧ (t.die die).errSeq = (s.die die).errSeq
      ∧ t.groups = s.groups ∧ s.Reduced t die n := by
  obtain ⟨hfw, l, p, hdie⟩ := (s.sampled die r).powerOnly_thermalAct die (s.die die).thermal n
  refine ⟨_, by rw [exec_thermalSample hd hr hn, if_neg (by simp [hf]), if_pos h], ?_, ?_, hfw.frame.1, ?_⟩
  · rw [hdie, s.die_sampled]
  · rw [hdie, s.die_sampled]
  · exact ((s.sampled die r).reduced_thermalAct die hf (by omega) (by omega)).of_die rfl (by rw [s.die_sampled])
      (by rw [s.die_sampled])

/-- A sample that changes the step to one below 3 is recorded; firmware acts in Full, and does nothing elsewhere. -/
theorem exec_thermalSample_below (hd : die < 2) (hr : r.length = 24) {n : Nat}
    (hn : thermalStep (s.die die).thermal (hottest r).2 = n) (hs : s.host.service ≠ .reset) (h : n ≠ (s.die die).thermal)
    (hstop : s.stop = none) (hring : (s.die die).errRing = none) (h3 : n ≠ 3) :
    ∃ t, exec (.thermalSample die r) s = .next t ∧ (t.die die).sensors = r ∧ (t.die die).thermal = n
      ∧ (t.die die).errSeq = (s.die die).errSeq + 1 ∧ t.groups = s.groups
      ∧ (s.host.service ≠ .full → t.host = s.host) ∧ (s.host.service = .full → s.Reduced t die n) := by
  have hlt : n < 3 := by have := (thermalStep_spec (s.die die).thermal (hottest r).2).2.2.2; omega
  let u := ((s.sampled die r).atStep die n).counted die
  have hu : u.die die = { s.die die with
      sensors := r, thermal := n, errLost := (s.die die).errLost + 1, errSeq := (s.die die).errSeq + 1 } := by
    simp [u, State.counted, State.atStep, State.sampled]
  obtain ⟨hfw, l, p, hdie⟩ := u.powerOnly_thermalAct die (s.die die).thermal n
  refine ⟨_, by rw [exec_thermalSample_change hd hr hn hs h hstop hring, if_neg h3], ?_, ?_, ?_, hfw.frame.1, ?_, ?_⟩
  · rw [hdie, hu]
  · rw [hdie, hu]
  · rw [hdie, hu]
  · intro hf
    rw [u.thermalAct_of_ne_full die _ n hf]
    rfl
  · intro hf
    exact (u.reduced_thermalAct die hf hlt (by omega)).of_die rfl (by rw [hu]) (by rw [hu])

/-- A sample that changes the step to 3 takes the module to Reset, hot. -/
theorem exec_thermalSample_hot (hd : die < 2) (hr : r.length = 24)
    (hn : thermalStep (s.die die).thermal (hottest r).2 = 3) (hs : s.host.service ≠ .reset) (h : 3 ≠ (s.die die).thermal)
    (hstop : s.stop = none) (hring : (s.die die).errRing = none) :
    ∃ t, exec (.thermalSample die r) s = .next t ∧ t.host.service = .reset ∧ t.host.hot = true ∧ t.groups = []
      ∧ (t.die die).sensors = r := by
  refine ⟨_, by rw [exec_thermalSample_change hd hr hn hs h hstop hring, if_pos rfl], rfl, rfl, rfl, ?_⟩
  simp [State.die_toReset, State.counted, State.atStep, State.sampled]

end

/-! ### Shedding power (R24, R25) -/

/-- SHED_POWER in Full makes one reduction. -/
theorem exec_shedPower {s : State} {die : Nat} (clock chambers : Nat) (hf : s.host.service = .full) (hd : die < 2) :
    exec (.shedPower die clock chambers) s = .next (s.reduce die chambers (decide (clock ≠ 0))) := by
  refine if_neg ?_
  rintro (h | h)
  · exact h hf
  · omega

/-! ### Power gating of a core (R472) -/

section
variable {s : State} {core : Nat}

/-- A core in droop owes the cycles. -/
theorem exec_droop (h : core < 32) (n : Nat) :
    exec (.droop core n) s = .next (s.updCore core (fun c => { c with droop := c.droop + n })) := if_pos h

/-- An idle core waits for 20 µs. -/
theorem exec_coreIdleGate_early {since : Nat} (hsince : (s.core core).idleSince = some since) (h : s.ns < since + 20000) :
    exec (.coreIdleGate core) s = .next s := by
  show execCoreIdleGate core s = _
  simp [execCoreIdleGate, hsince, h]

/-- After 20 µs it drops its caches and asks to be gated. -/
theorem exec_coreIdleGate_due {since : Nat} (hsince : (s.core core).idleSince = some since) (hoff : (s.core core).off = false)
    (hgate : (s.core core).gateAt = none) (hidle : s.coreIdle core (s.core core) = true) (h : since + 20000 ≤ s.ns) :
    exec (.coreIdleGate core) s = .next (s.updCore core (fun c => { c with
      l1 := [], sampler := [], fetchBuf := [], tlb := [], stlb := [], gateAt := some (s.core core).cycles })) := by
  show execCoreIdleGate core s = _
  simp only [execCoreIdleGate, hsince, hoff, hgate, hidle, decide_eq_false (not_lt.mpr h)]
  rfl

/-- A wake before isolation takes the request back, and the core settles. -/
theorem State.abortGate_asked (s : State) {core at_ : Nat} (h : (s.core core).gateAt = some at_) :
    s.abortGate core = s.updCore core (fun c => { c with gateAt := none, wakeAt := some (s.ns + 40) }) :=
  if_pos (h ▸ Option.isSome_some)

theorem State.wakeCore_asked (s : State) {core at_ : Nat} (h : (s.core core).gateAt = some at_) :
    s.wakeCore core = s.updCore core (fun c => { c with gateAt := none, wakeAt := some (s.ns + 40) }) :=
  (if_pos (h ▸ Option.isSome_some)).trans (s.abortGate_asked h)

/-- A wake powers a core up that has been gated. -/
theorem State.wakeCore_gated (s : State) {core : Nat} (h : (s.core core).gateAt = none) (hg : (s.core core).gated = true) :
    s.wakeCore core = s.updCore core (fun c => { c with gated := false, wakeAt := some (s.ns + 2000) }) := by
  simp [State.wakeCore, h, hg]

/-- GATE_ISOLATION: a wake that has come aborts it; else it waits for 80 cycles after the request and takes the power away. -/
theorem exec_gateIsolation {at_ : Nat} (h : (s.core core).gateAt = some at_) :
    exec (.gateIsolation core) s =
      if s.wakeDue core then .next (s.updCore core (fun c => { c with gateAt := none, wakeAt := some (s.ns + 40) }))
      else if (s.core core).cycles < at_ + 80 then .next s
      else .next (s.updCore core (fun c => { c with gateAt := none, gated := true })) := by
  show execGateIsolation core s = _
  simp only [execGateIsolation, h, s.abortGate_asked h]

/-- CORE_POWERED_UP: when its time has come the core takes work again. -/
theorem exec_corePoweredUp {at_ : Nat} (h : (s.core core).wakeAt = some at_) :
    exec (.corePoweredUp core) s =
      if s.ns < at_ then .next s else .next (s.updCore core (fun c => { c with wakeAt := none })) := by
  show execCorePoweredUp core s = _
  simp only [execCorePoweredUp, h]

end

/-- Settles O57: the sample's cases by the service state and the new step, the reduction's by what is left to reduce, and
gating's by what the core waits for. -/
theorem heatAndPower : Obligations.HeatAndPower := by
  unfold Obligations.HeatAndPower
  refine ⟨?_, ?_, fun die p q h => clockOf_strictMono die h, ?_⟩
  · intro s die r hd hr hstop hring
    obtain ⟨h3, h0, h0', -⟩ := thermalStep_spec (s.die die).thermal (hottest r).2
    have hne : r ≠ [] := by rintro rfl; simp at hr
    exact ⟨fun _ => le_hottest, hottest_mem hne, exec_thermalSample_quiet hd hr rfl,
      exec_thermalSample_same hd hr rfl,
      fun hs h => ⟨exec_thermalSample_below hd hr rfl hs h hstop hring,
        fun hn => exec_thermalSample_hot hd hr hn hs (hn ▸ h) hstop hring⟩, h3, h0, h0'⟩
  · intro s die clock chambers hf hd
    obtain ⟨⟨hfw, -⟩, -⟩ := s.die_reduce die chambers (decide (clock ≠ 0))
    obtain ⟨hgroups, hteams, hcores, hhome⟩ := hfw.frame
    refine ⟨_, exec_shedPower clock chambers hf hd, hgroups, hteams, hcores, hhome, ?_, ?_, ?_⟩
    · intro hl
      rw [s.reduce_chambers chambers _ hl]
      exact ⟨s.die_updDie die _, rfl⟩
    · intro hl hc hp
      rw [s.reduce_clock chambers hl (by simpa using hc) hp]
      exact ⟨s.die_setPoint die _, s.clockShown_setPoint die _⟩
    · intro hl hc
      exact s.reduce_none chambers hl (by simpa using hc)
  · intro s core
    refine ⟨fun h => exec_droop h, ?_, ?_, ?_, ?_⟩
    · intro since hsince hoff hgate hidle
      exact ⟨exec_coreIdleGate_early hsince, exec_coreIdleGate_due hsince hoff hgate hidle⟩
    · intro at_ h
      refine ⟨?_, ?_, ?_, ?_⟩
      · intro hw
        exact ⟨s.ns + 40, by rw [exec_gateIsolation h, if_pos hw], by omega⟩
      · intro hw hc
        rw [exec_gateIsolation h, if_neg (by simp [hw]), if_pos hc]
      · intro hw hc
        rw [exec_gateIsolation h, if_neg (by simp [hw]), if_neg (by omega)]
      · refine ⟨_, s.ns + 40, congrArg Host.Outcome.next (s.wakeCore_asked h), ?_, by omega⟩
        exact s.core_updCore core _
    · intro h hg
      refine ⟨_, s.ns + 2000, congrArg Host.Outcome.next (s.wakeCore_gated h hg), ?_, by omega⟩
      exact s.core_updCore core _
    · intro at_ h
      exact ⟨fun hlt => by rw [exec_corePoweredUp h, if_pos hlt], fun hle => by rw [exec_corePoweredUp h, if_neg (by omega)]⟩

end Sys2Proof.Machine
end

section
/-! PROOFS. Numbers in bytes and in memory, and what a mailbox command does (R3, R285, R451). -/
namespace Sys2Proof.Machine

/-! ### Numbers (R3) -/

@[simp] theorem length_natLe (n v : Nat) : (natLe n v).length = n := by
  induction n generalizing v with
  | zero => rfl
  | succ n ih => simp [natLe, ih]

/-- A number that is written in `n` bytes reads back modulo 2 ^ (8 n). -/
@[simp] theorem leNat_natLe (n v : Nat) : leNat (natLe n v) = v % 2 ^ (8 * n) := by
  induction n generalizing v with
  | zero => simp [natLe, leNat, Nat.mod_one]
  | succ n ih =>
    rw [natLe, leNat, ih, BitVec.toNat_ofNat, show 8 * (n + 1) = 8 + 8 * n by ring, pow_add 2 8 (8 * n), Nat.mod_mul]
    rfl

theorem leNat_lt (xs : List Byte) : leNat xs < 2 ^ (8 * xs.length) := by
  induction xs with
  | nil => simp [leNat]
  | cons x xs ih =>
    have hx := x.isLt
    rw [leNat, List.length_cons, show 8 * (xs.length + 1) = 8 + 8 * xs.length by ring, pow_add]
    omega

/-- Bytes in the middle of a run that has been written read back. -/
theorem bytesAt_putBytes_mid (m : Bytes) (a : Nat) (xs ys zs : List Byte) :
    bytesAt (putBytes m a (xs ++ (ys ++ zs))) (a + xs.length) ys.length = ys := by
  refine List.ext_getElem (by simp [bytesAt]) fun i h _ => ?_
  have hi : i < ys.length := by simpa [bytesAt] using h
  simp only [bytesAt, List.getElem_map, List.getElem_range, byteAt_putBytes]
  rw [dif_pos (by simp only [List.length_append]; omega)]
  rw [List.getElem_append_right (by omega), List.getElem_append_left (by omega)]
  congr 1
  omega

/-! ### The payload (R451) -/

/-- One, two and eight bytes of the payload, in the terms of Safety.lean. -/
theorem State.arg_one (s : State) (i : Nat) : s.arg i 1 = s.payloadByte i := by
  simp [State.arg, bytesAt, leNat, State.payloadByte]

theorem State.arg_two (s : State) (i : Nat) : s.arg i 2 = s.payload16 i := by
  simp [State.arg, bytesAt, leNat, State.payloadByte, State.payload16, List.range_succ]

theorem State.arg_eight (s : State) (i : Nat) : s.arg i 8 = s.payload64 i := by
  simp [State.arg, bytesAt, leNat, State.payloadByte, State.payload16, State.payload32, State.payload64, List.range_succ,
    Nat.add_assoc]
  omega

/-- Three bytes are zero when the first one and the two after it are. -/
theorem State.arg_three_eq_zero (s : State) (i : Nat) : s.arg i 3 = 0 ↔ s.payloadByte i = 0 ∧ s.payload16 (i + 1) = 0 := by
  simp [State.arg, bytesAt, leNat, State.payloadByte, State.payload16, List.range_succ, Nat.add_assoc]

/-- A number in a result that has been put into the payload. -/
theorem State.arg_of_payload {t : State} {p : Bytes} {xs ys : List Byte} {n v : Nat}
    (h : t.host.payload = putBytes p 0 (xs ++ (natLe n v ++ ys))) : t.arg xs.length n = v % 2 ^ (8 * n) := by
  have hread := bytesAt_putBytes_mid p 0 xs (natLe n v) ys
  rw [length_natLe, Nat.zero_add, ← h] at hread
  exact (congrArg leNat hread).trans (leNat_natLe n v)

/-- Three counts of eight bytes in the payload. -/
theorem State.payload64_of_payload {t : State} {p : Bytes} {a b c : Nat}
    (h : t.host.payload = putBytes p 0 (natLe 8 a ++ natLe 8 b ++ natLe 8 c)) :
    t.payload64 0 = a % 2 ^ 64 ∧ t.payload64 8 = b % 2 ^ 64 ∧ t.payload64 16 = c % 2 ^ 64 := by
  have h0 : t.arg 0 8 = a % 2 ^ (8 * 8) :=
    State.arg_of_payload (xs := []) (ys := natLe 8 b ++ natLe 8 c) (by rw [h, List.append_assoc, List.nil_append])
  have h8 : t.arg (natLe 8 a).length 8 = b % 2 ^ (8 * 8) :=
    State.arg_of_payload (ys := natLe 8 c) (by rw [h, List.append_assoc])
  have h16 : t.arg (natLe 8 a ++ natLe 8 b).length 8 = c % 2 ^ (8 * 8) :=
    State.arg_of_payload (ys := []) (by rw [h, List.append_nil])
  rw [State.arg_eight] at h0
  rw [length_natLe, State.arg_eight] at h8
  rw [List.length_append, length_natLe, length_natLe, State.arg_eight] at h16
  exact ⟨h0, h8, h16⟩

/-! ### Commands (R451) -/

/-- The state that a command's effect leaves, with its reply. -/
def State.answered (r : Reply × State) : State := r.2.reply r.1

/-- A COMMAND THAT IS AVAILABLE has its effect, and replies. -/
theorem State.command_run {s : State} {code : Nat} {avail : List Service} (k : State → Reply × State)
    (hc : s.Commanded code) (ha : s.host.service ∈ avail) : s.command code avail k = State.answered (k s) := by
  obtain ⟨-, hgo, hcmd⟩ := hc
  simp [State.command, State.answered, hgo, hcmd, ha]

/-- A reply is seen, and only the host's side changes. -/
theorem State.replied_reply (s : State) (r : Reply) : (s.reply r).Replied r.1 r.2 := ⟨rfl, rfl, rfl⟩
theorem State.onlyHost_reply (s : State) (r : Reply) : s.OnlyHost (s.reply r) := rfl

theorem State.firmwareOnly_reply (s : State) (r : Reply) : s.FirmwareOnly (s.reply r) := rfl
@[simp] theorem State.die_reply (s : State) (r : Reply) (d : Nat) : (s.reply r).die d = s.die d := rfl
@[simp] theorem State.clockShown_reply (s : State) (r : Reply) (d : Nat) : (s.reply r).clockShown d = s.clockShown d := rfl
@[simp] theorem State.envelope_reply (s : State) (r : Reply) : (s.reply r).host.envelope = s.host.envelope := rfl

/-- A result stays in the payload. -/
theorem State.payload_reply (s : State) (bs : List Byte) (r : Reply) :
    ((s.putPayload 0 bs).reply r).host.payload = putBytes s.host.payload 0 bs := rfl

/-- Groups and memory are no part of the host's side. -/
theorem State.OnlyHost.frame {s t : State} (h : s.OnlyHost t) :
    t.groups = s.groups ∧ ∀ key, t.homeByte key = s.homeByte key := by
  unfold State.OnlyHost at h
  rw [h]
  exact ⟨rfl, fun _ => rfl⟩

/-! ### Memory of the module (R15, R285) -/

/-- Memory of a die is reachable, whatever peers and links do. -/
theorem State.unreachable_module (s : State) {key : Nat} (h : key / 2 ^ 48 < 2) : s.unreachable key = false := by
  simp [State.unreachable, outsideHome]
  omega

/-- Bytes inside the LPDDR6 of a die can be reached. -/
theorem State.reachable_module (s : State) {die pa n : Nat} (hd : die < 2) (hn : 0 < n) (h : pa + n ≤ lpddrBytes) :
    s.Reachable (homeKey die pa) n := by
  unfold lpddrBytes at h
  have h1 : homeKey die pa / 2 ^ 48 = die := by unfold homeKey; omega
  have h2 : (homeKey die pa + n - 1) / 2 ^ 48 = die := by unfold homeKey; omega
  have h3 : homeKey die pa % 2 ^ 48 = pa := by unfold homeKey; omega
  refine ⟨s.unreachable_module (by omega), s.unreachable_module (by omega), ?_⟩
  rw [h1, h3, if_pos hd]
  unfold lpddrBytes
  omega

/-- A STORE THAT CAN BE REACHED changes memory, the L2 and poison alone. -/
theorem State.Reachable.putHome_eq {s : State} {key : Nat} {xs : List Byte} (h : s.Reachable key xs.length) :
    s.putHome key xs = { s.putHomeRaw key xs with poison := clearPoison (s.putHomeRaw key xs).poison key xs.length } := by
  unfold State.putHome
  rw [h.1, h.2.1, if_neg (by simp), h.checkPa]

theorem State.Reachable.putHome_frame {s : State} {key : Nat} {xs : List Byte} (h : s.Reachable key xs.length) :
    ∃ m d t p, s.putHome key xs = { s with mem := m, l2 := d, l2Tags := t, poison := p } := by
  obtain ⟨m, d, t, hraw⟩ := State.putHomeRaw_frame xs s key
  exact ⟨m, d, t, _, by rw [h.putHome_eq, hraw]⟩

/-- READ AFTER WRITE at the home. -/
theorem State.Reachable.homeByte_putHome {s : State} {key : Nat} {xs : List Byte} (h : s.Reachable key xs.length) (k : Nat) :
    (s.putHome key xs).homeByte k
      = if h : key ≤ k ∧ k < key + xs.length then xs[k - key]'(by omega) else s.homeByte k := by
  rw [h.putHome_eq]
  exact State.putHomeRaw_homeByte xs s key k

theorem State.homeNat_lt (s : State) (key n : Nat) : s.homeNat key n < 2 ^ (8 * n) := by
  simpa [State.homeNat, State.homeBytes] using leNat_lt (s.homeBytes key n)

/-- A number that has been stored reads back. -/
theorem State.Reachable.homeNat_putHomeNat {s : State} {key n : Nat} (h : s.Reachable key n) (v : Nat) :
    (s.putHomeNat key n v).homeNat key n = v % 2 ^ (8 * n) := by
  have hbytes : (s.putHomeNat key n v).homeBytes key n = natLe n v := by
    refine List.ext_getElem (by simp [State.homeBytes]) fun i hi _ => ?_
    have hi' : i < n := by simpa [State.homeBytes] using hi
    simp only [State.homeBytes, State.putHomeNat, List.getElem_map, List.getElem_range]
    rw [State.Reachable.homeByte_putHome (by simpa using h), dif_pos (by simp; omega)]
    simp
  rw [State.homeNat, hbytes, leNat_natLe]

end Sys2Proof.Machine
end

section
/-! PROOFS. SET_ENVELOPE, MEMTEST, PATTERN, ERR_RING and SENSORS (R24, R454, R456, R466). -/
namespace Sys2Proof.Machine

/-! ### SET_ENVELOPE (R24, R454) -/

/-- A power has been granted. -/
def State.withEnvelope (s : State) (w : Nat) : State := s.updTable (fun h => { h with envelope := w })

/-- Firmware gives both dies their points under an envelope. -/
def State.selectBoth (s : State) (w : Nat) : State := ((s.withEnvelope w).selectPoint 0).selectPoint 1

theorem exec_setEnvelope {s : State} (hc : s.Commanded 0x13) (ha : s.host.service = .reduced ∨ s.host.service = .full) :
    exec .setEnvelope s = .next (
      if s.payload16 0 < 95 ∨ 300 < s.payload16 0 then s.reply (1, 0)
      else (if s.host.service = .full then s.selectBoth (s.payload16 0) else s.withEnvelope (s.payload16 0)).reply (0, 0)) := by
  show execSetEnvelope s = _
  unfold execSetEnvelope
  rw [State.command_run _ hc (by simpa using ha)]
  dsimp only
  rw [s.arg_two]
  rw [apply_ite State.answered]
  rfl

/-- A die has the operating point that an envelope allows it (R24, R25): without heat the envelope's, else no higher one than it has. -/
def State.Selected (s t : State) (d w : Nat) : Prop :=
  if (s.die d).thermal = 0 then
    t.die d = { s.die d with chamberLimit := 96, point := Config.pointFor d w } ∧ t.clockShown d = clockOf d (Config.pointFor d w)
  else t.die d = { s.die d with point := min (s.die d).point (Config.pointFor d w) }
    ∧ t.clockShown d = clockOf d (min (s.die d).point (Config.pointFor d w))

/-- Only the die and the clock that the table shows for it matter. -/
theorem State.Selected.congr {s t s' t' : State} {d w w' : Nat} (h : s.Selected t d w) (hs : s.die d = s'.die d)
    (ht : t'.die d = t.die d) (hc : t'.clockShown d = t.clockShown d) (hw : w = w') : s'.Selected t' d w' := by
  simpa only [State.Selected, ← hs, ht, hc, ← hw] using h

/-- SELECTING A POINT does so for its die. -/
theorem State.selected_selectPoint (s : State) (d : Nat) : s.Selected (s.selectPoint d) d s.host.envelope := by
  unfold State.Selected State.selectPoint
  split_ifs
  · exact ⟨s.die_envelopePoint d, State.clockShown_setPoint _ d _⟩
  · exact ⟨s.die_setPoint d _, s.clockShown_setPoint d _⟩

/-- The other die stays, with the envelope. -/
theorem State.selectPoint_frame (s : State) (d : Nat) :
    s.FirmwareOnly (s.selectPoint d) ∧ (s.selectPoint d).host.envelope = s.host.envelope
      ∧ (∀ e, e ≠ d → (s.selectPoint d).die e = s.die e) ∧ (d ≠ 0 → (s.selectPoint d).host.clk0 = s.host.clk0) := by
  unfold State.selectPoint
  split_ifs
  · refine ⟨s.firmwareOnly_envelopePoint d, by simp [State.envelopePoint], fun e he => ?_, fun hd => ?_⟩
    · exact (State.die_setPoint_ne _ _ he).trans (s.die_updDie_ne _ he)
    · exact State.clk0_setPoint _ _ hd
  · exact ⟨s.firmwareOnly_setPoint d _, s.envelope_setPoint d _, fun e he => s.die_setPoint_ne _ he,
      fun hd => s.clk0_setPoint _ hd⟩

/-- In Full an envelope that has been granted gives both dies their points. -/
theorem State.selected_selectBoth (s : State) (w : Nat) {d : Nat} (hd : d < 2) : s.Selected (s.selectBoth w) d w := by
  obtain ⟨-, henv, hother, -⟩ := (s.withEnvelope w).selectPoint_frame 0
  obtain ⟨-, -, hother', hclk0⟩ := ((s.withEnvelope w).selectPoint 0).selectPoint_frame 1
  match d, hd with
  | 0, _ => exact ((s.withEnvelope w).selected_selectPoint 0).congr rfl (hother' 0 (by decide)) (hclk0 (by decide)) rfl
  | 1, _ => exact (State.selected_selectPoint _ 1).congr (hother 1 (by decide)) rfl rfl henv

theorem State.selectBoth_frame (s : State) (w : Nat) :
    s.FirmwareOnly (s.selectBoth w) ∧ (s.selectBoth w).host.envelope = w := by
  obtain ⟨hfw0, henv0, -⟩ := (s.withEnvelope w).selectPoint_frame 0
  obtain ⟨hfw1, henv1, -⟩ := ((s.withEnvelope w).selectPoint 0).selectPoint_frame 1
  exact ⟨(s.firmwareOnly_updHost _).trans (hfw0.trans hfw1), henv1.trans henv0⟩

/-! ### MEMTEST (R454) -/

theorem exec_memtest {s : State} (hc : s.Commanded 0x14) (hr : s.host.service = .reduced) (ht : s.host.testing = none) :
    exec .memtest s = .next { s with host := { s.host with testing := some (s.payloadByte 0 % 4) } } := by
  obtain ⟨-, hgo, hcmd⟩ := hc
  show execMemtest s = _
  simp [execMemtest, hgo, hcmd, hr, ht, s.arg_one, State.updHost]

/-- Which dies a mask names. -/
theorem maskDies_contains (m d : Nat) : (maskDies m).contains d = decide (d < 2 ∧ m / 2 ^ d % 2 = 1) := by
  rw [Bool.eq_iff_iff, List.contains_iff_mem, maskDies, List.mem_filter, decide_eq_true_iff, decide_eq_true_iff]
  simp only [List.mem_cons, List.not_mem_nil, or_false]
  have : d = 0 ∨ d = 1 ↔ d < 2 := by omega
  rw [this]

theorem mem_maskDies {m d : Nat} : d ∈ maskDies m ↔ d < 2 ∧ m / 2 ^ d % 2 = 1 := by
  rw [← List.contains_iff_mem, maskDies_contains, decide_eq_true_iff]

theorem length_maskDies {m : Nat} (h : m < 4) : (maskDies m).length = m % 2 + m / 2 := by
  match m, h with
  | 0, _ => rfl
  | 1, _ => rfl
  | 2, _ => rfl
  | 3, _ => rfl

/-- A byte store reads like a table. -/
theorem byteAt_eq_tget (m : Bytes) (a : Nat) : byteAt m a = tget m a unlisted := by
  induction m with
  | nil => rfl
  | cons c t ih =>
    simp only [byteAt, tget, tget?, ih]
    split_ifs <;> rfl

/-- A number that no entry has. -/
theorem tget?_eq_none {α : Type} {t : Tab α} {k : Nat} (h : ∀ e ∈ t, e.1 ≠ k) : tget? t k = none := by
  induction t with
  | nil => rfl
  | cons e t ih =>
    obtain ⟨hk, ht⟩ := List.forall_mem_cons.mp h
    rw [tget?, if_neg (Ne.symm hk), ih ht, ite_self]

/-- An entry that a filter takes away. -/
theorem tget?_filter_out {α : Type} (t : Tab α) {p : Nat → Bool} {k : Nat} (h : p k = false) :
    tget? (t.filter fun e => p e.1) k = none := by
  refine tget?_eq_none fun e he hk => ?_
  rw [List.mem_filter, hk, h] at he
  exact Bool.false_ne_true he.2

/-- An entry of a table in rising order that a filter keeps. -/
theorem tget?_filter_kept {α : Type} {t : Tab α} (ht : rising t) {p : Nat → Bool} {k : Nat} (h : p k = true) :
    tget? (t.filter fun e => p e.1) k = tget? t k := by
  induction t with
  | nil => rfl
  | cons e t ih =>
    obtain ⟨habove, ht⟩ := List.pairwise_cons.mp ht
    rw [List.filter_cons]
    by_cases hp : p e.1 = true
    · rw [if_pos hp, tget?, tget?, ih ht]
    · have hne : k ≠ e.1 := by rintro rfl; exact hp h
      rw [if_neg hp, tget?, if_neg hne, ih ht]
      split_ifs with hlt
      · exact tget?_eq_none fun x hx => by have := habove x hx; omega
      · rfl

/-- The memory of the dies of a list has been swept: what they held is gone (R454). -/
def State.swept (s : State) (ds : List Nat) : State :=
  { s with
    mem := s.mem.filter (fun e => !ds.contains (e.1 / 2 ^ 48)), l2 := s.l2.filter (fun e => !ds.contains (e.1 / 2 ^ 48))
    l2Tags := s.l2Tags.filter (fun e => !ds.contains (e.1 * 128 / 2 ^ 48))
    poison := s.poison.filter (fun e => !ds.contains (e.1 * 32 / 2 ^ 48)) }

/-- A swept home reads as zero. -/
theorem State.homeByte_swept_of_mem (s : State) {ds : List Nat} {key : Nat} (h : ds.contains (key / 2 ^ 48) = true) :
    (s.swept ds).homeByte key = 0#8 := by
  have hout : (!ds.contains (key / 2 ^ 48)) = false := by rw [h]; rfl
  simp only [State.homeByte, State.swept, byteAt_eq_tget, tget]
  rw [tget?_filter_out s.l2 (p := fun k => !ds.contains (k / 2 ^ 48)) hout,
    tget?_filter_out s.mem (p := fun k => !ds.contains (k / 2 ^ 48)) hout]
  rfl

/-- Every other home reads as before. -/
theorem State.homeByte_swept_of_not_mem (s : State) (hm : rising s.mem) (hl : rising s.l2) {ds : List Nat} {key : Nat}
    (h : ds.contains (key / 2 ^ 48) = false) : (s.swept ds).homeByte key = s.homeByte key := by
  have hkept : (!ds.contains (key / 2 ^ 48)) = true := by rw [h]; rfl
  simp only [State.homeByte, State.swept, byteAt_eq_tget, tget]
  rw [tget?_filter_kept hl (p := fun k => !ds.contains (k / 2 ^ 48)) hkept,
    tget?_filter_kept hm (p := fun k => !ds.contains (k / 2 ^ 48)) hkept]

/-- The end of a memory test: the dies are swept, and the counts replied. -/
theorem exec_memtestComplete {s : State} {m : Nat} (c u : Nat) (h : s.host.testing = some m) :
    ∃ t p, exec (.memtestComplete c u) s = .next t ∧ t.Replied 0 0 ∧ t.host.testing = none ∧ (s.swept (maskDies m)).OnlyHost t
      ∧ t.host.payload = putBytes p 0 (natLe 8 ((maskDies m).length * (lpddrBytes / 32)) ++ natLe 8 c ++ natLe 8 u) := by
  let v := (s.swept (maskDies m)).updHost (fun h => { h with testing := none })
  refine ⟨(v.putPayload 0 (natLe 8 ((maskDies m).length * (lpddrBytes / 32)) ++ natLe 8 c ++ natLe 8 u)).reply (0, 0),
    v.host.payload, ?_, State.replied_reply _ _, rfl, rfl, v.payload_reply _ _⟩
  show execMemtestComplete c u s = _
  simp only [execMemtestComplete, h]
  rfl

/-- R454: MEMTEST ends with its counts, and the memory of the dies that it names is zero. -/
theorem exec_memtestComplete_spec {s : State} {m : Nat} (c u : Nat) (h : s.host.testing = some m) (hm : m < 4) :
    ∃ t, exec (.memtestComplete c u) s = .next t ∧ t.Replied 0 0
      ∧ t.host.testing = none ∧ t.payload64 8 = c % 2 ^ 64 ∧ t.payload64 16 = u % 2 ^ 64
      ∧ t.payload64 0 = (m % 2 + m / 2) * (45 * 2 ^ 30 / 32) ∧ t.groups = s.groups
      ∧ (∀ key, key < 2 ^ 49 → m / 2 ^ (key / 2 ^ 48) % 2 = 1 → t.homeByte key = 0#8)
      ∧ (rising s.mem → rising s.l2 → ∀ key, 2 ^ 49 ≤ key ∨ m / 2 ^ (key / 2 ^ 48) % 2 = 0 → t.homeByte key = s.homeByte key) := by
  obtain ⟨t, p, hexec, hreply, hdone, honly, hpayload⟩ := exec_memtestComplete c u h
  obtain ⟨h0, h8, h16⟩ := State.payload64_of_payload hpayload
  refine ⟨t, hexec, hreply, hdone, h8, h16, h0.trans ?_, honly.frame.1, ?_, ?_⟩
  · rw [length_maskDies hm, lpddrBytes]
    omega
  · intro key hkey hbit
    refine (honly.frame.2 key).trans (s.homeByte_swept_of_mem ?_)
    rw [maskDies_contains, decide_eq_true_iff]
    exact ⟨by omega, hbit⟩
  · intro hmem hl2 key hkey
    refine (honly.frame.2 key).trans (s.homeByte_swept_of_not_mem hmem hl2 ?_)
    rw [maskDies_contains, decide_eq_false_iff_not]
    rintro ⟨hhome, hbit⟩
    omega

/-! ### PATTERN (R454, R456) -/

/-- A span breaks a limit of R456: its reserved bytes are not zero. -/
def State.badSpan (s : State) (i : Nat) : Prop :=
  s.payloadByte (8 + 8 * i + 5) ≠ 0 ∨ s.payload16 (8 + 8 * i + 6) ≠ 0

theorem State.badSpan_iff (s : State) (i : Nat) : s.badSpan i ↔ s.arg (8 + 8 * i + 5) 3 ≠ 0 := by
  rw [State.badSpan, ne_eq, ne_eq, ne_eq, s.arg_three_eq_zero, not_and_or]

/-- The first span that breaks a limit names the fault. -/
theorem State.patternFault_first (s : State) {n i : Nat} (hi : i < n) (hbad : s.badSpan i) (hfirst : ∀ j < i, ¬ s.badSpan j) :
    s.patternFault n = some (8 + 8 * i + 5) := by
  rw [State.patternFault, if_neg (by omega), List.findSome?_eq_some_iff]
  refine ⟨List.range i, i, (List.range (n - i - 1)).map (i + 1 + ·), ?_, if_pos ((s.badSpan_iff i).mp hbad), ?_⟩
  · rw [← List.singleton_append, ← List.append_assoc, ← List.range_succ, ← List.range_add]
    congr 1
    omega
  · intro j hj
    exact if_neg (mt (s.badSpan_iff j).mpr (hfirst j (List.mem_range.mp hj)))

/-- Without a span that breaks a limit there is no fault. -/
theorem State.patternFault_none (s : State) {n : Nat} (hn : n ≠ 0) (h : ∀ i < n, ¬ s.badSpan i) : s.patternFault n = none := by
  rw [State.patternFault, if_neg hn, List.findSome?_eq_none_iff]
  exact fun i hi => if_neg (mt (s.badSpan_iff i).mpr (h i (List.mem_range.mp hi)))

theorem exec_pattern_fault {s : State} {b : Nat} (hc : s.Commanded 0x15) (ha : s.host.service ≠ .reset)
    (h : s.patternFault (s.payloadByte 1) = some b) : exec .pattern s = .next (s.reply (1, b)) := by
  show execPattern s = _
  unfold execPattern
  rw [State.command_run _ hc (by cases hs : s.host.service <;> simp_all), s.arg_one]
  simp only [h]
  rfl

/-- The dies of a list take a pattern. -/
def State.givePattern (s : State) (ds : List Nat) (spans : List Nat) : State :=
  ds.foldl (fun s d => s.updDisp d (fun x => x.newPattern s.ns spans)) s

theorem exec_pattern_given {s : State} (hc : s.Commanded 0x15) (ha : s.host.service ≠ .reset)
    (h : s.patternFault (s.payloadByte 1) = none) :
    exec .pattern s = .next ((s.givePattern (maskDies (s.payloadByte 0 % 4))
      ((List.range (s.payloadByte 1)).map fun i => s.payload64 (8 + 8 * i))).reply (0, 0)) := by
  show execPattern s = _
  unfold execPattern
  rw [State.command_run _ hc (by cases hs : s.host.service <;> simp_all), s.arg_one, s.arg_one]
  simp only [h, State.arg_eight]
  rfl

/-- A port that no control block governs takes the pattern. -/
theorem Display.newPattern_eq (x : Display) (now : Nat) (spans : List Nat) :
    x.newPattern now spans = if x.enableBit = true ∧ x.pattern = none ∧ x.patternNext = none then x
      else { x with patternNext := some spans, patternAt := if x.pattern.isSome then x.patternAt else now } := by
  simp only [Display.newPattern, Bool.and_eq_true, Option.isNone_iff_eq_none, and_assoc]

/-- Each named die takes the pattern, and nothing else changes. -/
theorem State.givePattern_spec (ds : List Nat) (spans : List Nat) (hnd : ds.Nodup) (s : State) :
    s.FirmwareOnly (s.givePattern ds spans)
      ∧ ∀ d, (s.givePattern ds spans).disp d = if d ∈ ds then (s.disp d).newPattern s.ns spans else s.disp d := by
  induction ds generalizing s with
  | nil => exact ⟨.refl s, fun d => by simp [State.givePattern]⟩
  | cons e ds ih =>
    obtain ⟨hout, hnd⟩ := List.nodup_cons.mp hnd
    let u := s.updDisp e (fun x => x.newPattern s.ns spans)
    obtain ⟨hfw, hdisp⟩ := ih hnd u
    refine ⟨(s.firmwareOnly_updDie e _).trans hfw, fun d => (hdisp d).trans ?_⟩
    by_cases hd : d = e
    · subst hd
      rw [if_neg hout, if_pos List.mem_cons_self]
      exact congrArg Die.disp (s.die_updDie d _)
    · have hu : u.disp d = s.disp d := congrArg Die.disp (s.die_updDie_ne _ hd)
      simp only [hu, List.mem_cons, hd, false_or]
      rfl

/-! ### ERR_RING (R466) -/

/-- A die's ring has been placed; what was lost before is in its OVERFLOW (R466). -/
def State.withRing (s : State) (die pa n : Nat) : State :=
  let u := s.updDie die (fun d => { d with errRing := some (pa, n), errLost := 0 })
  if (s.die die).errLost = 0 then u
  else u.putHomeNat (homeKey die pa + 128) 4 (u.homeNat (homeKey die pa + 128) 4 + (s.die die).errLost)

theorem exec_errRing {s : State} (hc : s.Commanded 0x20) (hf : s.host.service = .full) :
    exec .errRing s = finish (
      if s.payload64 0 % 4096 ≠ 0 ∨ 45 * 2 ^ 30 ≤ s.payload64 0 then s.reply (1, 0)
      else if 2 ≤ s.payloadByte 8 then s.reply (1, 8)
      else if s.payloadByte 9 < 4 ∨ 16 < s.payloadByte 9 then s.reply (1, 9)
      else if 45 * 2 ^ 30 < s.payload64 0 + ringBytes (s.payloadByte 9) then s.reply (1, 0)
      else (s.withRing (s.payloadByte 8) (s.payload64 0) (s.payloadByte 9)).reply (0, 0)) := by
  show execErrRing s = _
  unfold execErrRing
  rw [State.command_run _ hc (by simp [hf])]
  simp only [State.arg_eight, State.arg_one, apply_ite State.answered]
  rfl

/-- R466: A RING IS PLACED, and its OVERFLOW grows by what was lost; no other byte of memory changes. -/
theorem State.withRing_spec (s : State) {die pa n : Nat} (hd : die < 2) (hfit : pa + 4096 ≤ 45 * 2 ^ 30) :
    (s.withRing die pa n).stop = s.stop ∧ ((s.withRing die pa n).die die).errRing = some (pa, n)
      ∧ ((s.withRing die pa n).die die).errLost = 0
      ∧ (s.withRing die pa n).homeNat (homeKey die pa + 128) 4
          = (s.homeNat (homeKey die pa + 128) 4 + (s.die die).errLost) % 2 ^ 32
      ∧ ∀ k, k < homeKey die pa + 128 ∨ homeKey die pa + 132 ≤ k → (s.withRing die pa n).homeByte k = s.homeByte k := by
  let u := s.updDie die (fun d => { d with errRing := some (pa, n), errLost := 0 })
  have hu : u.die die = { s.die die with errRing := some (pa, n), errLost := 0 } := s.die_updDie die _
  unfold State.withRing
  dsimp only
  split_ifs with hlost
  · refine ⟨rfl, congrArg Die.errRing hu, congrArg Die.errLost hu, ?_, fun _ _ => rfl⟩
    rw [hlost, Nat.add_zero]
    exact (Nat.mod_eq_of_lt (s.homeNat_lt _ 4)).symm
  · have hreach : u.Reachable (homeKey die pa + 128) 4 := by
      rw [show homeKey die pa + 128 = homeKey die (pa + 128) by unfold homeKey; omega]
      exact u.reachable_module hd (by decide) (by unfold lpddrBytes; omega)
    have hreach' : u.Reachable (homeKey die pa + 128)
        (natLe 4 (u.homeNat (homeKey die pa + 128) 4 + (s.die die).errLost)).length := by rwa [length_natLe]
    obtain ⟨m, l, t, p, hframe⟩ := hreach'.putHome_frame
    have hdie : ((u.putHomeNat (homeKey die pa + 128) 4 (u.homeNat (homeKey die pa + 128) 4 + (s.die die).errLost)).die die)
        = u.die die := by rw [State.putHomeNat, hframe]; rfl
    refine ⟨?_, congrArg Die.errRing (hdie.trans hu), congrArg Die.errLost (hdie.trans hu), hreach.homeNat_putHomeNat _,
      fun k hk => ?_⟩
    · rw [State.putHomeNat, hframe]
      rfl
    · refine (hreach'.homeByte_putHome k).trans (dif_neg ?_)
      rw [length_natLe]
      omega

/-! ### SENSORS (R466) -/

theorem exec_sensors {s : State} (hc : s.Commanded 0x21) (ha : s.host.service = .reduced ∨ s.host.service = .full) :
    exec .sensors s = .next (
      if 2 ≤ s.payloadByte 0 then s.reply (1, 0)
      else (s.putPayload 0 ((s.die (s.payloadByte 0)).sensors.flatMap fun t => natLe 2 (BitVec.ofInt 16 t).toNat)).reply
        (0, 0)) := by
  show execSensors s = _
  unfold execSensors
  rw [State.command_run _ hc (by simpa using ha)]
  dsimp only
  rw [s.arg_one, apply_ite State.answered]
  rfl

/-- One piece of a list of pieces of equal length, with what stands before and after it. -/
theorem flatMap_split {α β : Type} (f : α → List β) {n : Nat} (hf : ∀ x, (f x).length = n) {l : List α} {i : Nat}
    (hi : i < l.length) : ∃ xs ys, l.flatMap f = xs ++ (f l[i] ++ ys) ∧ xs.length = n * i := by
  refine ⟨(l.take i).flatMap f, (l.drop (i + 1)).flatMap f, ?_, ?_⟩
  · rw [← List.flatMap_cons, ← List.drop_eq_getElem_cons hi, ← List.flatMap_append, List.take_append_drop]
  · simp [List.length_flatMap, hf, List.map_const', Nat.min_eq_left hi.le, Nat.mul_comm]

/-- The readings that SENSORS puts into the payload, each as a signed halfword. -/
theorem State.payload16_sensors {t : State} {p : Bytes} {r : List Int}
    (h : t.host.payload = putBytes p 0 (r.flatMap fun x => natLe 2 (BitVec.ofInt 16 x).toNat)) {i : Nat} (hi : i < r.length) :
    t.payload16 (2 * i) = (BitVec.ofInt 16 (r.getD i 0)).toNat := by
  obtain ⟨xs, ys, hsplit, hlen⟩ :=
    flatMap_split (fun x : Int => natLe 2 (BitVec.ofInt 16 x).toNat) (fun _ => length_natLe 2 _) hi
  rw [hsplit] at h
  have hread := State.arg_of_payload h
  rw [hlen, State.arg_two] at hread
  rw [hread, List.getD_eq_getElem _ _ hi]
  exact Nat.mod_eq_of_lt (BitVec.isLt _)

/-! ### The commands together -/

/-- Settles O56: each command by its equation, with the cases of its operands. -/
theorem firmwareCommands : Obligations.FirmwareCommands := by
  unfold Obligations.FirmwareCommands
  refine ⟨?_, fun s hc hr ht => exec_memtest hc hr ht, fun s m c u h hm => exec_memtestComplete_spec c u h hm, ?_, ?_, ?_⟩
  · intro s hc ha
    have hexec := exec_setEnvelope hc ha
    by_cases hw : s.payload16 0 < 95 ∨ 300 < s.payload16 0
    · rw [if_pos hw] at hexec
      exact ⟨_, hexec, rfl, rfl, rfl, fun _ => rfl, fun h => by omega,
        fun _ => ⟨s.replied_reply _, s.onlyHost_reply _, rfl⟩⟩
    · rw [if_neg hw] at hexec
      by_cases hf : s.host.service = .full
      · obtain ⟨hfw, henv⟩ := s.selectBoth_frame (s.payload16 0)
        obtain ⟨hgroups, hteams, hcores, hhome⟩ := (hfw.trans (State.firmwareOnly_reply _ (0, 0))).frame
        rw [if_pos hf] at hexec
        exact ⟨_, hexec, hgroups, hteams, hcores, hhome, fun _ => ⟨State.replied_reply _ _,
          (State.envelope_reply _ _).trans henv, fun h => absurd (hf.symm.trans h) (by decide), fun _ d hd =>
          (s.selected_selectBoth _ hd).congr rfl (State.die_reply _ _ d) (State.clockShown_reply _ _ d) rfl⟩,
          fun h => absurd h hw⟩
      · rw [if_neg hf] at hexec
        exact ⟨_, hexec, rfl, rfl, rfl, fun _ => rfl,
          fun _ => ⟨State.replied_reply _ _, rfl, fun _ => rfl, fun h => absurd h hf⟩, fun h => absurd h hw⟩
  · intro s hc ha
    refine ⟨fun hn => ?_, fun i hi hbad hfirst => ?_, fun hn hgood => ?_⟩
    · exact ⟨_, exec_pattern_fault hc ha (if_pos hn), s.replied_reply _, s.onlyHost_reply _⟩
    · exact ⟨_, exec_pattern_fault hc ha (s.patternFault_first hi hbad hfirst), s.replied_reply _, s.onlyHost_reply _⟩
    · obtain ⟨hfw, hdisp⟩ := State.givePattern_spec (maskDies (s.payloadByte 0 % 4))
        ((List.range (s.payloadByte 1)).map fun i => s.payload64 (8 + 8 * i)) (List.Nodup.filter _ (by decide)) s
      refine ⟨_, exec_pattern_given hc ha (s.patternFault_none hn hgood), State.replied_reply _ _, hfw.frame.1, fun d hd => ?_⟩
      have hmem : d ∈ maskDies (s.payloadByte 0 % 4) ↔ ¬ s.payloadByte 0 / 2 ^ d % 2 = 0 := by
        rw [mem_maskDies]
        match d, hd with
        | 0, _ => omega
        | 1, _ => omega
      dsimp only
      by_cases h : s.payloadByte 0 / 2 ^ d % 2 = 0
          ∨ (s.disp d).enableBit = true ∧ (s.disp d).pattern = none ∧ (s.disp d).patternNext = none
      · rw [if_pos h]
        rcases h with hbit | hgoverned
        · exact (hdisp d).trans (if_neg (by simp [hmem, hbit]))
        · exact (hdisp d).trans (by rw [Display.newPattern_eq, if_pos hgoverned, ite_self])
      · obtain ⟨hbit, hfree⟩ := not_or.mp h
        rw [if_neg h]
        exact (hdisp d).trans (by rw [if_pos (hmem.mpr hbit), Display.newPattern_eq, if_neg hfree])
  · intro s hc hf
    have hrefused : ∀ d, exec .errRing s = finish (s.reply (1, d)) →
        ∃ t, exec .errRing s = .next t ∧ t.Replied 1 d ∧ s.OnlyHost t := fun d h =>
      ⟨_, h.trans (finish_next hc.1), s.replied_reply _, s.onlyHost_reply _⟩
    refine ⟨fun h => hrefused 0 ?_, fun h1 h2 h3 => hrefused 8 ?_, fun h1 h2 h3 h4 => hrefused 9 ?_, ?_⟩
    · rw [exec_errRing hc hf, if_pos h]
    · rw [exec_errRing hc hf, if_neg (by omega), if_pos h3]
    · rw [exec_errRing hc hf, if_neg (by omega), if_neg (by omega), if_pos h4]
    · intro hpa hd hn hn' hfit
      have hpos : 0 < 2 ^ s.payloadByte 9 := by positivity
      obtain ⟨hstop, hring, hlost, hover, hframe⟩ :=
        s.withRing_spec (n := s.payloadByte 9) hd (pa := s.payload64 0) (by omega)
      have hexec := exec_errRing hc hf
      rw [if_neg (by omega), if_neg (by omega), if_neg (by omega), if_neg (by unfold ringBytes; omega)] at hexec
      exact ⟨_, hexec.trans (finish_next (hstop.trans hc.1)), State.replied_reply _ _, hring, hlost, hover, hframe⟩
  · intro s hc ha
    have hexec := exec_sensors hc ha
    refine ⟨fun hd => ?_, fun hd => ?_⟩
    · rw [if_pos hd] at hexec
      exact ⟨_, hexec, s.replied_reply _, s.onlyHost_reply _⟩
    · rw [if_neg (by omega)] at hexec
      exact ⟨_, hexec, State.replied_reply _ _, rfl, fun i hi hlen => State.payload16_sensors (s.payload_reply _ _) (by omega)⟩

end Sys2Proof.Machine
end

section
/-! PROOFS. Special registers (R48 to R53, R159, R245). -/
namespace Sys2Proof.Machine

/-! ### Masks -/

/-- The lanes of a list, gathered one by one into a mask. -/
theorem getLsbD_foldl_mask (p : Nat → Bool) {i : Nat} (hi : i < 32) (ls : List Nat) : ∀ m : Mask,
    (ls.foldl (fun m i => if p i then m ||| (1#32 <<< i) else m) m).getLsbD i = (m.getLsbD i || (decide (i ∈ ls) && p i)) := by
  induction ls with
  | nil => simp
  | cons a ls ih =>
    intro m
    have hbit : (1#32 <<< a).getLsbD i = decide (i = a) := by
      rw [BitVec.getLsbD_shiftLeft, BitVec.getLsbD_one, Bool.eq_iff_iff]
      simp [hi]
      omega
    rw [List.foldl_cons, ih]
    by_cases hp : p a = true
    · rw [if_pos hp, BitVec.getLsbD_or, hbit]
      by_cases ha : i = a
      · subst ha; simp [hp]
      · simp [ha]
    · rw [if_neg hp]
      by_cases ha : i = a
      · subst ha; simp [hp]
      · simp [ha]

/-- The lanes of the mask of those that satisfy a predicate. -/
@[simp] theorem getLsbD_maskOf (p : Nat → Bool) {i : Nat} (hi : i < 32) : (maskOf p).getLsbD i = p i := by
  unfold maskOf
  rw [getLsbD_foldl_mask p hi]
  simp [hi]

/-! ### SSPEC (R48 to R50, R159) -/

/-- R49, R50: READING A SPECIAL REGISTER changes the latch of CLOCKLO and NSLO alone, and marks what a read of FLAGS observes. -/
theorem readSpecial_group (s : State) (g : Group) (w : Wave) (c : BitVec 5) :
    (readSpecial s g w c.toNat).2 = { g with
      clockLatch := if c = 9 then BitVec.ofNat 32 ((s.core g.core).cycles / 2 ^ 32) else g.clockLatch
      nsLatch := if c = 11 then BitVec.ofNat 32 (s.ns / 2 ^ 32) else g.nsLatch
      late := if c = 21 then g.observeZero.late else g.late } := by
  obtain ⟨⟨n, hn⟩⟩ := c
  interval_cases n <;> rfl

/-- Observing a flag leaves what a completion still shows. -/
theorem Group.observeNow_base (g : Group) (p : Late → Bool) : (g.observeNow p).late.map Late.base = g.late.map Late.base := by
  simp only [Group.observeNow, List.map_map]
  refine List.map_congr_left fun e _ => ?_
  dsimp only [Function.comp]
  split_ifs <;> rfl

/-- A code of five bits is a number. -/
theorem code5_eq_iff (c : BitVec 5) {n : Nat} (h : n < 32) : c = BitVec.ofNat 5 n ↔ c.toNat = n := by
  rw [← BitVec.toNat_inj, BitVec.toNat_ofNat, Nat.mod_eq_of_lt (by omega)]

section
variable {s : State} (d : BitVec 6) {c : BitVec 5} (he : s.Enabled)
include he

/-- R48: codes from 22 on name no register. -/
theorem exec_sspec_illegal (h : 22 ≤ c.toNat) : exec (.sspec d c) s = .next s.illegal := by
  change Host.Outcome.next _ = _
  rw [State.uWord, if_neg he, if_pos (by simp; omega)]

/-- R159: SSPEC of a register there is writes its value, with what the read latches or observes. -/
theorem exec_sspec (h : c.toNat < 22) :
    exec (.sspec d c) s = .next (s.updCur (fun _ =>
      (readSpecial s s.cg s.cw c.toNat).2.setS d.toNat (readSpecial s s.cg s.cw c.toNat).1)).nextWord := by
  change Host.Outcome.next _ = _
  rw [State.uWord_ok s _ he (decide_eq_true h)]

end

/-- R48 to R50: WHAT AN SSPEC LEAVES of its group: the value in its destination, the latches, and what it has observed. -/
theorem sspec_wordDone (s : State) (d : BitVec 6) (c : BitVec 5) :
    let r := readSpecial s s.cg s.cw c.toNat
    let t := (s.updCur (fun _ => r.2.setS d.toNat r.1)).nextWord
    s.WordDone t { s.cg with
        s := t.cg.s
        clockLatch := if c = 9 then BitVec.ofNat 32 ((s.core s.cg.core).cycles / 2 ^ 32) else s.cg.clockLatch
        nsLatch := if c = 11 then BitVec.ofNat 32 (s.ns / 2 ^ 32) else s.cg.nsLatch }
      ∧ t.cg.sreg d.toNat = r.1 ∧ (∀ i, i ≠ d.toNat → t.cg.sreg i = s.cg.sreg i)
      ∧ t.cg.late = r.2.late.map (Late.hit (.s d.toNat) allBits) := by
  intro r t
  have hg : r.2 = _ := readSpecial_group s s.cg s.cw c
  have hcg : t.cg = { r.2.setS d.toNat r.1 with waves := t.cg.waves } := s.cg_upd_nextWord _
  have hs : t.cg.s = (s.cg.setS d.toNat r.1).s := by rw [hcg, hg]; rfl
  have hlate : (r.2.setS d.toNat r.1).late.map Late.base = s.cg.late.map Late.base := by
    rw [hg]
    simp only [Group.setS, map_base_hit]
    split_ifs
    · exact s.cg.observeNow_base _
    · rfl
  refine ⟨?_, ?_, fun i hi => ?_, by rw [hcg]; rfl⟩
  · rw [hs]
    refine (s.wordDone_upd (fun _ => r.2.setS d.toNat r.1) (by rw [hg]; rfl) (by rw [hg]; rfl) hlate).congr ?_
    rw [hg]; rfl
  · unfold Group.sreg; rw [hs]; exact Group.sreg_setS_same _ _ d.isLt
  · unfold Group.sreg; rw [hs]; exact Group.sreg_setS_ne _ _ hi

/-! ### SSPECW (R51 to R53, R159, R245) -/

section
variable {s : State} (a : BitVec 6) (he : s.Enabled)
include he

/-- R159: STAMPLO is staged. -/
theorem exec_sspecw_stampLo :
    exec (.sspecw a 13) s = .next (s.updCur (fun g => { g with staging := s.cg.sreg a.toNat })).nextWord :=
  congrArg _ (State.uWord_ok s _ he rfl)

/-- R53: PRIO can only fall. -/
theorem exec_sspecw_prio :
    exec (.sspecw a 16) s
      = .next (s.updCur (fun g => { g with prio := min g.prio ((s.cg.sreg a.toNat).toNat % 128) })).nextWord :=
  congrArg _ (State.uWord_ok s _ he rfl)

/-- R51: STATUS is cleared where bits are written as 1. -/
theorem exec_sspecw_status :
    exec (.sspecw a 19) s
      = .next (s.updCur (fun g => g.clearStatus ((s.cg.sreg a.toNat).extractLsb' 0 3) s.now)).nextWord :=
  congrArg _ (State.uWord_ok s _ he rfl)

/-- R159: a register that is not writable, or a stamp that the group may not change to. -/
theorem exec_sspecw_illegal {c : BitVec 5} (h13 : c ≠ 13) (h16 : c ≠ 16) (h19 : c ≠ 19)
    (h14 : c = 14 → stampSetOk s.cg (s.cg.sreg a.toNat ++ s.cg.staging) = false) :
    exec (.sspecw a c) s = .next s.illegal := by
  have hn : ∀ {n : Nat}, n < 32 → c ≠ BitVec.ofNat 5 n → c.toNat ≠ n := fun hn h e => h ((code5_eq_iff c hn).mpr e)
  have h13 := hn (n := 13) (by omega) h13
  have h16 := hn (n := 16) (by omega) h16
  have h19 := hn (n := 19) (by omega) h19
  change Host.Outcome.next _ = _
  rw [State.uWord, if_neg he, if_pos]
  split
  · contradiction
  · next e => simpa using h14 ((code5_eq_iff c (n := 14) (by omega)).mpr e)
  · contradiction
  · contradiction
  · rfl

end

/-- R51: A BIT OF STATUS THAT IS WRITTEN AS 1 falls, unless a completion has set it in the same cycle. -/
theorem Group.clearStatus_bit (g : Group) (v : Word) (now : Nat) {b : Nat} (hb : b < 3) :
    (g.clearStatus (v.extractLsb' 0 3) now).status.getLsbD b
      = (g.status.getLsbD b && (!v.getLsbD b || decide (tget? g.statusAt b = some now))) := by
  simp only [Group.clearStatus, BitVec.getLsbD_and, BitVec.getLsbD_not, hb, decide_true, Bool.true_and, BitVec.getLsbD_ofNat,
    BitVec.testBit_toNat, getLsbD_maskOf _ (show b < 32 by omega), BitVec.getLsbD_extractLsb', Nat.zero_add, Bool.not_and, Bool.not_not]

/-- Settles O9: SSPEC by its one equation and what a read leaves of the group; SSPECW by the register that it names. -/
theorem specialRegisters : Obligations.SpecialRegisters := by
  refine ⟨fun s d c he => ⟨exec_sspec_illegal d he, fun hc => ⟨_, exec_sspec d he hc, ?_⟩⟩, fun s a he => ⟨?_, ?_, ?_, ?_, ?_⟩⟩
  · obtain ⟨hdone, hval, hframe, hlate⟩ := sspec_wordDone s d c
    refine ⟨hframe, hdone, fun h21 => ?_, fun code v hmem hcode => ?_⟩
    · rw [hlate, readSpecial_group, h21]; rfl
    · change (code, v) ∈ (List.range 22).map (fun c => (c, (readSpecial s s.cg s.cw c).1)) at hmem
      obtain ⟨n, -, hn⟩ := List.mem_map.mp hmem
      obtain ⟨rfl, rfl⟩ := Prod.mk.inj hn
      rw [hval, hcode]
  · exact ⟨_, exec_sspecw_prio a he, s.wordDone_upd _ rfl rfl⟩
  · refine ⟨_, exec_sspecw_status a he, ?_, ?_⟩
    · exact (s.wordDone_upd (fun g => g.clearStatus ((s.cg.sreg a.toNat).extractLsb' 0 3) s.now) rfl rfl).congr (by
        rw [State.cg_upd_nextWord]; rfl)
    · intro b hb
      rw [State.cg_upd_nextWord]
      exact s.cg.clearStatus_bit _ _ hb
  · exact ⟨_, exec_sspecw_stampLo a he, s.wordDone_upd _ rfl rfl⟩
  · exact fun h => exec_sspecw_illegal a he (by decide) (by decide) (by decide) (fun _ => h)
  · exact fun c h13 h14 h16 h19 => exec_sspecw_illegal a he h13 h16 h19 (fun h => absurd h h14)

end Sys2Proof.Machine
end

section
/-! PROOFS. Slot conversions (R37, R147). -/
namespace Sys2Proof.Machine

/-- WHAT A V-SET WORD'S RULE LEAVES, whatever word has it (R117). -/
theorem LaneRule.done_vResults {s : State} {r : LaneRule} {x : VIn} (hf : r.fits s.cg)
    (hv : s.laneView r.h r.d.toNat = some x) :
    r.Done x s (s.updCur (fun g => g.vResults x r.d.toNat r.n (r.val x g))).nextWord := by
  obtain ⟨t, hexec, hdone⟩ := vOp_done (ok := fun _ => true) hf (fun _ => rfl) hv
  rw [vOp, hf.1, Bool.true_and, State.vWord_view hv] at hexec
  exact Host.Outcome.next.inj hexec ▸ hdone

/-- R37, R147: A SLOT CONVERSION traps SLOTKIND, or it converts through its slot's element format. -/
theorem vSlot_run {s : State} {h : Honours} {d a : Byte} {e : BitVec 2} {sl : BitVec 3} {x : VIn}
    (f : Fmt → Word → VIn → Group → Nat → Word → Nat × Word) (hd : dstOk s.cg.n d.toNat 1 = true)
    (ha : srcOk s.cg.n a.toNat 1 = true) (hv : s.laneView h d.toNat = some x) :
    (slotElem (s.slot sl.toNat) e.toNat = none → vSlot h d a e sl f s = .next (s.slotTrap sl.toNat))
      ∧ ∀ fmt, slotElem (s.slot sl.toNat) e.toNat = some fmt → ∃ t, vSlot h d a e sl f s = .next t
        ∧ LaneRule.Done { d := d, val := f fmt (s.slot sl.toNat) } x s t := by
  have hword := State.vWord_view hv
  refine ⟨fun hn => ?_, fun fmt hfmt => ⟨_, ?_, LaneRule.done_vResults
    (r := { h := h, d := d, val := f fmt (s.slot sl.toNat) }) ⟨hd, by simp⟩ hv⟩⟩
  · simp only [vSlot, hd, ha, Bool.and_self, hword, hn]
  · simp only [vSlot, hd, ha, Bool.and_self, hword, hfmt]

/-- A register with one element replaced: what stands above the element, the new element, what stands below. -/
theorem setElem_eq (f : Fmt) (w : Word) (e v : Nat) :
    setElem f w e v = w.toNat / 2 ^ (f.width * (e + 1)) * 2 ^ (f.width * (e + 1)) + v * 2 ^ (f.width * e)
      + w.toNat % 2 ^ (f.width * e) := by
  unfold setElem elemOf
  rw [Nat.mul_add, Nat.mul_one, pow_add, ← Nat.div_div_eq_div_mul]
  set p := 2 ^ (f.width * e)
  set q := 2 ^ f.width
  have hlow := Nat.div_add_mod w.toNat p
  have hhigh := Nat.div_add_mod (w.toNat / p) q
  have hsplit : w.toNat = w.toNat / p / q * (p * q) + w.toNat / p % q * p + w.toNat % p := by
    calc w.toNat = p * (w.toNat / p) + w.toNat % p := hlow.symm
      _ = p * (q * (w.toNat / p / q) + w.toNat / p % q) + w.toNat % p := by rw [hhigh]
      _ = _ := by ring
  omega

/-- R147: what VCVTIN gives a lane through a slot's format. -/
def cvtinVal (a : Byte) (e : BitVec 2) (fmt : Fmt) : VIn → Group → Nat → Word → Nat × Word :=
  plain (fun x g l => widen fmt x.p (elemOf fmt (g.src a.toNat l) e.toNat))

/-- R147: what VCVTOUT gives a lane, with the mode and the saturation of the slot. -/
def cvtoutVal (d a : Byte) (e : BitVec 2) (fmt : Fmt) (w : Word) (x : VIn) (g : Group) (l : Nat) (gen : Word) : Nat × Word :=
  let v := fmt.round (numA x g a l)
    { mode := if x.p.rm = 0 then slotRnd w else x.p.rm, sat := x.p.sat || slotSat w, gen := gen }
  (setElem fmt (g.vreg d.toNat l) e.toNat v.1, v.2)

theorem exec_vcvtin (s : State) (d a : Byte) (e : BitVec 2) (sl : BitVec 3) :
    exec (.vcvtin d a e sl) s = vSlot { mods := true } d a e sl (fun fmt _ => cvtinVal a e fmt) s := rfl

theorem exec_vcvtout (s : State) (d a : Byte) (e : BitVec 2) (sl : BitVec 3) :
    exec (.vcvtout d a e sl) s = vSlot (fArith 0) d a e sl (cvtoutVal d a e) s := rfl

/-- Settles O12: both words run through their slot; the element that VCVTOUT replaces splits its register in three. -/
theorem slotConversions : Obligations.SlotConversions := by
  intro s d a e sl x hd ha
  refine ⟨fun hv => ?_, fun hv => ?_⟩
  · rw [exec_vcvtin]
    exact vSlot_run _ hd ha hv
  · rw [exec_vcvtout]
    have h := vSlot_run (e := e) (sl := sl) (cvtoutVal d a e) hd ha hv
    unfold cvtoutVal at h ⊢
    simp only [setElem_eq] at h ⊢
    exact h

end Sys2Proof.Machine
end

section
/-! PROOFS. Operations: what their issue and their completion change (R36, R38, R39, R86). -/
namespace Sys2Proof.Machine

/-! ### Tables and groups written twice -/

/-- An entry that is set twice holds what was set last. -/
@[simp] theorem tset_tset {α : Type} (t : Tab α) (k : Nat) (x y : α) : tset (tset t k x) k y = tset t k y := by
  induction t with
  | nil => simp [tset]
  | cons e t ih =>
    obtain ⟨j, z⟩ := e
    by_cases hlt : k < j
    · simp [tset, hlt]
    · by_cases heq : k = j
      · simp [tset, heq]
      · simp [tset, hlt, heq, ih]

/-- A table that is filled from a list of keys, each once. -/
theorem tget_foldl_tset {α β : Type} (key : β → Nat) (val : β → α) (hkey : Function.Injective key) (d : α) {b : β} {bs : List β}
    (hb : b ∈ bs) (t : Tab α) : tget (bs.foldl (fun t b => tset t (key b) (val b)) t) (key b) d = val b := by
  induction bs using List.reverseRecOn with
  | nil => cases hb
  | append_singleton bs c ih =>
    rw [List.foldl_append, List.foldl_cons, List.foldl_nil, tget_tset]
    by_cases hbc : b = c
    · rw [if_pos (by rw [hbc]), hbc]
    · rw [if_neg (fun h => hbc (hkey h))]
      exact ih (by simpa [hbc] using hb)

/-- Two changes of a group are one. -/
theorem State.updGroup_updGroup (s : State) (gid : Nat) (f h : Group → Group) :
    (s.updGroup gid f).updGroup gid h = s.updGroup gid (fun g => h (f g)) := by
  simp only [State.updGroup, State.setGroup, State.group, tget_tset_same, tset_tset]

/-! ### Flags (R36, R86) -/

theorem Group.charge_eq (g : Group) (f : Option Nat) : g.charge f = { g with flags := (g.charge f).flags } := by
  cases f <;> rfl

theorem Group.flag_charge (g : Group) (f : Option Nat) {i : Nat} (hi : i < 12) :
    vecGet (g.charge f).flags i 0 = vecGet g.flags i 0 + if f = some i then 1 else 0 := by
  cases f with
  | none => rfl
  | some j =>
    change vecGet (vecSet g.flags j _) i 0 = _
    rw [vecGet_vecSet]
    by_cases h : i = j
    · subst h; simp [hi]
    · simp [h, Ne.symm h]

theorem Group.discharge_eq (g : Group) (f : Option Nat) : g.discharge f = { g with flags := (g.discharge f).flags } := by
  cases f <;> rfl

theorem Group.flag_discharge (g : Group) (f : Option Nat) {i : Nat} (hi : i < 12) :
    vecGet (g.discharge f).flags i 0 = vecGet g.flags i 0 - if f = some i then 1 else 0 := by
  cases f with
  | none => rfl
  | some j =>
    change vecGet (vecSet g.flags j _) i 0 = _
    rw [vecGet_vecSet]
    by_cases h : i = j
    · subst h; simp [hi]
    · simp [h, Ne.symm h]

/-! ### Issue (R36, R38) -/

/-- An operation with its number, its wave and its place in the clause. -/
def State.numbered (s : State) (o : POp) : POp := { o with id := s.nextOp, wid := s.curWave, clause := s.cw.addr, idx := s.cw.idx }

/-- R36, R38: AN OPERATION THAT IS PUT IN FLIGHT, after which the wave moves on, has been issued. -/
theorem State.issued_issueOp (s : State) (o : POp) : s.Issued (s.issueOp o).nextWord (s.numbered o) := by
  have hgroup : (s.issueOp o).cg = { s.cg.charge o.flag with ops := s.cg.ops ++ [s.numbered o] } := by
    unfold State.issueOp
    rw [State.cg_updCur]
    rfl
  have hwave : ∀ w, (s.issueOp o).cg.wave w = s.cg.wave w := fun w => by
    rw [hgroup, Group.charge_eq]; rfl
  have hcore : (s.issueOp o).cg.core = s.cg.core := by rw [hgroup, Group.charge_eq]
  have hcg : (s.issueOp o).nextWord.cg
      = { s.cg.charge o.flag with ops := s.cg.ops ++ [s.numbered o], waves := (s.issueOp o).nextWord.cg.waves } := by
    rw [State.cg_nextWord, hgroup]; rfl
  refine ⟨?_, fun f hf => ?_, rfl, rfl, rfl, rfl, ⟨?_, fun w hw => ?_⟩, fun h hh => ?_, fun _ => rfl⟩
  · rw [hcg, Group.charge_eq]
  · rw [hcg]; exact s.cg.flag_charge _ hf
  · rw [State.cw_nextWord, hcore, show (s.issueOp o).cw = s.cw from hwave _]; rfl
  · rw [State.cg_nextWord]
    exact (Group.wave_setWave_ne _ _ hw).trans (hwave w)
  · exact (State.group_nextWord_ne (s.issueOp o) hh).trans (State.group_updCur_ne { s with nextOp := s.nextOp + 1 } _ hh)

/-! ### Completion (R39, R86) -/

theorem Group.endOp_eq (g : Group) (o : POp) : g.endOp o = { g with ops := (g.endOp o).ops, flags := (g.endOp o).flags } := by
  unfold Group.endOp; rw [Group.discharge_eq]

/-- R39, R86: an operation that is taken out has completed, whatever it wrote before. -/
theorem Group.ended_endOp {g h : Group} (o : POp) (hops : h.ops = g.ops) (hflags : h.flags = g.flags) : g.Ended (h.endOp o) o := by
  refine ⟨?_, fun f hf => ?_⟩
  · unfold Group.endOp; rw [Group.discharge_eq, hops]
  · unfold Group.endOp; rw [Group.flag_discharge _ _ hf, hflags]

end Sys2Proof.Machine
end

section
/-! PROOFS. The words of pipe X (R38, R39, R74, R134, R142). -/
namespace Sys2Proof.Machine

/-- What VFX puts in flight. -/
def vfxOp (s : State) (d a : Byte) (f : XFn) (x : VIn) : POp :=
  { instr := .vfx d a f, flag := s.cw.flagOf false, act := x.act, zero := x.zero
    vals := (lanesOf x.act).foldl (fun t l => tset t (l * 64) (s.cg.fsrcA x.p a.toNat l)) []
    args := [x.p.rm, if x.p.sat then 1 else 0] }

/-- R86, R134: with a flag below 63 VFX goes in flight. -/
theorem exec_vfx {s : State} {d a : Byte} {f : XFn} {x : VIn} (hd : dstOk s.cg.n d.toNat 1 = true)
    (ha : srcOk s.cg.n a.toNat 1 = true) (hv : s.laneView { rm := decide (f = .sqrt), sat := true, mods := true } d.toNat = some x)
    (hfree : s.cg.flag (s.cw.flagOf false) < 63) : exec (.vfx d a f) s = .next (s.issueOp (vfxOp s d a f x)).nextWord := by
  change execVfx d a f s = _
  simp only [execVfx, hd, ha, Bool.and_self, State.vWord_view hv]
  rw [if_neg (by simpa [Group.flagFull] using hfree)]
  rfl

/-- What a VFX in flight gives a lane, with a candidate for what R142 leaves open. -/
def vfxGives (o : POp) (f : XFn) (cand : Nat → Nat) (l : Nat) (gen : Word) : Nat × Word :=
  vfxFn f (tget o.vals (l * 64) 0) (cand l) { mode := o.args.getD 0 0, sat := decide (o.args.getD 1 0 = 1), gen := gen }

/-- A lane's result in its register, and its generator (R69, R117). -/
def Group.laneResult (g : Group) (d : Nat) (f : Nat → Word → Nat × Word) (l : Nat) : Group :=
  (g.setVs d l 1 (f l (g.lane l).gen).1).setLane l { g.lane l with gen := (f l (g.lane l).gen).2 }

/-- One lane of a VFX completes with the next free value as its candidate. -/
def State.vfxLane (gid d : Nat) (o : POp) (f : XFn) (s : State) (l : Nat) : State :=
  s.takeFree.2.updGroup gid (fun g => g.laneResult d (vfxGives o f (fun _ => s.takeFree.1)) l)

/-- THE LANES OF A VFX, one after another, are one change of the group: each lane has one free value as its candidate. -/
theorem State.foldl_vfxLane (gid d : Nat) (o : POp) (f : XFn) (h : Group → Group) (ls : List Nat) (hnd : ls.Nodup) :
    ∀ s : State, ∃ cand free, (ls.foldl (State.vfxLane gid d o f) s).updGroup gid h
      = { s with free := free }.updGroup gid (fun g => h (ls.foldl (fun g l => g.laneResult d (vfxGives o f cand) l) g)) := by
  induction ls with
  | nil => exact fun s => ⟨fun _ => 0, s.free, rfl⟩
  | cons a ls ih =>
    intro s
    obtain ⟨ha, hnd⟩ := List.nodup_cons.mp hnd
    obtain ⟨cand, free, hrest⟩ := ih hnd (State.vfxLane gid d o f s a)
    refine ⟨fun l => if l = a then s.takeFree.1 else cand l, free, ?_⟩
    have hcong : ∀ g : Group, ls.foldl (fun g l => g.laneResult d (vfxGives o f cand) l) g
        = ls.foldl (fun g l => g.laneResult d (vfxGives o f (fun l => if l = a then s.takeFree.1 else cand l)) l) g := by
      refine fun g => List.foldl_ext _ _ g fun g l hl => ?_
      have hla : l ≠ a := fun e => ha (e ▸ hl)
      simp only [Group.laneResult, vfxGives, if_neg hla]
    have hfirst : ∀ g : Group, g.laneResult d (vfxGives o f (fun _ => s.takeFree.1)) a
        = g.laneResult d (vfxGives o f (fun l => if l = a then s.takeFree.1 else cand l)) a := fun g => by
      simp only [Group.laneResult, vfxGives, if_true]
    rw [List.foldl_cons, hrest]
    simp only [List.foldl_cons, hcong, ← hfirst]
    exact State.updGroup_updGroup { s with free := free } gid
      (fun g => g.laneResult d (vfxGives o f (fun _ => s.takeFree.1)) a) _

/-- R39, R142: WHAT THE COMPLETION OF A VFX CHANGES: the group alone, by the results of its lanes. -/
theorem exec_vfxComplete {s : State} {gid op : Nat} {o : POp} {d a : Byte} {f : XFn} (ho : (s.group gid).op? op = some o)
    (hi : o.instr = .vfx d a f) : ∃ cand free, exec (.vfxComplete gid op) s = .next ({ s with free := free }.updGroup gid
      (fun g => (g.vResults { act := o.act, zero := o.zero } d.toNat 1 (vfxGives o f cand)).endOp o)) := by
  obtain ⟨cand, free, hfold⟩ := State.foldl_vfxLane gid d.toNat o f (fun g => (g.zeroLanes o.zero d.toNat 1).endOp o) (lanesOf o.act)
    (nodup_lanesOf _) s
  refine ⟨cand, free, ?_⟩
  change execVfxComplete gid op s = _
  simp only [execVfxComplete, ho, hi, State.opDone, State.updGroup_updGroup]
  exact congrArg _ hfold

/-- Settles O30: the issue is that of any operation; the completion is one change of the group, whose results are those of a
V-set word with the free values as candidates. -/
theorem functionWords : Obligations.FunctionWords := by
  refine ⟨fun s d a f x hd ha hv hfree => ?_, fun s gid op o d a f ho hi hdisj => ?_⟩
  · refine ⟨_, _, exec_vfx hd ha hv hfree, s.issued_issueOp _, rfl, rfl, rfl, rfl, rfl, ?_, fun l hl hact => ?_⟩
    · change (if x.p.sat then 1 else 0) = 1 ↔ _
      cases x.p.sat <;> simp
    · exact tget_foldl_tset (fun l => l * 64) _ (fun a b h => by simpa using h) 0 (mem_lanesOf.mpr ⟨hl, hact⟩) []
  · obtain ⟨cand, free, hexec⟩ := exec_vfxComplete ho hi
    set g := s.group gid
    obtain ⟨hframe, hreg, hlane, -, -⟩ := g.vResults_spec { act := o.act, zero := o.zero } d.toNat 1 (vfxGives o f cand)
    set r := g.vResults { act := o.act, zero := o.zero } d.toNat 1 (vfxGives o f cand)
    refine ⟨_, hexec, ?_⟩
    have hgroup : ({ s with free := free }.updGroup gid
        (fun g => (g.vResults { act := o.act, zero := o.zero } d.toNat 1 (vfxGives o f cand)).endOp o)).group gid = r.endOp o :=
      State.group_updGroup _ _ _
    have hends : ∀ k l, (r.endOp o).vreg k l = r.vreg k l ∧ (r.endOp o).lane l = r.lane l := fun k l => by
      rw [Group.endOp_eq]; exact ⟨rfl, rfl⟩
    have hexcl : ∀ l, inMask o.act l = true → inMask o.zero l = false := fun l hact => by
      have h := congrArg (fun m : Mask => m.getLsbD l) hdisj
      simp only [BitVec.getLsbD_and, inMask] at h hact
      simpa [hact, inMask] using h
    rw [hgroup]
    refine ⟨fun k l hl => ⟨fun hz => ?_, fun hz hk => ?_⟩, fun l hl hact => ⟨cand l, ?_, ?_, ?_⟩, fun l hl hact => ?_, ?_, ?_, ?_, ?_, ?_⟩
    · rw [(hends k l).1, hreg k l hl]
      by_cases h : k = d.toNat
      · subst h; simp [hz]
      · rw [if_neg (by omega), if_neg h]
    · rw [(hends k l).1, hreg k l hl]
      rcases hk with h | h
      · rw [if_neg (by omega)]
      · simp [hz, h]
    · rw [(hends _ l).1, hreg _ l hl]
      simp [hexcl l hact, hact]; rfl
    · rw [(hends 0 l).2, hlane l hl, if_pos hact]; rfl
    · rintro rfl; rfl
    · rw [(hends 0 l).2, hlane l hl, if_neg (by simp [hact])]
    · exact Group.ended_endOp o (by rw [hframe]) (by rw [hframe])
    · rw [Group.endOp_eq, hframe]
    · rw [Group.endOp_eq, hframe]
    · exact fun h hh => State.group_updGroup_ne _ _ hh
    · exact fun _ => rfl

end Sys2Proof.Machine
end

section
/-! PROOFS. The end of a clause: the boundary after it, lanes that are sent, and the words on a lane's call stack (R42, R84, R85,
R268, R272). -/
namespace Sys2Proof.Machine

/-! ### Entries of a table that changes -/

theorem mem_of_mem_tset {α : Type} {t : Tab α} {k : Nat} {x : α} {e : Nat × α} (h : e ∈ tset t k x) : e = (k, x) ∨ e ∈ t := by
  induction t with
  | nil => exact .inl (by simpa [tset] using h)
  | cons a t ih =>
    obtain ⟨j, y⟩ := a
    unfold tset at h
    split_ifs at h
    · exact List.mem_cons.mp h
    · exact (List.mem_cons.mp h).imp_right (List.mem_cons_of_mem _)
    · rcases List.mem_cons.mp h with h | h
      · exact .inr (h ▸ List.mem_cons_self)
      · exact (ih h).imp_right (List.mem_cons_of_mem _)

theorem mem_of_mem_tdel {α : Type} {t : Tab α} {k : Nat} {e : Nat × α} (h : e ∈ tdel t k) : e ∈ t := by
  induction t with
  | nil => exact absurd h (by simp [tdel])
  | cons a t ih =>
    obtain ⟨j, y⟩ := a
    unfold tdel at h
    split_ifs at h
    · exact h
    · exact List.mem_cons_of_mem _ (List.mem_filter.mp h).1
    · rcases List.mem_cons.mp h with h | h
      · exact h ▸ List.mem_cons_self
      · exact List.mem_cons_of_mem _ (ih h)

/-! ### The boundary (R85, R268, R272) -/

/-- None of the group's waves is held at a meeting point. -/
def Group.Unheld (g : Group) : Prop := ∀ e ∈ g.waves, e.2.phase ≠ .held

theorem State.releaseMeets_unheld {s : State} {gid : Nat} (h : (s.group gid).Unheld) : s.releaseMeets gid = s := by
  unfold State.releaseMeets
  unfold Group.Unheld at h
  generalize (s.group gid).waves = ws at h
  induction ws with
  | nil => rfl
  | cons e ws ih =>
    rw [List.foldl_cons, if_neg (h e List.mem_cons_self)]
    exact ih fun e he => h e (List.mem_cons_of_mem _ he)

theorem State.settle_notEntering {s : State} {gid : Nat} (h : (s.group gid).entering = none) : s.settle gid = s := by
  simp only [State.settle, h]

theorem State.report_nothing {s : State} {gid : Nat} (he : (s.group gid).errors = []) (hp : (s.group gid).preempt = none) :
    s.report gid = s := by
  simp only [State.report, he, hp, ite_self]

/-- Lanes form their waves anew, and none of these is held. -/
theorem Group.unheld_formed {g : Group} (h : g.Unheld) (wid : Nat) (lanes : Mask) (now : Nat) (barred : List (Nat × Nat)) :
    ∀ e ∈ g.formed wid lanes now barred, e.2.phase ≠ .held := by
  unfold Group.formed
  induction groupLanes (fun l => (g.lane l).pc) lanes using List.reverseRecOn with
  | nil => exact fun e he => h e (mem_of_mem_tdel he)
  | append_singleton ms m ih =>
    intro e he
    rw [List.foldl_append] at he
    rcases mem_of_mem_tset he with rfl | he
    · simp
    · exact ih e he

/-- The group after a wave of it has ended a clause: the wave's live lanes have formed waves, and a group with no live lane left is
ending. -/
def Group.bounded (g : Group) (wid : Nat) (lanes : Mask) (readyAt : Nat) (barred : List (Nat × Nat)) : Group :=
  if g.live = 0#32 then { g with waves := [], exiting := true, entering := none }
  else { g with waves := g.formed wid (lanes &&& g.live) readyAt barred }

/-- A clause boundary changes waves and the end of the group alone. -/
theorem Group.bounded_eq (g : Group) (wid : Nat) (lanes : Mask) (readyAt : Nat) (barred : List (Nat × Nat)) :
    g.bounded wid lanes readyAt barred = { g with
      waves := (g.bounded wid lanes readyAt barred).waves, exiting := (g.bounded wid lanes readyAt barred).exiting
      entering := (g.bounded wid lanes readyAt barred).entering } := by
  unfold Group.bounded; split_ifs <;> rfl

theorem Group.exiting_bounded {g : Group} (h : g.exiting = false) (wid : Nat) (lanes : Mask) (readyAt : Nat)
    (barred : List (Nat × Nat)) : (g.bounded wid lanes readyAt barred).exiting = true ↔ g.live = 0#32 := by
  unfold Group.bounded; split_ifs with hl <;> simp [hl, h]

/-- What ends the current wave's clause. -/
def State.endIn (s : State) : EndIn :=
  { gid := s.curGroup, addr := s.cw.addr, hdr := s.cw.hdr, lanes := s.cw.lanes, en := s.cw.en, ind := s.cw.ind }

/-- A CLAUSE END that waits for nothing: what its kind does, in a group that is quiet after it, and the boundary. -/
theorem State.clauseEnd_atEnd {s u : State} {f : EndIn → State → State} (h : s.AtEnd)
    (hu : f s.endIn (s.updCur (fun g => g.observeNone s.curWave)) = u) (hq : (u.group s.curGroup).Quiet) :
    s.clauseEnd f none id = u.updGroup s.curGroup (fun g => g.bounded u.curWave s.cw.lanes s.cw.readyAt []) := by
  obtain ⟨-, hwaits, hinl, -⟩ := h
  obtain ⟨hent, herr, hpre, hexit, -, hheld⟩ := hq
  set gid := s.curGroup
  have hclosed : ((u.reform gid u.curWave s.cw.lanes s.cw.readyAt []).checkExit gid)
      = u.updGroup gid (fun g => g.bounded u.curWave s.cw.lanes s.cw.readyAt []) := by
    rw [State.reform, State.checkExit, State.updGroup_updGroup]
    simp only [State.updGroup, hent, hexit, Group.bounded, Group.formed, Option.isSome_none, Bool.false_eq_true, if_false,
      Bool.not_false, and_true]
  have hafter : s.clauseEnd f none id
      = ((((u.reform gid u.curWave s.cw.lanes s.cw.readyAt []).checkExit gid).releaseMeets gid).settle gid).report gid := by
    simp only [State.clauseEnd]
    rw [if_neg (by rw [hwaits]; simp)]
    simp only [hinl]
    rw [← hu]; rfl
  have hunheld : ((u.group gid).bounded u.curWave s.cw.lanes s.cw.readyAt []).Unheld := by
    unfold Group.bounded
    split_ifs
    · exact fun e he => absurd he (by simp)
    · exact Group.unheld_formed hheld _ _ _ _
  rw [hafter, hclosed, State.releaseMeets_unheld (by simpa using hunheld), State.settle_notEntering, State.report_nothing]
  · rw [State.group_updGroup, Group.bounded_eq]; exact herr
  · rw [State.group_updGroup, Group.bounded_eq]; exact hpre
  · rw [State.group_updGroup]; unfold Group.bounded; split_ifs
    · rfl
    · exact hent

/-! ### Lanes that change one by one -/

/-- Lanes of a list, each changed in its own way. -/
def Group.changeLanes (g : Group) (ls : List Nat) (f : Nat → Lane → Lane) : Group :=
  ls.foldl (fun g l => g.setLane l (f l (g.lane l))) g

theorem Group.changeLanes_eq (g : Group) (ls : List Nat) (f : Nat → Lane → Lane) :
    g.changeLanes ls f = { g with lanes := (g.changeLanes ls f).lanes } := by
  unfold Group.changeLanes
  induction ls generalizing g with
  | nil => rfl
  | cons l ls ih => rw [List.foldl_cons, ih]; rfl

theorem Group.lane_changeLanes (g : Group) {ls : List Nat} (hlt : ∀ l ∈ ls, l < 32) (hnd : ls.Nodup) (f : Nat → Lane → Lane)
    (l : Nat) : (g.changeLanes ls f).lane l = if l ∈ ls then f l (g.lane l) else g.lane l := by
  unfold Group.changeLanes
  induction ls generalizing g with
  | nil => simp
  | cons a ls ih =>
    obtain ⟨ha, hnd⟩ := List.nodup_cons.mp hnd
    rw [List.foldl_cons, ih _ (fun l hl => hlt l (List.mem_cons_of_mem _ hl)) hnd, Group.lane_setLane]
    by_cases hla : l = a
    · subst hla; simp [ha, hlt l List.mem_cons_self]
    · simp [hla]

/-- The lanes of a mask, each changed in its own way. -/
theorem Group.lane_changeLanesOf (g : Group) (m : Mask) (f : Nat → Lane → Lane) {l : Nat} (hl : l < 32) :
    (g.changeLanes (lanesOf m) f).lane l = if inMask m l then f l (g.lane l) else g.lane l := by
  rw [g.lane_changeLanes (fun l hl => (mem_lanesOf.mp hl).1) (nodup_lanesOf m)]
  simp [mem_lanesOf, hl]

theorem Group.sendLanes_eq (g : Group) (m : Mask) (pc : BitVec 52) :
    g.sendLanes m pc = g.changeLanes (lanesOf m) (fun _ x => x.sent pc) := rfl

theorem lanesOf_single {l : Nat} (hl : l < 32) : lanesOf (1#32 <<< l) = [l] := by
  interval_cases l <;> decide

theorem Group.sendLanes_single (g : Group) {l : Nat} (hl : l < 32) (pc : BitVec 52) :
    g.sendLanes (1#32 <<< l) pc = g.setLane l ((g.lane l).sent pc) := by
  rw [Group.sendLanes_eq, lanesOf_single hl]; rfl

/-- Lanes sent each to its own address. -/
theorem Group.foldl_sendLanes (g : Group) (m : Mask) (pc : Nat → BitVec 52) :
    (lanesOf m).foldl (fun g l => g.sendLanes (1#32 <<< l) (pc l)) g = g.changeLanes (lanesOf m) (fun l x => x.sent (pc l)) :=
  List.foldl_ext _ _ g fun g _ hl => g.sendLanes_single (mem_lanesOf.mp hl).1 _

/-- A lane that is set twice. -/
theorem Group.setLane_setLane (g : Group) (l : Nat) (x y : Lane) : (g.setLane l x).setLane l y = g.setLane l y := by
  simp only [Group.setLane, vecSet, Vector.setIfInBounds_setIfInBounds]

end Sys2Proof.Machine
end

section
/-! PROOFS. CALL, CALLI, RET and EXIT (R42, R43, R84, R85). -/
namespace Sys2Proof.Machine

/-! ### A push on a lane's stack (R42, R84) -/

/-- A STORE THROUGH THE L1 that can be reached changes memory, the L2, poison and the core's L1 alone. -/
theorem State.Reachable.writeThrough_frame {s : State} {key : Nat} {xs : List Byte} (h : s.Reachable key xs.length) (core : Nat) :
    ∃ m d t p c, s.writeThrough core key xs
      = { s with mem := m, l2 := d, l2Tags := t, poison := p, cores := tset s.cores core { s.core core with l1 := c } } := by
  obtain ⟨m, d, t, p, hput⟩ := h.putHome_frame
  exact ⟨m, d, t, p, _, by unfold State.writeThrough; rw [hput]; rfl⟩

theorem State.Reachable.homeByte_writeThrough {s : State} {key : Nat} {xs : List Byte} (h : s.Reachable key xs.length)
    (core a : Nat) : (s.writeThrough core key xs).homeByte a
      = if h : key ≤ a ∧ a < key + xs.length then xs[a - key]'(by omega) else s.homeByte a := h.homeByte_putHome a

/-- What pushes leave as it is: all that the walk of an address and the reach of a place look at. -/
structure State.KeptByPush (s t : State) : Prop where
  stop : t.stop = s.stop
  mq : t.mq = s.mq
  ctxs : t.ctxs = s.ctxs
  host : t.host = s.host
  failing : t.failing = s.failing
  curGroup : t.curGroup = s.curGroup
  curWave : t.curWave = s.curWave
  held : ∀ c sampler, (t.core c).held sampler = (s.core c).held sampler

theorem State.KeptByPush.trans {s t u : State} (h : s.KeptByPush t) (k : t.KeptByPush u) : s.KeptByPush u where
  stop := k.stop.trans h.stop
  mq := k.mq.trans h.mq
  ctxs := k.ctxs.trans h.ctxs
  host := k.host.trans h.host
  failing := k.failing.trans h.failing
  curGroup := k.curGroup.trans h.curGroup
  curWave := k.curWave.trans h.curWave
  held c sampler := (k.held c sampler).trans (h.held c sampler)

theorem State.keptByPush_updGroup (s : State) (gid : Nat) (f : Group → Group) : s.KeptByPush (s.updGroup gid f) :=
  ⟨rfl, rfl, rfl, rfl, rfl, rfl, rfl, fun _ _ => rfl⟩

theorem State.Reachable.keptByPush_writeThrough {s : State} {key : Nat} {xs : List Byte} (h : s.Reachable key xs.length)
    (core : Nat) : s.KeptByPush (s.writeThrough core key xs) := by
  obtain ⟨m, d, t, p, c, hw⟩ := h.writeThrough_frame core
  rw [hw]
  refine ⟨rfl, rfl, rfl, rfl, rfl, rfl, rfl, fun e sampler => ?_⟩
  simp only [State.core, tget_tset]
  split_ifs with he
  · subst he; rfl
  · rfl

/-- The slot that a lane of a group pushes to next is mapped at a key that can be reached. -/
def State.PushesTo (s : State) (g : Group) (l key : Nat) : Prop :=
  s.Maps g.core g.ctx (!g.sup) false .write (s.stackVa g l (g.lane l).csp.toNat) key ∧ s.Reachable key 8

theorem State.stackVa_congr {s t : State} (hctx : t.ctxs = s.ctxs) {g h : Group} (hh : h = { g with lanes := h.lanes }) (l i : Nat) :
    t.stackVa h l i = s.stackVa g l i := by
  rw [hh]; simp only [State.stackVa, State.privArea, State.ctx, hctx]

theorem State.PushesTo.kept {s t : State} {g h : Group} {l key : Nat} (hp : s.PushesTo g l key) (hk : s.KeptByPush t)
    (hh : h = { g with lanes := h.lanes }) (hl : h.lane l = g.lane l) : t.PushesTo h l key := by
  obtain ⟨hmaps, hreach⟩ := hp
  refine ⟨?_, ?_⟩
  · rw [hl, State.stackVa_congr hk.ctxs hh]
    rw [hh]
    unfold State.Maps at hmaps ⊢
    rwa [hk.held]
  · unfold State.Reachable State.unreachable at hreach ⊢
    rwa [hk.host, hk.failing]

/-- A lane that has pushed. -/
def Lane.pushed (x : Lane) : Lane := { x with csp := x.csp + 1 }

/-- R84: A PUSH stores its entry at the slot's key and raises the lane's pointer. -/
theorem State.stackPush_mapped {s : State} {gid l key : Nat} (h : s.PushesTo (s.group gid) l key) (hmq : ∀ e ∈ s.mq, e.gid ≠ gid)
    (pc : BitVec 52) : s.stackPush gid l pc false
      = (s.writeThrough (s.group gid).core key (natLe 8 pc.toNat)).updGroup gid (fun g =>
          g.setLane l { g.lane l with csp := ((s.group gid).lane l).csp + 1 }) := by
  have hdrain : s.drainH gid key = s := by
    have hany : s.mq.any (fun w => decide (w.gid = gid) && keyH w.key) = false :=
      List.any_eq_false.mpr fun e he => by simp [hmq e he]
    simp [State.drainH, hany]
  simp only [State.stackPush, h.1.reach, hdrain]
  rfl

theorem State.stackPush_spec {s : State} {gid l key : Nat} (h : s.PushesTo (s.group gid) l key) (hmq : ∀ e ∈ s.mq, e.gid ≠ gid)
    (pc : BitVec 52) :
    s.KeptByPush (s.stackPush gid l pc false) ∧ (s.stackPush gid l pc false).group gid = (s.group gid).changeLanes [l] (fun _ => Lane.pushed)
      ∧ ∀ a, (s.stackPush gid l pc false).homeByte a
          = if h : key ≤ a ∧ a < key + 8 then (natLe 8 pc.toNat)[a - key]'(by simp; omega) else s.homeByte a := by
  have hreach : s.Reachable key (natLe 8 pc.toNat).length := by simpa using h.2
  rw [State.stackPush_mapped h hmq]
  refine ⟨(hreach.keptByPush_writeThrough _).trans (State.keptByPush_updGroup _ _ _), ?_, fun a => ?_⟩
  · obtain ⟨m, d, t, p, c, hw⟩ := hreach.writeThrough_frame (s.group gid).core
    rw [State.group_updGroup, hw]; rfl
  · rw [show ∀ (u : State) f, (u.updGroup gid f).homeByte a = u.homeByte a from fun _ _ => rfl, hreach.homeByte_writeThrough]
    simp

/-- THE PUSHES OF SOME LANES, whose slots lie apart. -/
theorem State.pushes_spec {gid : Nat} (key : Nat → Nat) (pc : BitVec 52) (ls : List Nat) (hlt : ∀ l ∈ ls, l < 32) (hnd : ls.Nodup)
    (hdisj : ∀ l ∈ ls, ∀ m ∈ ls, l ≠ m → key l + 8 ≤ key m ∨ key m + 8 ≤ key l) :
    ∀ s : State, (∀ l ∈ ls, s.PushesTo (s.group gid) l (key l)) → (∀ e ∈ s.mq, e.gid ≠ gid) →
      s.KeptByPush (ls.foldl (fun s l => s.stackPush gid l pc false) s)
        ∧ (ls.foldl (fun s l => s.stackPush gid l pc false) s).group gid = (s.group gid).changeLanes ls (fun _ => Lane.pushed)
        ∧ (∀ l ∈ ls, (ls.foldl (fun s l => s.stackPush gid l pc false) s).homeNat (key l) 8 = pc.toNat)
        ∧ ∀ a, (∀ l ∈ ls, a < key l ∨ key l + 8 ≤ a) →
            (ls.foldl (fun s l => s.stackPush gid l pc false) s).homeByte a = s.homeByte a := by
  induction ls with
  | nil => exact fun s _ _ => ⟨⟨rfl, rfl, rfl, rfl, rfl, rfl, rfl, fun _ _ => rfl⟩, rfl, fun _ h => absurd h (by simp), fun _ _ => rfl⟩
  | cons l ls ih =>
    intro s hpush hmq
    obtain ⟨hl, hnd⟩ := List.nodup_cons.mp hnd
    obtain ⟨hkept, hgroup, hbyte⟩ := State.stackPush_spec (hpush l List.mem_cons_self) hmq pc
    set t := s.stackPush gid l pc false
    have hothers : ∀ m ∈ ls, t.PushesTo (t.group gid) m (key m) := fun m hm => by
      refine (hpush m (List.mem_cons_of_mem _ hm)).kept hkept (by rw [hgroup]; rfl) ?_
      rw [hgroup, Group.lane_changeLanes _ (by simpa using hlt l List.mem_cons_self) (by simp)]
      simp [show m ≠ l from fun e => hl (e ▸ hm)]
    obtain ⟨ihkept, ihgroup, ihnat, ihbyte⟩ := ih (fun m hm => hlt m (List.mem_cons_of_mem _ hm)) hnd
      (fun a ha b hb => hdisj a (List.mem_cons_of_mem _ ha) b (List.mem_cons_of_mem _ hb)) t hothers (by rw [hkept.mq]; exact hmq)
    refine ⟨hkept.trans ihkept, ?_, fun m hm => ?_, fun a ha => ?_⟩
    · rw [List.foldl_cons, ihgroup, hgroup]; rfl
    · rcases List.mem_cons.mp hm with rfl | hm
      · have hbytes : (ls.foldl (fun s l => s.stackPush gid l pc false) t).homeBytes (key m) 8 = natLe 8 pc.toNat := by
          refine List.ext_getElem (by simp [State.homeBytes]) fun i hi _ => ?_
          have hi' : i < 8 := by simpa [State.homeBytes] using hi
          simp only [State.homeBytes, List.getElem_map, List.getElem_range]
          rw [ihbyte _ fun k hk => ?_, hbyte, dif_pos (by omega)]
          · simp
          · have := hdisj m List.mem_cons_self k (List.mem_cons_of_mem _ hk) (fun e => hl (e ▸ hk))
            omega
        rw [List.foldl_cons, State.homeNat, hbytes, leNat_natLe]
        exact Nat.mod_eq_of_lt (lt_trans pc.isLt (by norm_num))
      · exact ihnat m hm
    · rw [List.foldl_cons, ihbyte a fun m hm => ha m (List.mem_cons_of_mem _ hm), hbyte,
        dif_neg (by have := ha l List.mem_cons_self; omega)]

/-! ### A pop from a lane's stack (R42, R84) -/

/-- The top entry of a lane's stack is mapped, in the core's L1 and not poisoned: it is an address. -/
def State.PopsFrom (s : State) (g : Group) (l key entry : Nat) : Prop :=
  entry % 8 = 0
    ∧ s.Maps g.core g.ctx (!g.sup) false .read (s.stackVa g l ((g.lane l).csp.toNat - 1)) key
    ∧ s.Cached g.core .l1 key 8 entry ∧ s.poisoned key 8 = false

theorem State.PopsFrom.lanes {s : State} {g h : Group} {l key entry : Nat} (hp : s.PopsFrom g l key entry)
    (hh : h = { g with lanes := h.lanes }) (hl : h.lane l = g.lane l) : s.PopsFrom h l key entry := by
  unfold State.PopsFrom at hp ⊢
  rw [hl, State.stackVa_congr rfl hh, hh]
  exact hp

/-- An entry of a stack that is an address, as it is popped. -/
theorem popped_address {entry : Nat} (hal : entry % 8 = 0) :
    (BitVec.ofNat 64 entry).extractLsb' 0 52 &&& ~~~7#52 = BitVec.ofNat 52 entry ∧ (BitVec.ofNat 64 entry).getLsbD 0 = false := by
  obtain ⟨q, rfl⟩ : ∃ q, entry = 2 ^ 3 * q := ⟨entry / 8, by omega⟩
  have hlow : ∀ i < 52, (~~~7#52).getLsbD i = decide (3 ≤ i) := by decide
  refine ⟨BitVec.eq_of_getLsbD_eq fun i hi => ?_, by rw [BitVec.getLsbD_ofNat, Nat.testBit_two_pow_mul]; simp⟩
  rw [BitVec.getLsbD_and, hlow i hi, BitVec.getLsbD_extractLsb', BitVec.getLsbD_ofNat, BitVec.getLsbD_ofNat, Nat.zero_add,
    Nat.testBit_two_pow_mul]
  by_cases h : 3 ≤ i <;> simp [h, hi, show i < 64 by omega]

/-- R84: A POP gives the entry, lowers the lane's pointer and changes nothing else. -/
theorem State.stackPop_mapped {s : State} {gid l key entry : Nat} (h : s.PopsFrom (s.group gid) l key entry) :
    s.stackPop gid l = (BitVec.ofNat 52 entry, s.updGroup gid (fun g => g.setLane l { g.lane l with csp := (g.lane l).csp - 1 })) := by
  obtain ⟨hal, hmaps, hcached, hpoison⟩ := h
  obtain ⟨haddr, hmark⟩ := popped_address hal
  have hread : s.stackRead gid l (((s.group gid).lane l).csp.toNat - 1) = (BitVec.ofNat 64 entry, none, s) := by
    simp only [State.stackRead, hmaps.reach, hcached.readThrough, hpoison, Bool.false_eq_true, if_false]
    rw [← hcached.2.2]
  simp only [State.stackPop, hread, haddr, hmark, Bool.false_eq_true, if_false, Option.toList_none, List.append_nil]
  rfl

/-- A lane that has popped an address and goes there. -/
def Lane.returned (x : Lane) (pc : BitVec 52) : Lane := { x.sent pc with csp := x.csp - 1 }

/-- A lane of a RET pops and goes to its address. -/
def State.retLane (gid : Nat) (s : State) (l : Nat) : State :=
  (s.stackPop gid l).2.updGroup gid (fun g => g.sendLanes (1#32 <<< l) (s.stackPop gid l).1)

theorem State.retLane_mapped {s : State} {gid l key entry : Nat} (hl : l < 32) (h : s.PopsFrom (s.group gid) l key entry) :
    s.retLane gid l = s.updGroup gid (fun g => g.changeLanes [l] (fun _ x => x.returned (BitVec.ofNat 52 entry))) := by
  rw [State.retLane, State.stackPop_mapped h, State.updGroup_updGroup]
  simp only [Group.sendLanes_single _ hl, Group.setLane_setLane, Group.lane_setLane, hl, and_self, if_true]
  rfl

/-- THE POPS OF SOME LANES change the group alone. -/
theorem State.foldl_retLane {s : State} {gid : Nat} (key entry : Nat → Nat) (ls : List Nat) (hlt : ∀ l ∈ ls, l < 32) (hnd : ls.Nodup) :
    ∀ f : Group → Group, (∀ l ∈ ls, s.PopsFrom (f (s.group gid)) l (key l) (entry l)) →
      ls.foldl (State.retLane gid) (s.updGroup gid f)
        = s.updGroup gid (fun g => (f g).changeLanes ls (fun l x => x.returned (BitVec.ofNat 52 (entry l)))) := by
  induction ls with
  | nil => exact fun f _ => rfl
  | cons l ls ih =>
    intro f hpop
    obtain ⟨hl, hnd⟩ := List.nodup_cons.mp hnd
    have hl32 := hlt l List.mem_cons_self
    have hfirst : (s.updGroup gid f).PopsFrom ((s.updGroup gid f).group gid) l (key l) (entry l) := by
      rw [State.group_updGroup]; exact hpop l List.mem_cons_self
    rw [List.foldl_cons, State.retLane_mapped hl32 hfirst, State.updGroup_updGroup,
      ih (fun m hm => hlt m (List.mem_cons_of_mem _ hm)) hnd _ fun m hm => ?_]
    · rfl
    · refine (hpop m (List.mem_cons_of_mem _ hm)).lanes rfl ?_
      rw [Group.lane_changeLanes _ (by simpa using hl32) (by simp)]
      simp [show m ≠ l from fun e => hl (e ▸ hm)]

/-! ### Clause ends on the stack (R42, R84) -/

/-- The lanes of a wave that are not enabled have gone to seq. -/
def Group.passed (g : Group) (w : Wave) : Group := g.sendLanes (w.lanes &&& ~~~w.en) (seqOf w.addr w.hdr)

theorem Group.passed_eq (g : Group) (w : Wave) : g.passed w = { g with lanes := (g.passed w).lanes } := by
  rw [Group.passed, Group.sendLanes_eq]; exact Group.changeLanes_eq _ _ _

theorem Group.lane_passed (g : Group) (w : Wave) {l : Nat} (hl : l < 32) :
    (g.passed w).lane l = if inMask w.lanes l && !inMask w.en l then (g.lane l).sent (seqOf w.addr w.hdr) else g.lane l := by
  rw [Group.passed, Group.sendLanes_eq, Group.lane_changeLanesOf _ _ _ hl]
  simp [inMask, hl]

theorem Group.lane_passed_enabled (g : Group) (w : Wave) {l : Nat} (he : inMask w.en l = true) : (g.passed w).lane l = g.lane l := by
  rw [g.lane_passed w (BitVec.lt_of_getLsbD he), he]; simp

/-- With no completion unobserved there is nothing to observe. -/
theorem Group.observeNone_of_late {g : Group} (h : g.late = []) (wid : Nat) : g.observeNone wid = g := by
  unfold Group.observeNone Group.observe
  rw [h, List.filter_nil, ← h]

theorem State.cg_updGroup_curGroup (s : State) (f : Group → Group) : (s.updGroup s.curGroup f).cg = f s.cg := s.cg_updCur f

theorem Group.Quiet.lanes {g h : Group} (hq : g.Quiet) (hh : h = { g with lanes := h.lanes }) : h.Quiet := by
  rw [hh]; exact hq

theorem Group.lane_bounded (g : Group) (wid : Nat) (lanes : Mask) (readyAt : Nat) (barred : List (Nat × Nat)) (l : Nat) :
    (g.bounded wid lanes readyAt barred).lane l = g.lane l := by
  rw [Group.bounded_eq]; rfl

theorem Group.observeNone_atEnd {s : State} (h : s.AtEnd) : s.cg.observeNone s.curWave = s.cg := by
  obtain ⟨-, -, -, ⟨-, -, -, -, hlate, -⟩, -⟩ := h
  exact Group.observeNone_of_late hlate _

/-- A clause end that sends the lanes that are not enabled before it does the rest. -/
theorem State.endWith_observed (s : State) (k : State → State) : (s.updCur (fun g => g.observeNone s.curWave)).endWith s.endIn k
    = k (s.updGroup s.curGroup (fun g => (g.observeNone s.curWave).passed s.cw)) :=
  congrArg k (State.updGroup_updGroup _ _ _ _)

/-- The enabled lanes of the current wave may push: each has a slot of its own, and no write of the group waits (R288). -/
structure State.CanCall (s : State) (key : Nat → Nat) : Prop where
  drained : ∀ e ∈ s.mq, e.gid ≠ s.curGroup
  slot : ∀ l, inMask s.cw.en l = true → s.PushesTo s.cg l (key l)
  apart : ∀ l m, inMask s.cw.en l = true → inMask s.cw.en m = true → l ≠ m → key l + 8 ≤ key m ∨ key m + 8 ≤ key l

/-- The enabled lanes have pushed seq, and have gone to `dest`. -/
structure State.Called (s u : State) (key : Nat → Nat) (dest : Nat → BitVec 52) : Prop where
  kept : s.KeptByPush u
  group : u.group s.curGroup = { s.cg with lanes := (u.group s.curGroup).lanes }
  lane : ∀ l < 32, (u.group s.curGroup).lane l =
    if inMask s.cw.en l then { (s.cg.lane l).sent (dest l) with csp := (s.cg.lane l).csp + 1 } else (s.cg.passed s.cw).lane l
  stored : ∀ l, inMask s.cw.en l = true → u.homeNat (key l) 8 = (seqOf s.cw.addr s.cw.hdr).toNat
  other : ∀ a, (∀ l, inMask s.cw.en l = true → a < key l ∨ key l + 8 ≤ a) → u.homeByte a = s.homeByte a

theorem mem_lanesOf_of_inMask {m : Mask} {l : Nat} (h : inMask m l = true) : l ∈ lanesOf m := mem_lanesOf.mpr ⟨BitVec.lt_of_getLsbD h, h⟩

/-- THE PUSHES OF A CLAUSE END, whatever other lanes have been sent before. -/
theorem State.CanCall.pushes {s : State} {key : Nat → Nat} (h : s.CanCall key) {f : Group → Group}
    (hf : f s.cg = { s.cg with lanes := (f s.cg).lanes }) (hl : ∀ l, inMask s.cw.en l = true → (f s.cg).lane l = s.cg.lane l) :
    s.KeptByPush (pushSeq s.endIn (s.updGroup s.curGroup f))
      ∧ (pushSeq s.endIn (s.updGroup s.curGroup f)).group s.curGroup = (f s.cg).changeLanes (lanesOf s.cw.en) (fun _ => Lane.pushed)
      ∧ (∀ l, inMask s.cw.en l = true →
          (pushSeq s.endIn (s.updGroup s.curGroup f)).homeNat (key l) 8 = (seqOf s.cw.addr s.cw.hdr).toNat)
      ∧ ∀ a, (∀ l, inMask s.cw.en l = true → a < key l ∨ key l + 8 ≤ a) →
          (pushSeq s.endIn (s.updGroup s.curGroup f)).homeByte a = s.homeByte a := by
  have hkept := s.keptByPush_updGroup s.curGroup f
  have hgroup : (s.updGroup s.curGroup f).group s.curGroup = f s.cg := s.group_updGroup _ f
  obtain ⟨pkept, pgroup, pnat, pbyte⟩ := State.pushes_spec (gid := s.curGroup) key (seqOf s.cw.addr s.cw.hdr) (lanesOf s.cw.en)
    (fun l hl => (mem_lanesOf.mp hl).1) (nodup_lanesOf _)
    (fun l hl m hm => h.apart l m (mem_lanesOf.mp hl).2 (mem_lanesOf.mp hm).2) (s.updGroup s.curGroup f)
    (fun l hm => by
      obtain ⟨-, he⟩ := mem_lanesOf.mp hm
      rw [hgroup]
      exact (h.slot l he).kept hkept hf (hl l he)) h.drained
  rw [hgroup] at pgroup
  exact ⟨hkept.trans pkept, pgroup, fun l he => pnat l (mem_lanesOf_of_inMask he), fun a ha => pbyte a fun l hm => ha l (mem_lanesOf.mp hm).2⟩

/-- R84: CALL sends the other lanes, pushes, and sends the enabled ones. -/
theorem State.CanCall.called_call {s : State} {key : Nat → Nat} (h : s.CanCall key) (hend : s.AtEnd) (off : BitVec 24) :
    s.Called (endCall off s.endIn (s.updCur (fun g => g.observeNone s.curWave))) key (fun _ => directTarget s.cw.addr off) := by
  have hobs := Group.observeNone_atEnd hend
  obtain ⟨hkept, hgroup, hnat, hbyte⟩ := h.pushes (f := fun g => (g.observeNone s.curWave).passed s.cw) (by
    simp only [hobs]; exact Group.passed_eq _ _) (fun l he => by simp only [hobs]; exact s.cg.lane_passed_enabled _ he)
  simp only [hobs] at hgroup
  have hend : endCall off s.endIn (s.updCur (fun g => g.observeNone s.curWave))
      = (pushSeq s.endIn (s.updGroup s.curGroup (fun g => (g.observeNone s.curWave).passed s.cw))).updGroup s.curGroup
          (fun g => g.sendLanes s.cw.en (directTarget s.cw.addr off)) :=
    s.endWith_observed _
  rw [hend]
  have hg := (State.group_updGroup _ s.curGroup (fun g => g.sendLanes s.cw.en (directTarget s.cw.addr off))).trans
    (congrArg (fun g : Group => g.sendLanes s.cw.en (directTarget s.cw.addr off)) hgroup)
  refine ⟨hkept.trans (State.keptByPush_updGroup _ _ _), ?_, fun l hl => ?_, hnat, hbyte⟩
  · rw [hg, Group.sendLanes_eq, Group.changeLanes_eq, Group.changeLanes_eq, Group.passed_eq]
  · rw [hg, Group.sendLanes_eq, Group.lane_changeLanesOf _ _ _ hl, Group.lane_changeLanesOf _ _ _ hl]
    by_cases he : inMask s.cw.en l = true
    · simp only [he, if_true, s.cg.lane_passed_enabled _ he]; rfl
    · simp only [he]; rfl

/-- R83, R84: CALLI pushes, sends the other lanes, and sends each enabled one to its own target. -/
theorem State.CanCall.called_calli {s : State} {key : Nat → Nat} (h : s.CanCall key) (hend : s.AtEnd) :
    s.Called (endCalli s.endIn (s.updCur (fun g => g.observeNone s.curWave))) key (fun l => BitVec.ofNat 52 (tget s.cw.ind l 0)) := by
  have hobs := Group.observeNone_atEnd hend
  obtain ⟨hkept, hgroup, hnat, hbyte⟩ := h.pushes (f := fun g => g.observeNone s.curWave) (by rw [hobs]) (fun l he => by rw [hobs])
  rw [hobs] at hgroup
  have hend : endCalli s.endIn (s.updCur (fun g => g.observeNone s.curWave))
      = (pushSeq s.endIn (s.updGroup s.curGroup (fun g => g.observeNone s.curWave))).updGroup s.curGroup
          (fun g => (g.passed s.cw).changeLanes (lanesOf s.cw.en) (fun l x => x.sent (BitVec.ofNat 52 (tget s.cw.ind l 0)))) := by
    simp only [← Group.foldl_sendLanes]
    exact State.updGroup_updGroup (pushSeq s.endIn (s.updGroup s.curGroup (fun g => g.observeNone s.curWave))) s.curGroup
      (fun g => g.passed s.cw)
      (fun g => (lanesOf s.cw.en).foldl (fun g l => g.sendLanes (1#32 <<< l) (BitVec.ofNat 52 (tget s.cw.ind l 0))) g)
  rw [hend]
  have hg := (State.group_updGroup (pushSeq s.endIn (s.updGroup s.curGroup (fun g => g.observeNone s.curWave))) s.curGroup
    (fun g => (g.passed s.cw).changeLanes (lanesOf s.cw.en) (fun l x => x.sent (BitVec.ofNat 52 (tget s.cw.ind l 0)))))
  rw [hgroup] at hg
  refine ⟨hkept.trans (State.keptByPush_updGroup _ _ _), ?_, fun l hl => ?_, hnat, hbyte⟩
  · rw [hg, Group.changeLanes_eq, Group.passed_eq, Group.changeLanes_eq]
  · rw [hg, Group.lane_changeLanesOf _ _ _ hl]
    by_cases he : inMask s.cw.en l = true
    · rw [Group.lane_passed_enabled _ _ he, Group.lane_changeLanesOf _ _ _ hl]
      simp only [he, if_true]; rfl
    · simp only [he, Group.lane_passed _ _ hl, Group.lane_changeLanesOf _ _ _ hl]; rfl

/-- The boundary after a call. -/
theorem State.Called.finish_clauseEnd {s u : State} {key : Nat → Nat} {dest : Nat → BitVec 52} (h : s.Called u key dest) (hend : s.AtEnd)
    {f : EndIn → State → State} (hu : f s.endIn (s.updCur (fun g => g.observeNone s.curWave)) = u) :
    finish (s.clauseEnd f none id) = .next (u.updGroup s.curGroup (fun g => g.bounded u.curWave s.cw.lanes s.cw.readyAt [])) := by
  obtain ⟨hstop, -, -, hquiet, -⟩ := id hend
  rw [State.clauseEnd_atEnd hend hu (hquiet.lanes h.group), finish_next]
  exact h.kept.stop.trans hstop

/-- What a CALL or CALLI leaves: the boundary changes no lane and no byte. -/
theorem State.Called.exec_spec {s u : State} {key : Nat → Nat} {dest : Nat → BitVec 52} (h : s.Called u key dest) {i : Instr}
    (hexec : exec i s = .next (u.updGroup s.curGroup (fun g => g.bounded u.curWave s.cw.lanes s.cw.readyAt []))) :
    ∃ t, exec i s = .next t
      ∧ (∀ l < 32, t.cg.lane l =
          if inMask s.cw.en l then { (s.cg.lane l).sent (dest l) with csp := (s.cg.lane l).csp + 1 }
          else if inMask s.cw.lanes l then (s.cg.lane l).sent (seqOf s.cw.addr s.cw.hdr) else s.cg.lane l)
      ∧ (∀ l, inMask s.cw.en l = true → t.homeNat (key l) 8 = (seqOf s.cw.addr s.cw.hdr).toNat)
      ∧ ∀ a, (∀ l, inMask s.cw.en l = true → a < key l ∨ key l + 8 ≤ a) → t.homeByte a = s.homeByte a := by
  refine ⟨_, hexec, fun l hl => ?_, h.stored, h.other⟩
  have hcg : (u.updGroup s.curGroup (fun g => g.bounded u.curWave s.cw.lanes s.cw.readyAt [])).cg
      = (u.group s.curGroup).bounded u.curWave s.cw.lanes s.cw.readyAt [] := by
    rw [State.cg, show (u.updGroup s.curGroup _).curGroup = s.curGroup from h.kept.curGroup, State.group_updGroup]
  rw [hcg, Group.lane_bounded, h.lane l hl, s.cg.lane_passed _ hl]
  by_cases he : inMask s.cw.en l = true <;> simp [he]

/-- R84: RET. -/
theorem exec_ret {s : State} {key entry : Nat → Nat} (hend : s.AtEnd)
    (hpop : ∀ l, inMask s.cw.en l = true → s.PopsFrom s.cg l (key l) (entry l)) :
    exec .ret s = .next (s.updGroup s.curGroup (fun g =>
      (((g.observeNone s.curWave).passed s.cw).changeLanes (lanesOf s.cw.en) (fun l x => x.returned (BitVec.ofNat 52 (entry l)))).bounded
        s.curWave s.cw.lanes s.cw.readyAt [])) := by
  obtain ⟨hstop, -, -, hquiet, -⟩ := id hend
  have hobs := Group.observeNone_atEnd hend
  have hu : endRet s.endIn (s.updCur (fun g => g.observeNone s.curWave))
      = s.updGroup s.curGroup (fun g => ((g.observeNone s.curWave).passed s.cw).changeLanes (lanesOf s.cw.en)
          (fun l x => x.returned (BitVec.ofNat 52 (entry l)))) := by
    rw [← State.foldl_retLane key entry _ (fun l hl => (mem_lanesOf.mp hl).1) (nodup_lanesOf _)
      (fun g => (g.observeNone s.curWave).passed s.cw)]
    · exact s.endWith_observed _
    · intro l hm
      obtain ⟨-, he⟩ := mem_lanesOf.mp hm
      change s.PopsFrom ((s.cg.observeNone s.curWave).passed s.cw) l (key l) (entry l)
      rw [hobs]
      exact (hpop l he).lanes (Group.passed_eq _ _) (s.cg.lane_passed_enabled _ he)
  change finish (s.clauseEnd endRet none id) = _
  rw [State.clauseEnd_atEnd hend hu, finish_next]
  · rw [State.updGroup_updGroup]; rfl
  · exact hstop
  · rw [State.group_updGroup]
    change (((s.cg.observeNone s.curWave).passed s.cw).changeLanes _ _).Quiet
    rw [hobs]
    refine hquiet.lanes ?_
    rw [Group.changeLanes_eq, Group.passed_eq]

/-! ### EXIT (R43, R85) -/

/-- A lane has stopped being live. -/
def Group.exitLane (g : Group) (l : Nat) : Group := { g with live := g.live &&& ~~~(1#32 <<< l) }

/-- The lanes of a list have stopped being live. -/
def Group.exits (g : Group) (ls : List Nat) : Group := ls.foldl Group.exitLane g

theorem Group.exits_eq (g : Group) (m : Mask) : g.exits (lanesOf m) = { g with live := g.live &&& ~~~m } := by
  have hfold : ∀ (ls : List Nat) (g : Group), g.exits ls = { g with live := (g.exits ls).live } := fun ls => by
    induction ls with
    | nil => exact fun _ => rfl
    | cons l ls ih => intro g; exact ih _
  have hlive : ∀ (ls : List Nat) (g : Group) (i : Nat), i < 32 → (∀ l ∈ ls, l < 32) →
      (g.exits ls).live.getLsbD i = (g.live.getLsbD i && decide (i ∉ ls)) := fun ls => by
    induction ls with
    | nil => intro g i _ _; simp [Group.exits]
    | cons l ls ih =>
      intro g i hi hls
      rw [Group.exits, List.foldl_cons, ← Group.exits, ih _ i hi fun l hl => hls l (List.mem_cons_of_mem _ hl)]
      have hbit : (1#32 <<< l).getLsbD i = decide (i = l) := by
        simp only [BitVec.getLsbD_shiftLeft, BitVec.getLsbD_one]
        by_cases h : i = l
        · simp [h, hls l List.mem_cons_self]
        · by_cases hlt : i < l
          · simp [h, hlt]
          · simp [h, hlt, show i - l ≠ 0 by omega]
      rw [Group.exitLane, BitVec.getLsbD_and, BitVec.getLsbD_not, hbit]
      by_cases h : i = l <;> simp [h, hi]
  rw [hfold]
  congr 1
  refine BitVec.eq_of_getLsbD_eq fun i hi => ?_
  rw [hlive _ _ i hi fun l hl => (mem_lanesOf.mp hl).1]
  simp [mem_lanesOf, hi, inMask]

/-- A lane of an EXIT: it returns from an inline task, or it stops being live. -/
def State.endLane (gid : Nat) (s : State) (l : Nat) : State :=
  if (s.inlineTop gid l).1 then (s.inlineTop gid l).2.retLane gid l else (s.inlineTop gid l).2.exitLane gid l

theorem State.endLane_owesNothing {s : State} {gid : Nat} (hi : (s.group gid).inlines = []) (hs : (s.group gid).spawns = []) (l : Nat) :
    s.endLane gid l = s.updGroup gid (fun g => g.exitLane l) := by
  have htop : s.inlineTop gid l = (false, s) := by simp [State.inlineTop, hi]
  have hspawn : s.spawnExit gid l = s := by simp [State.spawnExit, hs, tget?]
  simp [State.endLane, htop, State.exitLane, hspawn, Group.exitLane]

/-- The lanes of an EXIT that owe nothing change the group alone. -/
theorem State.foldl_endLane {s : State} {gid : Nat} (ls : List Nat) : ∀ f : Group → Group, (f (s.group gid)).inlines = [] →
    (f (s.group gid)).spawns = [] → ls.foldl (State.endLane gid) (s.updGroup gid f) = s.updGroup gid (fun g => (f g).exits ls) := by
  induction ls with
  | nil => exact fun f _ _ => rfl
  | cons l ls ih =>
    intro f hi hs
    rw [List.foldl_cons, State.endLane_owesNothing (by rw [State.group_updGroup]; exact hi) (by rw [State.group_updGroup]; exact hs),
      State.updGroup_updGroup, ih (fun g => (f g).exitLane l) hi hs]
    rfl

/-- R43, R85: EXIT of lanes that owe nothing. -/
theorem exec_exit {s : State} (hend : s.AtEnd) (hsup : s.cg.sup = false) (hi : s.cg.inlines = []) (hs : s.cg.spawns = []) :
    exec .exit s = .next (s.updGroup s.curGroup (fun g =>
      (((g.observeNone s.curWave).passed s.cw).exits (lanesOf s.cw.en)).bounded s.curWave s.cw.lanes s.cw.readyAt [])) := by
  obtain ⟨hstop, -, -, hquiet, -⟩ := id hend
  have hpassed : (s.cg.observeNone s.curWave).passed s.cw = { s.cg with lanes := (s.cg.passed s.cw).lanes } := by
    rw [Group.observeNone_atEnd hend]; exact Group.passed_eq _ _
  have hu : endExit s.endIn (s.updCur (fun g => g.observeNone s.curWave))
      = s.updGroup s.curGroup (fun g => ((g.observeNone s.curWave).passed s.cw).exits (lanesOf s.cw.en)) := by
    rw [← State.foldl_endLane (lanesOf s.cw.en) (fun g => (g.observeNone s.curWave).passed s.cw)]
    · exact s.endWith_observed _
    · exact (congrArg Group.inlines hpassed).trans hi
    · exact (congrArg Group.spawns hpassed).trans hs
  have hexec : exec .exit s = finish (s.clauseEnd endExit none id) := by
    change execExit s = _
    unfold execExit
    rw [if_neg (by simp [hsup])]
    rfl
  rw [hexec, State.clauseEnd_atEnd hend hu, finish_next]
  · rw [State.updGroup_updGroup]; rfl
  · exact hstop
  · rw [State.group_updGroup, Group.exits_eq]
    change Group.Quiet { (s.cg.observeNone s.curWave).passed s.cw with live := _ }
    rw [hpassed]
    exact hquiet

/-- Settles O17: CALL and CALLI push before or after the other lanes are sent, RET pops, EXIT takes lanes out of those that live;
the boundary after each changes waves alone. -/
theorem callsReturnsAndExits : Obligations.CallsReturnsAndExits := by
  refine ⟨fun s key entry hend _ hmq => ⟨fun i hi hslot hapart => ?_, fun hpop => ?_⟩, fun s hend hsup hin hsp => ?_⟩
  · have hcan : s.CanCall key := ⟨hmq, fun l he => (hslot l he).2.2, hapart⟩
    rcases hi with ⟨off, rfl⟩ | ⟨op, rfl⟩
    · exact ((hcan.called_call hend off).exec_spec ((hcan.called_call hend off).finish_clauseEnd hend rfl))
    · exact ((hcan.called_calli hend).exec_spec ((hcan.called_calli hend).finish_clauseEnd hend rfl))
  · refine ⟨_, exec_ret (key := key) (entry := entry) hend fun l he => ?_, fun l hl => ?_, fun a => rfl⟩
    · obtain ⟨-, -, -, hal, hmaps, hcached, hpoison⟩ := hpop l he
      exact ⟨hal, hmaps, hcached, hpoison⟩
    · rw [State.cg_updGroup_curGroup, Group.lane_bounded, Group.lane_changeLanesOf _ _ _ hl]
      change (if _ then (((s.cg.observeNone s.curWave).passed s.cw).lane l).returned _ else ((s.cg.observeNone s.curWave).passed s.cw).lane l) = _
      rw [Group.observeNone_atEnd hend]
      by_cases he : inMask s.cw.en l = true
      · simp only [he, if_true, s.cg.lane_passed_enabled _ he]; rfl
      · simp only [he, s.cg.lane_passed _ hl, Bool.not_false, Bool.and_true, if_false, Bool.false_eq_true]
  · refine ⟨_, exec_exit hend hsup hin hsp, ⟨rfl, fun h hh => State.group_updGroup_ne _ _ hh, fun _ => rfl⟩, ?_⟩
    obtain ⟨-, -, -, ⟨-, -, -, hexiting, -⟩, -⟩ := id hend
    rw [State.cg_updGroup_curGroup]
    change let t := (((s.cg.observeNone s.curWave).passed s.cw).exits (lanesOf s.cw.en)).bounded s.curWave s.cw.lanes s.cw.readyAt []
      t.live = _ ∧ (t.exiting = true ↔ t.live = 0#32) ∧ _
    rw [Group.observeNone_atEnd hend, Group.exits_eq, Group.passed_eq]
    set r := { { s.cg with lanes := (s.cg.passed s.cw).lanes } with live := s.cg.live &&& ~~~s.cw.en } with hr
    have hlive : (r.bounded s.curWave s.cw.lanes s.cw.readyAt []).live = r.live := by rw [Group.bounded_eq]
    refine ⟨hlive, ?_, fun l hl => ?_, ?_⟩
    · rw [hlive]; exact Group.exiting_bounded (g := r) hexiting _ _ _ _
    · exact (Group.lane_bounded r _ _ _ _ l).trans (s.cg.lane_passed s.cw hl)
    · rw [Group.bounded_eq]; exact ⟨rfl, rfl, rfl, rfl, rfl⟩

end Sys2Proof.Machine
end

section
/-! PROOFS. Counts of pointstamps: what a delta adds to the counts of a die (R329 to R332). -/
namespace Sys2Proof.Machine

/-! ### Sums -/

/-- A sum over a list without repetition of which one element gives something else. -/
theorem sum_map_change {α : Type} {f g : α → Int} {a : α} : ∀ {l : List α}, l.Nodup → a ∈ l → (∀ b ∈ l, b ≠ a → g b = f b) →
    (l.map g).sum = (l.map f).sum + (g a - f a)
  | b :: l, hn, ha, h => by
    obtain ⟨hb, hn⟩ := List.nodup_cons.mp hn
    simp only [List.map_cons, List.sum_cons]
    by_cases hba : b = a
    · subst hba
      rw [List.map_congr_left fun c hc => h c (List.mem_cons_of_mem _ hc) fun e => hb (e ▸ hc)]
      omega
    · have ha : a ∈ l := by simpa [Ne.symm hba] using ha
      rw [h b List.mem_cons_self hba, sum_map_change hn ha fun c hc => h c (List.mem_cons_of_mem _ hc)]
      omega

theorem Delta.is_iff {e : Delta} {ctx node : Nat} {st : DWord} :
    e.is ctx node st = true ↔ e.ctx = ctx ∧ e.node = node ∧ e.stamp = st := by simp [Delta.is, and_assoc]

theorem deltaSum_cons (e : Delta) (ds : List Delta) (ctx node : Nat) (st : DWord) :
    deltaSum (e :: ds) ctx node st = (if e.is ctx node st then e.d else 0) + deltaSum ds ctx node st := by
  unfold deltaSum
  by_cases h : e.is ctx node st = true <;> simp [h]

theorem deltaSum_append (as bs : List Delta) (ctx node : Nat) (st : DWord) :
    deltaSum (as ++ bs) ctx node st = deltaSum as ctx node st + deltaSum bs ctx node st := by simp [deltaSum]

theorem countIn_cons (e : KEntry) (t : List KEntry) (ctx node : Nat) (st : DWord) :
    countIn (e :: t) ctx node st = (if e.is ctx node st then e.count else 0) + countIn t ctx node st := by
  unfold countIn
  by_cases h : e.is ctx node st = true <;> simp [h]

/-- The pointstamp of a delta. -/
def Delta.stampedAt (e : Delta) : Nat × Nat × DWord := (e.ctx, e.node, e.stamp)

/-- A delta that falls in with one of its pointstamp. -/
def Delta.plus (ctx node : Nat) (st : DWord) (d : Int) (e : Delta) : Delta := if e.is ctx node st then { e with d := e.d + d } else e

theorem Delta.stampedAt_plus (ctx node : Nat) (st : DWord) (d : Int) (e : Delta) : (e.plus ctx node st d).stampedAt = e.stampedAt := by
  unfold Delta.plus; split_ifs <;> rfl

/-- Where a buffer holds a pointstamp once, a delta that falls in with it adds what it is. -/
theorem deltaSum_plus (ctx node : Nat) (st : DWord) (d : Int) (c n : Nat) (x : DWord) : ∀ {ds : List Delta},
    (ds.map Delta.stampedAt).Nodup → ds.any (fun e => e.is ctx node st) = true →
      deltaSum (ds.map (Delta.plus ctx node st d)) c n x = deltaSum ds c n x + gain ctx node st d c n x
  | e :: ds, hn, hany => by
    obtain ⟨he, hn⟩ := List.nodup_cons.mp hn
    rw [List.map_cons, deltaSum_cons, deltaSum_cons]
    by_cases his : e.is ctx node st = true
    · have hrest : ds.map (Delta.plus ctx node st d) = ds := by
        refine (List.map_congr_left fun a ha => ?_).trans ds.map_id
        have hne : ¬ a.is ctx node st = true := fun h => he (by
          rw [Delta.is_iff] at his h
          refine List.mem_map.mpr ⟨a, ha, ?_⟩
          simp only [Delta.stampedAt, his, h])
        rw [Delta.plus, if_neg hne]; rfl
      obtain ⟨rfl, rfl, rfl⟩ := Delta.is_iff.mp his
      rw [hrest, Delta.plus, if_pos his]
      simp only [Delta.is_iff, gain]
      by_cases hk : e.ctx = c ∧ e.node = n ∧ e.stamp = x
      · obtain ⟨rfl, rfl, rfl⟩ := hk
        simp; omega
      · rw [if_neg hk, if_neg hk, if_neg (fun h => hk ⟨h.1.symm, h.2.1.symm, h.2.2.symm⟩)]
        omega
    · rw [Delta.plus, if_neg his, deltaSum_plus ctx node st d c n x hn (by simpa [his] using hany)]
      omega

/-! ### The Keeper's table (R332) -/

/-- Freeing entries of count zero changes no count. -/
theorem countIn_freeEntries (t : List KEntry) (ctx node : Nat) (st : DWord) :
    countIn (freeEntries t) ctx node st = countIn t ctx node st := by
  induction t with
  | nil => rfl
  | cons e t ih =>
    unfold freeEntries at ih ⊢
    rw [List.filter_cons]
    split_ifs with h
    · rw [countIn_cons, countIn_cons, ih]
    · have h0 : e.count = 0 := by by_contra hc; simp [hc] at h
      rw [ih, countIn_cons, h0]; simp

/-- An entry of which one more buffer holds a delta. -/
def KEntry.more (e : KEntry) : KEntry := { e with buffers := e.buffers + 1 }

/-- Obtaining an entry changes no count. -/
theorem countIn_updEntry_more (t : List KEntry) (ctx node : Nat) (st : DWord) (c n : Nat) (x : DWord) :
    countIn (updEntry t ctx node st KEntry.more) c n x = countIn t c n x := by
  unfold updEntry
  split_ifs
  · have hsame : ∀ e : KEntry, (if e.is ctx node st then e.more else e).is c n x = e.is c n x
        ∧ (if e.is ctx node st then e.more else e).count = e.count := fun e => by split_ifs <;> exact ⟨rfl, rfl⟩
    clear * - hsame
    induction t with
    | nil => rfl
    | cons e t ih => rw [List.map_cons, countIn_cons, countIn_cons, ih, (hsame e).1, (hsame e).2]
  · have hlast : countIn [KEntry.more { ctx := ctx, node := node, stamp := st }] c n x = 0 := by
      rw [countIn_cons]; split_ifs <;> rfl
    have happ : ∀ as bs : List KEntry, countIn (as ++ bs) c n x = countIn as c n x + countIn bs c n x := by simp [countIn]
    rw [happ, hlast, add_zero]

/-! ### Counting (R329, R330) -/

theorem nodup_coresOf (die : Nat) : (coresOf die).Nodup :=
  List.nodup_range.map fun a b h => by simpa using h

theorem mem_coresOf_dieOf (core : Nat) : core ∈ coresOf (dieOf core) :=
  List.mem_map.mpr ⟨core % 16, List.mem_range.mpr (Nat.mod_lt _ (by norm_num)), by unfold dieOf; omega⟩

/-- The counts of a core's die, when no other core's buffer changes. -/
theorem State.total_change {s t : State} {core : Nat} (h : ∀ c, c ≠ core → (t.core c).deltas = (s.core c).deltas) (ctx node : Nat)
    (st : DWord) : t.total (dieOf core) ctx node st = s.total (dieOf core) ctx node st
      + (countIn (t.die (dieOf core)).keeper ctx node st - countIn (s.die (dieOf core)).keeper ctx node st)
      + (((t.die (dieOf core)).batches.map (fun b => deltaSum b.2 ctx node st)).sum
          - ((s.die (dieOf core)).batches.map (fun b => deltaSum b.2 ctx node st)).sum)
      + (deltaSum (t.core core).deltas ctx node st - deltaSum (s.core core).deltas ctx node st) := by
  unfold State.total
  rw [sum_map_change (f := fun c => deltaSum (s.core c).deltas ctx node st) (nodup_coresOf _) (mem_coresOf_dieOf core)
    fun c _ hc => by rw [h c hc]]
  omega

theorem State.Counted.trans {s t u : State} {die : Nat} {f g : Nat → Nat → DWord → Int} (h : s.Counted t die f) (k : t.Counted u die g) :
    s.Counted u die (fun c n x => f c n x + g c n x) := fun c n x => by rw [k c n x, h c n x, add_assoc]

/-- What counting changes: buffers and tables of counts alone. -/
def State.OnlyCounts (s t : State) : Prop :=
  t = { s with cores := t.cores, dies := t.dies }
    ∧ ∀ c, t.core c = { s.core c with deltas := (t.core c).deltas, deltaSince := (t.core c).deltaSince }

theorem State.OnlyCounts.trans {s t u : State} (h : s.OnlyCounts t) (k : t.OnlyCounts u) : s.OnlyCounts u :=
  ⟨by rw [k.1, h.1], fun c => by rw [k.2 c, h.2 c]⟩

theorem State.onlyCounts_updDie (s : State) (die : Nat) (f : Die → Die) : s.OnlyCounts (s.updDie die f) := ⟨rfl, fun _ => rfl⟩

theorem State.onlyCounts_updCore (s : State) (core : Nat) (ds : Core → List Delta) (since : Core → Nat) :
    s.OnlyCounts (s.updCore core (fun c => { c with deltas := ds c, deltaSince := since c })) := by
  refine ⟨rfl, fun c => ?_⟩
  by_cases h : c = core
  · rw [h, State.core_updCore]
  · rw [State.core_updCore_ne _ _ h]

/-- A core's buffer with other deltas. -/
def State.withDeltas (s : State) (core : Nat) (ds : List Delta) (since : Nat) : State :=
  s.updCore core (fun c => { c with deltas := ds, deltaSince := since })

theorem State.core_withDeltas (s : State) (core : Nat) (ds : List Delta) (since : Nat) :
    (s.withDeltas core ds since).core core = { s.core core with deltas := ds, deltaSince := since } := State.core_updCore _ _ _

theorem State.core_withDeltas_ne (s : State) {core c : Nat} (ds : List Delta) (since : Nat) (h : c ≠ core) :
    (s.withDeltas core ds since).core c = s.core c := State.core_updCore_ne _ _ h

theorem State.onlyCounts_withDeltas (s : State) (core : Nat) (ds : List Delta) (since : Nat) :
    s.OnlyCounts (s.withDeltas core ds since) := by
  refine ⟨rfl, fun c => ?_⟩
  by_cases h : c = core
  · rw [h, State.core_withDeltas]
  · rw [State.core_withDeltas_ne _ _ _ h]

/-- The counts of a core's die after a change of the buffer and of the die. -/
theorem State.total_withDeltas (s : State) (core : Nat) (f : Die → Die) (ds : List Delta) (since ctx node : Nat) (st : DWord) :
    ((s.updDie (dieOf core) f).withDeltas core ds since).total (dieOf core) ctx node st = s.total (dieOf core) ctx node st
      + (countIn (f (s.die (dieOf core))).keeper ctx node st - countIn (s.die (dieOf core)).keeper ctx node st)
      + (((f (s.die (dieOf core))).batches.map (fun b => deltaSum b.2 ctx node st)).sum
          - ((s.die (dieOf core)).batches.map (fun b => deltaSum b.2 ctx node st)).sum)
      + (deltaSum ds ctx node st - deltaSum (s.core core).deltas ctx node st) := by
  rw [State.total_change (s := s) fun c hc => congrArg Core.deltas (State.core_withDeltas_ne (s.updDie (dieOf core) f) ds since hc),
    State.core_withDeltas, show ∀ u : State, ∀ d, (u.withDeltas core ds since).die d = u.die d from fun _ _ => rfl, State.die_updDie]

/-- R330: A BATCH carries a core's buffer to the Keeper whole, so that no count changes. -/
theorem State.flushDeltas_spec (s : State) (core : Nat) :
    s.OnlyCounts (s.flushDeltas core) ∧ ((s.flushDeltas core).core core).deltas = []
      ∧ s.Counted (s.flushDeltas core) (dieOf core) (fun _ _ _ => 0) := by
  by_cases h : (s.core core).deltas.isEmpty = true
  · have hsame : s.flushDeltas core = s := if_pos h
    rw [hsame]
    exact ⟨⟨rfl, fun _ => rfl⟩, List.isEmpty_iff.mp h, fun _ _ _ => (add_zero _).symm⟩
  · have hflush : s.flushDeltas core
        = (s.updDie (dieOf core) (fun d => { d with batches := d.batches ++ [(core, (s.core core).deltas)] })).withDeltas core []
            (s.core core).deltaSince := if_neg h
    rw [hflush]
    refine ⟨(s.onlyCounts_updDie _ _).trans (State.onlyCounts_withDeltas _ _ _ _), ?_, fun c n x => ?_⟩
    · rw [State.core_withDeltas]
    · rw [State.total_withDeltas]
      simp only [List.map_append, List.sum_append, List.map_cons, List.map_nil, List.sum_cons, List.sum_nil]
      change _ + (0 - _) = _
      omega

/-- A pointstamp obtains its Keeper entry and a place in a core's buffer. -/
def State.newDelta (s : State) (core ctx node : Nat) (st : DWord) (d : Int) : State :=
  (s.updDie (dieOf core) (fun x => { x with keeper := updEntry (freeEntries x.keeper) ctx node st KEntry.more })).withDeltas core
    ((s.core core).deltas ++ [{ ctx := ctx, node := node, stamp := st, d := d }])
    (if (s.core core).deltas.isEmpty then s.ns else (s.core core).deltaSince)

theorem State.newDelta_spec {s : State} {core ctx node : Nat} {st : DWord} (d : Int) (hd : s.DistinctDeltas core)
    (hnew : (s.core core).deltas.any (fun e => e.is ctx node st) = false) :
    s.OnlyCounts (s.newDelta core ctx node st d) ∧ (s.newDelta core ctx node st d).DistinctDeltas core
      ∧ s.Counted (s.newDelta core ctx node st d) (dieOf core) (gain ctx node st d) := by
  refine ⟨(s.onlyCounts_updDie _ _).trans (State.onlyCounts_withDeltas _ _ _ _), ?_, fun c n x => ?_⟩
  · unfold State.DistinctDeltas State.newDelta at *
    rw [State.core_withDeltas, List.map_append, List.nodup_append]
    refine ⟨hd, by simp, fun a ha b hb => ?_⟩
    obtain ⟨e, he, rfl⟩ := List.mem_map.mp ha
    rw [List.mem_singleton.mp hb]
    have hne : ¬ e.is ctx node st = true := by simpa using List.any_eq_false.mp hnew e he
    exact fun h => hne (Delta.is_iff.mpr (by simpa using h))
  · rw [State.newDelta, State.total_withDeltas, countIn_updEntry_more, countIn_freeEntries, deltaSum_append, deltaSum_cons]
    simp only [Delta.is_iff, gain, show deltaSum [] c n x = 0 from rfl, eq_comm (a := c), eq_comm (a := n), eq_comm (a := x)]
    omega

/-- R329, R330, R332: COUNTING adds to the count of its pointstamp on the core's die, and changes no other. -/
theorem State.count_spec {s : State} {core : Nat} (hd : s.DistinctDeltas core) (ctx node : Nat) (st : DWord) (d : Int) :
    s.OnlyCounts (s.count core ctx node st d) ∧ (s.count core ctx node st d).DistinctDeltas core
      ∧ s.Counted (s.count core ctx node st d) (dieOf core) (gain ctx node st d) := by
  by_cases h0 : d = 0
  · have hsame : s.count core ctx node st d = s := if_pos h0
    rw [hsame]
    exact ⟨⟨rfl, fun _ => rfl⟩, hd, fun c n x => by simp [gain, h0]⟩
  by_cases hany : (s.core core).deltas.any (fun e => e.is ctx node st) = true
  · have hcount : s.count core ctx node st d
        = s.withDeltas core ((s.core core).deltas.map (Delta.plus ctx node st d)) (s.core core).deltaSince := by
      unfold State.count; rw [if_neg h0, if_pos hany]; rfl
    have hstamps : (((s.core core).deltas.map (Delta.plus ctx node st d)).map Delta.stampedAt)
        = (s.core core).deltas.map Delta.stampedAt := by
      rw [List.map_map]; exact List.map_congr_left fun e _ => e.stampedAt_plus ctx node st d
    rw [hcount]
    refine ⟨State.onlyCounts_withDeltas _ _ _ _, ?_, fun c n x => ?_⟩
    · unfold State.DistinctDeltas
      rw [State.core_withDeltas]
      exact hstamps ▸ hd
    · rw [State.total_change fun e he => congrArg Core.deltas (State.core_withDeltas_ne s _ _ he), State.core_withDeltas,
        deltaSum_plus ctx node st d c n x hd hany]
      simp only [show ∀ ds since e, (s.withDeltas core ds since).die e = s.die e from fun _ _ _ => rfl]
      omega
  · have hnew := Bool.eq_false_iff.mpr hany
    by_cases hfull : 64 ≤ (s.core core).deltas.length
    · have hcount : s.count core ctx node st d = (s.flushDeltas core).newDelta core ctx node st d := by
        unfold State.count; rw [if_neg h0, if_neg hany, if_pos hfull]; rfl
      obtain ⟨honly, hempty, hcounted⟩ := s.flushDeltas_spec core
      obtain ⟨nonly, ndistinct, ncounted⟩ := State.newDelta_spec (s := s.flushDeltas core) (ctx := ctx) (node := node) (st := st) d
        (by unfold State.DistinctDeltas; rw [hempty]; simp) (by rw [hempty]; rfl)
      rw [hcount]
      refine ⟨honly.trans nonly, ndistinct, ?_⟩
      simpa using hcounted.trans ncounted
    · have hcount : s.count core ctx node st d = s.newDelta core ctx node st d := by
        unfold State.count; rw [if_neg h0, if_neg hany, if_neg hfull]; rfl
      rw [hcount]
      exact State.newDelta_spec d hd hnew

end Sys2Proof.Machine
end

section
/-! PROOFS. Groups and teams are created (R44, R45, R68, R148). -/
namespace Sys2Proof.Machine

/-! ### A group (R44, R68) -/

/-- The seed of a generator that a free value gives (log entry 1). -/
def seedOf (n : Nat) : Word := BitVec.ofNat 32 (n % (2 ^ 32 - 1) + 1)

theorem seedOf_ne_zero (n : Nat) : seedOf n ≠ 0#32 := fun h => by
  have h := congrArg BitVec.toNat h
  simp only [seedOf, BitVec.toNat_ofNat] at h
  omega

/-- The generators of a group's lanes have been seeded, and nothing else of it has changed. -/
def Group.Seeded (g h : Group) : Prop :=
  h = { g with lanes := h.lanes }
    ∧ ∀ l < 32, ∃ a b, a ≠ 0#32 ∧ b ≠ 0#32 ∧ h.lane l = { g.lane l with gen := a, selGen := b }

theorem State.seedLanes_spec : ∀ (ls : List Nat), (∀ l ∈ ls, l < 32) → ls.Nodup → ∀ (s : State) (g : Group),
    (s.seedLanes g ls).2 = { s with free := (s.seedLanes g ls).2.free }
      ∧ (s.seedLanes g ls).1 = { g with lanes := (s.seedLanes g ls).1.lanes }
      ∧ (∀ l, l ∉ ls → (s.seedLanes g ls).1.lane l = g.lane l)
      ∧ ∀ l ∈ ls, ∃ a b, a ≠ 0#32 ∧ b ≠ 0#32 ∧ (s.seedLanes g ls).1.lane l = { g.lane l with gen := a, selGen := b }
  | [], _, _, s, g => ⟨rfl, rfl, fun _ _ => rfl, fun _ h => absurd h (by simp)⟩
  | l :: ls, hlt, hnd, s, g => by
    obtain ⟨hl, hnd⟩ := List.nodup_cons.mp hnd
    set x : Lane := { g.lane l with gen := seedOf s.takeFree.1, selGen := seedOf s.takeFree.2.takeFree.1 }
    obtain ⟨hstate, hgroup, hout, hin⟩ := State.seedLanes_spec ls (fun m hm => hlt m (List.mem_cons_of_mem _ hm)) hnd
      s.takeFree.2.takeFree.2 (g.setLane l x)
    have hother : ∀ m, m ≠ l → (g.setLane l x).lane m = g.lane m := fun m hm => by rw [Group.lane_setLane, if_neg fun h => hm h.1]
    rw [show s.seedLanes g (l :: ls) = s.takeFree.2.takeFree.2.seedLanes (g.setLane l x) ls from rfl]
    refine ⟨by rw [hstate]; rfl, by rw [hgroup]; rfl, fun m hm => ?_, fun m hm => ?_⟩
    · obtain ⟨hml, hm⟩ := not_or.mp (List.mem_cons.not.mp hm)
      rw [hout m hm, hother m hml]
    · rcases List.mem_cons.mp hm with rfl | hm
      · refine ⟨seedOf s.takeFree.1, seedOf s.takeFree.2.takeFree.1, seedOf_ne_zero _, seedOf_ne_zero _, ?_⟩
        rw [hout m hl, Group.lane_setLane, if_pos ⟨rfl, hlt m List.mem_cons_self⟩]
      · rw [← hother m fun e => hl (e ▸ hm)]
        exact hin m hm

/-- A new group of a team in its place, before its generators are seeded. -/
def State.placed (s : State) (team : Nat) (place : Nat × Nat) (g : Group) : Group :=
  let c := s.core (s.team team).core
  { g with
    team := team, core := (s.team team).core, part := place.1, slot := place.1 * 16 + place.2, issuePrio := g.prio
    clockLatch := BitVec.ofNat 32 (c.cycles / 2 ^ 32), nsLatch := BitVec.ofNat 32 (s.ns / 2 ^ 32)
    staging := g.stamp.extractLsb' 0 32
    waves := if g.live = 0#32 then [] else tset [] (lowLane g.live) { lanes := g.live, readyAt := c.cycles } }

/-- What the start of work leaves of a core: its cycles, its counts, its queue and its bins. -/
structure Core.KeptByStart (c d : Core) : Prop where
  cycles : d.cycles = c.cycles
  deltas : d.deltas = c.deltas
  queue : d.queue = c.queue
  bins : d.bins = c.bins

theorem Core.KeptByStart.trans {c d e : Core} (h : c.KeptByStart d) (k : d.KeptByStart e) : c.KeptByStart e :=
  ⟨k.cycles.trans h.cycles, k.deltas.trans h.deltas, k.queue.trans h.queue, k.bins.trans h.bins⟩

/-- A core that changes in what it does not keep. -/
theorem State.keptByStart_of_cores {s t : State} {core : Nat} {x : Core} (ht : t.cores = tset s.cores core x)
    (hx : (s.core core).KeptByStart x) (c : Nat) : (s.core c).KeptByStart (t.core c) := by
  unfold State.core at *
  rw [ht, tget_tset]
  split_ifs with hc
  · rw [hc]; exact hx
  · exact ⟨rfl, rfl, rfl, rfl⟩

/-- `t` is `s` with a new group in a team. -/
structure State.GainsGroup (s t : State) (team : Nat) (g : Group) : Prop where
  frame : t = { s with free := t.free, nextGroup := s.nextGroup + 1, groups := t.groups, teams := t.teams, cores := t.cores }
  seeded : g.Seeded (t.group s.nextGroup)
  others : ∀ h, h ≠ s.nextGroup → t.group h = s.group h
  inTeam : t.team team = { s.team team with groups := (s.team team).groups ++ [s.nextGroup] }
  onCore : ∀ c, (s.core c).KeptByStart (t.core c)
  acquired : (t.core (s.team team).core).l1 = []

/-- R44: A NEW GROUP has the next number, stands in its team, and its first access acquires. -/
theorem State.newGroup_spec (s : State) (team : Nat) (place : Nat × Nat) (g : Group) :
    s.GainsGroup (s.newGroup team place g).2 team (s.placed team place g) := by
  obtain ⟨hstate, hgroup, -, hin⟩ := State.seedLanes_spec (List.range 32) (by simp) List.nodup_range s (s.placed team place g)
  have hnew : (s.newGroup team place g).2
      = (({ (s.seedLanes (s.placed team place g) (List.range 32)).2 with
            nextGroup := s.nextGroup + 1
            groups := tset (s.seedLanes (s.placed team place g) (List.range 32)).2.groups s.nextGroup
              (s.seedLanes (s.placed team place g) (List.range 32)).1 } : State).updTeam team
          (fun t => { t with groups := t.groups ++ [s.nextGroup] })).invalidate (s.team team).core .l1 := rfl
  rw [hstate] at hnew
  have hg : (s.newGroup team place g).2.group s.nextGroup = (s.seedLanes (s.placed team place g) (List.range 32)).1 := by
    rw [hnew]; exact tget_tset_same _ _ _ _
  refine ⟨by rw [hnew]; rfl, ?_, fun h hh => ?_, ?_, fun c => ?_, ?_⟩
  · rw [hg]; exact ⟨hgroup, fun l hl => hin l (List.mem_range.mpr hl)⟩
  · rw [hnew]; exact tget_tset_ne _ _ _ hh
  · rw [hnew]; exact tget_tset_same _ _ _ _
  · exact State.keptByStart_of_cores (x := (s.core (s.team team).core).setCache .l1 []) (by rw [hnew]; rfl) ⟨rfl, rfl, rfl, rfl⟩ c
  · rw [hnew]; exact congrArg Core.l1 (State.core_updCore _ _ _)

/-- What a new group has clear (R44). -/
def Group.Clear (g : Group) : Prop :=
  g.ops = [] ∧ g.flagsZero = true ∧ (∀ k < 8, k ≠ 0 → g.kmask k = 0#32) ∧ g.q = 0#4 ∧ (∀ h < 32, vecGet g.a h none = none)
    ∧ g.status = 0#3 ∧ g.seq = 0#32 ∧ g.sup = false ∧ g.errors = [] ∧ g.entering = none ∧ g.preempt = none ∧ g.exiting = false

theorem vecGet_replicate {α : Type} {n : Nat} (x : α) (i : Nat) : vecGet (Vector.replicate n x) i x = x := by
  unfold vecGet; split_ifs <;> simp

theorem Group.clear_default : ({} : Group).Clear := by
  refine ⟨rfl, by decide, fun i _ hi => ?_, rfl, fun h _ => vecGet_replicate _ _, rfl, rfl, rfl, rfl, rfl, rfl, rfl⟩
  unfold Group.kmask; rw [if_neg hi]; exact vecGet_replicate _ _

/-- R44: A CLEAR GROUP that has been placed and seeded stands as it is created. -/
theorem Group.Seeded.created {s : State} {team : Nat} {place : Nat × Nat} {g h : Group} (hs : (s.placed team place g).Seeded h)
    {entry : Nat} (hlanes : g.lanes = lanesAt entry) (hprio : g.launchPrio = g.prio) (hclear : g.Clear) :
    h.Created (s.team team).core g.ctx g.grid entry g.width g.n (s.core (s.team team).core).cycles g.live g.stamp g.node g.prio := by
  obtain ⟨hgroup, hseeds⟩ := hs
  have hlane : ∀ l < 32, ∃ a b, a ≠ 0#32 ∧ b ≠ 0#32 ∧ h.lane l = { pc := BitVec.ofNat 52 entry, gen := a, selGen := b } := fun l hl => by
    obtain ⟨a, b, ha, hb, hlane⟩ := hseeds l hl
    refine ⟨a, b, ha, hb, hlane.trans ?_⟩
    have hpc : (s.placed team place g).lane l = { pc := BitVec.ofNat 52 entry } := by
      change vecGet g.lanes l {} = _
      rw [hlanes, lanesAt, vecGet, dif_pos hl, Vector.getElem_replicate]
    rw [hpc]
  rw [hgroup] at hlane ⊢
  exact ⟨rfl, rfl, rfl, rfl, rfl, rfl, rfl, rfl, rfl, rfl, hprio, rfl, hlane, rfl, hclear⟩

end Sys2Proof.Machine
end

section
/-! PROOFS. PICK starts work (R44, R45, R237, R329, R357 to R360). -/
namespace Sys2Proof.Machine

/-! ### Queues with nothing to enter them (R337, R357, R375) -/

theorem State.placeFired_nothing {s : State} {die : Nat} (h : s.NothingWaits die) : s.placeFired die = s := by
  obtain ⟨hfired, hrecons, hbands⟩ := h
  have hread : s.readFired die = s := by unfold State.readFired; rw [hfired]; rfl
  have hfold : ∀ (f : State → Nat × Band → ProbeWave → State) (bs : Tab Band), (∀ b ∈ bs, b.2.waiting = []) →
      bs.foldl (fun s e => e.2.waiting.foldl (fun s p => f s e p) s) s = s := fun f bs => by
    induction bs with
    | nil => exact fun _ => rfl
    | cons b bs ih =>
      intro hb
      rw [List.foldl_cons, hb b List.mem_cons_self]
      exact ih fun e he => hb e (List.mem_cons_of_mem _ he)
  unfold State.placeFired
  simp only [hread, hfired, List.foldl_nil]
  unfold State.placeWaves
  simp only [hfold _ _ hbands, hrecons, List.foldl_nil]

theorem State.serveBins_empty {s : State} {core : Nat} (h : (s.core core).bins = []) : s.serveBins core = s := by
  simp [State.serveBins, h]

/-! ### Waves that are unparked -/

/-- No wave of the group is parked. -/
def Group.Unparked (g : Group) : Prop := ∀ w why, (g.wave w).phase ≠ .parked why

/-- Groups alone have changed, and none of which no wave was parked. -/
def State.OnlyUnparks (s t : State) : Prop := t = { s with groups := t.groups } ∧ ∀ h, (s.group h).Unparked → t.group h = s.group h

theorem State.OnlyUnparks.trans {s t u : State} (h : s.OnlyUnparks t) (k : t.OnlyUnparks u) : s.OnlyUnparks u :=
  ⟨by rw [k.1, h.1], fun x hx => by
    have hsame := h.2 x hx
    rw [k.2 x (hsame ▸ hx), hsame]⟩

theorem State.onlyUnparks_refl (s : State) : s.OnlyUnparks s := ⟨rfl, fun _ _ => rfl⟩

theorem State.onlyUnparks_unpark (s : State) (gid wid : Nat) : s.OnlyUnparks (s.unpark gid wid) := by
  refine ⟨rfl, fun h hh => ?_⟩
  by_cases hg : h = gid
  · subst hg
    rw [State.unpark, State.group_updGroup]
    dsimp only
    split
    · next why hphase => exact absurd hphase (hh wid why)
    · rfl
  · exact State.group_updGroup_ne _ _ hg

theorem State.onlyUnparks_foldl {α : Type} (f : State → α → State) (hf : ∀ (s : State) a, s.OnlyUnparks (f s a)) (l : List α) :
    ∀ s : State, s.OnlyUnparks (l.foldl f s) := by
  induction l with
  | nil => exact State.onlyUnparks_refl
  | cons a l ih => exact fun s => (hf s a).trans (ih _)

theorem State.onlyUnparks_unparkAll (s : State) (p : Nat → Group → Park → Bool) : s.OnlyUnparks (s.unparkAll p) := by
  refine State.onlyUnparks_foldl _ (fun (s : State) e => State.onlyUnparks_foldl _ (fun (s : State) x => ?_) _ s) _ s
  split
  · split_ifs
    · exact s.onlyUnparks_unpark _ _
    · exact s.onlyUnparks_refl
  · exact s.onlyUnparks_refl

theorem State.onlyUnparks_queueRoom {s : State} {core : Nat} (h : s.NothingWaits (dieOf core)) (hb : (s.core core).bins = []) :
    s.OnlyUnparks (s.queueRoom core) := by
  unfold State.queueRoom
  simp only [State.placeFired_nothing h, State.serveBins_empty hb]
  exact s.onlyUnparks_unparkAll _

theorem State.unparked_placed (s : State) (team : Nat) (place : Nat × Nat) (g : Group) :
    (s.placed team place g).Unparked := fun w why => by
  simp only [State.placed, Group.wave, tget]
  split_ifs
  · simp [tget?]
  · simp only [tset, tget?]
    split_ifs <;> simp

theorem Group.Seeded.unparked {g h : Group} (hs : g.Seeded h) (hg : g.Unparked) : h.Unparked := by
  rw [hs.1]; exact hg

/-! ### Counts that do not change -/

theorem State.counted_same {s t : State} (hdies : ∀ d, t.die d = s.die d) (hdeltas : ∀ c, (t.core c).deltas = (s.core c).deltas) (die : Nat) :
    s.Counted t die (fun _ _ _ => 0) := fun c n x => by
  simp only [State.total, hdies, hdeltas, add_zero]

/-! ### A team (R45) -/

/-- `t` is `s` with a new team on a core. -/
structure State.GainsTeam (s t : State) (core : Nat) (h : Shape) (x : Team) : Prop where
  frame : t = { s with nextTeam := s.nextTeam + 1, teams := t.teams, cores := t.cores }
  made : t.team s.nextTeam = { x with
    core := core, size := h.groups, spadLen := roundUp h.scratch 128, accLen := roundUp h.accum 2048, reserved := h.chambers }
  onCore : ∀ c, (s.core c).KeptByStart (t.core c)

theorem State.newTeam_spec (s : State) (core : Nat) (h : Shape) (x : Team) : s.GainsTeam (s.newTeam core h x).2 core h x :=
  ⟨rfl, tget_tset_same _ _ _ _, State.keptByStart_of_cores (core := core) rfl ⟨rfl, rfl, rfl, rfl⟩⟩

/-! ### A task's group (R44, R237, R239) -/

/-- The group that a task starts as. -/
def taskGroup (l : LaunchRec) (k : Task) : Group :=
  { soloGroup k.ctx k.grid l k.prio with
    origin := .task, width := l.lanes, live := lowLanes l.lanes, lanes := lanesAt k.entry
    s := Vector.ofFn (fun (j : Fin 64) => k.payload.getD j.val 0)
    stamp := k.stamp, node := k.node, doneCtr := k.done }

theorem taskGroup_clear (l : LaunchRec) (k : Task) : (taskGroup l k).Clear := Group.clear_default

theorem vecGet_ofFn {α : Type} {n : Nat} (f : Fin n → α) {i : Nat} (h : i < n) (d : α) : vecGet (Vector.ofFn f) i d = f ⟨i, h⟩ := by
  simp [vecGet, h]

/-- R44, R237: A TASK STARTS as a group of its own team; the module's dies and other groups stay as they are. -/
theorem State.startTask_spec (s : State) (core : Nat) (k : Task) :
    ∃ u place, s.GainsTeam u core (s.lr k.grid).taskShape { ctx := k.ctx, grid := k.grid, tidx := 0xFFFFFFFF, prio := k.prio }
      ∧ u.GainsGroup (s.startTask core k) s.nextTeam (u.placed s.nextTeam place (taskGroup (s.lr k.grid) k)) :=
  ⟨_, _, s.newTeam_spec core _ _, State.newGroup_spec _ _ _ _⟩

/-- What `PICK` does when nothing waits for the die's queue and the core has chosen. -/
theorem exec_pick {s : State} {core : Nat} {c : Cand} (h : s.NothingWaits (dieOf core))
    (hc : s.choose core (s.candidates core) 129 = some c) : exec (.pick core) s = finish (s.startCand core c) := by
  change execPick core s = _
  simp only [execPick, State.placeFired_nothing h, hc]

section
variable {s u v t : State} {core tid : Nat} {h : Shape} {x : Team} {g : Group} (hteam : s.GainsTeam u core h x)
  (hgroup : u.GainsGroup v tid g) (hroom : v.OnlyUnparks t)
include hteam hgroup hroom

/-- A team of one group has started: what the start leaves as it is. -/
theorem State.GainsTeam.frame_start :
    t = { s with free := t.free, nextGroup := s.nextGroup + 1, nextTeam := s.nextTeam + 1, groups := t.groups, teams := t.teams
                 cores := t.cores } := by
  have ht := hroom.1
  rw [hgroup.frame, hteam.frame] at ht
  rw [ht]

theorem State.GainsTeam.keptByStart (c : Nat) : (s.core c).KeptByStart (t.core c) := by
  have ht : t.core c = v.core c := by rw [hroom.1]; rfl
  rw [ht]
  exact (hteam.onCore c).trans (hgroup.onCore c)

end

/-- R44, R45, R237, R239: A TASK HAS STARTED as a group of a team of its own. -/
theorem State.GainsTeam.startedTask {s u v t : State} {core : Nat} {k : Task} {place : Nat × Nat}
    (hteam : s.GainsTeam u core (s.lr k.grid).taskShape { ctx := k.ctx, grid := k.grid, tidx := 0xFFFFFFFF, prio := k.prio })
    (hgroup : u.GainsGroup v s.nextTeam (u.placed s.nextTeam place (taskGroup (s.lr k.grid) k))) (hroom : v.OnlyUnparks t) :
    s.StartedTask t core k := by
  have hnext : u.nextGroup = s.nextGroup := by rw [hteam.frame]
  have hcore : (u.team s.nextTeam).core = core := congrArg Team.core hteam.made
  have hseeded := hgroup.seeded
  rw [hnext] at hseeded
  have hnew : t.group s.nextGroup = v.group s.nextGroup := hroom.2 _ (hseeded.unparked (u.unparked_placed _ _ _))
  have hcreated := hseeded.created (entry := k.entry) rfl rfl (taskGroup_clear _ _)
  rw [hcore, (hteam.onCore core).cycles, ← hnew] at hcreated
  have hgroupEq := hnew.trans hseeded.1
  have hteamEq : t.team s.nextTeam = { u.team s.nextTeam with groups := (u.team s.nextTeam).groups ++ [s.nextGroup] } := by
    rw [← hnext, ← hgroup.inTeam, hroom.1]; rfl
  rw [hteam.made] at hteamEq
  have hacquired : (t.core core).l1 = [] := by
    rw [hroom.1, ← hcore]; exact hgroup.acquired
  have hframe := hteam.frame_start hgroup hroom
  refine ⟨hcreated, ?_, ?_, ?_, ?_, ?_, ?_, fun j hj => ?_, fun _ _ => ?_, ?_, ?_, ?_, hacquired⟩
  · rw [hgroupEq]; rfl
  · rw [hgroupEq]; rfl
  · rw [hgroupEq]; rfl
  · rw [hgroupEq]; rfl
  · rw [hgroupEq]; rfl
  · rw [hgroupEq]; rfl
  · rw [hgroupEq]; exact vecGet_ofFn _ hj _
  · rw [hgroupEq]; rfl
  · rw [hteamEq]
    exact ⟨rfl, rfl, rfl, rfl, rfl, rfl, rfl, rfl, rfl, rfl, rfl, rfl, rfl, rfl, fun _ _ => vecGet_replicate _ _⟩
  · rw [hframe]
  · rw [hframe]

/-- R237, R359: A TASK OF THE CORE'S QUEUE leaves it and starts. -/
theorem State.startCand_task {s : State} {core i : Nat} {e : QEntry} {k : Task} (hw : e.work = .task k) (h : s.NothingWaits (dieOf core))
    (hb : (s.core core).bins = []) :
    ∃ r u v t place, r = s.updCore core (fun x => { x with queue := x.queue.eraseIdx i })
      ∧ r.GainsTeam u core (r.lr k.grid).taskShape { ctx := k.ctx, grid := k.grid, tidx := 0xFFFFFFFF, prio := k.prio }
      ∧ u.GainsGroup v r.nextTeam (u.placed r.nextTeam place (taskGroup (r.lr k.grid) k)) ∧ v.OnlyUnparks t
      ∧ s.startCand core (.coreEntry i e) = t := by
  set r := s.updCore core (fun x => { x with queue := x.queue.eraseIdx i }) with hr
  obtain ⟨u, place, hteam, hgroup⟩ := r.startTask_spec core k
  refine ⟨r, u, r.startTask core k, (r.startTask core k).queueRoom core, place, rfl, hteam, hgroup, ?_, ?_⟩
  · have hbins : ((r.startTask core k).core core).bins = [] := by
      rw [((hteam.onCore core).trans (hgroup.onCore core)).bins, hr, State.core_updCore]; exact hb
    refine State.onlyUnparks_queueRoom ?_ hbins
    have hdies : (r.startTask core k).dies = s.dies := by rw [hgroup.frame, hteam.frame]; rfl
    unfold State.NothingWaits State.die at *
    rw [hdies]; exact h
  · change (r.startWork core e.work).queueRoom core = _
    rw [hw]; rfl

/-- R237, R329, R359: what is left when a task of the core's queue has started. -/
theorem State.startCand_task_spec {s : State} {core i : Nat} {e : QEntry} {k : Task} (hw : e.work = .task k)
    (hwaits : s.NothingWaits (dieOf core)) (hbins : (s.core core).bins = []) :
    ∃ t, s.startCand core (.coreEntry i e) = t ∧ t.stop = s.stop ∧ s.StartedTask t core k
      ∧ (t.core core).queue = (s.core core).queue.eraseIdx i ∧ s.Counted t (dieOf core) (fun _ _ _ => 0)
      ∧ ∀ key, t.homeByte key = s.homeByte key := by
  obtain ⟨r, u, v, t, place, hr, hteam, hgroup, hroom, hstart⟩ := State.startCand_task (i := i) hw hwaits hbins
  have hframe := hteam.frame_start hgroup hroom
  have hkept := hteam.keptByStart hgroup hroom
  have hrcore : r.core core = { s.core core with queue := (s.core core).queue.eraseIdx i } := by rw [hr, State.core_updCore]
  refine ⟨t, hstart, ?_, ?_, ?_, State.counted_same (fun d => ?_) (fun c => ?_) _, fun key => ?_⟩
  · rw [hframe, hr]; rfl
  · have hstarted := hteam.startedTask hgroup hroom
    unfold State.StartedTask at *
    rw [hrcore, hr] at hstarted
    exact hstarted
  · rw [(hkept core).queue, hrcore]
  · rw [hframe, hr]; rfl
  · rw [(hkept c).deltas, hr]
    by_cases h : c = core
    · rw [h, State.core_updCore]
    · rw [State.core_updCore_ne _ _ h]
  · rw [hframe, hr]; rfl

/-! ### A team of a grid (R44, R45, R329, R360) -/

theorem gridGroup_clear (ctx grid : Nat) (gr : Grid) (tidx rank i : Nat) : (gridGroup ctx grid gr tidx rank i).Clear :=
  Group.clear_default

/-- R44: the s-registers that a grid without multicast gives its groups. -/
theorem sreg_gridGroup {gr : Grid} (h : gr.lr.mcast = false) (ctx grid tidx rank i : Nat) {j : Nat} (hj : j < 16) :
    (gridGroup ctx grid gr tidx rank i).sreg j = vecGet gr.lr.s j 0 := by
  refine (vecGet_ofFn _ (by omega) _).trans ?_
  by_cases h15 : j = 15
  · simp [h15, h]
  · simp [show j < 15 by omega]

/-- Groups of a team start one after another, each counted (R329). -/
def State.startGroups (s : State) (core team ctx node : Nat) (st : DWord) (place : Nat → Nat × Nat) (g : Nat → Group) (n : Nat) : State :=
  (List.range n).foldl (fun s i => (s.newGroup team (place i) (g i)).2.count core ctx node st 1) s

/-- `t` is `s` with `n` new groups in a team, each counted. -/
structure State.GainsGroups (s t : State) (core team ctx node : Nat) (st : DWord) (place : Nat → Nat × Nat) (g : Nat → Group) (n : Nat) :
    Prop where
  frame : t = { s with free := t.free, nextGroup := s.nextGroup + n, groups := t.groups, teams := t.teams, cores := t.cores
                       dies := t.dies }
  seeded : ∀ i < n, (s.placed team (place i) (g i)).Seeded (t.group (s.nextGroup + i))
  inTeam : t.team team = { s.team team with groups := (s.team team).groups ++ (List.range n).map (fun i => s.nextGroup + i) }
  cycles : ∀ c, (t.core c).cycles = (s.core c).cycles
  distinct : t.DistinctDeltas core
  counted : s.Counted t (dieOf core) (gain ctx node st n)

/-- What is placed depends on the team's core, its cycles and the time alone. -/
theorem State.placed_congr {s t : State} {team : Nat} (hcore : (t.team team).core = (s.team team).core)
    (hcycles : ∀ c, (t.core c).cycles = (s.core c).cycles) (hns : t.ns = s.ns) (place : Nat × Nat) (g : Group) :
    t.placed team place g = s.placed team place g := by
  simp only [State.placed, hcore, hcycles, hns]

theorem State.startGroups_spec {s : State} {core : Nat} (hd : s.DistinctDeltas core) (team ctx node : Nat) (st : DWord)
    (place : Nat → Nat × Nat) (g : Nat → Group) :
    ∀ n, s.GainsGroups (s.startGroups core team ctx node st place g n) core team ctx node st place g n
  | 0 => ⟨rfl, fun _ h => absurd h (by omega), by simp [State.startGroups], fun _ => rfl, hd, fun c n x => by simp [gain, State.startGroups]⟩
  | n + 1 => by
    obtain ⟨hframe, hseeded, hteam, hcycles, hdist, hcounted⟩ := State.startGroups_spec hd team ctx node st place g n
    have hstep : s.startGroups core team ctx node st place g (n + 1)
        = ((s.startGroups core team ctx node st place g n).newGroup team (place n) (g n)).2.count core ctx node st 1 := by
      simp only [State.startGroups, List.range_succ, List.foldl_append, List.foldl_cons, List.foldl_nil]
    rw [hstep]
    set t := s.startGroups core team ctx node st place g n
    have hgain := t.newGroup_spec team (place n) (g n)
    set u := (t.newGroup team (place n) (g n)).2
    have hnext : t.nextGroup = s.nextGroup + n := by rw [hframe]
    have hudist : u.DistinctDeltas core := by unfold State.DistinctDeltas; rw [(hgain.onCore core).deltas]; exact hdist
    obtain ⟨honly, hwdist, hwcounted⟩ := State.count_spec hudist ctx node st 1
    set w := u.count core ctx node st 1
    have hwgroup : ∀ h, w.group h = u.group h := fun h => by rw [honly.1]; rfl
    have hplaced : t.placed team (place n) (g n) = s.placed team (place n) (g n) :=
      State.placed_congr (by rw [hteam]) hcycles (by rw [hframe]) _ _
    refine ⟨?_, fun i hi => ?_, ?_, fun c => ?_, hwdist, fun c m x => ?_⟩
    · have hw := honly.1
      rw [hgain.frame, hframe] at hw
      rw [hw]; rfl
    · rw [hwgroup]
      by_cases hin : i = n
      · subst hin
        rw [← hnext, ← hplaced]; exact hgain.seeded
      · rw [hgain.others _ (by omega)]
        exact hseeded i (by omega)
    · have hwteam : w.team team = u.team team := by rw [honly.1]; rfl
      rw [hwteam, hgain.inTeam, hteam, hnext, List.range_succ, List.map_append, ← List.append_assoc]; rfl
    · rw [honly.2 c, ← hcycles c]; exact (hgain.onCore c).cycles
    · have hsame : t.Counted u (dieOf core) (fun _ _ _ => 0) :=
        State.counted_same (fun d => by unfold State.die; rw [hgain.frame]) (fun c => (hgain.onCore c).deltas) _
      rw [((hcounted.trans hsame).trans hwcounted) c m x]
      simp only [gain]
      split_ifs <;> push_cast <;> omega

/-- A TEAM THAT IS IN NO CLUSTER starts as a new team and its groups; its grid no longer has it to start. -/
theorem State.startTeam_solo {s : State} {grid tidx core : Nat} {gr : Grid} (hgr : tget s.grids grid {} = gr)
    (hcols : gr.lr.cols = 1) (hrows : gr.lr.rows = 1) (hgang : gr.lr.gang = false) (hmcast : gr.lr.mcast = false) :
    ∃ place p, s.startTeam grid tidx core
      = let v := (s.newTeam core gr.lr.shape { ctx := gr.ctx, grid := grid, tidx := tidx, producer := gr.lr.producer, rank := 0
                                               prio := gr.prio }).2.startGroups core s.nextTeam gr.ctx gr.lr.node gr.lr.stamp place
                  (fun i => gridGroup gr.ctx grid gr tidx 0 i) gr.lr.groups
        { v with grids := tset v.grids grid { tget v.grids grid {} with
            toStart := gr.toStart.filter (fun x => decide (x ≠ tidx)), pending := p } } := by
  refine ⟨fun i => ((placeAll (s.places core) (groupBytes gr.lr.lanes gr.lr.vregs) gr.lr.groups).getD []).getD i (0, 0),
    !(gr.toStart.filter (fun x => decide (x ≠ tidx))).isEmpty, ?_⟩
  have hrank : tidx % max 1 (1 * 1) = 0 := Nat.mod_one tidx
  simp only [State.startTeam, hgr, hcols, hrows, hgang, hmcast, hrank, Bool.false_and, Bool.false_eq_true, if_false]
  rfl

/-- R44, R329, R360: THE TEAM OF A GRID WITHOUT CLUSTERS starts on the core that chose it. -/
theorem State.startCand_team {s : State} {core grid tidx : Nat} (hcols : (s.lr grid).cols = 1) (hrows : (s.lr grid).rows = 1)
    (hgang : (s.lr grid).gang = false) (hmcast : (s.lr grid).mcast = false) (hd : s.DistinctDeltas core) :
    ∃ gs u v place p, ({ s with grids := gs } : State).GainsTeam u core (s.lr grid).shape
          { ctx := (tget s.grids grid {}).ctx, grid := grid, tidx := tidx, producer := (s.lr grid).producer, rank := 0
            prio := (tget s.grids grid {}).prio }
      ∧ u.GainsGroups v core s.nextTeam (tget s.grids grid {}).ctx (s.lr grid).node (s.lr grid).stamp place
          (fun i => gridGroup (tget s.grids grid {}).ctx grid (tget s.grids grid {}) tidx 0 i) (s.lr grid).groups
      ∧ s.startCand core (.team grid tidx) = { v with grids := tset v.grids grid { tget v.grids grid {} with
          toStart := (tget s.grids grid {}).toStart.filter (fun x => decide (x ≠ tidx)), pending := p } } := by
  set gr := tget s.grids grid {} with hgr
  change gr.lr.gang = false at hgang
  obtain ⟨fixed, hstart⟩ : ∃ fixed, s.startCand core (.team grid tidx)
      = ({ s with grids := tset s.grids grid { gr with rects := fixed } } : State).startTeam grid tidx core := by
    have htogether : gr.together tidx (core % 16) = [(tidx, core % 16)] := by
      simp [Grid.together, hgang]
    have hcore : dieOf core * 16 + core % 16 = core := by unfold dieOf; omega
    refine ⟨if !gr.lr.mcast && decide (tidx % max 1 (gr.lr.cols * gr.lr.rows) = 0)
      then tset gr.rects (tidx / max 1 (gr.lr.cols * gr.lr.rows)) (core % 16) else gr.rects, ?_⟩
    unfold State.startCand
    dsimp only
    rw [← hgr, htogether, List.foldl_cons, List.foldl_nil, hcore]
  obtain ⟨place, p, hteam⟩ := State.startTeam_solo (s := { s with grids := tset s.grids grid { gr with rects := fixed } })
    (tidx := tidx) (core := core) (tget_tset_same _ _ _ _) hcols hrows hgang hmcast
  have hgain := State.newTeam_spec { s with grids := tset s.grids grid { gr with rects := fixed } } core gr.lr.shape
    { ctx := gr.ctx, grid := grid, tidx := tidx, producer := gr.lr.producer, rank := 0, prio := gr.prio }
  refine ⟨_, _, _, place, p, hgain, State.startGroups_spec ?_ _ _ _ _ _ _ _, hstart.trans hteam⟩
  unfold State.DistinctDeltas
  rw [(hgain.onCore core).deltas]
  exact hd

/-- Settles O43: a task's start is a new team, a new group and waves unparked elsewhere; a team's start is a new team and its
groups, each of which is counted as it is made. -/
theorem pickStartsWork : Obligations.PickStartsWork := by
  intro s core c hstop hwaits hbins hchoose _ _
  have hexec := exec_pick hwaits hchoose
  refine ⟨fun i e k hc hw => ?_, fun grid tidx hc hcols hrows hgang hmcast hd => ?_⟩
  · subst hc
    obtain ⟨t, rfl, hstop', hstarted⟩ := State.startCand_task_spec (i := i) hw hwaits hbins
    exact ⟨_, hexec.trans (finish_next (hstop'.trans hstop)), hstarted⟩
  · subst hc
    obtain ⟨gs, u, v, place, p, hteam, hgroups, hstart⟩ := State.startCand_team hcols hrows hgang hmcast hd
    intro gr l
    have hnext : u.nextGroup = s.nextGroup := by rw [hteam.frame]
    have hcore : (u.team s.nextTeam).core = core := congrArg Team.core hteam.made
    generalize s.startCand core (.team grid tidx) = t at hexec hstart
    have hframe : t = { s with free := t.free, nextGroup := t.nextGroup, nextTeam := t.nextTeam, groups := t.groups, teams := t.teams
                               cores := t.cores, dies := t.dies, grids := t.grids } := by
      rw [hgroups.frame, hteam.frame] at hstart
      rw [hstart]
    have hgroup : ∀ h, t.group h = v.group h := fun h => by rw [hstart]; rfl
    refine ⟨t, ?_, fun i hi => ?_, ?_, ?_, ?_, fun key => ?_⟩
    · rw [hexec, finish_next]
      rw [hframe]; exact hstop
    · have hseeded := hgroups.seeded i hi
      have hcreated := hseeded.created (entry := l.entry) rfl rfl (gridGroup_clear _ _ _ _ _ _)
      rw [hcore, (hteam.onCore core).cycles] at hcreated
      rw [hgroup, ← hnext]
      refine ⟨hcreated, ?_⟩
      rw [hseeded.1]
      exact ⟨rfl, rfl, rfl, rfl, rfl, rfl, fun j hj => sreg_gridGroup hmcast gr.ctx grid tidx 0 i hj, fun j hj => vecGet_ofFn _ (by omega) _,
        fun _ _ => rfl⟩
    · have hteamEq : t.team s.nextTeam = v.team s.nextTeam := by rw [hstart]; rfl
      rw [hteamEq, hgroups.inTeam, hteam.made, hnext]
      exact ⟨rfl, rfl, rfl, rfl, rfl, rfl, rfl, rfl, rfl, rfl, rfl, rfl, rfl, rfl, fun _ _ => vecGet_replicate _ _⟩
    · rw [hstart, tget_tset_same]
    · have hteamCounted : s.Counted u (dieOf core) (fun _ _ _ => 0) :=
        State.counted_same (fun d => by rw [hteam.frame]; rfl) (fun c => (hteam.onCore c).deltas) _
      have hcounted := hteamCounted.trans hgroups.counted
      rw [hstart]
      intro c n x
      exact (hcounted c n x).trans (congrArg _ (zero_add _))
    · rw [hframe]; rfl

end Sys2Proof.Machine
end

section
/-! PROOFS. Wharf operations: which elements a key of path W stands for (R188, R189, R309). -/
namespace Sys2Proof.Machine

/-- WITH NO BOUND ON THE OFFSET A KEY NAMES TWO ELEMENTS: an offset of 2 ^ 48 reaches the keys of the next die. -/
theorem bankKey_succ_die (die off : Nat) : bankKey (die + 1) off = bankKey die (2 ^ 48 + off) := by
  unfold bankKey
  ring

/-- A posted ADD32 of 1 by lane 0 to the first element of die 1's Wharf. -/
def postedAdd : POp :=
  { instr := .vwopPosted 0 0 .add32, act := 1, size := 4, unit := 4, pas := [(0, bankKey 1 0)], vals := [(0, 1)] }

/-- The module as it is right after reset but for that operation, in flight in group 0. -/
def State.postingAdd : State := { State.reset with groups := [(0, { ops := [postedAdd] })] }

/-- The operation leaves 1 in its element of die 1, and ends. -/
theorem State.exec_postingAdd : exec (.memoryAccessComplete 0 postedAdd.id) .postingAdd
    = .next { State.postingAdd with groups := [(0, {})], wharf := [(wharfKey 1 0, 1)] } := rfl

theorem State.postingAdd_mayPerform : State.postingAdd.MayPerform 0 postedAdd := by
  unfold State.MayPerform
  decide

/-- A Wharf element has no translation to go through. -/
theorem State.postingAdd_settles : State.postingAdd.Settles 0 postedAdd := by
  refine ⟨List.pairwise_singleton _ _, fun e he hlow => ?_⟩
  obtain rfl := List.mem_singleton.mp he
  exact absurd hlow (by decide)

theorem postedAdd_fits : postedAdd.Fits (wopBytes .add32) := by
  intro e he
  obtain rfl := List.mem_singleton.mp he
  decide

/-- The one lane names an element inside die 1's Wharf, which is not poisoned. -/
theorem postedAdd_inBounds {l : Nat} (hl : l < 32) (hact : inMask postedAdd.act l = true) :
    inMask postedAdd.oob l = false ∧ ∃ die < 2, ∃ off, off % wopBytes .add32 = 0 ∧ off + wopBytes .add32 ≤ wharfBytes
      ∧ tget? postedAdd.pas (l * 64) = some (bankKey die off)
      ∧ State.postingAdd.wharfBad die off (wopBytes .add32) = false := by
  have hlane : ∀ l < 32, inMask postedAdd.act l = true → l = 0 := by decide
  obtain rfl := hlane l hl hact
  exact ⟨by decide, 1, by decide, 0, by decide, by decide, rfl, rfl⟩

/-- Refutes O29, by its clause on Wharf operations: what it says of the element at `die` and `off` it says for every `off` with
`bankKey die off` as the lane's key, and bounds `off` only where it supposes the lane in bounds. Die 1's first element has the key
of offset 2 ^ 48 on die 0, past the end of that Wharf, where an ADD32 of 1 to the former leaves 0. -/
theorem not_atomicAddsCombine : ¬ Obligations.AtomicAddsCombine := by
  rintro ⟨-, -, -, hwharf⟩
  obtain ⟨t, hexec, hlanes, -⟩ := hwharf .postingAdd 0 postedAdd none .add32 State.postingAdd_mayPerform rfl
    (.inr ⟨0, 0, rfl, rfl⟩) rfl rfl postedAdd_fits State.postingAdd_settles rfl (fun _ h => nomatch h)
    (fun l hl hact => .inr (postedAdd_inBounds hl hact)) (.inr (by decide))
  have hkey : tget? postedAdd.pas (0 * 64) = some (bankKey 0 (2 ^ 48)) := congrArg some (bankKey_succ_die 0 0)
  obtain ⟨hadd, -⟩ := hlanes 0 (by decide) rfl 0 (by decide) (2 ^ 48) (by decide) hkey
  have hleaves : t.wharfNat 0 (2 ^ 48) 4 = 1 := (hadd (by decide)).1
  obtain rfl := Host.Outcome.next.inj (hexec.symm.trans State.exec_postingAdd)
  exact absurd hleaves (by decide)

end Sys2Proof.Machine
end

section
/-! PROOFS. V-set words: what they leave, whatever view they run on (R91, R92, R117, R129). -/
namespace Sys2Proof.Machine

/-- R117: THE WRITE OF A RULE'S RESULTS and the move to the next word are what the rule asks for, on any view of the lanes,
that of VSEL among them. -/
theorem LaneRule.done_write (s : State) (r : LaneRule) (x : VIn) :
    r.Done x s (s.updCur (fun g => g.vResults x r.d.toNat r.n (r.val x g))).nextWord := by
  obtain ⟨hframe, hvreg, hlane, hlate, hbad⟩ := Group.vResults_spec s.cg x r.d.toNat r.n (r.val x s.cg)
  have hword := s.wordDone_upd (fun g => g.vResults x r.d.toNat r.n (r.val x g)) (by rw [hframe]) (by rw [hframe]) hlate
  have hcg := s.cg_upd_nextWord (fun g => g.vResults x r.d.toNat r.n (r.val x g))
  set t := (s.updCur (fun g => g.vResults x r.d.toNat r.n (r.val x g))).nextWord
  set g := s.cg.vResults x r.d.toNat r.n (r.val x s.cg)
  have hv : t.cg.v = g.v := by rw [hcg]
  have hl : t.cg.lanes = g.lanes := by rw [hcg]
  have hb : t.cg.bad = g.bad := by rw [hcg]
  refine ⟨hword.congr ?_, fun k l h => by rw [hb]; exact hbad k l h, fun k l h => ?_, fun l h => ?_⟩
  · rw [hv, hl, hb, hframe]
  · unfold Group.vreg at hvreg ⊢
    rw [hv, hvreg k l h]
    split_ifs <;> tauto
  · unfold Group.lane at hlane ⊢
    rw [hl, hlane l h]

/-- A word that has done one rule has done every rule of the same registers that gives the 32 lanes the same values. -/
theorem LaneRule.Done.congr {r r' : LaneRule} {x : VIn} {s t : State} (h : r.Done x s t) (hd : r'.d = r.d) (hn : r'.n = r.n)
    (hval : ∀ l < 32, ∀ gen, r'.val x s.cg l gen = r.val x s.cg l gen) : r'.Done x s t := by
  obtain ⟨hword, hbad, hvreg, hlane⟩ := h
  unfold LaneRule.Done
  rw [hd, hn]
  refine ⟨hword, hbad, fun k l hl => ?_, fun l hl => ?_⟩
  · rw [hval l hl]; exact hvreg k l hl
  · rw [hval l hl]; exact hlane l hl

/-- R115, R117: A SHORT V-SET WORD with valid fields on its view. -/
theorem vOp_runs {s : State} {h : Honours} {ok : Group → Bool} {d : Byte} {n : Nat} {x : VIn} (hd : dstOk s.cg.n d.toNat n = true)
    (hok : ok s.cg = true) (hv : s.laneView h d.toNat = some x) (f : VIn → Group → Nat → Word → Nat × Word) :
    ∃ t, vOp h ok d.toNat n f s = .next t ∧ LaneRule.Done { d := d, n := n, val := f } x s t := by
  refine ⟨_, ?_, LaneRule.done_write s { d := d, n := n, val := f } x⟩
  rw [vOp, hd, hok, Bool.and_self, State.vWord_view hv]

/-- R32: A mask register after a write: k0 takes none. -/
theorem Group.kmask_setK (g : Group) (i : Nat) (m : Mask) {j : Nat} (hj : j < 8) :
    (g.setK i m).kmask j = if j = i ∧ j ≠ 0 then m else g.kmask j := by
  by_cases h0 : j = 0
  · simp [Group.kmask, h0]
  by_cases hji : j = i
  · subst hji
    simp [Group.setK, Group.kmask, h0, vecGet_vecSet_same _ _ _ hj]
  · have hother : vecGet (vecSet g.k i m) j 0#32 = vecGet g.k j 0#32 := vecGet_vecSet_ne _ _ _ hji
    by_cases hi : i = 0 <;> simp [Group.setK, Group.kmask, hi, h0, hji, hother]

/-- R32: A MASK REGISTER AFTER A WRITE TO SOME OF ITS LANES. -/
theorem Group.getLsbD_kmask_mergeK (g : Group) (i : Nat) (who m : Mask) {j l : Nat} (hj : j < 8) (hl : l < 32) :
    ((g.mergeK i who m).kmask j).getLsbD l = if j = i ∧ j ≠ 0 ∧ inMask who l then m.getLsbD l else (g.kmask j).getLsbD l := by
  change ((g.setK i ((g.kmask i &&& ~~~who) ||| (m &&& who))).kmask j).getLsbD l = _
  rw [Group.kmask_setK _ _ _ hj]
  by_cases hw : j = i ∧ j ≠ 0
  · rw [if_pos hw, hw.1, BitVec.getLsbD_or, BitVec.getLsbD_and, BitVec.getLsbD_and, BitVec.getLsbD_not]
    unfold inMask
    cases who.getLsbD l <;> simp [hl, hw.1 ▸ hw.2]
  · rw [if_neg hw, if_neg fun h => hw ⟨h.1, h.2.1⟩]

/-- A write to lanes of a mask register changes nothing else but the marks of that register. -/
theorem Group.mergeK_frame (g : Group) (i : Nat) (who m : Mask) :
    g.mergeK i who m = { g with k := (g.mergeK i who m).k, late := (g.mergeK i who m).late }
      ∧ (g.mergeK i who m).late.map Late.base = g.late.map Late.base := by
  unfold Group.mergeK Group.setK
  by_cases hi : i = 0
  · simp [hi]
  · simp [hi]

/-- R128, R140: A WORD THAT COMPARES writes one bit for each active or zeroed lane of one mask, and no other register. -/
theorem vCmp_runs {s : State} {h : Honours} {ok : Group → Bool} {x : VIn} (hok : ok s.cg = true) (hv : s.laneView h 0 = some x)
    (kd : Nat) (f : VIn → Group → Nat → Bool) :
    ∃ t, vCmp h ok kd f s = .next t ∧ s.WordDone t { s.cg with k := t.cg.k } ∧ ∀ m < 8, ∀ l < 32, (t.cg.kmask m).getLsbD l =
      if m = kd ∧ m ≠ 0 ∧ inMask (x.act ||| x.zero) l then inMask x.act l && f x s.cg l else (s.cg.kmask m).getLsbD l := by
  set bits := fun g : Group => maskOf (fun l => inMask x.act l && f x g l)
  obtain ⟨hframe, hlate⟩ := s.cg.mergeK_frame kd (x.act ||| x.zero) (bits s.cg)
  have hword := s.wordDone_upd (fun g => g.mergeK kd (x.act ||| x.zero) (bits g)) (by rw [hframe]) (by rw [hframe]) hlate
  have hcg := s.cg_upd_nextWord (fun g => g.mergeK kd (x.act ||| x.zero) (bits g))
  refine ⟨_, by rw [vCmp, hok, State.vWord_view hv], ?_, fun m hm l hl => ?_⟩
  · refine hword.congr ?_
    rw [hcg, hframe]
  · have hmask : ((s.updCur fun g => g.mergeK kd (x.act ||| x.zero) (bits g)).nextWord.cg.kmask m)
        = (s.cg.mergeK kd (x.act ||| x.zero) (bits s.cg)).kmask m := by
      rw [hcg]; rfl
    have hbit : (bits s.cg).getLsbD l = (inMask x.act l && f x s.cg l) := getLsbD_maskOf _ hl
    rw [hmask, Group.getLsbD_kmask_mergeK _ _ _ _ hm hl, hbit]

end Sys2Proof.Machine
end

section
/-! PROOFS. Compares, selects and floating-point reductions (R128, R129, R140, R143). -/
namespace Sys2Proof.Machine

theorem exec_vicmp (s : State) (k : BitVec 3) (c : ICond) (a b : Byte) :
    exec (.vicmp k c a b) s = vCmp {} (fun g => srcOk g.n a.toNat 1 && srcOk g.n b.toNat 1) k.toNat
      (fun _ g l => icond c (g.src a.toNat l) (g.src b.toNat l)) s := rfl

theorem exec_vfcmp (s : State) (k : BitVec 3) (c : FCond) (a b : Byte) :
    exec (.vfcmp k c a b) s = vCmp { mods := true } (fun g => srcOk g.n a.toNat 1 && srcOk g.n b.toNat 1) k.toNat
      (fun x g l => fcond c (g.fsrcA x.p a.toNat l) (g.fsrc b.toNat l)) s := rfl

/-- R129: VSEL with valid fields, prefixed by a word that fits, runs on every enabled lane. -/
theorem exec_vsel_runs {s : State} {d a b : Byte} {w : Word} (hd : dstOk s.cg.n d.toNat 1 = true)
    (ha : srcOk s.cg.n a.toNat 1 = true) (hb : srcOk s.cg.n b.toNat 1 = true) (hp : s.cw.pfx = some w)
    (hok : (gpfx w).ok { z := false, need := true } s.cg.n = true) :
    ∃ t, exec (.vsel d a b) s = .next t ∧ LaneRule.Done { d := d, val := plain (fun _ g l =>
      (if inMask (g.kmask (gpfx w).km) l then g.src a.toNat l else g.src b.toNat l).toNat) } { act := s.cw.en } s t := by
  have hz : (gpfx w).z = false := by
    simp only [GPfx.ok, Bool.and_eq_true, Bool.or_eq_true, Bool.not_eq_true', Bool.false_eq_true, false_or] at hok
    tauto
  refine ⟨_, ?_, LaneRule.done_write s _ _⟩
  change execVsel d a b s = _
  simp only [execVsel, State.vWord, hd, ha, hb, hp, hok, hz, Bool.and_self, Bool.not_true, Bool.false_eq_true, if_false, if_true]
  rfl

/-- R129: an unprefixed VSEL traps ILLEGAL. -/
theorem exec_vsel_noPrefix {s : State} (d a b : Byte) (hp : s.cw.pfx = none) : exec (.vsel d a b) s = .next s.illegal := by
  change execVsel d a b s = _
  simp [execVsel, State.vWord, hp]

/-- R129: a VSEL prefixed by a word that sets z or c traps ILLEGAL. -/
theorem exec_vsel_badPrefix {s : State} (d a b : Byte) {w : Word} (hp : s.cw.pfx = some w)
    (hw : (gpfx w).z = true ∨ (gpfx w).c ≠ 0) :
    exec (.vsel d a b) s = .next s.illegal ∨ exec (.vsel d a b) s = .next s.illegalPrefix := by
  have hbad : (gpfx w).ok { z := false, need := true } s.cg.n = false := by
    rcases hw with hz | hc
    · simp [GPfx.ok, hz]
    · simp [GPfx.ok, hc]
  change execVsel d a b s = _ ∨ execVsel d a b s = _
  by_cases hok : (dstOk s.cg.n d.toNat 1 && srcOk s.cg.n a.toNat 1 && srcOk s.cg.n b.toNat 1) = true
  · right; simp [execVsel, State.vWord, hok, hp, hbad]
  · left; simp [execVsel, State.vWord, hok]

/-- Settles O13: the compares write one mask, VSEL runs on every enabled lane, and the float reductions and scans are short words
whose positions are those of their rules. -/
theorem laneComparesAndFloatReductions : Obligations.LaneComparesAndFloatReductions := by
  refine ⟨fun s a b x ha hb => ?_, fun s d a b => ⟨exec_vsel_noPrefix d a b, fun w => exec_vsel_badPrefix d a b⟩,
    fun s d a x hd ha => ?_⟩
  · have hsrcs : (srcOk s.cg.n a.toNat 1 && srcOk s.cg.n b.toNat 1) = true := by rw [ha, hb, Bool.and_self]
    refine ⟨fun k c hv => ?_, fun k c hv => ?_, fun d w hd hp hok => exec_vsel_runs hd ha hb hp hok⟩
    · rw [exec_vicmp]
      exact vCmp_runs hsrcs hv _ _
    · rw [exec_vfcmp]
      exact vCmp_runs hsrcs hv _ _
  · refine ⟨fun f hv => ?_, fun f hv => ?_⟩
    · obtain ⟨t, hexec, hdone⟩ := vOp_runs (n := 1) (ok := fun g => srcOk g.n a.toNat 1) hd ha hv _
      exact ⟨t, hexec, hdone.congr rfl rfl fun _ _ _ => rfl⟩
    · obtain ⟨t, hexec, hdone⟩ := vOp_runs (n := 1) (ok := fun g => srcOk g.n a.toNat 1) hd ha hv _
      exact ⟨t, hexec, hdone.congr rfl rfl fun _ _ _ => by cases f <;> rfl⟩

end Sys2Proof.Machine
end

section
/-! PROOFS. The functions on words of the lane integer instructions, in exact arithmetic (R116, R120 to R126). -/
namespace Sys2Proof.Machine

/-! ### Integers as words -/

/-- A wrapped word is the least residue of its integer. -/
theorem toNat_ofInt32 (i : Int) : (BitVec.ofInt 32 i).toNat = int32 false i := BitVec.toNat_ofInt i

/-- R116: saturation in the model is that of the exact result. -/
theorem toNat_wrapOrSat (sat : Bool) (i : Int) : (wrapOrSat sat i).toNat = int32 sat i := by
  cases sat
  · exact toNat_ofInt32 i
  · simp only [wrapOrSat, satS32, int32, if_true, BitVec.toNat_ofInt]
    split_ifs <;> omega

/-- R116: the same for 64 bits. -/
theorem toNat_wrapOrSat64 (sat : Bool) (i : Int) : (if sat then satS64 i else BitVec.ofInt 64 i).toNat = int64 sat i := by
  cases sat
  · exact BitVec.toNat_ofInt i
  · simp only [satS64, int64, if_true, BitVec.toNat_ofInt]
    split_ifs <;> omega

/-! ### Products (R120) -/

theorem toNat_mulhS (x y : Word) : (mulhS x y).toNat = int32 false (x.toInt * y.toInt / 2 ^ 32) := by
  unfold mulhS int32
  rw [BitVec.extractLsb'_toNat, BitVec.toNat_ofInt, Nat.shiftRight_eq_div_pow]
  generalize x.toInt * y.toInt = p
  rw [if_neg Bool.false_ne_true]
  omega

theorem toNat_mulhU (x y : Word) : (mulhU x y).toNat = x.toNat * y.toNat / 2 ^ 32 := by
  have hlt : x.toNat * y.toNat < 2 ^ 32 * 2 ^ 32 := Nat.mul_lt_mul'' x.isLt y.isLt
  exact Nat.mod_eq_of_lt (Nat.div_lt_of_lt_mul hlt)

/-! ### Minimum and maximum (R120) -/

theorem toInt_minS (x y : Word) : (minS x y).toInt = min x.toInt y.toInt := by
  unfold minS
  by_cases h : x.toInt < y.toInt
  · rw [if_pos (BitVec.slt_iff_toInt_lt.mpr h), min_eq_left h.le]
  · rw [if_neg (mt BitVec.slt_iff_toInt_lt.mp h), min_eq_right (not_lt.mp h)]

theorem toInt_maxS (x y : Word) : (maxS x y).toInt = max x.toInt y.toInt := by
  unfold maxS
  by_cases h : x.toInt < y.toInt
  · rw [if_pos (BitVec.slt_iff_toInt_lt.mpr h), max_eq_right h.le]
  · rw [if_neg (mt BitVec.slt_iff_toInt_lt.mp h), max_eq_left (not_lt.mp h)]

theorem toNat_minU (x y : Word) : (minU x y).toNat = min x.toNat y.toNat := by
  unfold minU
  by_cases h : x.toNat < y.toNat
  · rw [if_pos (BitVec.ult_iff_toNat_lt.mpr h), min_eq_left h.le]
  · rw [if_neg (mt BitVec.ult_iff_toNat_lt.mp h), min_eq_right (not_lt.mp h)]

theorem toNat_maxU (x y : Word) : (maxU x y).toNat = max x.toNat y.toNat := by
  unfold maxU
  by_cases h : x.toNat < y.toNat
  · rw [if_pos (BitVec.ult_iff_toNat_lt.mpr h), max_eq_right h.le]
  · rw [if_neg (mt BitVec.ult_iff_toNat_lt.mp h), max_eq_left (not_lt.mp h)]

/-- The lesser of two words is the one whose integer is. -/
theorem minS_eq (x y : Word) : minS x y = if x.toInt ≤ y.toInt then x else y := by
  apply BitVec.eq_of_toInt_eq
  rw [toInt_minS, min_def, apply_ite BitVec.toInt]

theorem maxS_eq (x y : Word) : maxS x y = if x.toInt ≤ y.toInt then y else x := by
  apply BitVec.eq_of_toInt_eq
  rw [toInt_maxS, max_def, apply_ite BitVec.toInt]

/-! ### Shifts (R121, R125) -/

/-- R121, R125: an arithmetic shift is a division by a power of two, toward minus infinity. -/
theorem toNat_sshiftRight32 (x : Word) (n : Nat) : (x.sshiftRight n).toNat = int32 false (x.toInt / 2 ^ n) := by
  rw [BitVec.sshiftRight, toNat_ofInt32, Int.shiftRight_eq_div_pow]
  norm_cast

theorem toNat_shiftLeft32 (x : Word) (n : Nat) : (x <<< n).toNat = x.toNat * 2 ^ n % 2 ^ 32 := by
  rw [BitVec.toNat_shiftLeft, Nat.shiftLeft_eq]

theorem toNat_ushiftRight32 (x : Word) (n : Nat) : (x >>> n).toNat = x.toNat / 2 ^ n := by
  rw [BitVec.toNat_ushiftRight, Nat.shiftRight_eq_div_pow]

theorem toNat_shl (x m : Word) : (shl x m).toNat = if m.toNat < 32 then x.toNat * 2 ^ m.toNat % 2 ^ 32 else 0 := by
  rw [shl, apply_ite BitVec.toNat, toNat_shiftLeft32]; rfl

theorem toNat_shr (x m : Word) : (shr x m).toNat = if m.toNat < 32 then x.toNat / 2 ^ m.toNat else 0 := by
  rw [shr, apply_ite BitVec.toNat, toNat_ushiftRight32]; rfl

theorem toNat_sar (x m : Word) : (sar x m).toNat
    = if m.toNat < 32 then int32 false (x.toInt / 2 ^ m.toNat) else if x.toInt < 0 then 2 ^ 32 - 1 else 0 := by
  rw [sar, toNat_sshiftRight32]
  by_cases h : m.toNat < 32
  · rw [if_pos h, min_eq_left (by omega)]
  · have hlo := x.le_toInt
    have hhi := x.toInt_lt
    rw [if_neg h, min_eq_right (by omega)]
    simp only [int32, Bool.false_eq_true, if_false]
    split_ifs <;> omega

/-- R121: what a rotation moves past bit 31 comes in below. -/
theorem toNat_rol (x m : Word) :
    (rol x m).toNat = x.toNat * 2 ^ (m.toNat % 32) % 2 ^ 32 + x.toNat / 2 ^ (32 - m.toNat % 32) := by
  set r := m.toNat % 32
  have hr : r < 32 := Nat.mod_lt _ (by decide)
  have hsplit : (2 : Nat) ^ 32 = 2 ^ (32 - r) * 2 ^ r := by rw [← pow_add]; congr 1; omega
  have hlow : x.toNat / 2 ^ (32 - r) < 2 ^ r := Nat.div_lt_of_lt_mul (hsplit ▸ x.isLt)
  have hhigh : x.toNat * 2 ^ r % 2 ^ 32 = (x.toNat % 2 ^ (32 - r)) <<< r := by
    rw [hsplit, Nat.mul_mod_mul_right, Nat.shiftLeft_eq]
  rw [rol, BitVec.toNat_rotateLeft, Nat.mod_mod, Nat.shiftLeft_eq, Nat.shiftRight_eq_div_pow]
  change x.toNat * 2 ^ r % 2 ^ 32 ||| x.toNat / 2 ^ (32 - r) = _
  rw [hhigh, Nat.shiftLeft_add_eq_or_of_lt hlow]

/-! ### Immediates (R126) -/

theorem toNat_signExtend16 (i : BitVec 16) : (i.signExtend 32).toNat = int32 false i.toInt := toNat_ofInt32 _

theorem toNat_append_low (i : BitVec 16) (x : Word) : (i ++ x.extractLsb' 0 16).toNat = i.toNat * 2 ^ 16 + x.toNat % 2 ^ 16 := by
  have hlow : x.toNat % 2 ^ 16 < 2 ^ 16 := Nat.mod_lt _ (by decide)
  rw [BitVec.toNat_append, BitVec.extractLsb'_toNat, Nat.shiftRight_zero, ← Nat.shiftLeft_add_eq_or_of_lt hlow, Nat.shiftLeft_eq]

end Sys2Proof.Machine
end

section
/-! PROOFS. Folds over the 32 lane positions: the tree of R71 and the scan steps of R72 for an operation that associates. -/
namespace Sys2Proof.Machine

/-- R71, R72: AN OPERATION WHOSE ORDER OF APPLICATION DOES NOT MATTER, with its identity. -/
structure FoldOp (o : (Word → Word → Word) × Word) : Prop where
  assoc : ∀ a b c, o.1 (o.1 a b) c = o.1 a (o.1 b c)
  left : ∀ a, o.1 o.2 a = a
  right : ∀ a, o.1 a o.2 = a

/-! ### The operations of VIRED and VISCAN -/

theorem foldOp_minS : FoldOp (minS, 0x7FFFFFFF#32) where
  assoc a b c := BitVec.eq_of_toInt_eq (by simp only [toInt_minS, min_assoc])
  left a := BitVec.eq_of_toInt_eq (by
    rw [toInt_minS]; exact min_eq_right (Int.le_of_lt_add_one a.toInt_lt))
  right a := BitVec.eq_of_toInt_eq (by
    rw [toInt_minS]; exact min_eq_left (Int.le_of_lt_add_one a.toInt_lt))

theorem foldOp_maxS : FoldOp (maxS, 0x80000000#32) where
  assoc a b c := BitVec.eq_of_toInt_eq (by simp only [toInt_maxS, max_assoc])
  left a := BitVec.eq_of_toInt_eq (by rw [toInt_maxS]; exact max_eq_right a.le_toInt)
  right a := BitVec.eq_of_toInt_eq (by rw [toInt_maxS]; exact max_eq_left a.le_toInt)

theorem foldOp_minU : FoldOp (minU, 0xFFFFFFFF#32) where
  assoc a b c := BitVec.eq_of_toNat_eq (by simp only [toNat_minU, min_assoc])
  left a := BitVec.eq_of_toNat_eq (by rw [toNat_minU]; exact min_eq_right (Nat.le_of_lt_succ a.isLt))
  right a := BitVec.eq_of_toNat_eq (by rw [toNat_minU]; exact min_eq_left (Nat.le_of_lt_succ a.isLt))

theorem foldOp_maxU : FoldOp (maxU, 0#32) where
  assoc a b c := BitVec.eq_of_toNat_eq (by simp only [toNat_maxU, max_assoc])
  left a := BitVec.eq_of_toNat_eq (by rw [toNat_maxU]; exact max_eq_right (Nat.zero_le _))
  right a := BitVec.eq_of_toNat_eq (by rw [toNat_maxU]; exact max_eq_left (Nat.zero_le _))

theorem foldOp_add : FoldOp ((· + · : Word → Word → Word), 0) := ⟨BitVec.add_assoc, BitVec.zero_add, BitVec.add_zero⟩
theorem foldOp_or : FoldOp ((· ||| · : Word → Word → Word), 0) :=
  ⟨BitVec.or_assoc, fun _ => BitVec.zero_or, fun _ => BitVec.or_zero⟩
theorem foldOp_xor : FoldOp ((· ^^^ · : Word → Word → Word), 0) :=
  ⟨BitVec.xor_assoc, fun _ => BitVec.zero_xor, fun _ => BitVec.xor_zero⟩
theorem foldOp_and : FoldOp ((· &&& · : Word → Word → Word), 0xFFFFFFFF#32) :=
  ⟨BitVec.and_assoc, fun _ => BitVec.allOnes_and, fun _ => BitVec.and_allOnes⟩

/-- R71, R132: every operation of VIRED, with the identity that R71 gives it. -/
theorem foldOp_iredOp (f : IRedFn) : FoldOp (iredOp f) := by
  cases f with
  | add => exact foldOp_add
  | min => exact foldOp_minS
  | max => exact foldOp_maxS
  | minu => exact foldOp_minU
  | maxu => exact foldOp_maxU
  | and => exact foldOp_and
  | or => exact foldOp_or
  | xor => exact foldOp_xor

/-- R72, R133: every operation of VISCAN, with its identity. -/
theorem foldOp_iscanOp (f : IScanFn) : FoldOp (iscanOp f) := by
  cases f with
  | addinc => exact foldOp_add
  | addexc => exact foldOp_add
  | maxinc => exact foldOp_maxS
  | mininc => exact foldOp_minS
  | orinc => exact foldOp_or

/-! ### Folds -/

section
variable {o : (Word → Word → Word) × Word} (ho : FoldOp o)
include ho

/-- A fold that begins from a value is that value with the fold from the identity. -/
theorem FoldOp.foldl_from (xs : List Word) (a : Word) : xs.foldl o.1 a = o.1 a (xs.foldl o.1 o.2) := by
  have hassoc : Std.Associative o.1 := ⟨ho.assoc⟩
  rw [← List.foldl_assoc (op := o.1), ho.right]

theorem FoldOp.foldl_append (xs ys : List Word) :
    (xs ++ ys).foldl o.1 o.2 = o.1 (xs.foldl o.1 o.2) (ys.foldl o.1 o.2) := by
  rw [List.foldl_append, ho.foldl_from]

/-- R71, R118: POSITIONS THAT HOLD THE IDENTITY do not count. -/
theorem FoldOp.foldl_identity (p : Nat → Bool) (f : Nat → Word) (ls : List Nat) (a : Word) :
    (ls.map (fun l => if p l then f l else o.2)).foldl o.1 a = ((ls.filter p).map f).foldl o.1 a := by
  induction ls generalizing a with
  | nil => rfl
  | cons l ls ih =>
    rw [List.map_cons, List.foldl_cons, ih]
    cases hp : p l
    · simp [hp, ho.right]
    · simp [hp]

/-! ### The tree (R71) -/

/-- A level of the tree keeps the fold of its nodes. -/
theorem FoldOp.foldl_treeLevel (xs : List Word) (g : Word) (a : Word) :
    (treeLevel (pureNode o.1) xs g).1.foldl o.1 a = xs.foldl o.1 a := by
  fun_induction treeLevel (pureNode o.1) xs g generalizing a with
  | case1 x y t g _ _ ih => rw [List.foldl_cons, ih, List.foldl_cons, List.foldl_cons, ho.assoc]; rfl
  | case2 => rfl

omit ho in
/-- A level of the tree has half as many nodes, the last alone where their number is odd. -/
theorem length_treeLevel {α : Type} (op : α → α → Word → α × Word) (xs : List α) (g : Word) :
    (treeLevel op xs g).1.length = (xs.length + 1) / 2 := by
  fun_induction treeLevel op xs g with
  | case1 x y t g _ _ ih =>
    change (treeLevel op t _).1.length + 1 = _
    rw [ih, List.length_cons, List.length_cons]
    omega
  | case2 xs g h =>
    match xs, h with
    | [], _ => simp
    | [_], _ => simp
    | x :: y :: t, h => exact absurd rfl (h x y t)

/-- Levels of the tree, one after another: the fold stays, and the nodes become fewer by a power of two. -/
theorem FoldOp.treeLevels (xs : List Word) (g : Word) (n : Nat) :
    let r := (List.range n).foldl (fun (p : List Word × Word) _ => treeLevel (pureNode o.1) p.1 p.2) (xs, g)
    r.1.foldl o.1 o.2 = xs.foldl o.1 o.2 ∧ ∀ m, xs.length ≤ 2 ^ n * m → r.1.length ≤ m := by
  induction n with
  | zero => exact ⟨rfl, fun m hm => by simpa using hm⟩
  | succ n ih =>
    obtain ⟨hfold, hlen⟩ := ih
    simp only [List.range_succ, List.foldl_append, List.foldl_cons, List.foldl_nil]
    refine ⟨(ho.foldl_treeLevel _ _ _).trans hfold, fun m hm => ?_⟩
    have hprev := hlen (2 * m) (by rw [← mul_assoc, ← pow_succ]; exact hm)
    rw [length_treeLevel]
    omega

/-- R71: THE TREE delivers the fold of its positions, as if taken one by one from the identity. -/
theorem FoldOp.treeReduce_eq {xs : List Word} (hx : xs.length ≤ 32) (g : Word) :
    (treeReduce (pureNode o.1) o.2 xs g).1 = xs.foldl o.1 o.2 := by
  obtain ⟨hfold, hlen⟩ := ho.treeLevels xs g 5
  have hone := hlen 1 hx
  rw [← hfold, treeReduce]
  dsimp only
  generalize (List.foldl _ (xs, g) (List.range 5)).1 = root at hone
  match root, hone with
  | [], _ => rfl
  | [y], _ => exact (ho.left y).symm

/-! ### The scan (R72) -/

omit ho in
/-- R72: A SCAN STEP reads every position as it stood before the step. -/
theorem scanStep_pureNode (op : Word → Word → Word) (xs : List Word) (d : Nat) (e g : Word) :
    scanStep (pureNode op) xs d e g
      = ((List.range xs.length).map (fun i => if i < d then xs.getD i e else op (xs.getD (i - d) e) (xs.getD i e)), g) := by
  have hprefix : ∀ n, (List.range n).foldl (fun (p : List Word × Word) i =>
      if i < d then (p.1 ++ [xs.getD i e], p.2)
      else
        let q := pureNode op (xs.getD (i - d) e) (xs.getD i e) p.2
        (p.1 ++ [q.1], q.2)) ([], g)
      = ((List.range n).map (fun i => if i < d then xs.getD i e else op (xs.getD (i - d) e) (xs.getD i e)), g) := by
    intro n
    induction n with
    | zero => rfl
    | succ n ih =>
      rw [List.range_succ, List.foldl_append, ih, List.map_append]
      by_cases hn : n < d <;> simp [hn, pureNode]
  exact hprefix xs.length

/-- The fold of `n` positions from `lo` on. -/
def spanFold (o : (Word → Word → Word) × Word) (f : Nat → Word) (lo n : Nat) : Word := ((List.range' lo n).map f).foldl o.1 o.2

/-- The fold of the last `w` positions up to `p`, or of all that there are. -/
def windowFold (o : (Word → Word → Word) × Word) (f : Nat → Word) (w p : Nat) : Word := spanFold o f (p + 1 - w) (min w (p + 1))

theorem FoldOp.spanFold_append (f : Nat → Word) (lo m n : Nat) :
    o.1 (spanFold o f lo m) (spanFold o f (lo + m) n) = spanFold o f lo (m + n) := by
  unfold spanFold
  rw [← ho.foldl_append, ← List.map_append, ← List.range'_append_1]

theorem FoldOp.windowFold_one (f : Nat → Word) (p : Nat) : windowFold o f 1 p = f p := by
  rw [windowFold, min_eq_left (by omega)]
  exact ho.left (f p)

omit ho in
/-- A window that reaches below position 0 holds all positions up to its own. -/
theorem windowFold_of_le (f : Nat → Word) {w p : Nat} (h : p + 1 ≤ w) : windowFold o f w p = spanFold o f 0 (p + 1) := by
  rw [windowFold, min_eq_right h, Nat.sub_eq_zero_of_le h]

/-- Two windows side by side are one of twice the width. -/
theorem FoldOp.windowFold_double (f : Nat → Word) {w p : Nat} (h : w ≤ p) :
    o.1 (windowFold o f w (p - w)) (windowFold o f w p) = windowFold o f (2 * w) p := by
  have hlo : p + 1 - w = (p - w + 1 - w) + min w (p - w + 1) := by omega
  have hn : min w (p - w + 1) + min w (p + 1) = min (2 * w) (p + 1) := by omega
  have hfirst : p - w + 1 - w = p + 1 - 2 * w := by omega
  rw [windowFold, windowFold, hlo, ho.spanFold_append, hn, hfirst, windowFold]

/-- R72: A SCAN STEP DOUBLES THE WINDOWS of its positions. -/
theorem FoldOp.scanStep_windows (f : Nat → Word) (n w : Nat) (g : Word) :
    scanStep (pureNode o.1) ((List.range n).map (windowFold o f w)) w o.2 g = ((List.range n).map (windowFold o f (2 * w)), g) := by
  rw [scanStep_pureNode, List.length_map, List.length_range]
  refine congrArg (·, g) (List.map_congr_left fun i hi => ?_)
  have hi := List.mem_range.mp hi
  have hget : ∀ j < n, ((List.range n).map (windowFold o f w)).getD j o.2 = windowFold o f w j := fun j hj => by simp [hj]
  by_cases hw : i < w
  · rw [if_pos hw, hget i hi, windowFold_of_le f hw, windowFold_of_le f (by omega)]
  · rw [if_neg hw, hget i hi, hget (i - w) (by omega), ho.windowFold_double f (not_lt.mp hw)]

/-- R72: THE SCAN delivers to each position the fold up to it, as if taken one by one from the identity. -/
theorem FoldOp.scanAll_eq (f : Nat → Word) (g : Word) :
    scanAll (pureNode o.1) o.2 ((List.range 32).map f) g = ((List.range 32).map (fun p => spanFold o f 0 (p + 1)), g) := by
  have hone : (List.range 32).map f = (List.range 32).map (windowFold o f 1) :=
    List.map_congr_left fun p _ => (ho.windowFold_one f p).symm
  rw [hone]
  simp only [scanAll, List.foldl_cons, List.foldl_nil]
  rw [ho.scanStep_windows, ho.scanStep_windows, ho.scanStep_windows, ho.scanStep_windows, ho.scanStep_windows]
  exact congrArg (·, g) (List.map_congr_left fun p hp => windowFold_of_le f (List.mem_range.mp hp))

/-! ### Positions of active lanes (R118) -/

omit ho in
/-- The active lanes below `n`. -/
theorem lanesBelow_eq (m : Mask) {n : Nat} (hn : n ≤ 32) : lanesBelow m n = (List.range n).filter (inMask m) := by
  have hall : List.range 32 = List.range n ++ (List.range (32 - n)).map (n + ·) := by
    rw [← List.range_add, Nat.add_sub_cancel' hn]
  have hlow : (List.range n).filter (fun l => decide (l < n) && m.getLsbD l) = (List.range n).filter (inMask m) :=
    List.filter_congr fun l hl => by simp [List.mem_range.mp hl, inMask]
  have hhigh : ((List.range (32 - n)).map (n + ·)).filter (fun l => decide (l < n) && m.getLsbD l) = [] := by simp
  rw [lanesBelow, lanesOf, List.filter_filter, hall, List.filter_append, hlow, hhigh, List.append_nil]

/-- R71, R118: the tree over the positions is the fold over the active lanes. -/
theorem FoldOp.treeReduce_positions (act : Mask) (f : Nat → Word) (g : Word) :
    (treeReduce (pureNode o.1) o.2 (positions act o.2 f) g).1 = ((lanesOf act).map f).foldl o.1 o.2 := by
  rw [ho.treeReduce_eq (by simp [positions]), positions, ho.foldl_identity]; rfl

/-- R72, R118: the scan at a position is the fold over the active lanes up to it. -/
theorem FoldOp.scanAll_positions (act : Mask) (f : Nat → Word) (g : Word) {p : Nat} (hp : p < 32) :
    (scanAll (pureNode o.1) o.2 (positions act o.2 f) g).1.getD p 0 = ((lanesBelow act (p + 1)).map f).foldl o.1 o.2 := by
  rw [positions, ho.scanAll_eq, lanesBelow_eq act hp, ← ho.foldl_identity]
  simp [hp, spanFold, List.range_eq_range']

end

end Sys2Proof.Machine
end

section
/-! PROOFS. Lane integer, shuffle, reduction and scan words (R120 to R133). -/
namespace Sys2Proof.Machine

/-! ### Words by the shape of their operands -/

/-- R28: two sources that each decode. -/
theorem srcOk_two {m n : Nat} {a b : Byte} (h : ∀ p ∈ [(a, n), (b, n)], srcOk m p.1.toNat p.2 = true) :
    (srcOk m a.toNat n && srcOk m b.toNat n) = true := by
  rw [h (a, n) (by simp), h (b, n) (by simp), Bool.and_self]

/-- R115, R117: A SHORT V-SET WORD that computes what its rule says in every lane does what its rule says. -/
theorem vOp_rule {s : State} {r : LaneRule} {x : VIn} {res : Res} {ok : Group → Bool}
    {f : VIn → Group → Nat → Word → Nat × Word} (hfit : r.fits s.cg) (hv : s.laneView r.h r.d.toNat = some x)
    (hexec : res = vOp r.h ok r.d.toNat r.n f s)
    (hok : (∀ p ∈ r.srcs, srcOk s.cg.n p.1.toNat p.2 = true) → ok s.cg = true)
    (hval : ∀ l < 32, ∀ gen, f x s.cg l gen = r.val x s.cg l gen) :
    ∃ t, res = .next t ∧ r.Done x s t := by
  obtain ⟨hdst, hsrcs⟩ := hfit
  obtain ⟨t, hnext, hdone⟩ := vOp_runs hdst (hok hsrcs) hv f
  exact ⟨t, hexec.trans hnext, hdone.congr rfl rfl fun l hl gen => (hval l hl gen).symm⟩

/-- R120 to R123: A WORD OF TWO SOURCES, by its function on them. -/
theorem vBin_rule {res : Res} {s : State} {d a b : Byte} {x : VIn} {sat : Bool} {f : Bool → Word → Word → Word}
    {v : VIn → Group → Nat → Nat}
    (hfit : LaneRule.fits { h := { sat := sat }, srcs := [(a, 1), (b, 1)], d := d, val := plain v } s.cg)
    (hv : s.laneView { sat := sat } d.toNat = some x) (hexec : res = vBin sat f d a b s)
    (hval : ∀ l, (f x.p.sat (s.cg.src a.toNat l) (s.cg.src b.toNat l)).toNat = v x s.cg l) :
    ∃ t, res = .next t
      ∧ LaneRule.Done { h := { sat := sat }, srcs := [(a, 1), (b, 1)], d := d, val := plain v } x s t :=
  vOp_rule hfit hv hexec srcOk_two fun l _ gen => congrArg (·, gen) (hval l)

/-- R125: A WORD OF ONE SOURCE AND AN IMMEDIATE. -/
theorem vImm_rule {res : Res} {s : State} {d a : Byte} {x : VIn} {sat : Bool} {f : Bool → Word → Word}
    {v : VIn → Group → Nat → Nat}
    (hfit : LaneRule.fits { h := { sat := sat }, srcs := [(a, 1)], d := d, val := plain v } s.cg)
    (hv : s.laneView { sat := sat } d.toNat = some x) (hexec : res = vImm sat f d a s)
    (hval : ∀ l, (f x.p.sat (s.cg.src a.toNat l)).toNat = v x s.cg l) :
    ∃ t, res = .next t ∧ LaneRule.Done { h := { sat := sat }, srcs := [(a, 1)], d := d, val := plain v } x s t :=
  vOp_rule hfit hv hexec (fun h => h (a, 1) (by simp)) fun l _ gen => congrArg (·, gen) (hval l)

/-! ### The words -/

/-- R115 to R131: EVERY LANE INTEGER WORD does what its rule says. Each case names the word's meaning, for unification does not
look for it in `exec`. -/
theorem LaneIntRule.runs {s : State} {i : Instr} {r : LaneRule} {x : VIn} (hrule : LaneIntRule i r) (hfit : r.fits s.cg)
    (hv : s.laneView r.h r.d.toNat = some x) : ∃ t, exec i s = .next t ∧ r.Done x s t := by
  cases hrule with
  | @vadd d a b => exact vBin_rule hfit hv (res := execVadd d a b s) rfl fun _ => toNat_wrapOrSat _ _
  | @vsub d a b => exact vBin_rule hfit hv (res := execVsub d a b s) rfl fun _ => toNat_wrapOrSat _ _
  | @vmul d a b => exact vBin_rule hfit hv (res := execVmul d a b s) rfl fun _ => BitVec.toNat_mul _ _
  | @vmulh d a b => exact vBin_rule hfit hv (res := execVmulh d a b s) rfl fun _ => toNat_mulhS _ _
  | @vmulhu d a b => exact vBin_rule hfit hv (res := execVmulhu d a b s) rfl fun _ => toNat_mulhU _ _
  | @vmad d a b =>
    exact vOp_rule hfit hv (res := execVmad d a b s) rfl srcOk_two fun _ _ gen => congrArg (·, gen) (toNat_wrapOrSat _ _)
  | @vmin d a b => exact vBin_rule hfit hv (res := execVmin d a b s) rfl fun _ => by rw [minS_eq, apply_ite BitVec.toNat]
  | @vmax d a b => exact vBin_rule hfit hv (res := execVmax d a b s) rfl fun _ => by rw [maxS_eq, apply_ite BitVec.toNat]
  | @vminu d a b => exact vBin_rule hfit hv (res := execVminu d a b s) rfl fun _ => toNat_minU _ _
  | @vmaxu d a b => exact vBin_rule hfit hv (res := execVmaxu d a b s) rfl fun _ => toNat_maxU _ _
  | @vand d a b => exact vBin_rule hfit hv (res := execVand d a b s) rfl fun _ => rfl
  | @vor d a b => exact vBin_rule hfit hv (res := execVor d a b s) rfl fun _ => rfl
  | @vxor d a b => exact vBin_rule hfit hv (res := execVxor d a b s) rfl fun _ => rfl
  | @vandn d a b => exact vBin_rule hfit hv (res := execVandn d a b s) rfl fun _ => rfl
  | @vshl d a b => exact vBin_rule hfit hv (res := execVshl d a b s) rfl fun _ => toNat_shl _ _
  | @vshr d a b => exact vBin_rule hfit hv (res := execVshr d a b s) rfl fun _ => toNat_shr _ _
  | @vsar d a b => exact vBin_rule hfit hv (res := execVsar d a b s) rfl fun _ => toNat_sar _ _
  | @vrol d a b => exact vBin_rule hfit hv (res := execVrol d a b s) rfl fun _ => toNat_rol _ _
  | @vbfxu d a b => exact vBin_rule hfit hv (res := execVbfxu d a b s) rfl fun _ => rfl
  | @vbfxs d a b => exact vBin_rule hfit hv (res := execVbfxs d a b s) rfl fun _ => rfl
  | @vbfi d a b => exact vOp_rule hfit hv (res := execVbfi d a b s) rfl srcOk_two fun _ _ _ => rfl
  | @vperm d a b => exact vBin_rule hfit hv (res := execVperm d a b s) rfl fun _ => rfl
  | @vadd64 d a b =>
    exact vOp_rule hfit hv (res := execVadd64 d a b s) rfl srcOk_two fun _ _ gen => congrArg (·, gen) (toNat_wrapOrSat64 _ _)
  | @vmulw d a b =>
    exact vOp_rule hfit hv (res := execVmulw d a b s) rfl srcOk_two fun _ _ gen => congrArg (·, gen) (BitVec.toNat_ofInt _)
  | @vaddi d a i => exact vImm_rule hfit hv (res := execVaddi d a i s) rfl fun _ => toNat_wrapOrSat _ _
  | @vshli d a i => exact vImm_rule hfit hv (res := execVshli d a i s) rfl fun _ => toNat_shiftLeft32 _ _
  | @vshri d a i => exact vImm_rule hfit hv (res := execVshri d a i s) rfl fun _ => toNat_ushiftRight32 _ _
  | @vsari d a i => exact vImm_rule hfit hv (res := execVsari d a i s) rfl fun _ => toNat_sshiftRight32 _ _
  | @vandi d a i => exact vImm_rule hfit hv (res := execVandi d a i s) rfl fun _ => rfl
  | @vmovi d i =>
    exact vOp_rule hfit hv (res := execVmovi d i s) rfl (fun _ => rfl) fun _ _ gen => congrArg (·, gen) (toNat_signExtend16 _)
  | @vmovhi d i =>
    exact vOp_rule hfit hv (res := execVmovhi d i s) rfl (fun _ => rfl) fun _ _ gen => congrArg (·, gen) (toNat_append_low _ _)
  | @viunLane d f hf =>
    obtain rfl | rfl := hf
    · exact vOp_rule hfit hv (res := execViun d 0 .lane s) rfl (fun _ => rfl) fun l hl gen =>
        congrArg (·, gen) (Nat.mod_eq_of_lt (by omega))
    · exact vOp_rule hfit hv (res := execViun d 0 .slice s) rfl (fun _ => rfl) fun l hl gen =>
        congrArg (·, gen) (Nat.mod_eq_of_lt (by omega))
  | @viun d a f hlane hslice =>
    refine vOp_rule hfit hv (res := execViun d a f s) rfl (fun h => ?_) fun _ _ _ => rfl
    simp [hlane, hslice, h (a, 1) (by simp)]
  | @vshfl d a b =>
    exact vOp_rule hfit hv (res := execVshfl d a b s) rfl srcOk_two fun _ _ gen => congrArg (·, gen) (apply_ite BitVec.toNat _ _ _)
  | @vshfli d a m i => exact vOp_rule hfit hv (res := execVshfli d a m i s) rfl (fun h => h (a, 1) (by simp)) fun _ _ _ => rfl

/-- R118, R132, R133: EVERY INTEGER REDUCTION AND SCAN does what its rule says. -/
theorem LaneFoldRule.runs {s : State} {i : Instr} {r : LaneRule} {x : VIn} (hrule : LaneFoldRule i r) (hfit : r.fits s.cg)
    (hv : s.laneView r.h r.d.toNat = some x) : ∃ t, exec i s = .next t ∧ r.Done x s t := by
  cases hrule with
  | @vired d a f =>
    exact vOp_rule hfit hv (res := execVired d a f s) rfl (fun h => h (a, 1) (by simp)) fun _ _ gen =>
      congrArg (fun w => (BitVec.toNat w, gen)) ((foldOp_iredOp f).treeReduce_positions _ _ _)
  | @viscan d a f =>
    refine vOp_rule hfit hv (res := execViscan d a f s) rfl (fun h => h (a, 1) (by simp)) fun l hl gen =>
      congrArg (fun w => (BitVec.toNat w, gen)) ?_
    have hscan {p : Nat} (hp : p < 32) := (foldOp_iscanOp f).scanAll_positions x.act (fun l => s.cg.src a.toNat l) gen hp
    by_cases hf : f = .addexc
    · rw [if_pos hf, if_pos hf]
      obtain rfl | ⟨p, rfl⟩ : l = 0 ∨ ∃ p, l = p + 1 := by cases l <;> simp
      · subst hf
        rw [if_pos rfl, lanesBelow_eq _ (Nat.zero_le _)]; rfl
      · rw [if_neg (Nat.succ_ne_zero p), Nat.add_sub_cancel, hscan (by omega)]
    · rw [if_neg hf, if_neg hf, hscan hl]

/-- Settles O10: each word by the exact value of its function; the reductions and scans by the fold that the tree and the scan steps
come to, whose operations associate. -/
theorem laneIntegerResults : Obligations.LaneIntegerResults :=
  ⟨fun _ _ _ _ hrule => hrule.runs, fun _ _ _ _ hrule => hrule.runs⟩

end Sys2Proof.Machine
end

section
/-! PROOFS. Lane floating-point words and VCVT (R136 to R146). -/
namespace Sys2Proof.Machine

/-! ### Words by the shape of their operands -/

/-- R69, R144: Two elements that are each rounded in their turn are the pair that the rules round. -/
theorem packed2_round (fmt : Fmt) (x : VIn) (v : Nat → Num) (gen : Word) :
    packed2 gen (fun e gen => fmt.round (v e) (x.p.rnd gen)) = roundedPair fmt x v gen := rfl

/-- R138: FP32 ARITHMETIC ON TWO SOURCES rounds its exact result once. -/
theorem vF2_rule {res : Res} {s : State} {d a b : Byte} {x : VIn} {f : Bool → Num → Num → Num}
    {val : VIn → Group → Nat → Word → Nat × Word}
    (hfit : LaneRule.fits { h := fArith 0, srcs := [(a, 1), (b, 1)], d := d, val := val } s.cg)
    (hv : s.laneView (fArith 0) d.toNat = some x) (hexec : res = vF2 f d a b s)
    (hval : ∀ l, val x s.cg l = rounded fp32 x (f x.p.rdn (numA x s.cg a l) (numB s.cg b.toNat l))) :
    ∃ t, res = .next t ∧ LaneRule.Done { h := fArith 0, srcs := [(a, 1), (b, 1)], d := d, val := val } x s t :=
  vOp_rule hfit hv hexec srcOk_two fun l _ gen => (congrFun (hval l) gen).symm

/-- R144: PACKED ARITHMETIC ON TWO SOURCES rounds the exact result of each element once. -/
theorem vP2_rule {res : Res} {s : State} {d a b : Byte} {x : VIn} {fmt : Fmt} {f : Bool → Num → Num → Num}
    {val : VIn → Group → Nat → Word → Nat × Word}
    (hfit : LaneRule.fits { h := fArith 0, srcs := [(a, 1), (b, 1)], d := d, val := val } s.cg)
    (hv : s.laneView (fArith 0) d.toNat = some x) (hexec : res = vP2 fmt f d a b s)
    (hval : ∀ l, val x s.cg l = roundedPair fmt x fun e =>
      f x.p.rdn (elemNumA fmt x.p (s.cg.src a.toNat l) e) (elemNum fmt (s.cg.src b.toNat l) e)) :
    ∃ t, res = .next t ∧ LaneRule.Done { h := fArith 0, srcs := [(a, 1), (b, 1)], d := d, val := val } x s t :=
  vOp_rule hfit hv hexec srcOk_two fun l _ gen => (packed2_round fmt x _ gen).trans (congrFun (hval l) gen).symm

/-- R144: PACKED MULTIPLY-ADD rounds the exact result of each element once. -/
theorem vP3_rule {res : Res} {s : State} {d a b : Byte} {x : VIn} {fmt : Fmt}
    {val : VIn → Group → Nat → Word → Nat × Word}
    (hfit : LaneRule.fits { h := fArith 1, srcs := [(a, 1), (b, 1)], d := d, val := val } s.cg)
    (hv : s.laneView (fArith 1) d.toNat = some x) (hexec : res = vP3 fmt d a b s)
    (hval : ∀ l, val x s.cg l = roundedPair fmt x fun e =>
      Num.fma x.p.rdn (elemNumA fmt x.p (s.cg.src a.toNat l) e) (elemNum fmt (s.cg.src b.toNat l) e)
        (elemNum fmt (s.cg.src x.c l) e)) :
    ∃ t, res = .next t ∧ LaneRule.Done { h := fArith 1, srcs := [(a, 1), (b, 1)], d := d, val := val } x s t :=
  vOp_rule hfit hv hexec srcOk_two fun l _ gen => (packed2_round fmt x _ gen).trans (congrFun (hval l) gen).symm

/-! ### The words -/

/-- R136 to R145: EVERY LANE FLOATING-POINT WORD does what its rule says. Each case names the word's meaning, for unification
does not look for it in `exec`. -/
theorem LaneFloatRule.runs {s : State} {i : Instr} {r : LaneRule} {x : VIn} (hrule : LaneFloatRule i r) (hfit : r.fits s.cg)
    (hv : s.laneView r.h r.d.toNat = some x) : ∃ t, exec i s = .next t ∧ r.Done x s t := by
  cases hrule with
  | @vfadd d a b => exact vF2_rule hfit hv (res := execVfadd d a b s) rfl fun _ => rfl
  | @vfsub d a b => exact vF2_rule hfit hv (res := execVfsub d a b s) rfl fun _ => rfl
  | @vfmul d a b => exact vF2_rule hfit hv (res := execVfmul d a b s) rfl fun _ => rfl
  | @vfma d a b => exact vOp_rule hfit hv (res := execVfma d a b s) rfl srcOk_two fun _ _ _ => rfl
  | @vfmin d a b => exact vOp_rule hfit hv (res := execVfmin d a b s) rfl srcOk_two fun _ _ _ => rfl
  | @vfmax d a b => exact vOp_rule hfit hv (res := execVfmax d a b s) rfl srcOk_two fun _ _ _ => rfl
  | @vflerp d a b => exact vOp_rule hfit hv (res := execVflerp d a b s) rfl srcOk_two fun _ _ _ => rfl
  | @vfun d a f => exact vOp_rule hfit hv (res := execVfun d a f s) rfl (fun h => h (a, 1) (by simp)) fun _ _ _ => rfl
  | @vhadd d a b => exact vP2_rule hfit hv (res := execVhadd d a b s) rfl fun _ => rfl
  | @vhmul d a b => exact vP2_rule hfit hv (res := execVhmul d a b s) rfl fun _ => rfl
  | @vhfma d a b => exact vP3_rule hfit hv (res := execVhfma d a b s) rfl fun _ => rfl
  | @vhmin d a b => exact vOp_rule hfit hv (res := execVhmin d a b s) rfl srcOk_two fun _ _ _ => rfl
  | @vhmax d a b => exact vOp_rule hfit hv (res := execVhmax d a b s) rfl srcOk_two fun _ _ _ => rfl
  | @vbadd d a b => exact vP2_rule hfit hv (res := execVbadd d a b s) rfl fun _ => rfl
  | @vbmul d a b => exact vP2_rule hfit hv (res := execVbmul d a b s) rfl fun _ => rfl
  | @vbfma d a b => exact vP3_rule hfit hv (res := execVbfma d a b s) rfl fun _ => rfl
  | @vhdot d a b => exact vOp_rule hfit hv (res := execVhdot d a b s) rfl srcOk_two fun _ _ _ => rfl

/-! ### Conversions (R146) -/

/-- A register with its low half replaced keeps what is above that half. -/
theorem setHalf_eq (w : Word) (hi : Bool) (h : Nat) :
    setHalf w hi h = if hi then w.toNat % 2 ^ 16 + 2 ^ 16 * h else w.toNat - w.toNat % 2 ^ 16 + h := by
  cases hi
  · have hsplit : w.toNat / 2 ^ 16 * 2 ^ 16 = w.toNat - w.toNat % 2 ^ 16 := by omega
    simp only [setHalf, Bool.false_eq_true, if_false, hsplit]
  · rfl

/-- R136, R146: VCVT, by what its function honours and the value it gives each lane. -/
theorem vcvt_rule {s : State} {d a : Byte} {f : CvtFn} {x : VIn} {h : Honours} {val : VIn → Group → Nat → Word → Nat × Word}
    (hfit : LaneRule.fits { h := h, srcs := [(a, 1)], d := d, val := val } s.cg) (hv : s.laneView h d.toNat = some x)
    (hh : cvtHonours f = h)
    (hval : ∀ l gen, cvt f x.p (s.cg.src a.toNat l) (s.cg.vreg d.toNat l) gen = val x s.cg l gen) :
    ∃ t, exec (.vcvt d a f) s = .next t ∧ LaneRule.Done { h := h, srcs := [(a, 1)], d := d, val := val } x s t := by
  subst hh
  exact vOp_rule hfit hv (res := execVcvt d a f s) rfl (fun h => h (a, 1) (by simp)) fun l _ => hval l

/-- R146: EVERY CONVERSION OF VCVT does what its rule says. -/
theorem LaneCvtRule.runs {s : State} {i : Instr} {r : LaneRule} {x : VIn} (hrule : LaneCvtRule i r) (hfit : r.fits s.cg)
    (hv : s.laneView r.h r.d.toNat = some x) : ∃ t, exec i s = .next t ∧ r.Done x s t := by
  cases hrule with
  | toInt hf =>
    simp only [List.mem_cons, List.not_mem_nil, Prod.mk.injEq, or_false] at hf
    obtain ⟨rfl, rfl, rfl⟩ | ⟨rfl, rfl, rfl⟩ := hf
    · exact vcvt_rule hfit hv rfl fun _ _ => congrArg (·, _) (BitVec.toNat_ofInt _)
    · exact vcvt_rule hfit hv rfl fun _ _ => congrArg (·, _) (BitVec.toNat_ofInt _)
  | ofInt hf =>
    obtain rfl | rfl := hf
    · exact vcvt_rule hfit hv rfl fun _ _ => rfl
    · exact vcvt_rule hfit hv rfl fun _ _ => rfl
  | narrow hf =>
    simp only [List.mem_cons, List.not_mem_nil, Prod.mk.injEq, or_false] at hf
    obtain ⟨rfl, rfl, rfl⟩ | ⟨rfl, rfl, rfl⟩ | ⟨rfl, rfl, rfl⟩ | ⟨rfl, rfl, rfl⟩ := hf
    · exact vcvt_rule hfit hv rfl fun _ _ => congrArg (·, _) (setHalf_eq _ _ _)
    · exact vcvt_rule hfit hv rfl fun _ _ => congrArg (·, _) (setHalf_eq _ _ _)
    · exact vcvt_rule hfit hv rfl fun _ _ => congrArg (·, _) (setHalf_eq _ _ _)
    · exact vcvt_rule hfit hv rfl fun _ _ => congrArg (·, _) (setHalf_eq _ _ _)
  | widen hf =>
    simp only [List.mem_cons, List.not_mem_nil, Prod.mk.injEq, or_false] at hf
    obtain ⟨rfl, rfl, rfl⟩ | ⟨rfl, rfl, rfl⟩ | ⟨rfl, rfl, rfl⟩ | ⟨rfl, rfl, rfl⟩ := hf
    · exact vcvt_rule hfit hv rfl fun _ _ => rfl
    · exact vcvt_rule hfit hv rfl fun _ _ => rfl
    · exact vcvt_rule hfit hv rfl fun _ _ => rfl
    · exact vcvt_rule hfit hv rfl fun _ _ => rfl

/-- Settles O11: each word by the shape of its operands and the exact value that it rounds, each conversion by its function. -/
theorem laneFloatResults : Obligations.LaneFloatResults :=
  ⟨fun _ _ _ _ hrule => hrule.runs, fun _ _ _ _ hrule => hrule.runs⟩

end Sys2Proof.Machine
end

section
/-! PROOFS. The reservoir words VRSVU and VRSVM (R148 to R150). -/
namespace Sys2Proof.Machine

/-! ### The third register of a reservoir (R148) -/

theorem half_zero (w : Word) : half w 0 = w.toNat % 2 ^ 16 := by simp [half]

theorem half_one (w : Word) : half w 1 = w.toNat / 2 ^ 16 := by
  unfold half
  omega

/-! ### What an offer leaves unchanged -/

/-- Of a group v-registers, with the marks of those written, and hidden lane state alone have changed. -/
def Group.OnlyLanes (g h : Group) : Prop :=
  h = { g with v := h.v, late := h.late, bad := h.bad, lanes := h.lanes } ∧ h.late.map Late.base = g.late.map Late.base

theorem Group.OnlyLanes.trans {g h k : Group} (hgh : g.OnlyLanes h) (hhk : h.OnlyLanes k) : g.OnlyLanes k := by
  obtain ⟨hframe, hlate⟩ := hgh
  obtain ⟨kframe, klate⟩ := hhk
  exact ⟨by rw [kframe, hframe], klate.trans hlate⟩

theorem Group.onlyLanes_setV (g : Group) (r l : Nat) (x : Word) : g.OnlyLanes (g.setV r l x) := ⟨rfl, by simp⟩

theorem Group.onlyLanes_setLane (g : Group) (l : Nat) (x : Lane) : g.OnlyLanes (g.setLane l x) := ⟨rfl, rfl⟩

/-! ### A candidate offered to one lane (R149, R150) -/

/-- The sum of a lane's reservoir with a weight added. -/
def Group.raisedSum (g : Group) (d l : Nat) (w : Word) : Nat :=
  (fp32.round ((fp32.decode (g.vreg (d + 1) l).toNat).add false (fp32.decode w.toNat)) {}).1

/-- The third register of a lane's reservoir with its count set: the cap stays. -/
def Group.counted (g : Group) (d l m : Nat) : Word :=
  BitVec.ofNat 32 ((g.vreg (d + 2) l).toNat / 2 ^ 16 * 2 ^ 16 + m)

/-- The group with the count of a lane's reservoir set. -/
def Group.setCount (g : Group) (d l m : Nat) : Group := g.setV (d + 2) l (g.counted d l m)

/-- The group with the count and the sum of a lane's reservoir set and its selection generator drawn from. -/
def Group.weighed (g : Group) (d l m : Nat) (w : Word) : Group :=
  ((g.setCount d l m).setV (d + 1) l (BitVec.ofNat 32 (g.raisedSum d l w))).setLane l
    { g.lane l with selGen := (drawGen (g.lane l).selGen).1 }

/-- The group with a lane's reservoir weighed and its sample and density replaced. -/
def Group.taken (g : Group) (d l m : Nat) (id w pdf : Word) : Group :=
  ((g.weighed d l m w).setV d l id).setV (d + 3) l pdf

/-- The draw of a lane replaces the sample of its reservoir. -/
def Group.Takes (g : Group) (d l : Nat) (w : Word) : Prop :=
  (drawGen (g.lane l).selGen).2 < choiceBound w.toNat (g.raisedSum d l w)

section
variable (g : Group) (d l m : Nat) (id w pdf : Word)

theorem Group.vreg_setLane (i : Nat) (x : Lane) (r l : Nat) : (g.setLane i x).vreg r l = g.vreg r l := rfl

theorem Group.lane_setV (r l : Nat) (x : Word) (i : Nat) : (g.setV r l x).lane i = g.lane i := rfl

theorem Group.vreg_setCount (hl : l < 32) (r : Nat) {l' : Nat} (hl' : l' < 32) :
    (g.setCount d l m).vreg r l' = if r = d + 2 ∧ l' = l then g.counted d l m else g.vreg r l' := by
  rw [Group.setCount, Group.vreg_setV _ _ hl hl']

/-- R149: A weight that is not finite and above zero changes no more than the count. -/
theorem Group.offer_invalid (hw : weightOk w.toNat = false) : g.offer d l m id w pdf = g.setCount d l m := by
  simp [Group.offer, Group.setCount, Group.counted, half_one, hw]

/-- R149: A weight that is finite and above zero raises the sum and draws once; the draw decides whether the sample is taken. -/
theorem Group.offer_valid (hl : l < 32) (hw : weightOk w.toNat = true) :
    g.offer d l m id w pdf = if (drawGen (g.lane l).selGen).2 < choiceBound w.toNat (g.raisedSum d l w)
      then g.taken d l m id w pdf else g.weighed d l m w := by
  have hsum : (g.setCount d l m).vreg (d + 1) l = g.vreg (d + 1) l := by rw [g.vreg_setCount d l m hl _ hl, if_neg (by omega)]
  unfold Group.taken Group.weighed Group.raisedSum
  unfold Group.setCount Group.counted at hsum ⊢
  simp only [Group.offer, half_one, hw, hsum, Group.lane_setV, Bool.not_true, Bool.false_eq_true, if_false]

/-- R149: A candidate whose draw does not fall below its bound. -/
theorem Group.offer_kept (hl : l < 32) (hw : weightOk w.toNat = true) (ht : ¬ g.Takes d l w) :
    g.offer d l m id w pdf = g.weighed d l m w := (g.offer_valid d l m id w pdf hl hw).trans (if_neg ht)

/-- R149: A candidate whose draw falls below its bound. -/
theorem Group.offer_taken (hl : l < 32) (hw : weightOk w.toNat = true) (ht : g.Takes d l w) :
    g.offer d l m id w pdf = g.taken d l m id w pdf := (g.offer_valid d l m id w pdf hl hw).trans (if_pos ht)

/-- R149: A CANDIDATE IS OFFERED in one of three ways. -/
theorem Group.offer_cases (hl : l < 32) :
    (weightOk w.toNat = false ∧ g.offer d l m id w pdf = g.setCount d l m)
      ∨ (weightOk w.toNat = true ∧ ¬ g.Takes d l w ∧ g.offer d l m id w pdf = g.weighed d l m w)
      ∨ (weightOk w.toNat = true ∧ g.Takes d l w ∧ g.offer d l m id w pdf = g.taken d l m id w pdf) := by
  cases hw : weightOk w.toNat with
  | false => exact .inl ⟨rfl, g.offer_invalid d l m id w pdf hw⟩
  | true =>
    by_cases ht : g.Takes d l w
    · exact .inr (.inr ⟨rfl, ht, g.offer_taken d l m id w pdf hl hw ht⟩)
    · exact .inr (.inl ⟨rfl, ht, g.offer_kept d l m id w pdf hl hw ht⟩)

/-- An offer changes v-registers and hidden lane state alone. -/
theorem Group.onlyLanes_offer (hl : l < 32) : g.OnlyLanes (g.offer d l m id w pdf) := by
  have hcount : g.OnlyLanes (g.setCount d l m) := g.onlyLanes_setV _ _ _
  have hweighed : g.OnlyLanes (g.weighed d l m w) :=
    (hcount.trans (Group.onlyLanes_setV _ _ _ _)).trans (Group.onlyLanes_setLane _ _ _)
  obtain ⟨-, h⟩ | ⟨-, -, h⟩ | ⟨-, -, h⟩ := g.offer_cases d l m id w pdf hl
  · rw [h]; exact hcount
  · rw [h]; exact hweighed
  · rw [h]; exact (hweighed.trans (Group.onlyLanes_setV _ _ _ _)).trans (Group.onlyLanes_setV _ _ _ _)

/-! ### What an offer leaves in its registers -/

theorem Group.vreg_weighed (hl : l < 32) (r : Nat) {l' : Nat} (hl' : l' < 32) :
    (g.weighed d l m w).vreg r l' = if r = d + 1 ∧ l' = l then BitVec.ofNat 32 (g.raisedSum d l w)
      else (g.setCount d l m).vreg r l' := by
  rw [Group.weighed, Group.vreg_setLane, Group.vreg_setV _ _ hl hl']

theorem Group.vreg_taken (hl : l < 32) (r : Nat) {l' : Nat} (hl' : l' < 32) :
    (g.taken d l m id w pdf).vreg r l' = if r = d + 3 ∧ l' = l then pdf
      else if r = d ∧ l' = l then id else (g.weighed d l m w).vreg r l' := by
  rw [Group.taken, Group.vreg_setV _ _ hl hl', Group.vreg_setV _ _ hl hl']

theorem Group.lane_weighed (hl : l < 32) (l' : Nat) :
    (g.weighed d l m w).lane l' = if l' = l then { g.lane l with selGen := (drawGen (g.lane l).selGen).1 } else g.lane l' := by
  rw [Group.weighed, Group.lane_setLane, Group.setCount, Group.lane_setV, Group.lane_setV]
  simp only [hl, and_true]

theorem Group.lane_taken (l' : Nat) : (g.taken d l m id w pdf).lane l' = (g.weighed d l m w).lane l' := by
  rw [Group.taken, Group.lane_setV, Group.lane_setV]

/-! ### Lanes on their own -/

/-- One lane's v-registers and hidden state are the same in two groups. -/
def Group.SameLane (g h : Group) (l : Nat) : Prop := (∀ r, h.vreg r l = g.vreg r l) ∧ h.lane l = g.lane l

theorem Group.SameLane.trans {g h k : Group} {l : Nat} (hgh : g.SameLane h l) (hhk : h.SameLane k l) : g.SameLane k l :=
  ⟨fun r => (hhk.1 r).trans (hgh.1 r), hhk.2.trans hgh.2⟩

/-- An offer to one lane leaves every other lane. -/
theorem Group.sameLane_offer_ne (hl : l < 32) {l' : Nat} (hl' : l' < 32) (hne : l' ≠ l) :
    g.SameLane (g.offer d l m id w pdf) l' := by
  have hcount (r : Nat) : (g.setCount d l m).vreg r l' = g.vreg r l' := by simp [g.vreg_setCount d l m hl r hl', hne]
  have hreg (r : Nat) : (g.weighed d l m w).vreg r l' = g.vreg r l' := by simp [g.vreg_weighed d l m w hl r hl', hne, hcount r]
  have hlane : (g.weighed d l m w).lane l' = g.lane l' := by simp [g.lane_weighed d l m w hl l', hne]
  obtain ⟨-, h⟩ | ⟨-, -, h⟩ | ⟨-, -, h⟩ := g.offer_cases d l m id w pdf hl
  · rw [h]; exact ⟨hcount, rfl⟩
  · rw [h]; exact ⟨hreg, hlane⟩
  · rw [h]; exact ⟨fun r => by simp [g.vreg_taken d l m id w pdf hl r hl', hne, hreg r], by rw [Group.lane_taken, hlane]⟩

/-- What an offer gives its lane depends on that lane alone. -/
theorem Group.SameLane.offer {g h : Group} {l : Nat} (hs : g.SameLane h l) (d m : Nat) (id w pdf : Word) (hl : l < 32) :
    (g.offer d l m id w pdf).SameLane (h.offer d l m id w pdf) l := by
  obtain ⟨hreg, hlane⟩ := hs
  have hsum : h.raisedSum d l w = g.raisedSum d l w := by rw [Group.raisedSum, hreg, Group.raisedSum]
  have htakes : h.Takes d l w ↔ g.Takes d l w := by rw [Group.Takes, hsum, hlane, Group.Takes]
  have hcount (r : Nat) : (h.setCount d l m).vreg r l = (g.setCount d l m).vreg r l := by
    rw [Group.vreg_setCount _ _ _ _ hl _ hl, Group.vreg_setCount _ _ _ _ hl _ hl, Group.counted, hreg, hreg, Group.counted]
  have hweighed (r : Nat) : (h.weighed d l m w).vreg r l = (g.weighed d l m w).vreg r l := by
    rw [Group.vreg_weighed _ _ _ _ _ hl _ hl, Group.vreg_weighed _ _ _ _ _ hl _ hl, hsum, hcount]
  have hgen : (h.weighed d l m w).lane l = (g.weighed d l m w).lane l := by
    rw [Group.lane_weighed _ _ _ _ _ hl, Group.lane_weighed _ _ _ _ _ hl, hlane]
  obtain ⟨hw, e⟩ | ⟨hw, ht, e⟩ | ⟨hw, ht, e⟩ := g.offer_cases d l m id w pdf hl
  · rw [e, h.offer_invalid d l m id w pdf hw]
    exact ⟨hcount, hlane⟩
  · rw [e, h.offer_kept d l m id w pdf hl hw (ht ∘ htakes.mp)]
    exact ⟨hweighed, hgen⟩
  · rw [e, h.offer_taken d l m id w pdf hl hw (htakes.mpr ht)]
    refine ⟨fun r => ?_, ?_⟩
    · rw [Group.vreg_taken _ _ _ _ _ _ _ hl _ hl, Group.vreg_taken _ _ _ _ _ _ _ hl _ hl, hweighed]
    · rw [Group.lane_taken, Group.lane_taken, hgen]

end

/-- R148 to R150: WHAT A CANDIDATE LEAVES IN ITS LANE, in any group whose lane stands as after the offer. -/
theorem Group.SameLane.offered {g h : Group} {d l m : Nat} {id w pdf : Word} (hs : (g.offer d l m id w pdf).SameLane h l)
    (hl : l < 32) :
    (∀ r, ¬ (d ≤ r ∧ r < d + 4) → h.vreg r l = g.vreg r l)
      ∧ h.vreg (d + 2) l = g.counted d l m
      ∧ (weightOk w.toNat = false → h.vreg d l = g.vreg d l ∧ h.vreg (d + 1) l = g.vreg (d + 1) l
          ∧ h.vreg (d + 3) l = g.vreg (d + 3) l ∧ h.lane l = g.lane l)
      ∧ (weightOk w.toNat = true → h.vreg (d + 1) l = BitVec.ofNat 32 (g.raisedSum d l w)
          ∧ h.lane l = { g.lane l with selGen := (drawGen (g.lane l).selGen).1 }
          ∧ (g.Takes d l w → h.vreg d l = id ∧ h.vreg (d + 3) l = pdf)
          ∧ (¬ g.Takes d l w → h.vreg d l = g.vreg d l ∧ h.vreg (d + 3) l = g.vreg (d + 3) l)) := by
  obtain ⟨hreg, hlane⟩ := hs
  have hcount (r : Nat) : (g.setCount d l m).vreg r l = if r = d + 2 then g.counted d l m else g.vreg r l := by
    simpa using g.vreg_setCount d l m hl r hl
  have hweighed (r : Nat) : (g.weighed d l m w).vreg r l
      = if r = d + 1 then BitVec.ofNat 32 (g.raisedSum d l w) else (g.setCount d l m).vreg r l := by
    simpa using g.vreg_weighed d l m w hl r hl
  have hgen : (g.weighed d l m w).lane l = { g.lane l with selGen := (drawGen (g.lane l).selGen).1 } := by
    rw [g.lane_weighed d l m w hl, if_pos rfl]
  have htaken (r : Nat) : (g.taken d l m id w pdf).vreg r l
      = if r = d + 3 then pdf else if r = d then id else (g.weighed d l m w).vreg r l := by
    simpa using g.vreg_taken d l m id w pdf hl r hl
  obtain ⟨hw, e⟩ | ⟨hw, ht, e⟩ | ⟨hw, ht, e⟩ := g.offer_cases d l m id w pdf hl
  · rw [e] at hreg hlane
    refine ⟨fun r hr => ?_, ?_, fun _ => ⟨?_, ?_, ?_, hlane⟩, fun hw' => absurd hw' (by simp [hw])⟩
    · rw [hreg, hcount, if_neg (by omega)]
    all_goals simp [hreg, hcount]
  · rw [e] at hreg hlane
    refine ⟨fun r hr => ?_, ?_, fun hw' => absurd hw (by simp [hw']), fun _ => ⟨?_, hlane.trans hgen, fun ht' => absurd ht' ht,
      fun _ => ⟨?_, ?_⟩⟩⟩
    · rw [hreg, hweighed, if_neg (by omega), hcount, if_neg (by omega)]
    all_goals simp [hreg, hweighed, hcount]
  · rw [e] at hreg hlane
    rw [Group.lane_taken] at hlane
    refine ⟨fun r hr => ?_, ?_, fun hw' => absurd hw (by simp [hw']), fun _ => ⟨?_, hlane.trans hgen, fun _ => ⟨?_, ?_⟩,
      fun ht' => absurd ht ht'⟩⟩
    · rw [hreg, htaken, if_neg (by omega), if_neg (by omega), hweighed, if_neg (by omega), hcount, if_neg (by omega)]
    all_goals simp [hreg, htaken, hweighed, hcount]

/-! ### Candidates offered to the lanes of a mask -/

/-- One candidate offered to each lane of a list. -/
def Group.offers (g : Group) (d : Nat) (m : Nat → Nat) (id w pdf : Nat → Word) (ls : List Nat) : Group :=
  ls.foldl (fun g l => g.offer d l (m l) (id l) (w l) (pdf l)) g

section
variable (d : Nat) (m : Nat → Nat) (id w pdf : Nat → Word) (ls : List Nat)

theorem Group.onlyLanes_offers (hlt : ∀ l ∈ ls, l < 32) (g : Group) : g.OnlyLanes (g.offers d m id w pdf ls) := by
  induction ls generalizing g with
  | nil => exact ⟨rfl, rfl⟩
  | cons a ls ih =>
    exact (g.onlyLanes_offer d a (m a) (id a) (w a) (pdf a) (hlt a (by simp))).trans
      (ih (fun l hl => hlt l (by simp [hl])) _)

/-- A lane that is not in the list stays as it was. -/
theorem Group.sameLane_offers_of_notMem (hlt : ∀ l ∈ ls, l < 32) (g : Group) {l : Nat} (hl : l < 32) (hmem : l ∉ ls) :
    g.SameLane (g.offers d m id w pdf ls) l := by
  induction ls generalizing g with
  | nil => exact ⟨fun _ => rfl, rfl⟩
  | cons a ls ih =>
    obtain ⟨hne, hmem⟩ := not_or.mp (List.mem_cons.not.mp hmem)
    exact (g.sameLane_offer_ne d a (m a) (id a) (w a) (pdf a) (hlt a (by simp)) hl hne).trans
      (ih (fun l hl => hlt l (by simp [hl])) _ hmem)

/-- A lane of the list stands as after the offer to it alone. -/
theorem Group.sameLane_offers_of_mem (hlt : ∀ l ∈ ls, l < 32) (hnd : ls.Nodup) (g : Group) {l : Nat} (hmem : l ∈ ls) :
    (g.offer d l (m l) (id l) (w l) (pdf l)).SameLane (g.offers d m id w pdf ls) l := by
  induction ls generalizing g with
  | nil => cases hmem
  | cons a ls ih =>
    obtain ⟨ha, hnd⟩ := List.nodup_cons.mp hnd
    have htail : ∀ k ∈ ls, k < 32 := fun k hk => hlt k (by simp [hk])
    have hl := hlt l hmem
    by_cases hla : l = a
    · subst hla
      exact Group.sameLane_offers_of_notMem d m id w pdf ls htail _ hl ha
    · have hother := g.sameLane_offer_ne d a (m a) (id a) (w a) (pdf a) (hlt a (by simp)) hl hla
      exact (hother.offer d (m l) (id l) (w l) (pdf l) hl).trans
        (ih htail hnd _ ((List.mem_cons.mp hmem).resolve_left hla))

end

/-! ### The words -/

/-- R149: VRSVU offers each active lane its own candidate, with the count that rises by one. -/
theorem exec_vrsvu {s : State} {d a b : Byte} {x : VIn} (hfit : reservoirFits s.cg d a b 1)
    (hv : s.laneView reservoirHonours d.toNat = some x) :
    exec (.vrsvu d a b) s = .next (s.updCur fun g => g.offers d.toNat
      (fun l => min ((g.vreg (d.toNat + 2) l).toNat % 2 ^ 16 + 1) (resCap (g.vreg (d.toNat + 2) l)))
      (g.src a.toNat) (g.src b.toNat) (g.src x.c) (lanesOf x.act)).nextWord := by
  obtain ⟨hd, ha, hb⟩ := hfit
  change execVrsvu d a b s = _
  simp only [execVrsvu, hd, ha, hb, Bool.and_self, half_zero]
  exact congrArg _ (State.vWord_view hv _)

/-- R150: VRSVM offers each active lane the sample of a reservoir, with the merged count and the merged weight. -/
theorem exec_vrsvm {s : State} {d a b : Byte} {x : VIn} (hfit : reservoirFits s.cg d a b 4)
    (hv : s.laneView reservoirHonours d.toNat = some x) :
    exec (.vrsvm d a b) s = .next (s.updCur fun g => g.offers d.toNat
      (fun l => min ((g.vreg (d.toNat + 2) l).toNat % 2 ^ 16 + min ((g.src (a.toNat + 2) l).toNat % 2 ^ 16)
          (if g.src b.toNat l = 0 then 65535 else (g.src b.toNat l).toNat)) (resCap (g.vreg (d.toNat + 2) l)))
      (g.src a.toNat)
      (fun l => BitVec.ofNat 32 (mergeWeight (g.src x.c l).toNat (g.src (a.toNat + 1) l).toNat (g.src (a.toNat + 3) l).toNat))
      (g.src x.c) (lanesOf x.act)).nextWord := by
  obtain ⟨hd, ha, hb⟩ := hfit
  change execVrsvm d a b s = _
  simp only [execVrsvm, hd, ha, hb, Bool.and_self, half_zero]
  exact congrArg _ (State.vWord_view hv _)

/-- R148 to R150: WHAT OFFERS TO THE ACTIVE LANES LEAVE once the wave has moved on. -/
theorem State.offers_done (s : State) (f : Group → Group) (d : Nat) (m : Nat → Nat) (id w pdf : Nat → Word) (act : Mask)
    (hf : f s.cg = s.cg.offers d m id w pdf (lanesOf act)) :
    let t := (s.updCur f).nextWord
    s.WordDone t { s.cg with v := t.cg.v, bad := t.cg.bad, lanes := t.cg.lanes }
      ∧ ∀ l < 32, (inMask act l = false → s.cg.SameLane t.cg l)
        ∧ (inMask act l = true → (s.cg.offer d l (m l) (id l) (w l) (pdf l)).SameLane t.cg l) := by
  have hlt : ∀ l ∈ lanesOf act, l < 32 := fun l hl => (mem_lanesOf.mp hl).1
  obtain ⟨hframe, hlate⟩ := s.cg.onlyLanes_offers d m id w pdf (lanesOf act) hlt
  rw [← hf] at hframe hlate
  have hword := s.wordDone_upd f (by rw [hframe]) (by rw [hframe]) hlate
  have hcg := s.cg_upd_nextWord f
  have hsame (l : Nat) : (f s.cg).SameLane (s.updCur f).nextWord.cg l := by
    rw [hcg]; exact ⟨fun _ => rfl, rfl⟩
  refine ⟨hword.congr ?_, fun l hl => ⟨fun hact => ?_, fun hact => ?_⟩⟩
  · rw [hcg, hframe]
  · refine Group.SameLane.trans ?_ (hsame l)
    rw [hf]
    exact s.cg.sameLane_offers_of_notMem d m id w pdf _ hlt hl (by simp [mem_lanesOf, hact])
  · refine Group.SameLane.trans ?_ (hsame l)
    rw [hf]
    exact s.cg.sameLane_offers_of_mem d m id w pdf _ hlt (nodup_lanesOf _) (mem_lanesOf.mpr ⟨hl, hact⟩)

/-- Settles O14: each word offers its candidates to the active lanes, and an offer to a lane depends on that lane alone. -/
theorem reservoirUpdates : Obligations.ReservoirUpdates := by
  intro s d a b x hv i id w pdf more hi
  have hrun : ∃ f : Group → Group, exec i s = .next (s.updCur f).nextWord ∧ f s.cg = s.cg.offers d.toNat
      (fun l => min ((s.cg.vreg (d.toNat + 2) l).toNat % 2 ^ 16 + more l) (resCap (s.cg.vreg (d.toNat + 2) l)))
      id w pdf (lanesOf x.act) := by
    obtain ⟨rfl, hfit, rfl, rfl, rfl, rfl⟩ | ⟨rfl, hfit, rfl, rfl, rfl, rfl⟩ := hi
    · exact ⟨_, exec_vrsvu hfit hv, rfl⟩
    · exact ⟨_, exec_vrsvm hfit hv, rfl⟩
  obtain ⟨f, hexec, hf⟩ := hrun
  obtain ⟨hword, hlanes⟩ := s.offers_done f d.toNat _ id w pdf x.act hf
  refine ⟨_, hexec, hword, fun l hl => ?_⟩
  obtain ⟨hidle, hactive⟩ := hlanes l hl
  cases hact : inMask x.act l with
  | false =>
    obtain ⟨hreg, hlane⟩ := hidle hact
    exact ⟨fun r _ => hreg r, fun _ => ⟨fun k _ => hreg _, hlane⟩, nofun⟩
  | true =>
    obtain ⟨hout, hcount, hinvalid, hvalid⟩ := (hactive hact).offered hl
    exact ⟨hout, nofun, fun _ => ⟨hcount, hinvalid, hvalid⟩⟩

end Sys2Proof.Machine
end

section
/-! PROOFS. The uniform floating-point words (R142, R155, R156). -/
namespace Sys2Proof.Machine

/-! ### One rounding (R65, R67) -/

theorem lowLane_lt (m : Mask) : lowLane m < 32 := by
  unfold lowLane
  cases h : lanesOf m with
  | nil => exact Nat.zero_lt_succ _
  | cons l ls => exact (mem_lanesOf.mp (h ▸ List.mem_cons_self)).1

/-- A rounding to a multiple of the quantum draws in mode 6 alone. -/
theorem roundUnits_gen (neg : Bool) (num den : Nat) (k : Int) {r : Rnd} (h : r.mode ≠ 6) :
    (roundUnits neg num den k r).2 = r.gen := by
  simp only [roundUnits, if_neg h]
  split_ifs <;> rfl

/-- FP32 has no draw for values below its least subnormal: the generator moves in mode 6 alone. -/
theorem fp32_round_gen (v : Num) {r : Rnd} (h : r.mode ≠ 6) : (fp32.round v r).2 = r.gen := by
  cases v with
  | nan => rfl
  | inf s => rfl
  | fin s num den =>
    have hwide : ¬ fp32.width ≤ 16 := by decide
    have hunits := roundUnits_gen s num den (fp32.ulpExp num den) h
    simp only [Fmt.round, hwide, false_and, if_false]
    split_ifs
    · rfl
    all_goals exact hunits

/-! ### SFADD, SFMUL and SFFMA (R155) -/

/-- The three words and their exact values, as `uFloat` takes them: `rdn` says that the mode rounds towards −∞. -/
inductive UFloatValue (d a b : BitVec 6) (m : BitVec 3) : Instr → (Bool → Group → Num) → Prop where
  | add : UFloatValue d a b m (.sfadd d a b m) (fun r g => (g.snum a).add r (g.snum b))
  | mul : UFloatValue d a b m (.sfmul d a b m) (fun _ g => (g.snum a).mul (g.snum b))
  | fma : UFloatValue d a b m (.sffma d a b m) (fun r g => Num.fma r (g.snum a) (g.snum b) (g.snum d))

/-- What `uFloat` writes: the rounded value, and the generator of the lowest enabled lane. -/
def Group.uFloated (g : Group) (d : BitVec 6) (low : Nat) (r : Nat × Word) : Group :=
  (g.setS d.toNat (BitVec.ofNat 32 r.1)).setLane low { g.lane low with gen := r.2 }

theorem UFloatValue.exec_eq {d a b : BitVec 6} {m : BitVec 3} {i : Instr} {f : Bool → Group → Num} (h : UFloatValue d a b m i f)
    (s : State) : exec i s = uFloat f d m s := by
  cases h <;> rfl

theorem uFloat_illegal {s : State} (he : s.Enabled) (f : Bool → Group → Num) (d : BitVec 6) {m : BitVec 3} (hm : m = 7) :
    uFloat f d m s = .next s.illegal := by
  subst hm
  unfold uFloat State.uWord
  rw [if_neg he]; rfl

theorem uFloat_ok {s : State} (he : s.Enabled) (f : Bool → Group → Num) (d : BitVec 6) {m : BitVec 3} (hm : m ≠ 7) :
    uFloat f d m s = .next (s.updCur (fun g => g.uFloated d (lowLane s.cw.en)
      (fp32.round (f (m == 4) g) { mode := m.toNat, gen := (g.lane (lowLane s.cw.en)).gen }))).nextWord := by
  have h7 : m.toNat ≠ 7 := fun h => hm (BitVec.eq_of_toNat_eq h)
  have h4 : decide (m.toNat = 4) = (m == 4) := by
    rw [beq_eq_decide]; exact decide_eq_decide.mpr ⟨fun h => BitVec.eq_of_toNat_eq h, fun h => h ▸ rfl⟩
  unfold uFloat
  rw [s.uWord_ok _ he (decide_eq_true h7), h4]
  rfl

/-- WHAT A UNIFORM FLOATING-POINT WORD LEAVES once its wave has moved on. -/
theorem State.uFloated_done (s : State) (d : BitVec 6) {low : Nat} (hlow : low < 32) (r : Group → Nat × Word) :
    let t := (s.updCur (fun g => g.uFloated d low (r g))).nextWord
    t.cg.sreg d.toNat = BitVec.ofNat 32 (r s.cg).1
      ∧ (∀ l, t.cg.lane l = if l = low then { s.cg.lane l with gen := (r s.cg).2 } else s.cg.lane l)
      ∧ s.WordDone t { s.cg with s := t.cg.s, lanes := t.cg.lanes } ∧ ∀ k, k ≠ d.toNat → t.cg.sreg k = s.cg.sreg k := by
  intro t
  have hcg : t.cg = { s.cg.uFloated d low (r s.cg) with waves := t.cg.waves } := s.cg_upd_nextWord _
  have hs : ∀ k, t.cg.sreg k = (s.cg.setS d.toNat (BitVec.ofNat 32 (r s.cg).1)).sreg k := fun k => by rw [hcg]; rfl
  refine ⟨?_, fun l => ?_, ?_, fun k hk => ?_⟩
  · rw [hs, Group.sreg_setS_same _ _ d.isLt]
  · have hlane : t.cg.lane l = (s.cg.uFloated d low (r s.cg)).lane l := by rw [hcg]; rfl
    rw [hlane, Group.uFloated, Group.lane_setLane]
    by_cases h : l = low
    · simp [h, hlow]
    · simp only [h, false_and, if_false]; rfl
  · refine (s.wordDone_upd _ rfl rfl (by simp [Group.uFloated])).congr ?_
    rw [hcg]; rfl
  · rw [hs, Group.sreg_setS_ne _ _ hk]

/-! ### SFUN (R142, R156) -/

theorem exec_sfun {s : State} (he : s.Enabled) (d a : BitVec 6) (f : SFunFn) :
    exec (.sfun d a f) s = .next (s.takeFree.2.updCur (fun g => g.setS d.toNat (sfunFn f (g.sreg a.toNat) s.takeFree.1))).nextWord :=
  congrArg Host.Outcome.next (s.uWord_ok _ he rfl)

/-- Every function but RCP has one value, whatever candidate the step offers. -/
theorem sfunFn_fixed {f : SFunFn} (h : f ≠ .rcp) (x : Word) (cand : Nat) : sfunFn f x cand = sfunFn f x 0 := by
  cases f with
  | rcp => exact absurd rfl h
  | _ => rfl

/-- R142: what RCP gives at zeros, infinities and NaN, whatever candidate the step offers. -/
theorem sfunFn_rcp_special (cand : Nat) : ∀ x r, (x, r) ∈ [(0x00000000#32, 0x7F800000#32), (0x80000000#32, 0xFF800000#32),
    (0x7F800000#32, 0x00000000#32), (0xFF800000#32, 0x80000000#32), (0x7FC00000#32, 0x7FC00000#32)] → sfunFn .rcp x cand = r := by
  simp only [List.mem_cons, List.not_mem_nil, or_false, Prod.mk.injEq]
  rintro x r (⟨rfl, rfl⟩ | ⟨rfl, rfl⟩ | ⟨rfl, rfl⟩ | ⟨rfl, rfl⟩ | ⟨rfl, rfl⟩) <;> rfl

/-- Settles O8: the three arithmetic words round one exact value; SFUN writes its function of the source. -/
theorem uniformFloatResults : Obligations.UniformFloatResults := by
  constructor
  · intro s d a b m he x y z low i v hi
    obtain ⟨f, hf, hv⟩ : ∃ f, UFloatValue d a b m i f ∧ f (m == 4) s.cg = v := by
      simp only [List.mem_cons, List.not_mem_nil, or_false, Prod.mk.injEq] at hi
      obtain ⟨rfl, rfl⟩ | ⟨rfl, rfl⟩ | ⟨rfl, rfl⟩ := hi
      · exact ⟨_, .add, rfl⟩
      · exact ⟨_, .mul, rfl⟩
      · exact ⟨_, .fma, rfl⟩
    refine ⟨fun hm => (hf.exec_eq s).trans (uFloat_illegal he f d hm), fun hm => ?_⟩
    subst hv
    obtain ⟨hreg, hlane, hdone, hother⟩ := s.uFloated_done d (lowLane_lt s.cw.en)
      (fun g => fp32.round (f (m == 4) g) { mode := m.toNat, gen := (g.lane low).gen })
    refine ⟨_, (hf.exec_eq s).trans (uFloat_ok he f d hm), ⟨hreg, fun l _ => hlane l⟩, fun h6 l _ => ?_, hdone, hother⟩
    have hgen := fp32_round_gen (f (m == 4) s.cg) (r := { mode := m.toNat, gen := (s.cg.lane low).gen })
      (fun h => h6 (BitVec.eq_of_toNat_eq h))
    rw [hlane]
    split_ifs with h
    · rw [hgen, h]
    · rfl
  · intro s d a f he
    obtain ⟨hval, hwrote⟩ := s.takeFree.2.wroteS_one d (sfunFn f (s.cg.sreg a.toNat) s.takeFree.1)
    refine ⟨_, exec_sfun he d a f, hwrote, fun hf => hval.trans (sfunFn_fixed hf _ _), ?_⟩
    rintro rfl x r hmem rfl
    exact hval.trans (sfunFn_rcp_special _ _ _ hmem)

end Sys2Proof.Machine
end

section
/-! PROOFS. Meeting registers and releases, pacing, and words that apply to the next one (R91, R160 to R162, R271, R272, R278). -/
namespace Sys2Proof.Machine

/-! ### The current wave and other groups -/

@[simp] theorem State.cg_updWave (s : State) (f : Wave → Wave) : (s.updWave f).cg = s.cg.setWave s.curWave (f s.cw) :=
  s.cg_updCur _
@[simp] theorem State.cw_updWave (s : State) (f : Wave → Wave) : (s.updWave f).cw = f s.cw := by
  simp [State.cw]
theorem State.group_setGroup_ne (s : State) {g h : Nat} (x : Group) (e : h ≠ g) : (s.setGroup g x).group h = s.group h := by
  simp [State.group, tget_tset_ne _ _ _ e]

/-- A change of the current group leaves everything else. -/
theorem State.sameButGroup_updCur (s : State) (f : Group → Group) : s.SameButGroup (s.updCur f) :=
  ⟨rfl, fun _ h => s.group_updCur_ne f h, fun _ => rfl⟩

theorem State.sameButGroup_nextWord (s : State) : s.SameButGroup s.nextWord := by
  rw [State.nextWord_eq]
  exact s.sameButGroup_updCur _

theorem State.setGroup_setGroup (s : State) (gid : Nat) (x y : Group) : (s.setGroup gid x).setGroup gid y = s.setGroup gid y := by
  simp [State.setGroup]

theorem State.SameButGroup.trans {s t u : State} (h : s.SameButGroup t) (k : t.SameButGroup u) : s.SameButGroup u := by
  obtain ⟨h1, h2, h3⟩ := h
  obtain ⟨k1, k2, k3⟩ := k
  have hcur : t.curGroup = s.curGroup := by rw [h1]
  refine ⟨?_, fun i hi => (k2 i (hcur ▸ hi)).trans (h2 i hi), fun key => (k3 key).trans (h3 key)⟩
  rw [k1, h1]

/-! ### Lanes that change one by one, in the vector of lanes -/

/-- The lanes of `changeLanes`, as the folds of the model over the vector of lanes write them. -/
theorem Group.lanes_changeLanes (g : Group) (ls : List Nat) (f : Nat → Lane → Lane) :
    (g.changeLanes ls f).lanes = ls.foldl (fun v l => vecSet v l (f l (vecGet v l {}))) g.lanes := by
  induction ls generalizing g with
  | nil => rfl
  | cons l ls ih => exact ih (g.setLane l (f l (g.lane l)))

/-! ### SETMR (R160, R271) -/

/-- The lanes of a mask take a value of MR. -/
def Group.setMr (g : Group) (m : Mask) (x : Option (BitVec 52)) : Group := g.changeLanes (lanesOf m) (fun _ y => { y with mr := x })

theorem Group.setMr_eq (g : Group) (m : Mask) (x : Option (BitVec 52)) :
    g.setMr m x = { g with lanes := (g.setMr m x).lanes } := g.changeLanes_eq _ _

theorem Group.lane_setMr (g : Group) (m : Mask) (x : Option (BitVec 52)) {l : Nat} (hl : l < 32) :
    (g.setMr m x).lane l = if inMask m l then { g.lane l with mr := x } else g.lane l := g.lane_changeLanesOf m _ hl

/-- R271: a held wave stays held while the MR of one of its lanes is its clause. -/
theorem Group.recheckHeld_met {g : Group} (now : Nat) (h : ∀ e ∈ g.waves, e.2.phase = .held →
    g.meetLanes e.2.lanes (g.lane (lowLane e.2.lanes)).pc ≠ 0#32) : g.recheckHeld now = g := by
  have hid : g.waves.map (fun e =>
      if e.2.phase = .held && decide (g.meetLanes e.2.lanes (g.lane (lowLane e.2.lanes)).pc = 0#32) then
        (e.1, { e.2 with phase := .start, readyAt := now, promoted := false })
      else e) = g.waves := by
    refine (List.map_congr_left fun e he => ?_).trans g.waves.map_id
    by_cases hp : e.2.phase = .held
    · simp [h e he hp]
    · simp [hp]
  unfold Group.recheckHeld
  rw [hid]

/-- What SETMR does once its operand has been checked. -/
def State.metBy (s : State) (x : Option (BitVec 52)) : State :=
  ((s.updCur (fun g => (g.setMr s.cw.en x).recheckHeld s.now)).releaseMeets s.curGroup).nextWord

theorem exec_setmrNone {s : State} (he : s.Enabled) : exec .setmrNone s = .next (s.metBy none) :=
  congrArg Host.Outcome.next (s.uWord_ok _ he rfl)

theorem exec_setmr {s : State} {a : BitVec 6} (he : s.Enabled) (ha : a.toNat < 63) : exec (.setmr a) s = .next (
    if (s.cg.spair a.toNat).toNat % 8 ≠ 0 then s.addrTrap cALIGN (s.cg.spair a.toNat).toNat pathS false 0 s.cw.en
    else if 2 ^ 52 ≤ (s.cg.spair a.toNat).toNat then s.addrTrap cACCESS (s.cg.spair a.toNat).toNat pathS false 0 s.cw.en
    else s.metBy (some (BitVec.ofNat 52 (s.cg.spair a.toNat).toNat))) :=
  congrArg Host.Outcome.next (s.uWord_ok _ he (decide_eq_true (show a.toNat + 2 ≤ 64 by omega)))

/-- WHAT SETMR LEAVES where no wave is held: the MR of the enabled lanes, and the wave at its next word. -/
theorem State.metBy_unheld {s : State} (h : ∀ e ∈ s.cg.waves, e.2.phase ≠ .held) (x : Option (BitVec 52)) :
    s.SameButGroup (s.metBy x) ∧ (s.metBy x).cg = { s.cg with lanes := (s.metBy x).cg.lanes, waves := (s.metBy x).cg.waves }
      ∧ ∀ l < 32, (s.metBy x).cg.lane l = if inMask s.cw.en l then { s.cg.lane l with mr := x } else s.cg.lane l := by
  have hwaves : (s.cg.setMr s.cw.en x).waves = s.cg.waves := by rw [Group.setMr_eq]
  have hre : (s.cg.setMr s.cw.en x).recheckHeld s.now = s.cg.setMr s.cw.en x :=
    Group.recheckHeld_met _ fun e he hp => absurd hp (h e (hwaves ▸ he))
  have hmet : s.metBy x = (s.updCur (fun g => (g.setMr s.cw.en x).recheckHeld s.now)).nextWord := by
    unfold State.metBy
    rw [State.releaseMeets_unheld]
    intro e hm
    refine h e ?_
    have hcg : (s.updCur (fun g => (g.setMr s.cw.en x).recheckHeld s.now)).group s.curGroup = s.cg.setMr s.cw.en x :=
      (s.cg_updCur _).trans hre
    rwa [hcg, hwaves] at hm
  have hcg : (s.metBy x).cg = { s.cg.setMr s.cw.en x with waves := (s.metBy x).cg.waves } := by
    rw [hmet, s.cg_upd_nextWord, hre]
  refine ⟨?_, ?_, fun l hl => ?_⟩
  · rw [hmet]
    exact (s.sameButGroup_updCur _).trans (State.sameButGroup_nextWord _)
  · rw [hcg, Group.setMr_eq]
  · rw [← s.cg.lane_setMr s.cw.en x hl, hcg]; rfl

/-! ### The release of a waiting set (R272) -/

/-- The lane of a waiting set that is released. -/
def Lane.unmet (x : Lane) (pc : BitVec 52) : Lane := if x.mr = some pc then { x with mr := none } else x

/-- The group once the waiting set of an address has been released. -/
def Group.released (g : Group) (pc : BitVec 52) (now : Nat) : Group :=
  { g.changeLanes (lanesOf (g.heldAt pc)) (fun _ x => x.unmet pc) with
    waves := tset (g.waves.filter (fun e => e.2.lanes &&& g.heldAt pc = 0#32)) (lowLane (g.heldAt pc))
      { lanes := g.heldAt pc, phase := .start, readyAt := now } }

theorem State.releaseMeet_due {s : State} {gid : Nat} {pc : BitVec 52} (hdue : (s.group gid).releaseDue pc = true)
    (hent : (s.group gid).entering = none) :
    s.releaseMeet gid pc = s.setGroup gid ((s.group gid).released pc (s.core (s.group gid).core).cycles) := by
  unfold State.releaseMeet Group.released
  rw [Group.changeLanes_eq, Group.lanes_changeLanes]
  simp only [hdue, hent, Bool.not_true, Option.isSome_none, Bool.or_self, Bool.false_eq_true, if_false]
  rfl

/-- WHAT A RELEASE LEAVES IN THE GROUP: a lane of the set whose MR named it has none, and its lanes form one wave. -/
theorem Group.released_spec (g : Group) (pc : BitVec 52) (now : Nat) :
    (∀ l < 32, (g.released pc now).lane l = if inMask (g.heldAt pc) l && decide ((g.lane l).mr = some pc) then
        { g.lane l with mr := none } else g.lane l)
      ∧ (g.released pc now).wave (lowLane (g.heldAt pc)) = { lanes := g.heldAt pc, readyAt := now } := by
  refine ⟨fun l hl => ?_, tget_tset_same _ _ _ _⟩
  have hlane : (g.released pc now).lane l = if inMask (g.heldAt pc) l then (g.lane l).unmet pc else g.lane l :=
    g.lane_changeLanesOf _ _ hl
  rw [hlane, Lane.unmet]
  by_cases h : inMask (g.heldAt pc) l = true <;> simp [h]

/-- A held wave and a running one: the test is made for the address of the held one. -/
theorem State.releaseMeets_pair {s : State} {gid h k : Nat} {w x : Wave} (hw : (s.group gid).waves = [(h, w), (k, x)])
    (hheld : w.phase = .held) (hx : x.phase ≠ .held) :
    s.releaseMeets gid = s.releaseMeet gid ((s.group gid).lane (lowLane w.lanes)).pc := by
  simp [State.releaseMeets, hw, hheld, hx]

theorem Group.heldAt_pair {g : Group} {h k : Nat} {w x : Wave} {pc : BitVec 52} (hw : g.waves = [(h, w), (k, x)])
    (hheld : w.phase = .held) (hx : x.phase ≠ .held) (hpc : (g.lane (lowLane w.lanes)).pc = pc) : g.heldAt pc = w.lanes := by
  simp [Group.heldAt, hw, hheld, hx, hpc]

theorem Group.inMask_meetLanes (g : Group) (m : Mask) (pc : BitVec 52) {l : Nat} (hl : l < 32) :
    inMask (g.meetLanes m pc) l = (inMask m l && decide ((g.lane l).mr = some pc)) :=
  getLsbD_maskOf _ hl

theorem inMask_and (m n : Mask) (l : Nat) : inMask (m &&& n) l = (inMask m l && inMask n l) := BitVec.getLsbD_and
theorem inMask_or (m n : Mask) (l : Nat) : inMask (m ||| n) l = (inMask m l || inMask n l) := BitVec.getLsbD_or
theorem inMask_not (m : Mask) {l : Nat} (hl : l < 32) : inMask (~~~m) l = !inMask m l := by
  simp [inMask, hl]

theorem mask_eq_zero_iff {m : Mask} : m = 0#32 ↔ ∀ l < 32, inMask m l = false :=
  ⟨fun h l _ => by simp [h, inMask], fun h => BitVec.eq_of_getLsbD_eq fun l hl => by simpa [inMask] using h l hl⟩

theorem mask_ne_zero {m : Mask} {l : Nat} (h : inMask m l = true) : m ≠ 0#32 := fun h0 => by
  simp [h0, inMask] at h

/-- Lanes of disjoint masks. -/
theorem inMask_disjoint {m n : Mask} (h : m &&& n = 0#32) {l : Nat} (hl : inMask m l = true) : inMask n l = false := by
  have := (mask_eq_zero_iff.mp h) l (BitVec.lt_of_getLsbD hl)
  rwa [inMask_and, hl, Bool.true_and] at this

/-- A wave is held at a clause with a lane that meets there, another wave runs, and every lane of the waiting set that is not held
belongs to the mask `en`, which the held wave has nothing of. -/
structure Group.AwaitsOnly (g : Group) (en : Mask) (pc : BitVec 52) (h k : Nat) (w x : Wave) : Prop where
  waves : g.waves = [(h, w), (k, x)]
  held : w.phase = .held
  running : x.phase ≠ .held
  low : lowLane w.lanes = h
  pc_eq : (g.lane h).pc = pc
  meets : ∃ l, inMask w.lanes l = true ∧ (g.lane l).mr = some pc
  apart : w.lanes &&& en = 0#32
  missing : ∀ l, inMask g.live l = true → (g.lane l).mr = some pc → inMask (w.lanes ||| en) l = true

section
variable {g : Group} {en : Mask} {pc : BitVec 52} {h k : Nat} {w x : Wave} (ha : g.AwaitsOnly en pc h k w x)
include ha

theorem Group.AwaitsOnly.waves_setMr : (g.setMr en none).waves = [(h, w), (k, x)] := by rw [Group.setMr_eq]; exact ha.waves

theorem Group.AwaitsOnly.lane_held {l : Nat} (hl : inMask w.lanes l = true) : (g.setMr en none).lane l = g.lane l := by
  rw [g.lane_setMr _ _ (BitVec.lt_of_getLsbD hl), if_neg (by simp [inMask_disjoint ha.apart hl])]

theorem Group.AwaitsOnly.pc_setMr : ((g.setMr en none).lane (lowLane w.lanes)).pc = pc := by
  rw [ha.low, g.lane_setMr _ _ (ha.low ▸ lowLane_lt _)]
  split_ifs <;> exact ha.pc_eq

theorem Group.AwaitsOnly.heldAt_setMr : (g.setMr en none).heldAt pc = w.lanes :=
  Group.heldAt_pair ha.waves_setMr ha.held ha.running ha.pc_setMr

theorem Group.AwaitsOnly.recheckHeld_setMr (now : Nat) : (g.setMr en none).recheckHeld now = g.setMr en none := by
  refine Group.recheckHeld_met _ fun e he hp => ?_
  rw [ha.waves_setMr] at he
  obtain rfl | rfl : e = (h, w) ∨ e = (k, x) := by simpa using he
  · obtain ⟨l, hl, hmr⟩ := ha.meets
    refine mask_ne_zero (l := l) ?_
    rw [Group.inMask_meetLanes _ _ _ (BitVec.lt_of_getLsbD hl), hl, ha.pc_setMr, ha.lane_held hl, hmr]
    simp
  · exact absurd hp ha.running

/-- Once the lanes of the mask have no MR, no lane of the waiting set is missing. -/
theorem Group.AwaitsOnly.releaseDue_setMr : (g.setMr en none).releaseDue pc = true := by
  have hnone : (g.setMr en none).meetLanes (g.setMr en none).live pc &&& ~~~w.lanes = 0#32 := mask_eq_zero_iff.mpr fun l hl => by
    have hlive : (g.setMr en none).live = g.live := by rw [Group.setMr_eq]
    rw [inMask_and, inMask_not _ hl, Group.inMask_meetLanes _ _ _ hl, g.lane_setMr _ _ hl, hlive]
    by_cases hin : inMask en l = true
    · simp [hin]
    · by_cases hlv : inMask g.live l = true ∧ (g.lane l).mr = some pc
      · have hw := ha.missing l hlv.1 hlv.2
        rw [inMask_or, Bool.eq_false_iff.mpr hin, Bool.or_false] at hw
        simp [hw]
      · rw [if_neg hin]
        simp only [not_and] at hlv
        cases hl1 : inMask g.live l with
        | false => simp
        | true => simp [hlv hl1]
  obtain ⟨l, hl, -⟩ := ha.meets
  simp [Group.releaseDue, ha.heldAt_setMr, hnone, mask_ne_zero hl]

end

/-- R272: A SETMR THAT TAKES THE LAST MISSING LANES AWAY RELEASES THE SET AT ONCE. -/
theorem State.metBy_release {s : State} {pc : BitVec 52} {h : Nat} {w : Wave} (ha : s.cg.AwaitsOnly s.cw.en pc h s.curWave w s.cw)
    (hent : s.cg.entering = none) :
    s.metBy none = (s.updCur (fun g => (g.setMr s.cw.en none).released pc (s.core s.cg.core).cycles)).nextWord := by
  have hg : (s.updCur (fun g => (g.setMr s.cw.en none).recheckHeld s.now)).group s.curGroup = s.cg.setMr s.cw.en none :=
    (s.cg_updCur _).trans (ha.recheckHeld_setMr _)
  have hent' : (s.cg.setMr s.cw.en none).entering = none := by rw [Group.setMr_eq]; exact hent
  have hcore : (s.cg.setMr s.cw.en none).core = s.cg.core := by rw [Group.setMr_eq]
  refine congrArg State.nextWord ?_
  rw [State.releaseMeets_pair (by rw [hg]; exact ha.waves_setMr) ha.held ha.running, hg, ha.pc_setMr,
    State.releaseMeet_due (by rw [hg]; exact ha.releaseDue_setMr) (by rw [hg]; exact hent'), hg, hcore]
  exact s.setGroup_setGroup _ _ _

theorem State.metBy_release_spec {s : State} {pc : BitVec 52} {h : Nat} {w : Wave} (ha : s.cg.AwaitsOnly s.cw.en pc h s.curWave w s.cw)
    (hent : s.cg.entering = none) (hlt : h < s.curWave) :
    (s.metBy none).cg.wave h = { lanes := w.lanes, readyAt := (s.core s.cg.core).cycles }
      ∧ ∀ l < 32, (s.metBy none).cg.lane l = if inMask s.cw.en l || (inMask w.lanes l && decide ((s.cg.lane l).mr = some pc)) then
          { s.cg.lane l with mr := none } else s.cg.lane l := by
  obtain ⟨hlanes, hwave⟩ := (s.cg.setMr s.cw.en none).released_spec pc (s.core s.cg.core).cycles
  rw [ha.heldAt_setMr] at hlanes hwave
  have hcg := (s.updCur (fun g => (g.setMr s.cw.en none).released pc (s.core s.cg.core).cycles)).cg_nextWord
  rw [State.cg_updCur] at hcg
  rw [State.metBy_release ha hent, hcg]
  refine ⟨?_, fun l hl => ?_⟩
  · refine (Group.wave_setWave_ne _ _ (show h ≠ s.curWave by omega)).trans ?_
    rw [← ha.low]
    exact hwave
  · refine (hlanes l hl).trans ?_
    rw [s.cg.lane_setMr _ _ hl]
    by_cases hin : inMask s.cw.en l = true <;> simp [hin]

/-! ### Pacing (R161, R162, R278) -/

theorem exec_nop {s : State} (he : s.Enabled) : exec .nop s = .next s.nextWord :=
  congrArg Host.Outcome.next (s.uWord_ok _ he rfl)

theorem exec_sleep {s : State} (he : s.Enabled) {i : Instr} {n : Nat}
    (hi : (∃ m : BitVec 11, i = .sleep m ∧ n = m.toNat) ∨ ∃ a : BitVec 6, i = .sleepReg a ∧ n = (s.cg.sreg a.toNat).toNat) :
    exec i s = .next (s.sleepFor n) := by
  obtain ⟨m, rfl, rfl⟩ | ⟨a, rfl, rfl⟩ := hi
  · exact congrArg Host.Outcome.next (s.uWord_ok _ he rfl)
  · exact congrArg Host.Outcome.next (s.uWord_ok _ he rfl)

/-- SLEEP as one change of the current wave. -/
theorem State.sleepFor_eq (s : State) (n : Nat) : s.sleepFor n = s.updWave (fun w => { w.past (s.core s.cg.core).cycles with
    phase := if n = 0 ∨ s.cg.entering ≠ none then w.phase else .sleeping ((s.core s.cg.core).cycles + n) }) := by
  have hent : s.nextWord.cg.entering = s.cg.entering := by rw [State.cg_nextWord]; rfl
  simp only [State.sleepFor, hent, ← Option.isSome_iff_ne_none]
  split_ifs with h
  · rfl
  · simp only [State.nextWord_eq, State.updWave, State.updCur, State.updGroup_updGroup, Group.setWave, State.updGroup_curGroup,
      State.updGroup_curWave]
    simp [Group.wave]

theorem State.updWave_done (s : State) (f : Wave → Wave) :
    s.SameButGroup (s.updWave f) ∧ (s.updWave f).cg = { s.cg with waves := (s.updWave f).cg.waves } ∧ (s.updWave f).cw = f s.cw
      ∧ ∀ w, w ≠ s.curWave → (s.updWave f).cg.wave w = s.cg.wave w := by
  refine ⟨s.sameButGroup_updCur _, ?_, s.cw_updWave f, fun w hw => ?_⟩
  · rw [State.cg_updWave]; rfl
  · rw [State.cg_updWave, Group.wave_setWave_ne _ _ hw]

theorem exec_sleepExpiry {s : State} {gid wid till : Nat} (h : ((s.group gid).wave wid).phase = .sleeping till) :
    exec (.sleepExpiry gid wid) s = if till ≤ (s.core (s.group gid).core).cycles then
      .next (s.setGroup gid ((s.group gid).setWave wid { (s.group gid).wave wid with
        phase := .body, readyAt := (s.core (s.group gid).core).cycles, promoted := false })) else .next s := by
  change execSleepExpiry gid wid s = _
  simp only [execSleepExpiry, h]

theorem exec_wavePromotion {s : State} {gid wid : Nat} (h : ((s.group gid).wave wid).phase = .start
      ∨ ((s.group gid).wave wid).phase = .waited ∨ ((s.group gid).wave wid).phase = .body) :
    exec (.wavePromotion gid wid) s =
      if ((s.group gid).wave wid).stalled = false ∧ ((s.group gid).wave wid).readyAt + 1024 ≤ (s.core (s.group gid).core).cycles then
        .next (s.setGroup gid ((s.group gid).setWave wid { (s.group gid).wave wid with promoted := true, barred := [] }))
      else .next s := by
  change execWavePromotion gid wid s = _
  obtain h | h | h := h <;> simp [execWavePromotion, h]

/-! ### Prefix words (R91) -/

/-- A word that applies to the next one, whichever reading its bits have. -/
def PrefixWord (i : Instr) : Prop :=
  (∃ c k z m d n a, i = .prefixGeneral c k z m d n a) ∨ (∃ c k d o, i = .prefixMemory c k d o)
    ∨ ∃ w, opByte w = 0x7F ∧ i = .reservedEncoding w

theorem PrefixWord.exec_eq {i : Instr} (h : PrefixWord i) (s : State) : exec i s = finish s.prefixWord := by
  obtain ⟨c, k, z, m, d, n, a, rfl⟩ | ⟨c, k, d, o, rfl⟩ | ⟨w, hw, rfl⟩ := h
  · rfl
  · rfl
  · exact if_pos hw

/-- What a word that applies to the next one does where a word stands behind it. -/
theorem State.prefixWord_some {s : State} {n : Word} (h : s.cw.words[s.cw.idx + 1]? = some n) :
    s.prefixWord = if n.getLsbD 31 = true ∨ opByte n = 0x7F then s.trapIllegal 0x01 n (s.cw.idx + 1)
      else s.updWave (fun w => { w with pfx := some w.word, idx := w.idx + 1 }) := by
  simp [State.prefixWord, h]

theorem State.prefixWord_last {s : State} (h : s.cw.words[s.cw.idx + 1]? = none) : s.prefixWord = s.illegal := by
  simp only [State.prefixWord, h]

/-- Settles O18: SETMR and the release of waiting sets, the pacing words and steps, and the words that apply to the next one. -/
theorem meetingPacingAndPrefixWords : Obligations.MeetingPacingAndPrefixWords := by
  refine ⟨⟨?_, ?_, ?_, ?_⟩, ⟨?_, ?_, ?_⟩, ?_⟩
  · intro s a he ha v
    have hexec := exec_setmr he ha
    refine ⟨fun h8 h52 hh => ?_, fun h8 => ?_, fun h8 h52 => ?_⟩
    · rw [if_neg (not_not.mpr h8), if_neg (by omega)] at hexec
      exact ⟨_, hexec, State.metBy_unheld hh _⟩
    · rwa [if_pos h8] at hexec
    · rwa [if_neg (not_not.mpr h8), if_pos h52] at hexec
  · intro s he hh
    exact ⟨_, exec_setmrNone he, State.metBy_unheld hh _⟩
  · intro s h w pc he hbody hent hlt hw hheld hlow _ hpc hmeet hen _ hall
    exact ⟨_, exec_setmrNone he,
      State.metBy_release_spec ⟨hw, hheld, by rw [hbody]; nofun, hlow, hpc, hmeet, hen, hall⟩ hent hlt⟩
  · intro s gid pc hdue hent
    obtain ⟨hlanes, hwave⟩ := (s.group gid).released_spec pc (s.core (s.group gid).core).cycles
    refine ⟨_, congrArg Host.Outcome.next (State.releaseMeet_due hdue hent), fun h hh => s.group_setGroup_ne _ hh, ?_, ?_, fun _ => rfl⟩
    · rw [State.group_setGroup]; exact hlanes
    · rw [State.group_setGroup]; exact hwave
  · intro s he
    exact ⟨_, exec_nop he, s.wordDone_nextWord⟩
  · intro s i n he hi
    refine ⟨_, exec_sleep he hi, ?_⟩
    rw [State.sleepFor_eq]
    exact s.updWave_done _
  · intro s gid wid g now
    refine ⟨fun till ht => ?_, fun hp => ?_⟩
    · rw [exec_sleepExpiry ht]
      exact ⟨fun h => if_pos h, fun h => if_neg (Nat.not_le.mpr h)⟩
    · rw [exec_wavePromotion hp]
      refine ⟨fun hs h => if_pos ⟨hs, h⟩, fun h => if_neg fun ⟨hs, h'⟩ => ?_⟩
      obtain h | h := h
      · exact Bool.noConfusion (hs.symm.trans h)
      · exact absurd h' (Nat.not_le.mpr h)
  · intro s i hstop hi
    have hexec := PrefixWord.exec_eq hi s
    refine ⟨fun n hn h31 h7F => ?_, fun n hn h => ?_, fun hn => ?_⟩
    · rw [State.prefixWord_some hn, if_neg (by rw [h31]; simp [h7F])] at hexec
      exact ⟨_, hexec.trans (finish_next hstop), s.updWave_done _⟩
    · rwa [State.prefixWord_some hn, if_pos h] at hexec
    · rwa [State.prefixWord_last hn] at hexec

end Sys2Proof.Machine
end

section
/-! PROOFS. Trap entry, the report of what is pending, and the double trap (R88, R164, R166, R169). -/
namespace Sys2Proof.Machine

/-! ### Memory that changes (R285, R290) -/

/-- Nothing but memory, with what stands before it, has changed: its bytes, the lines of the L2 slices, poison, the queue of path M. -/
def State.OnlyMemory (s t : State) : Prop :=
  t = { s with mem := t.mem, l2 := t.l2, l2Tags := t.l2Tags, poison := t.poison, mq := t.mq, stop := t.stop }

theorem State.onlyMemory_refl (s : State) : s.OnlyMemory s := rfl

theorem State.OnlyMemory.trans {s t u : State} (h : s.OnlyMemory t) (k : t.OnlyMemory u) : s.OnlyMemory u := by
  unfold State.OnlyMemory at h k ⊢
  rw [k, h]

theorem State.OnlyMemory.dies {s t : State} (h : s.OnlyMemory t) : t.dies = s.dies := by rw [h]
theorem State.OnlyMemory.groups {s t : State} (h : s.OnlyMemory t) : t.groups = s.groups := by rw [h]
theorem State.OnlyMemory.curGroup {s t : State} (h : s.OnlyMemory t) : t.curGroup = s.curGroup := by rw [h]

theorem State.onlyMemory_checkPa (s : State) (key n : Nat) : s.OnlyMemory (s.checkPa key n) := by
  unfold State.checkPa
  dsimp only
  split_ifs <;> exact rfl

theorem State.OnlyMemory.withPoison {s t : State} (h : s.OnlyMemory t) (p : Tab Nat) : s.OnlyMemory { t with poison := p } :=
  congrArg (fun x : State => ({ x with poison := p } : State)) h

theorem State.onlyMemory_putHomeRaw (s : State) (key : Nat) (xs : List Byte) : s.OnlyMemory (s.putHomeRaw key xs) := by
  obtain ⟨m, d, t, h⟩ := State.putHomeRaw_frame xs s key
  rw [h]; exact rfl

theorem State.onlyMemory_putHome (s : State) (key : Nat) (xs : List Byte) : s.OnlyMemory (s.putHome key xs) := by
  unfold State.putHome
  split_ifs
  · exact s.onlyMemory_refl
  · exact ((s.onlyMemory_checkPa key xs.length).trans (State.onlyMemory_putHomeRaw _ key xs)).withPoison _

/-! ### Error records and the end of a group (R166, R173, R466) -/

/-- What an error record changes of its die: the next sequence number, and the count of records that no ring took. -/
def Recorded (f : Die → Die) : Prop := ∀ d, ∃ n, f d = { d with errSeq := d.errSeq + 1, errLost := n }

/-- R466: an error record changes memory and its die's ring alone, and takes the die's next sequence number. -/
theorem State.errorRecord_frame (s : State) (die type core ctx : Nat) (charged : Bool) (addr detail : Nat) (extra : List Byte) :
    ∃ u f, s.OnlyMemory u ∧ Recorded f ∧ s.errorRecord die type core ctx charged addr detail extra = u.updDie die f := by
  unfold State.errorRecord
  split
  · exact ⟨s, _, s.onlyMemory_refl, fun d => ⟨d.errLost + 1, rfl⟩, rfl⟩
  · dsimp only
    split_ifs
    · exact ⟨_, _, s.onlyMemory_putHome _ _, fun d => ⟨d.errLost, rfl⟩, rfl⟩
    all_goals exact ⟨_, _, (s.onlyMemory_putHome _ _).trans (State.onlyMemory_putHome _ _ _), fun d => ⟨d.errLost, rfl⟩, rfl⟩

theorem State.onlyUnparks_serveKwaits (s : State) (die : Nat) : s.OnlyUnparks (s.serveKwaits die) := by
  refine State.onlyUnparks_foldl _ (fun (s : State) e => State.onlyUnparks_foldl _ (fun (s : State) x => ?_) _ s) _ s
  split_ifs
  · exact s.onlyUnparks_unpark _ _
  · exact s.onlyUnparks_refl

/-- The die once the parks of a group have been abandoned: the group waits in none of its lines. -/
def Die.leftBy (d : Die) (gid : Nat) : Die :=
  { d with moorLine := d.moorLine.filter (fun e => e.2.2.1 ≠ gid), waiters := d.waiters.filter (fun w => w.gid ≠ gid) }

/-- Abandoned parks change who waits on the group's die, and words that run again. -/
theorem State.leaveLines_frame (s : State) (gid : Nat) :
    (s.updDie (dieOf (s.group gid).core) (fun d => d.leftBy gid)).OnlyUnparks (s.leaveLines gid) := by
  unfold State.leaveLines
  dsimp only
  split_ifs
  · exact State.onlyUnparks_serveKwaits _ _
  · exact State.onlyUnparks_refl _

/-- The group once HALT or a double trap has ended it. -/
def Group.halted (g : Group) : Group := { g with live := 0, waves := [], sup := false, entering := none, exiting := true }

/-- HALT AND THE DOUBLE TRAP END THE GROUP (R166, R173), and its die has made one more error record. -/
theorem State.haltGroup_spec (s : State) (gid reason : Nat) (addr : BitVec 52) :
    (∃ g, (s.haltGroup gid reason addr).group gid = Group.halted g)
      ∧ ((s.haltGroup gid reason addr).die (dieOf (s.group gid).core)).errSeq = (s.die (dieOf (s.group gid).core)).errSeq + 1
      ∧ (s.haltGroup gid reason addr).curGroup = s.curGroup := by
  have hleave := s.leaveLines_frame gid
  have hhalt : s.haltGroup gid reason addr = ((s.leaveLines gid).errorRecord (dieOf (s.group gid).core) 4 ((s.group gid).core % 16)
      (s.group gid).ctx false addr.toNat (reason + 256 * (s.group gid).tcause)).updGroup gid Group.halted := rfl
  obtain ⟨u, f, hu, hf, hrec⟩ := (s.leaveLines gid).errorRecord_frame (dieOf (s.group gid).core) 4 ((s.group gid).core % 16) (s.group gid).ctx
    false addr.toNat (reason + 256 * (s.group gid).tcause) []
  rw [hrec] at hhalt
  have hdie : (u.die (dieOf (s.group gid).core)).errSeq = (s.die (dieOf (s.group gid).core)).errSeq := by
    have hdies : u.dies = (s.updDie (dieOf (s.group gid).core) (fun d => d.leftBy gid)).dies := by rw [hu.dies, hleave.1]
    have hsame : u.die (dieOf (s.group gid).core) = (s.die (dieOf (s.group gid).core)).leftBy gid := by
      rw [← s.die_updDie (dieOf (s.group gid).core) (fun d => d.leftBy gid)]
      exact congrArg (fun t => tget t _ _) hdies
    rw [hsame]; rfl
  rw [hhalt]
  refine ⟨⟨_, State.group_updGroup _ _ _⟩, ?_, ?_⟩
  · change ((u.updDie _ f).die _).errSeq = _
    obtain ⟨n, hn⟩ := hf (u.die (dieOf (s.group gid).core))
    rw [u.die_updDie, hn, ← hdie]
  · change u.curGroup = _
    rw [hu.curGroup, hleave.1]
    rfl

/-! ### Entry (R164) -/

theorem Group.endMseqs_of_none {g : Group} (h : ∀ o ∈ g.ops, ∀ x y l, o.instr ≠ .mseq x y l) : g.endMseqs = g := by
  have hfold : ∀ (os : List POp) (g : Group), (∀ o ∈ os, ∀ x y l, o.instr ≠ .mseq x y l) → os.foldl (fun g o =>
      match o.instr with
      | .mseq x _ _ => ({ g.setS x.toNat g.seq with ops := g.ops.filter (fun p => decide (p.id ≠ o.id)) }).discharge o.flag
      | _ => g) g = g := by
    intro os
    induction os with
    | nil => exact fun _ _ => rfl
    | cons o os ih =>
      intro g h
      rw [List.foldl_cons]
      split
      · next x y l hi => exact absurd hi (h o List.mem_cons_self x y l)
      · exact ih g fun p hp => h p (List.mem_cons_of_mem _ hp)
  exact hfold g.ops g h

/-- A trap entry takes the stopped operations into account in the group's list of operations alone. -/
def Group.stoppedFor (g : Group) (cause : Nat) : Group := if cause = 0x0B then g.stopEngine else g

theorem Group.stoppedFor_eq (g : Group) (cause : Nat) : g.stoppedFor cause = { g with ops := (g.stoppedFor cause).ops } := by
  unfold Group.stoppedFor
  split_ifs <;> rfl

/-- The core sees the context's registers anew: no group, no byte of memory and no clock changes. -/
theorem State.cycles_seeContext (s : State) (core ctx c : Nat) : ((s.seeContext core ctx).core c).cycles = (s.core c).cycles := by
  by_cases h : c = core
  · subst h
    have hcore : ((s.refreshCtx ctx).core c).cycles = (s.core c).cycles := by unfold State.refreshCtx; split_ifs <;> rfl
    unfold State.seeContext
    rw [State.core_updCore]
    exact hcore
  · unfold State.seeContext
    rw [State.core_updCore_ne _ _ h]
    unfold State.refreshCtx
    split_ifs <;> rfl

theorem State.seeContext_frame (s : State) (core ctx : Nat) :
    s.seeContext core ctx = { s with ctxs := (s.refreshCtx ctx).ctxs, cores := (s.seeContext core ctx).cores } := by
  unfold State.seeContext State.refreshCtx
  split_ifs <;> rfl

/-- The group in its handler: its lanes entered, one wave in supervisor mode, the trap in its registers. -/
def Group.inHandler (g : Group) (pc : BitVec 52) (now : Nat) (r : Trap) : Group :=
  { g with
    lanes := (g.changeLanes (lanesOf g.live) (fun l x => x.enter pc (g.waveOf l) (g.wave (g.waveOf l)).wasHeld)).lanes
    waves := tset [] (lowLane g.live) { lanes := g.live, readyAt := now }, sup := true, entering := none
    tcause := r.cause, tkind := r.kind, taddr := r.addr, tdetail := r.detail, tmask := if r.kind = 4 then g.live else r.lanes }

theorem State.enterTrap_eq (s : State) (gid : Nat) (r : Trap) :
    let u := s.seeContext (s.group gid).core (s.group gid).ctx
    let g := (u.group gid).endMseqs.stoppedFor r.cause
    s.enterTrap gid r = u.setGroup gid (g.inHandler (handlerPc (u.ctx g.ctx) r.cause) (u.core g.core).cycles r) := by
  intro u g
  unfold Group.inHandler
  rw [Group.lanes_changeLanes]
  rfl

/-- WHAT A TRAP ENTRY DOES where no MSEQ is in flight (R164 steps 5 and 6). -/
theorem State.enterTrap_entered {s : State} {gid : Nat} (r : Trap) (h : ∀ o ∈ (s.group gid).ops, ∀ x y l, o.instr ≠ .mseq x y l) :
    (s.enterTrap gid r).stop = s.stop ∧ s.Entered (s.enterTrap gid r) gid r (fun l => (s.group gid).lane l)
      (fun l => (s.group gid).waveOf l) (fun l => ((s.group gid).wave ((s.group gid).waveOf l)).wasHeld) := by
  have hframe := s.seeContext_frame (s.group gid).core (s.group gid).ctx
  have hcycles := s.cycles_seeContext (s.group gid).core (s.group gid).ctx (s.group gid).core
  have henter := s.enterTrap_eq gid r
  have hgroup : (s.seeContext (s.group gid).core (s.group gid).ctx).group gid = s.group gid := by rw [hframe]; rfl
  have hmseq : ((s.seeContext (s.group gid).core (s.group gid).ctx).group gid).endMseqs = s.group gid := by
    rw [hgroup]; exact Group.endMseqs_of_none h
  have hctx : ∀ c, (s.seeContext (s.group gid).core (s.group gid).ctx).ctx c = (s.refreshCtx (s.group gid).ctx).ctx c := fun c => by
    rw [hframe]; rfl
  have hops := (s.group gid).stoppedFor_eq r.cause
  simp only [hmseq] at henter
  rw [hops] at henter
  simp only [hcycles, hctx] at henter
  rw [henter]
  refine ⟨by rw [hframe]; rfl, ?_⟩
  unfold State.Entered
  simp only [State.group_setGroup]
  refine ⟨rfl, rfl, rfl, rfl, rfl, rfl, rfl, rfl, rfl, fun l hl => ?_, rfl, rfl, rfl, rfl, rfl, rfl, rfl, rfl, rfl, fun key => ?_⟩
  · exact Group.lane_changeLanesOf _ _ _ hl
  · rw [hframe]; rfl

theorem State.settle_stopped {s : State} {gid : Nat} {r : Trap} (hent : (s.group gid).entering = some r) (hsup : (s.group gid).sup = false) :
    s.settle gid = if (s.group gid).allStopped = true then s.enterTrap gid r else s := by
  simp [State.settle, hent, hsup]

/-! ### Reports at a boundary (R88, R166) -/

/-- The group stands at a boundary where what is pending is reported. -/
def Group.Reports (g : Group) : Prop := g.sup = false ∧ g.entering = none ∧ g.exiting = false ∧ g.atBoundary = true

theorem State.report_error {s : State} {gid : Nat} {r : Trap} {rs : List Trap} (h : (s.group gid).Reports)
    (he : (s.group gid).errors = r :: rs) :
    s.report gid = (s.updGroup gid (fun g => { g with errors := rs })).beginTrap gid r := by
  obtain ⟨hsup, hent, hexit, hbound⟩ := h
  simp [State.report, hsup, hent, hexit, hbound, he]

theorem State.report_preempt {s : State} {gid : Nat} {d : DWord} (h : (s.group gid).Reports) (he : (s.group gid).errors = [])
    (hp : (s.group gid).preempt = some d) :
    s.report gid = (s.updGroup gid (fun g => { g with preempt := none })).beginTrap gid (preemptTrap d) := by
  obtain ⟨hsup, hent, hexit, hbound⟩ := h
  simp [State.report, hsup, hent, hexit, hbound, he, hp]

/-! ### The double trap (R166) -/

theorem State.trapWord_sup {s : State} (r : Trap) (h : s.cg.sup = true) : s.trapWord r = s.haltGroup s.curGroup 0xFF s.cw.addr :=
  if_pos h
theorem State.trapStart_sup {s : State} (r : Trap) (h : s.cg.sup = true) : s.trapStart r = s.haltGroup s.curGroup 0xFF s.cw.addr :=
  if_pos h

/-- Settles O20: the entry waits for every wave; a report takes the earliest error, then PREEMPT; a trap of a handler ends the group. -/
theorem trapEntry : Obligations.TrapEntry := by
  refine ⟨fun s gid r hstop hent hsup hmseq => ?_, fun s gid hstop hent hsup hexit hbound => ?_, fun s r hsup => ?_⟩
  · have hexec : exec (.trapEntry gid) s = finish (s.settle gid) := if_pos (by rw [hent]; rfl)
    rw [State.settle_stopped hent hsup] at hexec
    obtain ⟨hkept, hentered⟩ := State.enterTrap_entered r hmseq
    refine ⟨fun hall => ⟨_, ?_, hentered⟩, fun hall => ?_⟩
    · rw [hexec, if_pos hall, finish_next (hkept.trans hstop)]
    · rw [hexec, if_neg (by rw [hall]; exact Bool.false_ne_true), finish_next hstop]
  · have hexec : exec (.trapEntry gid) s = finish (s.report gid) := if_neg (by rw [hent]; exact Bool.false_ne_true)
    refine ⟨fun r rs he => ?_, fun d he hp => ?_, fun he hp => ?_⟩
    · rw [hexec, State.report_error ⟨hsup, hent, hexit, hbound⟩ he]
    · rw [hexec, State.report_preempt ⟨hsup, hent, hexit, hbound⟩ he hp]; rfl
    · rw [hexec, State.report_nothing he hp, finish_next hstop]
  · refine ⟨State.trapWord_sup r hsup, State.trapStart_sup r hsup, fun reason addr => ?_⟩
    obtain ⟨⟨g, hg⟩, herr, hcur⟩ := s.haltGroup_spec s.curGroup reason addr
    have hcg : (s.haltGroup s.curGroup reason addr).cg = g.halted := by unfold State.cg; rw [hcur]; exact hg
    refine ⟨?_, herr⟩
    rw [hcg]
    exact ⟨rfl, rfl, rfl, rfl⟩

end Sys2Proof.Machine
end

section
/-! PROOFS. TRET and TRET.SKIP (R167, R221, R268, R271). -/
namespace Sys2Proof.Machine

/-! ### Lanes grouped by a key (R268) -/

/-- One lane joins the lanes of its key. -/
def gatherLane {κ : Type} [DecidableEq κ] (key : Nat → κ) (acc : List (κ × Mask)) (l : Nat) : List (κ × Mask) :=
  match acc.findIdx? (fun e => decide (e.1 = key l)) with
  | some i => acc.set i (key l, (acc.getD i (key l, 0)).2 ||| (1#32 <<< l))
  | none => acc ++ [(key l, 1#32 <<< l)]

section
variable {κ : Type} [DecidableEq κ]

theorem groupLanes_eq (key : Nat → κ) (m : Mask) : groupLanes key m = ((lanesOf m).foldl (gatherLane key) []).map (·.2) := rfl

theorem foldl_congr_mem {α β : Type} {f g : β → α → β} : ∀ (l : List α), (∀ b, ∀ a ∈ l, f b a = g b a) → ∀ b, l.foldl f b = l.foldl g b
  | [], _, _ => rfl
  | a :: l, h, b => by
    rw [List.foldl_cons, List.foldl_cons, h b a List.mem_cons_self]
    exact foldl_congr_mem l (fun b c hc => h b c (List.mem_cons_of_mem _ hc)) _

/-- The grouping depends on the keys of the mask's lanes alone. -/
theorem groupLanes_congr {key key' : Nat → κ} {m : Mask} (h : ∀ l ∈ lanesOf m, key l = key' l) :
    groupLanes key m = groupLanes key' m := by
  rw [groupLanes_eq, groupLanes_eq, foldl_congr_mem (lanesOf m) (g := gatherLane key')]
  intro acc l hl
  simp only [gatherLane, h l hl]

@[simp] theorem inMask_bit {l : Nat} (hl : l < 32) (i : Nat) : inMask (1#32 <<< l) i = decide (i = l) := by
  unfold inMask
  by_cases h : i = l
  · subst h; simp [hl]
  · simp only [BitVec.getLsbD_shiftLeft, BitVec.getLsbD_one, h, decide_false]
    grind

/-- A set of lanes that are gathered: not empty, and of the given lanes alone. -/
def LanesAmong (ls : List Nat) (m : Mask) : Prop := m ≠ 0#32 ∧ ∀ l, inMask m l = true → l ∈ ls

theorem lanesAmong_gatherLane {key : Nat → κ} {ls : List Nat} (hlt : ∀ l ∈ ls, l < 32) {acc : List (κ × Mask)}
    (h : ∀ e ∈ acc, LanesAmong ls e.2) {l : Nat} (hl : l ∈ ls) : ∀ e ∈ gatherLane key acc l, LanesAmong ls e.2 := by
  have hbit : LanesAmong ls (1#32 <<< l) :=
    ⟨mask_ne_zero (l := l) (by simp [hlt l hl]), fun i hi => by simp [hlt l hl] at hi; exact hi ▸ hl⟩
  intro e he
  unfold gatherLane at he
  split at he
  · next i hi =>
    obtain he | rfl := List.mem_or_eq_of_mem_set he
    · exact h e he
    · refine ⟨mask_ne_zero (l := l) (by simp [inMask_or, hlt l hl]), fun j hj => ?_⟩
      rw [inMask_or, Bool.or_eq_true] at hj
      obtain hj | hj := hj
      · have hi' : i < acc.length := (List.findIdx?_eq_some_iff_findIdx_eq.mp hi).1
        rw [List.getD_eq_getElem _ _ hi'] at hj
        exact (h _ (List.getElem_mem hi')).2 j hj
      · exact hbit.2 j hj
  · obtain he | rfl : e ∈ acc ∨ e = (key l, 1#32 <<< l) := by simpa using he
    · exact h e he
    · exact hbit

/-- Each group of lanes is a set of lanes of the mask, and not empty. -/
theorem lanesAmong_groupLanes (key : Nat → κ) (m : Mask) {x : Mask} (hx : x ∈ groupLanes key m) : LanesAmong (lanesOf m) x := by
  have hfold : ∀ (ls : List Nat), (∀ l ∈ ls, l ∈ lanesOf m) → ∀ acc : List (κ × Mask), (∀ e ∈ acc, LanesAmong (lanesOf m) e.2) →
      ∀ e ∈ ls.foldl (gatherLane key) acc, LanesAmong (lanesOf m) e.2 := by
    intro ls
    induction ls with
    | nil => exact fun _ _ h => h
    | cons l ls ih =>
      intro hmem acc h
      exact ih (fun i hi => hmem i (List.mem_cons_of_mem _ hi)) _
        (lanesAmong_gatherLane (fun i hi => (mem_lanesOf.mp hi).1) h (hmem l List.mem_cons_self))
  rw [groupLanes_eq, List.mem_map] at hx
  obtain ⟨e, he, rfl⟩ := hx
  exact hfold _ (fun _ h => h) [] (fun _ he => nomatch he) e he

theorem lanesOf_ne_nil {m : Mask} (h : m ≠ 0#32) : lanesOf m ≠ [] := fun hl =>
  h (mask_eq_zero_iff.mpr fun _ hlt => Bool.eq_false_iff.mpr fun hin => List.not_mem_nil (hl ▸ mem_lanesOf.mpr ⟨hlt, hin⟩))

theorem inMask_lowLane {m : Mask} (h : m ≠ 0#32) : inMask m (lowLane m) = true := by
  obtain ⟨l, ls, hl⟩ := List.exists_cons_of_ne_nil (lanesOf_ne_nil h)
  have hlow : lowLane m = l := by rw [lowLane, hl]; rfl
  exact hlow ▸ (mem_lanesOf.mp (hl ▸ List.mem_cons_self)).2

theorem LanesAmong.lowLane_mem {ls : List Nat} {m : Mask} (h : LanesAmong ls m) : lowLane m ∈ ls := h.2 _ (inMask_lowLane h.1)

theorem foldl_gatherLane_const {key : Nat → κ} {k : κ} : ∀ (ls : List Nat), (∀ l ∈ ls, key l = k) → ∀ a : Mask,
    ls.foldl (gatherLane key) [(k, a)] = [(k, ls.foldl (fun m i => m ||| (1#32 <<< i)) a)]
  | [], _, _ => rfl
  | l :: ls, h, a => by
    have hstep : gatherLane key [(k, a)] l = [(k, a ||| (1#32 <<< l))] := by
      simp [gatherLane, h l List.mem_cons_self]
    rw [List.foldl_cons, List.foldl_cons, hstep]
    exact foldl_gatherLane_const ls (fun i hi => h i (List.mem_cons_of_mem _ hi)) _

theorem foldl_or_lanesOf (m : Mask) : (lanesOf m).foldl (fun m i => m ||| (1#32 <<< i)) 0#32 = m := by
  refine BitVec.eq_of_getLsbD_eq fun i hi => ?_
  have h := getLsbD_foldl_mask (fun _ => true) hi (lanesOf m) 0#32
  simp only [if_true] at h
  rw [h]
  simp [mem_lanesOf, hi, inMask]

/-- Lanes that share one key form one group. -/
theorem groupLanes_const {key : Nat → κ} {k : κ} {m : Mask} (hm : m ≠ 0#32) (h : ∀ l ∈ lanesOf m, key l = k) : groupLanes key m = [m] := by
  have hor := foldl_or_lanesOf m
  rw [groupLanes_eq]
  cases hl : lanesOf m with
  | nil => exact absurd hl (lanesOf_ne_nil hm)
  | cons l ls =>
    rw [hl, List.foldl_cons] at hor
    rw [hl] at h
    have hfirst : gatherLane key [] l = [(k, 0#32 ||| (1#32 <<< l))] := by
      simp [gatherLane, h l List.mem_cons_self]
    rw [List.foldl_cons, hfirst, foldl_gatherLane_const ls fun i hi => h i (List.mem_cons_of_mem _ hi)]
    exact congrArg (fun x => [x]) hor

theorem groupLanes_empty (key : Nat → κ) {m : Mask} (hm : m = 0#32) : groupLanes key m = [] := by
  subst hm; rfl

end

/-! ### The lanes and waves that TRET restores (R167, R268, R271) -/

/-- Live lanes as their save slots have them. -/
def Group.restored (g : Group) : Group := g.changeLanes (lanesOf g.live) (fun _ x => x.restore)

theorem Group.restored_eq (g : Group) : g.restored = { g with lanes := g.restored.lanes } := g.changeLanes_eq _ _

theorem Group.lane_restored (g : Group) {l : Nat} (hl : l < 32) :
    g.restored.lane l = if inMask g.live l then (g.lane l).restore else g.lane l := g.lane_changeLanesOf _ _ hl

theorem Group.restartOps_nil {g : Group} (h : g.ops = []) : g.restartOps = g := by
  obtain ⟨⟩ := g
  simp only at h
  subst h
  rfl

/-- The waves that lanes form at TRET, from the lanes as they stand. -/
def Group.tretFormed (g : Group) (now : Nat) : Tab Wave :=
  (groupLanes (fun l => ((g.lane l).saveWave, (g.lane l).pc, (g.lane l).rwi, (g.lane l).leftMeet)) g.live).foldl
    (fun t m => tset t (lowLane m) { lanes := m, readyAt := now, resumed := decide ((g.lane (lowLane m)).rwi ≠ 0)
                                     freed := (g.lane (lowLane m)).leftMeet }) []

/-- The group in user mode again, with no completion that is unobserved. -/
def Group.tretDone (g : Group) (now : Nat) : Group :=
  { g with sup := false, waves := g.tretFormed now, late := g.late.map (fun e => { e with done := true })
           lanes := (g.changeLanes (lanesOf g.live) (fun _ x => { x with heldMr := none })).lanes }

theorem State.tretWaves_eq (s : State) (gid : Nat) :
    s.tretWaves gid = s.updGroup gid (fun g => g.tretDone (s.core (s.group gid).core).cycles) := by
  unfold Group.tretDone Group.tretFormed
  simp only [Group.lanes_changeLanes]
  rfl

theorem State.yieldWaves_none (s : State) (gid : Nat) : s.yieldWaves gid 0 = s := by
  unfold State.yieldWaves
  generalize (s.group gid).waves = ws
  induction ws with
  | nil => rfl
  | cons e ws ih =>
    have hnone : e.2.lanes &&& 0 = 0#32 := BitVec.and_zero
    rw [List.foldl_cons, if_pos hnone, ih]

theorem State.checkExit_live {s : State} {gid : Nat} (f : Group → Group) (h : (f (s.group gid)).live ≠ 0#32) :
    (s.updGroup gid f).checkExit gid = s.updGroup gid f := by
  rw [State.checkExit, State.updGroup_updGroup]
  exact congrArg (s.setGroup gid) (if_neg fun hx => h hx.1)

/-- The lanes that a TRET sends past their word. -/
def State.tretSkip (s : State) (k : Bool) : Mask := if k && decide (s.cg.tkind = 0) then s.cg.tmask &&& s.cg.live else 0

/-- The sets of those lanes, which move one after another. -/
def State.tretSkips (s : State) (k : Bool) : List Mask :=
  groupLanes (fun l => (((s.updCur Group.restored).cg.lane l).saveWave, ((s.updCur Group.restored).cg.lane l).pc,
    ((s.updCur Group.restored).cg.lane l).rwi)) (s.tretSkip k)

/-- TRET can return: it is the last word of a NEXT clause of the handler, every flag reads zero, nothing is in flight, and nothing waits
for the boundary. -/
structure State.CanReturn (s : State) : Prop where
  stop : s.stop = none
  enabled : s.Enabled
  sup : s.cg.sup = true
  last : s.cw.idx + 1 = s.cw.words.length
  next : hdrSeq s.cw.hdr = 0
  flags : s.cg.flagsZero = true
  quiet : s.cg.Quiet
  live : s.cg.live ≠ 0#32
  ops : s.cg.ops = []

/-- A U-set word whose fields fail (R151). -/
theorem State.uWord_bad (s : State) {ok : Bool} (k : State → State) (he : s.Enabled) (h : ok = false) : s.uWord ok k = s.illegal := by
  unfold State.uWord
  rw [if_neg he, h]
  rfl

theorem exec_tret_illegal {s : State} (he : s.Enabled) (k : Bool)
    (h : ¬ (s.cg.sup = true ∧ s.cw.idx + 1 = s.cw.words.length ∧ hdrSeq s.cw.hdr = 0)) : exec (.tret k) s = finish s.illegal := by
  change execTret k s = _
  unfold execTret
  dsimp only
  rw [s.uWord_bad _ he]
  simpa using h

theorem exec_tret_waits {s : State} (hstop : s.stop = none) (he : s.Enabled) (k : Bool) (hsup : s.cg.sup = true)
    (hlast : s.cw.idx + 1 = s.cw.words.length) (hnext : hdrSeq s.cw.hdr = 0) (hflags : s.cg.flagsZero = false) :
    exec (.tret k) s = .next s := by
  change execTret k s = _
  unfold execTret
  dsimp only
  rw [s.uWord_ok _ he (by simp [hsup, hlast, hnext]), if_pos (by simp [hflags]), finish_next hstop]

section
variable {s : State} (h : s.CanReturn)
include h

theorem State.CanReturn.restoreAll : s.updCur (fun g => { g.restartOps with
    lanes := (lanesOf g.live).foldl (fun v l => vecSet v l (vecGet v l ({} : Lane)).restore) g.lanes }) = s.updCur Group.restored := by
  refine congrArg (s.setGroup s.curGroup) ?_
  have hre := Group.restartOps_nil h.ops
  unfold State.cg at hre
  dsimp only
  rw [hre, Group.restored_eq]
  exact congrArg (fun v => { s.group s.curGroup with lanes := v }) (Group.lanes_changeLanes _ _ _).symm

/-- WHAT TRET DOES where the lanes that it skips, if any, move on inside their clause: `f` is the restored group after those moves. -/
theorem State.CanReturn.exec_tret {k : Bool} {f : Group → Group} (hf : f s.cg = { s.cg with lanes := (f s.cg).lanes })
    (hskip : (s.updCur Group.restored).skipAll s.curGroup {} (s.tretSkips k) = ({}, s.updCur f)) :
    exec (.tret k) s = .next (s.updCur (fun g => (f g).tretDone (s.core s.cg.core).cycles)) := by
  obtain ⟨hent, herr, hpre, hexit, -, -⟩ := h.quiet
  have hwait : s.cg.stackWaits = false := by simp [Group.stackWaits, Group.acquiring, Group.fencing, h.ops]
  have hcore : (f s.cg).core = s.cg.core := by rw [hf]
  have hcg : (s.updCur f).group s.curGroup = f s.cg := s.cg_updCur f
  have hform : (s.updCur f).tretWaves s.curGroup = s.updCur (fun g => (f g).tretDone (s.core s.cg.core).cycles) := by
    rw [State.tretWaves_eq, hcg, hcore]
    exact s.updGroup_updGroup _ _ _
  have hdone : ((f s.cg).tretDone (s.core s.cg.core).cycles).live = s.cg.live
      ∧ ((f s.cg).tretDone (s.core s.cg.core).cycles).errors = [] ∧ ((f s.cg).tretDone (s.core s.cg.core).cycles).preempt = none := by
    rw [hf]; exact ⟨rfl, herr, hpre⟩
  obtain ⟨hlive, herr', hpre'⟩ := hdone
  change execTret k s = _
  unfold execTret
  dsimp only
  rw [s.uWord_ok _ h.enabled (by simp [h.sup, h.last, h.next]), if_neg (by simp [h.flags, hwait]), h.restoreAll]
  unfold State.tretSkips State.tretSkip at hskip
  rw [hskip]
  change finish (((((s.updCur f).tretWaves s.curGroup).yieldWaves s.curGroup 0).checkExit s.curGroup).report s.curGroup) = _
  rw [State.yieldWaves_none, hform]
  have hexit : (s.updCur (fun g => (f g).tretDone (s.core s.cg.core).cycles)).checkExit s.curGroup
      = s.updCur (fun g => (f g).tretDone (s.core s.cg.core).cycles) :=
    State.checkExit_live _ (fun hl => h.live (hlive.symm.trans hl))
  have hgroup : (s.updCur (fun g => (f g).tretDone (s.core s.cg.core).cycles)).group s.curGroup = (f s.cg).tretDone (s.core s.cg.core).cycles :=
    s.cg_updCur _
  rw [hexit, State.report_nothing (by rw [hgroup]; exact herr') (by rw [hgroup]; exact hpre')]
  exact finish_next (s := s.updCur _) h.stop

end

/-! ### The waves and lanes that TRET leaves -/

theorem Group.lane_tretDone (g : Group) (now : Nat) {l : Nat} (hl : l < 32) :
    (g.tretDone now).lane l = if inMask g.live l then { g.lane l with heldMr := none } else g.lane l := g.lane_changeLanesOf _ _ hl

/-- The waves of the restored lanes, in the terms of their save slots. -/
theorem Group.tretFormed_restored (g : Group) (now : Nat) : g.restored.tretFormed now
    = (groupLanes (fun l => ((g.lane l).saveWave, (g.lane l).savePc, (g.lane l).saveRwi, (g.lane l).restore.leftMeet)) g.live).foldl
        (fun w m => tset w (lowLane m) { lanes := m, readyAt := now, resumed := decide ((g.lane (lowLane m)).saveRwi ≠ 0)
                                         freed := (g.lane (lowLane m)).restore.leftMeet }) [] := by
  have hlane : ∀ l ∈ lanesOf g.live, g.restored.lane l = (g.lane l).restore := fun l hl => by
    obtain ⟨hlt, hin⟩ := mem_lanesOf.mp hl
    rw [g.lane_restored hlt, if_pos hin]
  have hkeys : groupLanes (fun l => ((g.restored.lane l).saveWave, (g.restored.lane l).pc, (g.restored.lane l).rwi,
      (g.restored.lane l).leftMeet)) g.live
      = groupLanes (fun l => ((g.lane l).saveWave, (g.lane l).savePc, (g.lane l).saveRwi, (g.lane l).restore.leftMeet)) g.live :=
    groupLanes_congr fun l hl => by rw [hlane l hl]; rfl
  unfold Group.tretFormed
  rw [show g.restored.live = g.live by rw [g.restored_eq], hkeys]
  refine foldl_congr_mem _ (fun t m hm => ?_) _
  rw [hlane _ (lanesAmong_groupLanes _ _ hm).lowLane_mem]
  rfl

/-! ### TRET.SKIP inside a clause (R167) -/

/-- Lanes of a mask take a resume index. -/
def Group.resumeAt (g : Group) (m : Mask) (i : BitVec 4) : Group := g.changeLanes (lanesOf m) (fun _ x => { x with rwi := i })

theorem Group.resumeAt_restored (g : Group) (m : Mask) (i : BitVec 4) :
    g.restored.resumeAt m i = { g with lanes := (g.restored.resumeAt m i).lanes } := by
  rw [Group.resumeAt, Group.changeLanes_eq, g.restored_eq]

theorem Group.lane_resumeAt (g : Group) (m : Mask) (i : BitVec 4) {l : Nat} (hl : l < 32) :
    (g.resumeAt m i).lane l = if inMask m l then { g.lane l with rwi := i } else g.lane l := g.lane_changeLanesOf m _ hl

/-- A set of lanes whose clause has a further word goes on with it. -/
theorem State.skipLanes_inside {s : State} {gid : Nat} {m : Mask} {h : DWord} {ws : List Word} {bad : Option (Nat × Nat)} (out : Skipped)
    (hfetch : s.fetchClause (s.group gid).core (s.group gid).ctx (!(s.group gid).sup) ((s.group gid).lane (lowLane m)).pc
      = (.ok (h, ws, bad), s)) (hnext : afterWord ws ((s.group gid).lane (lowLane m)).rwi.toNat < hdrLen h) :
    s.skipLanes gid m out = (out, s.updGroup gid (fun g =>
      g.resumeAt m (BitVec.ofNat 4 (afterWord ws ((s.group gid).lane (lowLane m)).rwi.toNat)))) := by
  unfold State.skipLanes
  simp only [hfetch, if_pos hnext]
  rfl

theorem State.skipAll_one {s u : State} {gid : Nat} {m : Mask} (h : s.skipLanes gid m {} = ({}, u)) : s.skipAll gid {} [m] = ({}, u) := by
  unfold State.skipAll
  rw [h]
  rfl

/-- R167: after a trap at a word, its lanes stand at one word of a clause with a further one, and go on with that. -/
theorem State.skipAll_word {s : State} {h : DWord} {ws : List Word} {pc : BitVec 52} {i : BitVec 4} (hsup : s.cg.sup = true)
    (hkind : s.cg.tkind = 0) (hsub : s.cg.tmask &&& ~~~s.cg.live = 0#32)
    (hsame : ∀ l, inMask s.cg.tmask l = true → (s.cg.lane l).savePc = pc ∧ (s.cg.lane l).saveRwi = i ∧ (s.cg.lane l).saveWave = 0)
    (hfetch : (s.updCur Group.restored).fetchClause s.cg.core s.cg.ctx false pc = (.ok (h, ws, none), s.updCur Group.restored))
    (hnext : afterWord ws i.toNat < hdrLen h) :
    (s.updCur Group.restored).skipAll s.curGroup {} (s.tretSkips true)
      = ({}, s.updCur (fun g => g.restored.resumeAt s.cg.tmask (BitVec.ofNat 4 (afterWord ws i.toNat)))) := by
  have hcg : (s.updCur Group.restored).cg = s.cg.restored := s.cg_updCur _
  have hskip : s.tretSkip true = s.cg.tmask := by
    refine BitVec.eq_of_getLsbD_eq fun l hl => ?_
    have := mask_eq_zero_iff.mp hsub l hl
    rw [inMask_and, inMask_not _ hl] at this
    change inMask (s.tretSkip true) l = inMask s.cg.tmask l
    simp only [State.tretSkip, hkind, decide_true, Bool.and_self, if_true, inMask_and]
    revert this
    cases inMask s.cg.tmask l <;> cases inMask s.cg.live l <;> simp
  have hlane : ∀ l, inMask s.cg.tmask l = true → s.cg.restored.lane l = (s.cg.lane l).restore := fun l hl => by
    have hlt : l < 32 := BitVec.lt_of_getLsbD hl
    have := mask_eq_zero_iff.mp hsub l hlt
    rw [inMask_and, inMask_not _ hlt, hl] at this
    rw [s.cg.lane_restored hlt, if_pos (by simpa using this)]
  unfold State.tretSkips
  rw [hskip, hcg]
  by_cases hm : s.cg.tmask = 0#32
  · rw [groupLanes_empty _ hm, hm]; rfl
  · have hkeys : ∀ l ∈ lanesOf s.cg.tmask, ((s.cg.restored.lane l).saveWave, (s.cg.restored.lane l).pc, (s.cg.restored.lane l).rwi)
        = (0, pc, i) := fun l hl => by
      obtain ⟨-, hin⟩ := mem_lanesOf.mp hl
      obtain ⟨hpc, hrwi, hwave⟩ := hsame l hin
      rw [hlane l hin]
      simp [Lane.restore, hpc, hrwi, hwave]
    obtain ⟨hpc, hrwi, -⟩ := hsame _ (inMask_lowLane hm)
    have hlow := hlane _ (inMask_lowLane hm)
    have hpc' : (s.cg.restored.lane (lowLane s.cg.tmask)).pc = pc := by rw [hlow]; exact hpc
    have hrwi' : (s.cg.restored.lane (lowLane s.cg.tmask)).rwi = i := by rw [hlow]; exact hrwi
    have hgroup : (s.updCur Group.restored).group s.curGroup = s.cg.restored := hcg
    have hstep := State.skipLanes_inside (s := s.updCur Group.restored) (gid := s.curGroup) (m := s.cg.tmask) (h := h) (ws := ws) {}
      (by rw [hgroup, hpc', s.cg.restored_eq, hsup]; exact hfetch) (by rw [hgroup, hrwi']; exact hnext)
    rw [groupLanes_const hm hkeys]
    refine State.skipAll_one (hstep.trans ?_)
    rw [hgroup, hrwi']
    exact congrArg (Prod.mk _) (s.updGroup_updGroup _ _ _)

/-- Settles O21: what TRET restores, when it waits and when it is illegal, and the lanes that TRET.SKIP moves past their word. -/
theorem trapReturn : Obligations.TrapReturn := by
  constructor
  · intro s k hstop he placed
    refine ⟨fun hnot => exec_tret_illegal he k hnot, fun hsup hplaced hflags => ?_, fun hsup hplaced hflags hk hquiet hlive hops => ?_⟩
    · exact exec_tret_waits hstop he k hsup hplaced.1 hplaced.2 hflags
    have hret : s.CanReturn := ⟨hstop, he, hsup, hplaced.1, hplaced.2, hflags, hquiet, hlive, hops⟩
    have hskips : s.tretSkips k = [] := groupLanes_empty _ (by
      unfold State.tretSkip
      cases k with
      | false => rfl
      | true => simp [hk rfl])
    have hexec := hret.exec_tret (k := k) s.cg.restored_eq (by rw [hskips]; rfl)
    have hcg : (s.updCur (fun g => g.restored.tretDone (s.core s.cg.core).cycles)).cg = s.cg.restored.tretDone (s.core s.cg.core).cycles :=
      s.cg_updCur _
    refine ⟨_, hexec, s.sameButGroup_updCur _, ?_, ?_, fun l hl => ?_, ?_⟩
    · rw [hcg]; rfl
    · rw [hcg, Group.restored_eq]
      obtain ⟨-, -, -, -, hlate, -⟩ := hquiet
      simp only [Group.tretDone, hlate, List.map_nil]
    · rw [hcg, Group.lane_tretDone _ _ hl, s.cg.lane_restored hl, show s.cg.restored.live = s.cg.live by rw [s.cg.restored_eq]]
      by_cases hin : inMask s.cg.live l = true
      · simp [hin, Lane.restore]
      · simp [hin]
    · rw [hcg]
      exact s.cg.tretFormed_restored _
  · intro s h ws pc i hstop he hsup hlast hnext hflags hkind hquiet hlive hops hsub hsame hin hfetch
    have hret : s.CanReturn := ⟨hstop, he, hsup, hlast, hnext, hflags, hquiet, hlive, hops⟩
    have hskip : (s.updCur Group.restored).skipAll s.curGroup {} (s.tretSkips true)
        = ({}, s.updCur (fun g => g.restored.resumeAt s.cg.tmask (BitVec.ofNat 4 (afterWord ws i.toNat)))) :=
      State.skipAll_word hsup hkind hsub hsame (hfetch _) hin
    have hexec := hret.exec_tret (k := true) (s.cg.resumeAt_restored _ _) hskip
    have hcg := s.cg_updCur (fun g => (g.restored.resumeAt s.cg.tmask (BitVec.ofNat 4 (afterWord ws i.toNat))).tretDone
      (s.core s.cg.core).cycles)
    refine ⟨_, hexec, by rw [hcg]; rfl, fun l hl => ?_⟩
    rw [hcg, Group.lane_tretDone _ _ hl, Group.lane_resumeAt _ _ _ hl, s.cg.lane_restored hl,
      show (s.cg.restored.resumeAt s.cg.tmask _).live = s.cg.live by rw [s.cg.resumeAt_restored]]
    by_cases hlv : inMask s.cg.live l = true
    · by_cases hm : inMask s.cg.tmask l = true <;> simp [hlv, hm, Lane.restore]
    · have hm : inMask s.cg.tmask l = false := by
        have := mask_eq_zero_iff.mp hsub l hl
        rw [inMask_and, inMask_not _ hl] at this
        simpa [hlv] using this
      simp [hlv, hm]

end Sys2Proof.Machine
end

section
/-! PROOFS. Save slots and translations: LANEST, LANELD and TLBINV (R169 to R171). -/
namespace Sys2Proof.Machine

/-! ### LANEST -/

theorem vecSet_vecGet {α : Type} {n : Nat} (v : Vector α n) (i : Nat) (d : α) : vecSet v i (vecGet v i d) = v := by
  refine Vector.ext fun j hj => ?_
  rw [vecSet, Vector.getElem_setIfInBounds hj]
  split_ifs with hij
  · subst hij
    rw [vecGet, dif_pos hj]
  · rfl

theorem Group.setLane_lane (g : Group) (l : Nat) : g.setLane l (g.lane l) = g :=
  congrArg (fun v => { g with lanes := v }) (vecSet_vecGet _ _ _)

theorem Lane.slotWords_eq (l : Lane) : l.slotWords = saveSlot l := by
  unfold Lane.slotWords saveSlot
  cases l.saveMr with
  | none => simp
  | some m => rfl

/-- The four words of each lane's save slot go to its registers. -/
def Group.storeSlots (g : Group) (v : Nat) (ls : List Nat) : Group := ls.foldl (fun g l => g.setVs v l 4 (g.lane l).slotWords) g

theorem Group.lanes_storeSlots (v : Nat) (ls : List Nat) : ∀ g : Group, (g.storeSlots v ls).lanes = g.lanes := by
  induction ls with
  | nil => exact fun _ => rfl
  | cons l ls ih =>
    intro g
    have hset : (g.setVs v l 4 (g.lane l).slotWords).lanes = g.lanes := by rw [Group.setVs_eq]
    exact (ih _).trans hset

/-- The stores as results of a word that leaves the lanes as they are. -/
theorem Group.storeSlots_eq (v : Nat) (ls : List Nat) (g : Group) : ∀ h : Group, h.lanes = g.lanes → h.storeSlots v ls = ls.foldl (fun h l =>
    let r := (fun l (gen : Word) => ((g.lane l).slotWords, gen)) l (h.lane l).gen
    (h.setVs v l 4 r.1).setLane l { h.lane l with gen := r.2 }) h := by
  induction ls with
  | nil => exact fun _ _ => rfl
  | cons l ls ih =>
    intro h hl
    have hlane : (h.setVs v l 4 (h.lane l).slotWords).lanes = h.lanes := by rw [Group.setVs_eq]
    have hstep : (h.setVs v l 4 (g.lane l).slotWords).setLane l { h.lane l with gen := (h.lane l).gen } = h.setVs v l 4 (h.lane l).slotWords := by
      have hsame : h.lane l = g.lane l := by unfold Group.lane; rw [hl]
      rw [← hsame]
      have hself := (h.setVs v l 4 (h.lane l).slotWords).setLane_lane l
      rwa [show (h.setVs v l 4 (h.lane l).slotWords).lane l = h.lane l from congrArg (fun x => vecGet x l ({} : Lane)) hlane] at hself
    rw [List.foldl_cons]
    change (h.setVs v l 4 (h.lane l).slotWords).storeSlots v ls = _
    rw [ih _ (hlane.trans hl)]
    exact congrArg (fun x => ls.foldl _ x) hstep.symm

theorem exec_lanest {s : State} {v : BitVec 8} (hstop : s.stop = none) (he : s.Enabled) (hsup : s.cg.sup = true)
    (hd : dstOk s.cg.n v.toNat 4 = true) :
    exec (.lanest v) s = .next (s.updCur (fun g => g.storeSlots v.toNat (lanesOf s.cw.en))).nextWord := by
  change finish (s.privWord _ _) = _
  rw [s.privWord_ok _ he hd hsup]
  exact finish_next (s := (s.updCur _).nextWord) hstop

/-- WHAT LANEST LEAVES: each enabled lane has the four words of its slot in four registers. -/
theorem State.storedSlots_done (s : State) (v : BitVec 8) :
    let t := (s.updCur (fun g => g.storeSlots v.toNat (lanesOf s.cw.en))).nextWord
    s.WordDone t { s.cg with v := t.cg.v, bad := t.cg.bad } ∧ ∀ r l, l < 32 → t.cg.vreg r l =
      if inMask s.cw.en l ∧ v.toNat ≤ r ∧ r < v.toNat + 4 then BitVec.ofNat 32 (saveSlot (s.cg.lane l) / 2 ^ (32 * (r - v.toNat)))
      else s.cg.vreg r l := by
  intro t
  obtain ⟨hframe, hreg, -, hlate, -⟩ := vResults_fold v.toNat 4 (fun l (gen : Word) => ((s.cg.lane l).slotWords, gen)) (lanesOf s.cw.en)
    (fun l hl => (mem_lanesOf.mp hl).1) (nodup_lanesOf _) s.cg
  simp only [← Group.storeSlots_eq v.toNat (lanesOf s.cw.en) s.cg s.cg rfl] at hframe hreg hlate
  have hcg : t.cg = { s.cg.storeSlots v.toNat (lanesOf s.cw.en) with waves := t.cg.waves } := s.cg_upd_nextWord _
  refine ⟨(s.wordDone_upd _ (by rw [hframe]) (by rw [hframe]) hlate).congr ?_, fun r l hl => ?_⟩
  · rw [hcg]
    simp only []
    rw [hframe, Group.lanes_storeSlots]
  · have : t.cg.vreg r l = (s.cg.storeSlots v.toNat (lanesOf s.cw.en)).vreg r l := by rw [hcg]; rfl
    rw [this, hreg r l hl]
    simp only [mem_lanesOf, hl, true_and, Lane.slotWords_eq]

/-! ### LANELD -/

section
variable {s : State} {v : BitVec 8} (hstop : s.stop = none) (he : s.Enabled) (hsup : s.cg.sup = true) (hd : dstOk s.cg.n v.toNat 4 = true)

theorem Group.srcs_setLane (g : Group) (i : Nat) (x : Lane) (l n : Nat) : ∀ v, (g.setLane i x).srcs v l n = g.srcs v l n := by
  induction n with
  | zero => exact fun _ => rfl
  | succ n ih => exact fun v => congrArg (fun y => (g.src v l).toNat + 2 ^ 32 * y) (ih _)

theorem Group.loadSlots_eq (v : Nat) (ls : List Nat) (g : Group) : ∀ h : Group, (∀ l, h.srcs v l 4 = g.srcs v l 4) →
    ls.foldl (fun g l => g.setLane l ((g.lane l).loadSlot (g.srcs v l 4))) h = h.changeLanes ls (fun l x => x.loadSlot (g.srcs v l 4)) := by
  induction ls with
  | nil => exact fun _ _ => by rw [Group.changeLanes, List.foldl_nil, List.foldl_nil]
  | cons l ls ih =>
    intro h hsrc
    have hnext := ih (h.setLane l ((h.lane l).loadSlot (g.srcs v l 4))) (fun i => by rw [Group.srcs_setLane, hsrc])
    rw [List.foldl_cons, hsrc, hnext]
    rfl

include he hsup hd

theorem exec_laneld_illegal {l : Nat} (hl : inMask s.cw.en l = true)
    (hbad : slotWordsOk (s.cg.srcs v.toNat l 4) s.cg.callLimit = false) : exec (.laneld v) s = finish s.illegal := by
  change finish (s.privWord _ _) = _
  rw [s.privWord_ok _ he hd hsup]
  refine congrArg finish (if_pos ?_)
  rw [Bool.not_eq_true', List.all_eq_false]
  exact ⟨l, mem_lanesOf_of_inMask hl, by simp [hbad]⟩

include hstop

theorem exec_laneld (hok : ∀ l, inMask s.cw.en l = true → slotWordsOk (s.cg.srcs v.toNat l 4) s.cg.callLimit = true) :
    exec (.laneld v) s
      = .next (s.updCur (fun g => g.changeLanes (lanesOf s.cw.en) (fun l x => x.loadSlot (s.cg.srcs v.toNat l 4)))).nextWord := by
  change finish (s.privWord _ _) = _
  have hall : (lanesOf s.cw.en).all (fun l => slotWordsOk (s.cg.srcs v.toNat l 4) s.cg.callLimit) = true :=
    List.all_eq_true.mpr fun l hl => hok l (mem_lanesOf.mp hl).2
  rw [s.privWord_ok _ he hd hsup]
  dsimp only
  rw [hall, if_neg (by simp)]
  have hload := Group.loadSlots_eq v.toNat (lanesOf s.cw.en) s.cg s.cg (fun _ => rfl)
  refine Eq.trans ?_ (finish_next (s := (s.updCur _).nextWord) hstop)
  exact congrArg (fun g => finish (s.setGroup s.curGroup g).nextWord) hload

end

theorem State.loadedSlots_done (s : State) (x : Nat → Nat) :
    let t := (s.updCur (fun g => g.changeLanes (lanesOf s.cw.en) (fun l y => y.loadSlot (x l)))).nextWord
    s.WordDone t { s.cg with lanes := t.cg.lanes }
      ∧ ∀ l < 32, t.cg.lane l = if inMask s.cw.en l then (s.cg.lane l).loadSlot (x l) else s.cg.lane l := by
  intro t
  have hframe := s.cg.changeLanes_eq (lanesOf s.cw.en) (fun l y => y.loadSlot (x l))
  have hcg : t.cg = { s.cg.changeLanes (lanesOf s.cw.en) (fun l y => y.loadSlot (x l)) with waves := t.cg.waves } := s.cg_upd_nextWord _
  refine ⟨(s.wordDone_upd _ (by rw [hframe]) (by rw [hframe]) (by rw [hframe])).congr ?_, fun l hl => ?_⟩
  · rw [hcg, hframe]
  · rw [← s.cg.lane_changeLanesOf s.cw.en (fun l y => y.loadSlot (x l)) hl, hcg]
    rfl

/-! ### Tables whose entries change alike -/

theorem tget_foldl_idem {α : Type} {f : α → α} (hf : ∀ x, f (f x) = f x) (d : α) (ls : List Nat) : ∀ (t : Tab α) (k : Nat),
    tget (ls.foldl (fun t i => tset t i (f (tget t i d))) t) k d = if k ∈ ls then f (tget t k d) else tget t k d := by
  induction ls with
  | nil => simp
  | cons i ls ih =>
    intro t k
    rw [List.foldl_cons, ih, tget_tset]
    by_cases hk : k = i
    · subst hk; simp [hf]
    · simp [hk]

theorem tget?_mapKeyed {α β : Type} (f : Nat → α → β) (t : Tab α) (k : Nat) :
    tget? (t.map fun e => (e.1, f e.1 e.2)) k = (tget? t k).map (f k) := by
  induction t with
  | nil => rfl
  | cons e t ih =>
    simp only [List.map_cons, tget?, ih]
    split_ifs with hlt heq
    · rfl
    · rw [heq]; rfl
    · rfl

theorem State.foldl_updCore (f : Core → Core) (ls : List Nat) : ∀ s : State, ls.foldl (fun s c => s.updCore c f) s
    = { s with cores := ls.foldl (fun t i => tset t i (f (tget t i {}))) s.cores } := by
  induction ls with
  | nil => exact fun _ => rfl
  | cons i ls ih => exact fun s => ih _

theorem State.foldl_updDie (f : Die → Die) (ls : List Nat) : ∀ s : State, ls.foldl (fun s d => s.updDie d f) s
    = { s with dies := ls.foldl (fun t i => tset t i (f (tget t i {}))) s.dies } := by
  induction ls with
  | nil => exact fun _ => rfl
  | cons i ls ih => exact fun s => ih _

/-! ### The issue of TLBINV (R171) -/

/-- An operation charged to no flag: the group has it in flight, and nothing else of it has changed. -/
theorem State.cg_issueOp_unflagged (s : State) {o : POp} (h : o.flag = none) :
    (s.issueOp o).nextWord.cg = { s.cg with ops := s.cg.ops ++ [s.numbered o], waves := (s.issueOp o).nextWord.cg.waves } := by
  have hgroup : (s.issueOp o).cg = { s.cg.charge o.flag with ops := s.cg.ops ++ [s.numbered o] } := by
    unfold State.issueOp
    rw [State.cg_updCur]
    rfl
  have hcharge : s.cg.charge o.flag = s.cg := by rw [h]; rfl
  rw [State.cg_nextWord, hgroup, hcharge]
  rfl

/-- The operation that a TLBINV puts in flight. -/
def State.tlbinvOp (s : State) (a b : BitVec 6) (c : BitVec 3) (k : BitVec 2) : POp :=
  { instr := .tlbinv a b c k
    args := [k.toNat, s.cg.ctx, if k = 0 then (s.cg.spair a.toNat).toNat / 2 ^ 16 % 2 ^ 36 else 0
             , if k = 0 then (s.cg.sreg b.toNat).toNat else 0, c.toNat] }

theorem exec_tlbinv {s : State} {a b : BitVec 6} {c : BitVec 3} {k : BitVec 2} (hstop : s.stop = none) (he : s.Enabled)
    (hsup : s.cg.sup = true) (hp : Privileged s.cg.n (.tlbinv a b c k)) (hk : k = 2 → s.sysr = true) :
    exec (.tlbinv a b c k) s
      = .next ((s.issueOp (s.tlbinvOp a b c k)).nextWord.updWave fun w => { w with phase := .fencedTlb s.nextOp }) := by
  have hok : ((if k = 0 then sspanOk a.toNat 2 else decide (a = 0) && decide (b = 0))
      && (decide (c = 1) || decide (c = 3) || decide (c = 4)) && decide (k ≠ 3)) = true := by
    cases hp with
    | tlbinv hkind hc => rcases hkind with rfl | rfl <;> rcases hc with rfl | rfl | rfl <;> rfl
    | tlbinvPages ha hc =>
      have hspan : sspanOk a.toNat 2 = true := by simp [sspanOk]; omega
      rcases hc with rfl | rfl | rfl <;> simp [hspan]
  have hsys : ¬(decide (k = 2) && !s.sysr) = true := by
    by_cases h : k = 2
    · rw [hk h]; simp
    · rw [decide_eq_false h]; simp
  refine Eq.trans (congrArg finish ?_) (finish_next (s := (s.issueOp _).nextWord.updWave _) hstop)
  rw [s.privWord_ok _ he hok hsup]
  exact if_neg hsys

/-! ### The completion of TLBINV (R169, R171) -/

theorem State.onlyMemory_drainMany (n : Nat) : ∀ s : State, s.OnlyMemory (s.drainMany n) := by
  induction n with
  | zero => exact fun s => s.onlyMemory_refl
  | succ n ih =>
    intro s
    have hone : s.OnlyMemory s.drainOne := by
      unfold State.drainOne
      split
      · exact s.onlyMemory_refl
      · exact State.OnlyMemory.trans (t := { s with mq := _ }) rfl (State.onlyMemory_putHome _ _ _)
    exact hone.trans (ih _)

theorem State.onlyMemory_drainAll (s : State) : s.OnlyMemory s.drainAll := s.onlyMemory_drainMany _

theorem State.refreshCtx_eq (s : State) (x : Nat) : s.refreshCtx x = { s with ctxs := (s.refreshCtx x).ctxs } := by
  unfold State.refreshCtx
  split_ifs <;> rfl

theorem State.refreshCovered_eq (s : State) (v : Inval) : s.refreshCovered v = { s with ctxs := (s.refreshCovered v).ctxs } := by
  unfold State.refreshCovered
  generalize s.ctxs.filter (fun e => v.covers e.1) = es
  induction es generalizing s with
  | nil => rfl
  | cons e es ih =>
    rw [List.foldl_cons, ih, s.refreshCtx_eq]

theorem State.group_dropPreds (s : State) (v : Inval) (cores : List Nat) (g : Nat) :
    ∃ p, (s.dropPreds v cores).group g = { s.group g with preds := p } := by
  have hmap : (s.dropPreds v cores).groups
      = s.groups.map fun e => (e.1, if decide (e.2.core ∈ cores) && v.covers e.2.ctx then { e.2 with preds := [] } else e.2) :=
    List.map_congr_left fun e _ => by split_ifs <;> rfl
  unfold State.group tget
  rw [hmap, tget?_map (fun x : Group => if decide (x.core ∈ cores) && v.covers x.ctx then { x with preds := [] } else x)]
  cases tget? s.groups g with
  | none => exact ⟨_, rfl⟩
  | some x =>
    simp only [Option.map_some, Option.getD_some]
    split_ifs
    · exact ⟨_, rfl⟩
    · exact ⟨_, rfl⟩

/-- Cores that have woken from gating, at most: nothing but them has changed, no translation, and no core outside the list. -/
def State.GatesAborted (s t : State) (ls : List Nat) : Prop :=
  t = { s with cores := t.cores } ∧ ∀ x, (t.core x).tlb = (s.core x).tlb ∧ (t.core x).stlb = (s.core x).stlb
    ∧ (x ∉ ls → t.core x = s.core x)

theorem State.GatesAborted.cons {s t u : State} {c : Nat} {ls : List Nat} (h : s.GatesAborted t [c]) (k : t.GatesAborted u ls) :
    s.GatesAborted u (c :: ls) := by
  obtain ⟨hs, hcores⟩ := h
  obtain ⟨ht, hcores'⟩ := k
  refine ⟨by rw [ht, hs], fun x => ?_⟩
  obtain ⟨htlb, hstlb, hsame⟩ := hcores x
  obtain ⟨htlb', hstlb', hsame'⟩ := hcores' x
  refine ⟨htlb'.trans htlb, hstlb'.trans hstlb, fun hx => ?_⟩
  obtain ⟨hne, hnot⟩ := not_or.mp (mt List.mem_cons.mpr hx)
  exact (hsame' hnot).trans (hsame (mt List.mem_singleton.mp hne))

theorem State.gatesAborted_abortGate (s : State) (c : Nat) : s.GatesAborted (s.abortGate c) [c] := by
  unfold State.abortGate
  split_ifs
  · refine ⟨rfl, fun x => ?_⟩
    by_cases hx : x = c
    · subst hx; simp
    · rw [State.core_updCore_ne _ _ hx]; exact ⟨rfl, rfl, fun _ => rfl⟩
  · exact ⟨rfl, fun _ => ⟨rfl, rfl, fun _ => rfl⟩⟩

theorem State.foldl_abortGate (ls : List Nat) : ∀ s : State, s.GatesAborted (ls.foldl State.abortGate s) ls := by
  induction ls with
  | nil => exact fun s => ⟨rfl, fun _ => ⟨rfl, rfl, fun _ => rfl⟩⟩
  | cons c ls ih => exact fun s => (s.gatesAborted_abortGate c).cons (ih _)

/-- A core without the translations that a predicate names. -/
def Core.without (c : Core) (p : TlbEntry → Bool) : Core :=
  { c with tlb := c.tlb.filter (fun t => !p t), stlb := c.stlb.filter (fun t => !p t) }

/-- A die whose walk cache holds no node that a predicate names. -/
def Die.withoutNodes (d : Die) (p : WalkEntry → Bool) : Die := { d with walks := d.walks.filter (fun w => !p w) }

theorem Core.without_without (c : Core) (p : TlbEntry → Bool) : (c.without p).without p = c.without p := by
  simp [Core.without, List.filter_filter]

theorem Die.withoutNodes_withoutNodes (d : Die) (p : WalkEntry → Bool) : (d.withoutNodes p).withoutNodes p = d.withoutNodes p := by
  simp [Die.withoutNodes, List.filter_filter]

/-- A context whose walks use the new roots on the dies given. -/
def Ctx.rerooted (c : Ctx) (dies : List Nat) : Ctx :=
  { c with walkRoot0 := if 0 ∈ dies then c.root0 else c.walkRoot0, walkRoot1 := if 1 ∈ dies then c.root1 else c.walkRoot1 }

/-- The contexts after an invalidation. -/
def Inval.rerootTab (v : Inval) (dies : List Nat) (t : Tab Ctx) : Tab Ctx :=
  if v.kind = 0 then t else t.map fun e => (e.1, if v.covers e.1 then e.2.rerooted dies else e.2)

theorem State.invalidateAll_eq (s : State) (v : Inval) (cores : List Nat) : s.invalidateAll v cores = { s with
    cores := cores.foldl (fun t i => tset t i (Core.without (tget t i {}) v.tlb)) s.cores
    dies := (cores.map dieOf).dedup.foldl (fun t i => tset t i (Die.withoutNodes (tget t i {}) v.node)) s.dies
    ctxs := v.rerootTab (cores.map dieOf).dedup s.ctxs } := by
  have hcores := State.foldl_updCore (fun c => c.without v.tlb) cores s
  have hdies := State.foldl_updDie (fun d => d.withoutNodes v.node) (cores.map dieOf).dedup
  unfold State.invalidateAll Inval.rerootTab
  dsimp only [State.dropTlb]
  unfold Core.without at hcores
  unfold Die.withoutNodes at hdies
  rw [hcores, hdies]
  by_cases hk : v.kind = 0
  · rw [if_pos hk, if_pos hk]; rfl
  · rw [if_neg hk, if_neg hk]
    refine congrArg (fun t => ({ s with cores := _, dies := _, ctxs := t } : State)) (List.map_congr_left fun e _ => ?_)
    by_cases he : v.covers e.1 = true
    · rw [if_pos he, if_pos he]; rfl
    · rw [if_neg he, if_neg he]

/-- R171: WHAT AN INVALIDATION REMOVES from cores and dies. -/
theorem State.core_invalidateAll (s : State) (v : Inval) (cores : List Nat) (x : Nat) :
    (s.invalidateAll v cores).core x = if x ∈ cores then (s.core x).without v.tlb else s.core x := by
  rw [s.invalidateAll_eq]
  exact tget_foldl_idem (f := fun c => c.without v.tlb) (fun c => c.without_without v.tlb) {} cores s.cores x

theorem State.die_invalidateAll (s : State) (v : Inval) (cores : List Nat) (d : Nat) :
    (s.invalidateAll v cores).die d = if d ∈ cores.map dieOf then (s.die d).withoutNodes v.node else s.die d := by
  rw [s.invalidateAll_eq]
  have hfold := tget_foldl_idem (f := fun x => x.withoutNodes v.node) (fun x => x.withoutNodes_withoutNodes v.node) {}
    (cores.map dieOf).dedup s.dies d
  simp only [List.mem_dedup] at hfold
  exact hfold

/-- R169: walks of a context that the invalidation covers whole use its new root on each die in scope. -/
theorem State.roots_invalidateAll (s : State) {v : Inval} (cores : List Nat) (hk : v.kind ≠ 0) {x : Nat} (hx : v.covers x = true) :
    let t := s.invalidateAll v cores
    (0 ∈ cores.map dieOf → (t.ctx x).walkRoot0 = (t.ctx x).root0) ∧ (1 ∈ cores.map dieOf → (t.ctx x).walkRoot1 = (t.ctx x).root1) := by
  intro t
  have hctx : t.ctx x = match tget? s.ctxs x with
      | some c => c.rerooted (cores.map dieOf).dedup
      | none => {} := by
    change tget t.ctxs x {} = _
    rw [show t.ctxs = v.rerootTab (cores.map dieOf).dedup s.ctxs by rw [show t = _ from s.invalidateAll_eq v cores]]
    rw [Inval.rerootTab, if_neg hk, tget, tget?_mapKeyed (fun i c => if v.covers i then Ctx.rerooted c _ else c)]
    cases tget? s.ctxs x with
    | none => rfl
    | some c => exact if_pos hx
  rw [hctx]
  cases tget? s.ctxs x with
  | none => exact ⟨fun _ => rfl, fun _ => rfl⟩
  | some c => exact ⟨fun h => if_pos (List.mem_dedup.mpr h), fun h => if_pos (List.mem_dedup.mpr h)⟩

/-- A TLBINV_COMPLETE that waits for no access, up to the end of its operation. -/
def State.invalidated (s : State) (v : Inval) (cores : List Nat) : State :=
  cores.foldl State.abortGate (((s.drainAll.refreshCovered v).dropPreds v cores).invalidateAll v cores)

/-- R169, R171: WHAT A TLBINV_COMPLETE LEAVES before its operation ends. -/
theorem State.invalidated_spec (s : State) (v : Inval) (cores : List Nat) :
    let u := s.invalidated v cores
    (∀ x ∈ cores, (u.core x).tlb = ((s.core x).without v.tlb).tlb ∧ (u.core x).stlb = ((s.core x).without v.tlb).stlb)
      ∧ (∀ x ∉ cores, u.core x = s.core x) ∧ (∀ x ∈ cores, u.die (dieOf x) = (s.die (dieOf x)).withoutNodes v.node)
      ∧ (∀ g, ∃ p, u.group g = { s.group g with preds := p })
      ∧ (v.kind ≠ 0 → ∀ x, v.covers x = true → ((∃ y ∈ cores, dieOf y = 0) → (u.ctx x).walkRoot0 = (u.ctx x).root0)
          ∧ ((∃ y ∈ cores, dieOf y = 1) → (u.ctx x).walkRoot1 = (u.ctx x).root1))
      ∧ ∀ key, u.homeByte key = s.drainAll.homeByte key := by
  intro u
  set b := s.drainAll.refreshCovered v with hb
  set c := b.dropPreds v cores with hc
  set d := c.invalidateAll v cores with hd
  obtain ⟨hframe, hcores⟩ : d.GatesAborted u cores := State.foldl_abortGate cores d
  have hctxs : b = { s.drainAll with ctxs := b.ctxs } := State.refreshCovered_eq _ v
  have hmem : s.OnlyMemory s.drainAll := s.onlyMemory_drainAll
  have hcore : ∀ x, d.core x = if x ∈ cores then (s.core x).without v.tlb else s.core x := fun x => by
    have hsame : c.core x = s.core x := by
      change tget b.cores x {} = _
      rw [hctxs, hmem]; rfl
    rw [hd, State.core_invalidateAll, hsame]
  have hdie : ∀ x, u.die x = d.die x := fun x => by rw [hframe]; rfl
  have hctx : ∀ x, u.ctx x = d.ctx x := fun x => by rw [hframe]; rfl
  refine ⟨fun x hx => ?_, fun x hx => ?_, fun x hx => ?_, fun g => ?_, fun hk x hx => ?_, fun key => ?_⟩
  · obtain ⟨htlb, hstlb, -⟩ := hcores x
    rw [htlb, hstlb, hcore x, if_pos hx]
    exact ⟨rfl, rfl⟩
  · obtain ⟨-, -, hsame⟩ := hcores x
    rw [hsame hx, hcore x, if_neg hx]
  · have hsame : c.die (dieOf x) = s.die (dieOf x) := by
      change tget b.dies _ {} = _
      rw [hctxs, hmem]; rfl
    rw [hdie, hd, State.die_invalidateAll, if_pos (List.mem_map_of_mem hx), hsame]
  · obtain ⟨p, hp⟩ := b.group_dropPreds v cores g
    refine ⟨p, ?_⟩
    have hdrop : u.group g = c.group g := by
      rw [hframe, hd, State.invalidateAll_eq]; rfl
    have hsame : b.group g = s.group g := by
      change tget b.groups g {} = _
      rw [hctxs, hmem]; rfl
    rw [hdrop, hc, hp, hsame]
  · obtain ⟨hroot0, hroot1⟩ := c.roots_invalidateAll cores hk hx
    rw [hctx]
    exact ⟨fun ⟨y, hy, h0⟩ => hroot0 (List.mem_map.mpr ⟨y, hy, h0⟩), fun ⟨y, hy, h1⟩ => hroot1 (List.mem_map.mpr ⟨y, hy, h1⟩)⟩
  · have hhome : u.homeByte key = b.homeByte key := by
      rw [hframe, hd, State.invalidateAll_eq]; rfl
    rw [hhome, hctxs]
    rfl

/-- The group with the wave that waited for an invalidation ready to issue. -/
def Group.unfenced (g : Group) (wid op now : Nat) : Group :=
  match (g.wave wid).phase with
  | .fencedTlb x => if x = op then g.setWave wid { g.wave wid with phase := .body, readyAt := now } else g
  | _ => g

theorem Group.ops_unfenced (g : Group) (wid op now : Nat) : (g.unfenced wid op now).ops = g.ops := by
  unfold Group.unfenced
  split
  · split_ifs <;> rfl
  · rfl

theorem Group.wave_unfenced (g : Group) {wid op : Nat} (now : Nat) (h : (g.wave wid).phase = .fencedTlb op) :
    ((g.unfenced wid op now).wave wid).phase = .body := by
  simp [Group.unfenced, h]

section
variable {s : State} {gid op : Nat} {o : POp} {a b : BitVec 6} {c : BitVec 3} {k : BitVec 2}
  (ho : (s.group gid).op? op = some o) (hi : o.instr = .tlbinv a b c k)
include ho hi

/-- R171: A TLBINV_COMPLETE, while an access that used what it removes is in flight and when none is. -/
theorem exec_tlbinvComplete : exec (.tlbinvComplete gid op) s =
    let cores := scopeCores (s.group gid).core (o.args.getD 4 0)
    if s.groups.any (fun e => decide (e.2.core ∈ cores) && e.2.ops.any (fun x => s.usesRemoved o.inval e.2.ctx e.2.core x)) then .next s
    else
      let u := (s.invalidated o.inval cores).opDone gid o
      .next (u.updGroup gid fun g => g.unfenced o.wid op (u.core g.core).cycles) := by
  change execTlbinvComplete gid op s = _
  simp only [execTlbinvComplete, ho, hi]
  rfl

/-- R169, R171: THE EFFECT OF A TLBINV_COMPLETE that waits for no access. -/
theorem tlbinvComplete_effect :
    let cores := scopeCores (s.group gid).core (o.args.getD 4 0)
    s.groups.any (fun e => decide (e.2.core ∈ cores) && e.2.ops.any (fun x => s.usesRemoved o.inval e.2.ctx e.2.core x)) = false →
    ∃ t, exec (.tlbinvComplete gid op) s = .next t
      ∧ (∀ x ∈ cores, (t.core x).tlb = ((s.core x).without o.inval.tlb).tlb ∧ (t.core x).stlb = ((s.core x).without o.inval.tlb).stlb)
      ∧ (∀ x ∉ cores, t.core x = s.core x) ∧ (∀ x ∈ cores, t.die (dieOf x) = (s.die (dieOf x)).withoutNodes o.inval.node)
      ∧ (t.group gid).ops = (s.group gid).ops.filter (fun x => decide (x.id ≠ op))
      ∧ (((s.group gid).wave o.wid).phase = .fencedTlb op → ((t.group gid).wave o.wid).phase = .body)
      ∧ (o.inval.kind ≠ 0 → ∀ x, o.inval.covers x = true → ((∃ y ∈ cores, dieOf y = 0) → (t.ctx x).walkRoot0 = (t.ctx x).root0)
          ∧ ((∃ y ∈ cores, dieOf y = 1) → (t.ctx x).walkRoot1 = (t.ctx x).root1))
      ∧ ∀ key, t.homeByte key = s.drainAll.homeByte key := by
  intro cores hfree
  obtain ⟨hcores, hother, hdies, hgroup, hroots, hhome⟩ := s.invalidated_spec o.inval cores
  obtain ⟨p, hpreds⟩ := hgroup gid
  have hid : o.id = op := by simpa using List.find?_some ho
  have hended : ((s.invalidated o.inval cores).opDone gid o).group gid = ({ s.group gid with preds := p } : Group).endOp o := by
    rw [State.opDone, State.group_updGroup, hpreds]
  refine ⟨_, (exec_tlbinvComplete ho hi).trans (if_neg (by rw [hfree]; simp)), hcores, hother, hdies, ?_, fun hphase => ?_, hroots, hhome⟩
  · rw [State.group_updGroup, Group.ops_unfenced, hended, Group.endOp, Group.discharge_eq, hid]
  · rw [State.group_updGroup]
    refine Group.wave_unfenced _ _ ?_
    rw [hended, Group.endOp_eq]
    exact hphase

end

/-! ### The obligations -/

/-- Settles O23: LANEST and LANELD are one change of the group each; TLBINV is an issue, and its completion removes entries by
filters that are idempotent, so that each core and each die in scope has them applied once. -/
theorem saveSlotsAndTranslations : Obligations.SaveSlotsAndTranslations := by
  refine ⟨fun s v hstop he hsup hd => ⟨?_, fun ⟨l, hl, hbad⟩ => exec_laneld_illegal he hsup hd hl hbad, fun hok => ?_⟩,
    fun s a b c k hstop he hsup hp hk => ?_, ?_⟩
  · exact ⟨_, exec_lanest hstop he hsup hd, s.storedSlots_done v⟩
  · obtain ⟨hdone, hlanes⟩ := s.loadedSlots_done fun l => s.cg.srcs v.toNat l 4
    refine ⟨_, exec_laneld hstop he hsup hd hok, hdone, fun l hl => ?_⟩
    rw [hlanes l hl]
    cases inMask s.cw.en l <;> rfl
  · set o := s.tlbinvOp a b c k
    obtain ⟨-, -, -, -, -, -, ⟨hmoved, -⟩, -, hhome⟩ := s.issued_issueOp o
    have hcg : ((s.issueOp o).nextWord.updWave fun w => { w with phase := .fencedTlb s.nextOp }).cg
        = { s.cg with ops := s.cg.ops ++ [s.numbered o],
                      waves := ((s.issueOp o).nextWord.updWave fun w => { w with phase := .fencedTlb s.nextOp }).cg.waves } := by
      rw [State.cg_updWave, s.cg_issueOp_unflagged rfl]; rfl
    refine ⟨_, exec_tlbinv hstop he hsup hp hk, ?_, ?_, ⟨s.numbered o, ?_, rfl, rfl, rfl, rfl, rfl⟩, ?_, hhome, fun _ => rfl⟩
    · rw [State.cw_updWave]
    · rw [State.cw_updWave, hmoved]
    · rw [hcg]
    · rw [hcg]
  · intro s gid op o a b c k ho hi cores busy
    refine ⟨fun h => (exec_tlbinvComplete ho hi).trans (if_pos h), fun h => ?_⟩
    obtain ⟨t, hexec, hcores, hother, hdies, hrest⟩ := tlbinvComplete_effect ho hi h
    refine ⟨t, hexec, hcores, hother, fun x hx => ?_, hrest⟩
    rw [hdies x hx]; rfl

theorem privileged_tlbinv {n : Nat} {a b : BitVec 6} {c : BitVec 3} {k : BitVec 2} (hc : c = 1 ∨ c = 3 ∨ c = 4)
    (h : (k = 0 ∧ a.toNat ≤ 62) ∨ (k = 1 ∧ a = 0 ∧ b = 0) ∨ (k = 2 ∧ a = 0 ∧ b = 0)) : Privileged n (.tlbinv a b c k) := by
  rcases h with ⟨rfl, ha⟩ | ⟨rfl, rfl, rfl⟩ | ⟨rfl, rfl, rfl⟩
  · exact .tlbinvPages (by omega) hc
  · exact .tlbinv (.inl rfl) hc
  · exact .tlbinv (.inr rfl) hc

/-- Settles O24: the words and the completion of O23, whose side conditions hold here for the reasons that the state gives. -/
theorem slotAndTlbWordsComplete : Obligations.SlotAndTlbWordsComplete := by
  obtain ⟨hslots, htlbinv, hcomplete⟩ := saveSlotsAndTranslations
  refine ⟨fun s v hstop he hsup hv hn => ?_, fun s a b c k hstop he hsup hc hk => ?_, fun s gid op o a b c k ho hi hphase hfree => ?_⟩
  · have hd : dstOk s.cg.n v.toNat 4 = true := by simp [dstOk]; omega
    obtain ⟨⟨t, hexec, ⟨-, -, -, hwave, -⟩, hreg⟩, -, hload⟩ := hslots s v hstop he hsup hd
    refine ⟨⟨t, hexec, ?_, fun l hl hen j hj => ?_⟩, fun hok => ?_⟩
    · rw [hwave]
    · rw [hreg _ l hl, if_pos ⟨hen, by omega, by omega⟩, Nat.add_sub_cancel_left]
    · obtain ⟨u, hexec', ⟨-, -, -, hwave', -⟩, hlane⟩ := hload fun l hen => hok l (mem_lanesOf.mp (mem_lanesOf_of_inMask hen)).1 hen
      refine ⟨u, hexec', ?_, fun l hl hen => ?_⟩
      · rw [hwave']
      · rw [hlane l hl, if_neg (by simp [hen])]
        exact ⟨rfl, rfl⟩
  · have hp : Privileged s.cg.n (.tlbinv a b c k) := privileged_tlbinv hc (by tauto)
    have hsys : k = 2 → s.sysr = true := by
      rintro rfl
      rcases hk with ⟨h, -⟩ | ⟨h, -⟩ | ⟨-, -, -, h⟩
      · exact absurd h (by decide)
      · exact absurd h (by decide)
      · exact h
    obtain ⟨t, hexec, hphase, hidx, ⟨o, hops, -⟩, -⟩ := htlbinv s a b c k hstop he hsup hp hsys
    exact ⟨t, hexec, hidx, hphase, by rw [hops, List.length_append]; rfl⟩
  · have hbusy : s.groups.any (fun e => decide (e.2.core ∈ scopeCores (s.group gid).core (o.args.getD 4 0))
        && e.2.ops.any (fun x => s.usesRemoved o.inval e.2.ctx e.2.core x)) = false := by
      refine List.any_eq_false.mpr fun e he => ?_
      have hops : e.2.ops.any (fun x => s.usesRemoved o.inval e.2.ctx e.2.core x) = false :=
        List.any_eq_false.mpr fun x hx => by simp [hfree e he x hx]
      simp [hops]
    obtain ⟨-, hdone⟩ := hcomplete s gid op o a b c k ho hi
    obtain ⟨t, hexec, hcores, -, -, hops, hbody, -⟩ := hdone hbusy
    refine ⟨t, hexec, hbody hphase, ?_, fun x hx e he => ?_⟩
    · rw [Group.op?, hops, List.find?_eq_none]
      intro y hy
      simpa using (List.mem_filter.mp hy).2
    · obtain ⟨htlb, -⟩ := hcores x hx
      rw [htlb] at he
      simpa using (List.mem_filter.mp he).2

end Sys2Proof.Machine
end

section
/-! PROOFS. Delivery of a preemption (R172, R334, R433). -/
namespace Sys2Proof.Machine

/-- A group whose one wave is parked in KWAIT. -/
def kwaitGroup (team ctx : Nat) : Group := { team := team, ctx := ctx, live := 1, waves := [(0, { lanes := 1, phase := .parked .kwait })] }

/-- A preemption of context 0 on core 0. -/
def preemptContext0 : PreemptReq := { ctx := 0, bound := 1, cores := [0] }

/-- Two teams of core 0, of contexts 0 and 1, each with its group in KWAIT: the first's stands in a slot of the Keeper, the second's
waits for one (R334). A preemption of context 0 is posted. -/
def State.sharingSlots : State := { State.reset with
  teams := [(0, { groups := [0] }), (1, { ctx := 1, groups := [1] })]
  groups := [(0, kwaitGroup 0 0), (1, kwaitGroup 1 1)]
  dies := [(0, { preempts := [preemptContext0], waiters := [{ gid := 0, wid := 0 }] })] }

/-- R164, R334: the trap abandons the first team's KWAIT, whose slot is free then, and the second team's word runs again. -/
theorem State.exec_sharingSlots : ∃ t, exec (.preemptDelivery 0) .sharingSlots = .next t ∧ ((t.group 1).wave 0).phase = .body :=
  ⟨_, rfl, rfl⟩

/-- The preemption names no team of group 1. -/
theorem preemptContext0_spares {id : Nat} {x : Team} (hx : tget? State.sharingSlots.teams id = some x) (hg : 1 ∈ x.groups) :
    preemptContext0.names id x = false := by
  simp only [State.sharingSlots, tget?] at hx
  split_ifs at hx <;> cases hx
  · exact absurd hg (by decide)
  · rfl

/-- Refutes O25, by its clause on the groups that a delivery leaves as they are: a group that the preemption does not name may wait
for the Keeper's slot that a named group gives up. -/
theorem not_preemptionAndVacating : ¬ Obligations.PreemptionAndVacating := by
  rintro ⟨-, hdelivery, -⟩
  obtain ⟨t, hexec, -, -, hother, -⟩ := hdelivery .sharingSlots 0 preemptContext0 [] rfl rfl (by decide) (by decide) (by decide)
    (by unfold rising; decide) (by decide)
  obtain ⟨u, hexec', hphase⟩ := State.exec_sharingSlots
  obtain rfl := Host.Outcome.next.inj (hexec.symm.trans hexec')
  have hsame : t.group 1 = kwaitGroup 1 1 := hother 1 fun _ _ => preemptContext0_spares
  rw [hsame] at hphase
  exact absurd hphase (by decide)

end Sys2Proof.Machine
end

section
/-! PROOFS. The commands for contexts (R172, R430 to R433, R444, R451). -/
namespace Sys2Proof.Machine

/-! ### Commands that have no effect (R451) -/

theorem State.command_off {s : State} {code : Nat} (avail : List Service) (k : State → Reply × State)
    (h : s.host.go = false ∨ s.host.cmd ≠ code) : s.command code avail k = s := by
  refine if_pos ?_
  rcases h with h | h <;> simp [h]

theorem State.command_refused {s : State} {code : Nat} {avail : List Service} (k : State → Reply × State) (hc : s.Commanded code)
    (ha : s.host.service ∉ avail) : s.command code avail k = s.reply (2, 0) := by
  obtain ⟨-, hgo, hcmd⟩ := hc
  simp [State.command, hgo, hcmd, ha]

section
variable {i : Instr} {code : Nat} {avail : List Service} (hm : MailboxCommand i code avail) (s : State)
include hm

/-- The commands but MEMTEST, which runs on after it has begun, and ADVANCE_SVN, which goes one number at a time. -/
theorem exec_mailboxCommand (htest : i ≠ .memtest) (hsvn : i ≠ .advanceSvn) :
    ∃ k, exec i s = .next (s.command code avail k) ∨ exec i s = finish (s.command code avail k) := by
  cases hm with
  | memtest => exact absurd rfl htest
  | advanceSvn => exact absurd rfl hsvn
  | loadCtx | unloadCtx | preemptCmd | setIndex | setPeer | errRing => exact ⟨_, .inr rfl⟩
  | fwWrite | fwStart | setEnvelope | pattern | moduleReset | sensors => exact ⟨_, .inl rfl⟩

theorem exec_mailbox_off (hstop : s.stop = none) (h : s.host.go = false ∨ s.host.cmd ≠ code) : exec i s = .next s := by
  by_cases htest : i = .memtest
  · subst htest
    cases hm
    exact if_pos (by rcases h with h | h <;> simp [h])
  by_cases hsvn : i = .advanceSvn
  · subst hsvn
    cases hm
    refine (if_neg (by rcases h with h | h <;> simp [h])).trans ?_
    rw [State.command_off _ _ h]
  obtain ⟨k, hexec | hexec⟩ := exec_mailboxCommand hm s htest hsvn
  · rw [hexec, State.command_off _ _ h]
  · rw [hexec, State.command_off _ _ h, finish_next hstop]

theorem exec_mailbox_refused (hc : s.Commanded code) (ha : s.host.service ∉ avail) (ht : s.host.testing = none) :
    exec i s = .next (s.reply (2, 0)) := by
  by_cases htest : i = .memtest
  · subst htest
    cases hm
    obtain ⟨-, hgo, hcmd⟩ := hc
    refine (if_neg (by simp [hgo, hcmd, ht])).trans (if_pos ?_)
    simpa using ha
  by_cases hsvn : i = .advanceSvn
  · subst hsvn
    cases hm
    have hfull : s.host.service ≠ .full := by simpa using ha
    refine (if_neg (by simp [hfull])).trans ?_
    rw [State.command_refused _ hc ha]
  obtain ⟨k, hexec | hexec⟩ := exec_mailboxCommand hm s htest hsvn
  · rw [hexec, State.command_refused _ hc ha]
  · rw [hexec, State.command_refused _ hc ha]
    exact finish_next (s := s.reply (2, 0)) hc.1

end

theorem exec_unknownCommand {s : State} (hgo : s.host.go = true) (h : s.host.cmd ∉ commandCodes) :
    exec .unknownCommand s = .next (s.reply (3, 0)) := by
  refine if_pos ?_
  simp [hgo, h]

/-! ### PREEMPT, SET_INDEX and SET_PEER (R172, R433, R444) -/

theorem State.arg_four (s : State) (i : Nat) : s.arg i 4 = s.payload32 i := by
  simp [State.arg, bytesAt, leNat, State.payloadByte, State.payload16, State.payload32, List.range_succ, Nat.add_assoc]
  omega

/-- R172: the preemption is posted to each die of a core that it reaches. -/
theorem State.preempts_postPreempt (s : State) (r : PreemptReq) {d : Nat} (hd : d < 2) :
    ((s.postPreempt r).die d).preempts = (s.die d).preempts ++ if r.cores.any (fun c => decide (dieOf c = d)) then
      [{ r with cores := r.cores.filter (fun c => decide (dieOf c = d)) }] else [] := by
  unfold State.postPreempt
  match d, hd with
  | 0, _ => split_ifs <;> simp [State.die_updDie_ne]
  | 1, _ => split_ifs <;> simp [State.die_updDie_ne]

theorem State.postPreempt_frame (s : State) (r : PreemptReq) : s.postPreempt r = { s with dies := (s.postPreempt r).dies } := by
  unfold State.postPreempt
  split_ifs <;> rfl

section
variable {s : State} (hstop : s.stop = none)
include hstop

theorem exec_preemptCmd (hc : s.Commanded 0x03) (hf : s.host.service = .full) : exec .preemptCmd s =
    if 3 ≤ s.payloadByte 4 then .next (s.reply (1, 4))
    else .next ((s.postPreempt (preemptReq (BitVec.ofNat 32 (s.payload32 0)) (s.payloadByte 4) 0xFF)).reply (0, 0)) := by
  have hpost : ∀ r, (s.postPreempt r).stop = none := fun r => by rw [s.postPreempt_frame]; exact hstop
  change finish (s.command _ _ _) = _
  rw [State.command_run _ hc (by simp [hf]), s.arg_one, s.arg_four]
  split_ifs
  · exact finish_next (s := s.reply (1, 4)) hstop
  · exact finish_next (s := (s.postPreempt _).reply (0, 0)) (hpost _)

theorem exec_setIndex (hc : s.Commanded 0x04) (hf : s.host.service = .full) : exec .setIndex s =
    if s.ctxs ≠ [] then .next (State.answered s.refuseOpen)
    else .next ({ s with modIndex := s.payloadByte 0 % 4, host := { s.host with port := some (s.payloadByte 1) } }.reply (0, 0)) := by
  change finish (s.command _ _ _) = _
  rw [State.command_run _ hc (by simp [hf]), s.arg_one, s.arg_one]
  by_cases h : s.ctxs = []
  · rw [if_neg (by simp [h]), if_neg (by simp [h])]
    exact finish_next (s := State.reply _ (0, 0)) hstop
  · rw [if_pos (by simp [h]), if_pos h]
    exact finish_next (s := State.answered s.refuseOpen) hstop

theorem exec_setPeer (hc : s.Commanded 0x05) (hf : s.host.service = .full) : exec .setPeer s =
    if s.ctxs ≠ [] ∨ s.payloadByte 0 % 4 = s.modIndex then .next (State.answered s.refuseOpen)
    else .next ({ s with host := { s.host with
      peers := if s.payloadByte 2 % 2 = 1 then tset s.host.peers (s.payloadByte 0 % 4) (s.payloadByte 1)
               else tdel s.host.peers (s.payloadByte 0 % 4) } }.reply (0, 0)) := by
  change finish (s.command _ _ _) = _
  rw [State.command_run _ hc (by simp [hf]), s.arg_one, s.arg_one, s.arg_one]
  dsimp only
  by_cases h : s.ctxs ≠ [] ∨ s.payloadByte 0 % 4 = s.modIndex
  · rw [if_pos h, if_pos (by simpa using h)]
    exact finish_next (s := State.answered s.refuseOpen) hstop
  · rw [if_neg h, if_neg (by simpa using h)]
    exact finish_next (s := State.reply _ (0, 0)) hstop

end

/-! ### LOAD_CTX (R310, R325, R353, R391, R394, R430) -/

/-- The dies that a payload names, as the mask of its bits 8 and 9. -/
theorem payloadDies (p : Nat) : [0, 1].filter (fun d => decide (p / 2 ^ (8 + d) % 2 = 1)) = maskDies (p / 2 ^ 8 % 4) := by
  refine List.filter_congr fun d hd => ?_
  have hd : d = 0 ∨ d = 1 := by simpa using hd
  rcases hd with rfl | rfl
  · exact decide_eq_decide.mpr (by omega)
  · exact decide_eq_decide.mpr (by omega)

theorem maskDies_pow {die : Nat} (h : die < 2) : maskDies (2 ^ die) = [die] := by
  match die, h with
  | 0, _ => rfl
  | 1, _ => rfl

theorem maskDies_isEmpty {m : Nat} (h : m < 4) : (maskDies m).isEmpty = true ↔ m = 0 := by
  match m, h with
  | 0, _ => decide
  | 1, _ => decide
  | 2, _ => decide
  | 3, _ => decide

section
variable {s : State} {p : Nat}

/-- R430: THE CHECKS OF THE PAYLOAD. -/
def GoodLoad (p : Nat) : Prop := p / 2 ^ 8 % 4 ≠ 0 ∧ p / 2 ^ 11 % 2 ^ 5 = 0 ∧ p / 2 ^ 16 % 256 = 0 ∧ p / 2 ^ 16 < 45 * 2 ^ 30

/-- The context is loaded on no die that the payload names. -/
def State.FreeFor (s : State) (p : Nat) : Prop :=
  ∀ d < 2, p / 2 ^ 8 % 4 / 2 ^ d % 2 = 1 → (s.ctx (p % 2 ^ 8)).dies.getLsbD d = false

theorem State.loadCtx_payload (h : ¬GoodLoad p) : s.loadCtx p = ((1, 0x8001), s) := by
  unfold State.loadCtx
  dsimp only
  rw [payloadDies]
  refine if_pos ?_
  rw [maskDies_isEmpty (Nat.mod_lt _ (by decide)), lpddrBytes]
  unfold GoodLoad at h
  omega

theorem not_badLoad (h : GoodLoad p) : ¬((maskDies (p / 2 ^ 8 % 4)).isEmpty = true ∨ p / 2 ^ 11 % 32 ≠ 0 ∨ p / 2 ^ 16 % 256 ≠ 0
    ∨ lpddrBytes ≤ p / 2 ^ 16) := by
  rw [maskDies_isEmpty (Nat.mod_lt _ (by decide)), lpddrBytes]
  unfold GoodLoad at h
  omega

theorem State.loadedOn_any_iff : (maskDies (p / 2 ^ 8 % 4)).any (fun d => s.loadedOn d (p % 256)) = false ↔ s.FreeFor p := by
  simp only [List.any_eq_false, mem_maskDies, and_imp, Bool.not_eq_true]
  rfl

theorem State.loadCtx_loaded (h : GoodLoad p) (hfree : ¬s.FreeFor p) : s.loadCtx p = ((1, 0x8002), s) := by
  unfold State.loadCtx
  dsimp only
  rw [payloadDies, if_neg (not_badLoad h)]
  exact if_pos (by rwa [← State.loadedOn_any_iff, Bool.not_eq_false] at hfree)

/-- The descriptor that a payload names (R430). -/
def State.descriptor (s : State) (p : Nat) : Nat := s.homeNat (homeKey (p / 2 ^ 10 % 2) (p / 2 ^ 16)) 256

/-- The context that it describes. -/
def State.described (s : State) (p : Nat) : Ctx := ctxOf (s.descriptor p) (p / 2 ^ 10 % 2) (p / 2 ^ 16)

/-- The state whose tables the dies read: the context stands in the table with each of the dies. A first load zeroes its windows on
both dies (R310, log entry 41). -/
def State.admitted (s : State) (p : Nat) : State :=
  let n := s.described p
  let first := decide ((s.ctx (p % 256)).dies = 0#2)
  let c := if first then { n with disp := 0, seen := s.descWords n } else s.ctx (p % 256)
  let u := if first then (s.zeroWindow 0 n).zeroWindow 1 n else s
  { u with ctxs := tset u.ctxs (p % 256) ((maskDies (p / 2 ^ 8 % 4)).foldl (fun c d => c.withDie n d) c) }

/-- A load of a descriptor that is in order: a display right that is taken refuses it. -/
def State.loadInOrder (s : State) (p : Nat) : Reply × State :=
  if (maskDies (p / 2 ^ 8 % 4)).any (fun d => (s.described p).disp.getLsbD d && (s.disp d).granted.isSome) then ((1, 0x8003), s)
  else ((0, 0), (maskDies (p / 2 ^ 8 % 4)).foldl (fun s d => s.loadDie (p % 256) d) (s.admitted p))

theorem State.loadCtx_fault (h : GoodLoad p) (hfree : s.FreeFor p) {off : Nat} (hoff : descFault (s.descriptor p) = some off) :
    s.loadCtx p = ((1, off), s) := by
  unfold State.descriptor at hoff
  unfold State.loadCtx
  dsimp only
  rw [payloadDies, if_neg (not_badLoad h), State.loadedOn_any_iff.mpr hfree, if_neg (by decide), hoff]

theorem State.loadCtx_inOrder (h : GoodLoad p) (hfree : s.FreeFor p) (hoff : descFault (s.descriptor p) = none) :
    s.loadCtx p = s.loadInOrder p := by
  unfold State.descriptor at hoff
  unfold State.loadCtx
  dsimp only
  rw [payloadDies, if_neg (not_badLoad h), State.loadedOn_any_iff.mpr hfree, if_neg (by decide), hoff]
  rfl

end

/-! ### What one die does at a load -/

/-- A descriptor that reads as it did before changes nothing (R169, R432). -/
theorem Ctx.refresh_seen (c : Ctx) : c.refresh c.seen = c := by
  have hsysr : (if c.sysr then 2 else 0 : DWord).getLsbD 1 = c.sysr := by cases c.sysr <;> rfl
  unfold Ctx.refresh
  simp only [if_true]
  rw [hsysr]

/-- Cores have changed, and no context reads as another. -/
def State.OnlyViews (s t : State) : Prop := t = { s with cores := t.cores, ctxs := t.ctxs } ∧ ∀ h, t.ctx h = s.ctx h

theorem State.onlyViews_refl (s : State) : s.OnlyViews s := ⟨rfl, fun _ => rfl⟩

theorem State.OnlyViews.trans {s t u : State} (h : s.OnlyViews t) (k : t.OnlyViews u) : s.OnlyViews u :=
  ⟨by rw [k.1, h.1], fun x => (k.2 x).trans (h.2 x)⟩

/-- A core that sees a context whose descriptor has not changed. -/
theorem State.onlyViews_seeContext (s : State) (core : Nat) {x : Nat} (h : (s.ctx x).seen = s.descWords (s.ctx x)) :
    s.OnlyViews (s.seeContext core x) := by
  have hrefresh : s.OnlyViews (s.refreshCtx x) := by
    unfold State.refreshCtx
    split_ifs
    · exact s.onlyViews_refl
    · refine ⟨rfl, fun y => ?_⟩
      by_cases hy : y = x
      · subst hy
        rw [State.ctx_updCtx, ← h, Ctx.refresh_seen]
      · exact tget_tset_ne _ _ _ hy
  exact hrefresh.trans ⟨rfl, fun _ => rfl⟩

theorem State.onlyViews_seeContexts (cores : List Nat) (x : Nat) : ∀ s : State, (s.ctx x).seen = s.descWords (s.ctx x) →
    s.OnlyViews (cores.foldl (fun s c => s.seeContext c x) s) := by
  induction cores with
  | nil => exact fun s _ => s.onlyViews_refl
  | cons c cores ih =>
    intro s h
    have hone := s.onlyViews_seeContext c h
    refine hone.trans (ih _ ?_)
    obtain ⟨hframe, hctx⟩ := hone
    rw [hctx, h, hframe]
    rfl

/-- Nothing but cores, contexts and dies has changed. -/
def State.OnlyUnits (s t : State) : Prop := t = { s with cores := t.cores, ctxs := t.ctxs, dies := t.dies }

theorem State.OnlyUnits.trans {s t u : State} (h : s.OnlyUnits t) (k : t.OnlyUnits u) : s.OnlyUnits u := by
  unfold State.OnlyUnits at h k ⊢
  rw [k, h]

theorem State.OnlyViews.units {s t : State} (h : s.OnlyViews t) : s.OnlyUnits t := by
  unfold State.OnlyUnits
  rw [h.1]

/-- The cores are held as another table. -/
def State.withCores (s : State) (cs : Tab Core) : State := { s with cores := cs }

theorem State.foldl_forget (ctx : Nat) (cores : List Nat) : ∀ s : State, ∃ cs, cores.foldl (fun s c =>
    (s.dropTlb c (fun t => decide (t.ctx = ctx))).updCore c (fun x => { x with
      views := tdel x.views ctx, filter := x.filter.filter (fun e => decide (e.1 ≠ ctx)) })) s = s.withCores cs := by
  induction cores with
  | nil => exact fun s => ⟨s.cores, rfl⟩
  | cons c cores ih => exact fun s => ih _

/-- R432: A die that forgets a context changes its cores and its own tables, and not its display units. -/
theorem State.forgetCtx_frame (s : State) (die ctx : Nat) : ∃ cs f, s.forgetCtx die ctx = (s.withCores cs).updDie die f
    ∧ ∀ d : Die, (f d).disp = d.disp := by
  obtain ⟨cs, hcores⟩ := State.foldl_forget ctx (coresOf die) s
  unfold State.forgetCtx
  dsimp only
  rw [hcores]
  exact ⟨cs, _, rfl, fun _ => rfl⟩

/-- The graph block of a context without one: each node has the identity (R326). -/
def Die.withIdentity (d : Die) (ctx : Nat) : Die :=
  { d with graphs := identityGraph.foldl (fun t e => tset t (ctx * 4096 + e.1) e.2) d.graphs }

theorem tget?_foldl_tset_of_mem {α β : Type} (key : β → Nat) (val : β → α) (hkey : Function.Injective key) {b : β} {bs : List β}
    (hb : b ∈ bs) (t : Tab α) : tget? (bs.foldl (fun t b => tset t (key b) (val b)) t) (key b) = some (val b) := by
  induction bs using List.reverseRecOn with
  | nil => cases hb
  | append_singleton bs c ih =>
    rw [List.foldl_append, List.foldl_cons, List.foldl_nil]
    by_cases hbc : b = c
    · rw [hbc, tget?_tset_same]
    · rw [tget?_tset_ne _ _ (fun h => hbc (hkey h))]
      exact ih (by simpa [hbc] using hb)

/-- R326, R430: EVERY NODE OF THE IDENTITY GRAPH leads to itself. -/
theorem Die.graphs_withIdentity (d : Die) (ctx : Nat) {n : Nat} (hn : n < 64) :
    tget? (d.withIdentity ctx).graphs (ctx * 4096 + 65 * n) = some (1#64, 0#64) := by
  have hfold : (d.withIdentity ctx).graphs
      = (List.range 64).foldl (fun t n => tset t (ctx * 4096 + 65 * n) (1#64, 0#64)) d.graphs := by
    rw [Die.withIdentity, identityGraph]
    dsimp only
    rw [List.foldl_map]
  rw [hfold]
  exact tget?_foldl_tset_of_mem (fun n => ctx * 4096 + 65 * n) (fun _ => (1#64, 0#64))
    (fun a b h => by simpa using h) (List.mem_range.mpr hn) _

section
variable {s : State} {ctx : Nat} (hplain : PlainDescriptor (s.ctx ctx)) (die : Nat)
include hplain

theorem State.readGraph_plain : s.readGraph die ctx = s.updDie die (fun d => d.withIdentity ctx) := by
  obtain ⟨-, hgraph, -⟩ := hplain
  unfold State.readGraph
  simp only [if_pos hgraph]
  rfl

theorem State.readMoorings_plain : ∃ f, s.readMoorings die ctx = s.updDie die f ∧ ∀ d : Die, (f d).graphs = d.graphs := by
  obtain ⟨-, -, hmoor, hpool, -⟩ := hplain
  unfold State.readMoorings
  simp only [if_pos hmoor, if_pos hpool]
  exact ⟨_, rfl, fun _ => rfl⟩

theorem State.readQueues_plain : s.readQueues die ctx = s := by
  obtain ⟨-, -, -, -, hsubmit⟩ := hplain
  unfold State.readQueues
  simp only [if_pos hsubmit]
  rfl

/-- R325, R353, R391, R394: A DIE THAT LOADS A CONTEXT WITHOUT TABLES reads none of them. -/
theorem State.loadDie_plain (hseen : (s.ctx ctx).seen = s.descWords (s.ctx ctx)) :
    let t := s.loadDie ctx die
    s.OnlyUnits t ∧ (∀ h, t.ctx h = s.ctx h)
      ∧ ∀ n < 64, tget? (t.die die).graphs (ctx * 4096 + 65 * n) = some (1#64, 0#64) := by
  obtain ⟨cs, f, hforget, -⟩ := s.forgetCtx_frame die ctx
  obtain ⟨u, hu⟩ : ∃ u, (coresOf die).foldl (fun s c => s.seeContext c ctx) (s.forgetCtx die ctx) = u := ⟨_, rfl⟩
  have hviews : (s.forgetCtx die ctx).OnlyViews u :=
    hu ▸ State.onlyViews_seeContexts (coresOf die) ctx (s.forgetCtx die ctx) (by rw [hforget]; exact hseen)
  have hctx : ∀ h, u.ctx h = s.ctx h := fun h => by rw [hviews.2, hforget]; rfl
  have hright : (u.ctx ctx).disp.getLsbD die = false := by
    rw [hctx, hplain.1]; exact BitVec.getLsbD_zero
  have hplain : PlainDescriptor (u.ctx ctx) := by rwa [hctx]
  obtain ⟨g, hmoor, hkeeps⟩ := State.readMoorings_plain (s := u.updDie die (fun d => d.withIdentity ctx)) hplain die
  have hload : s.loadDie ctx die = (u.updDie die (fun d => d.withIdentity ctx)).updDie die g := by
    unfold State.loadDie
    dsimp only
    rw [hu, State.readGraph_plain hplain, hmoor,
      State.readQueues_plain (s := (u.updDie die (fun d => d.withIdentity ctx)).updDie die g) hplain]
    refine if_neg ?_
    change ¬(u.ctx ctx).disp.getLsbD die = true
    rw [hright]
    decide
  have hforgets : s.OnlyUnits (s.forgetCtx die ctx) := by rw [hforget]; exact rfl
  refine ⟨(hforgets.trans hviews.units).trans (by rw [hload]; exact rfl), fun h => ?_, fun n hn => ?_⟩
  · rw [hload]; exact hctx h
  · rw [hload, State.die_updDie, hkeeps, State.die_updDie]
    exact Die.graphs_withIdentity _ ctx hn

end

/-! ### A first load on one die (R310, R430) -/

theorem Ctx.withDie_first {n : Ctx} (hdies : n.dies = 0#2) (hdisp : n.disp = 0#2) (hroot0 : n.walkRoot0 = n.root0)
    (hroot1 : n.walkRoot1 = n.root1) (w : List DWord) (die : Nat) :
    ({ n with disp := 0, seen := w } : Ctx).withDie n die = { n with dies := 1#2 <<< die, seen := w } := by
  unfold Ctx.withDie
  dsimp only
  rw [hdies, hdisp, BitVec.zero_or, BitVec.zero_and, BitVec.or_zero]
  split_ifs
  · simp [hroot0]
  · simp [hroot1]

/-- R310: NO BYTE OF A WINDOW that has been zeroed is stored on either die. -/
theorem State.wharf_zeroWindows (s : State) (c : Ctx) {k : Nat}
    (h : (wharfKey 0 (c.whBase0 * 2 ^ 16) ≤ k ∧ k < wharfKey 0 (c.whBase0 * 2 ^ 16) + c.whSize0 * 2 ^ 16)
      ∨ (wharfKey 1 (c.whBase1 * 2 ^ 16) ≤ k ∧ k < wharfKey 1 (c.whBase1 * 2 ^ 16) + c.whSize1 * 2 ^ 16)) :
    tget? ((s.zeroWindow 0 c).zeroWindow 1 c).wharf k = none := by
  refine tget?_eq_none fun e he hk => ?_
  subst hk
  obtain ⟨he, hwindow1⟩ := List.mem_filter.mp he
  obtain ⟨-, hwindow0⟩ := List.mem_filter.mp he
  simp only [if_pos, if_neg, one_ne_zero, not_false_eq_true, Bool.not_eq_true', Bool.and_eq_false_iff, decide_eq_false_iff_not]
    at hwindow0 hwindow1
  omega

section
variable {s : State} {p die : Nat} (hd : die < 2) (hm : p / 2 ^ 8 % 4 = 2 ^ die) (hplain : PlainDescriptor (s.described p))
  (hfirst : (s.ctx (p % 256)).dies = 0#2)
include hd hm hplain hfirst

theorem State.admitted_first : s.admitted p = { (s.zeroWindow 0 (s.described p)).zeroWindow 1 (s.described p) with
    ctxs := tset s.ctxs (p % 256) { s.described p with dies := 1#2 <<< die, seen := s.descWords (s.described p) } } := by
  unfold State.admitted
  rw [hm, maskDies_pow hd, decide_eq_true hfirst]
  dsimp only [if_true, List.foldl_cons, List.foldl_nil]
  rw [if_pos rfl, if_pos rfl, Ctx.withDie_first rfl hplain.1 rfl rfl]
  rfl

omit hfirst in
theorem State.loadInOrder_first : s.loadInOrder p = ((0, 0), (s.admitted p).loadDie (p % 256) die) := by
  unfold State.loadInOrder
  rw [hm, maskDies_pow hd]
  refine if_neg ?_
  rw [List.any_cons, hplain.1]
  simp

/-- R430: A FIRST LOAD ON ONE DIE. -/
theorem State.loadInOrder_first_spec :
    let t := (s.admitted p).loadDie (p % 256) die
    t.ctx (p % 256) = { s.described p with dies := 1#2 <<< die, seen := s.descWords (s.described p) }
      ∧ (∀ h, h ≠ p % 256 → t.ctx h = s.ctx h) ∧ t.groups = s.groups ∧ t.teams = s.teams ∧ t.stop = s.stop
      ∧ (∀ k, t.homeByte k = s.homeByte k)
      ∧ t.wharf = ((s.zeroWindow 0 (s.described p)).zeroWindow 1 (s.described p)).wharf
      ∧ ∀ n < 64, tget? (t.die die).graphs (p % 256 * 4096 + 65 * n) = some (1#64, 0#64) := by
  have hadmitted := State.admitted_first hd hm hplain hfirst
  have hctx : (s.admitted p).ctx (p % 256)
      = { s.described p with dies := 1#2 <<< die, seen := s.descWords (s.described p) } := by
    rw [hadmitted]; exact tget_tset_same _ _ _ _
  obtain ⟨hunits, hsame, hgraphs⟩ := State.loadDie_plain (s := s.admitted p) (ctx := p % 256) (by rw [hctx]; exact hplain) die
    (by rw [hctx, hadmitted]; rfl)
  refine ⟨(hsame _).trans hctx, fun h hh => (hsame h).trans ?_, ?_, ?_, ?_, fun k => ?_, ?_, hgraphs⟩
  · rw [hadmitted]; exact tget_tset_ne _ _ _ hh
  · rw [hunits, hadmitted]; rfl
  · rw [hunits, hadmitted]; rfl
  · rw [hunits, hadmitted]; rfl
  · rw [hunits, hadmitted]; rfl
  · rw [hunits, hadmitted]

end

/-! ### Writes reach their homes whatever the cores hold (R285, R290) -/

section
variable (s : State) (cs : Tab Core)

theorem State.cleanByte_withCores (key : Nat) : (s.withCores cs).cleanByte key = (s.cleanByte key).withCores cs := by
  simp only [State.cleanByte, State.withCores]
  split <;> rfl

theorem State.evictL2_withCores (line : Nat) : (s.withCores cs).evictL2 line = (s.evictL2 line).withCores cs := by
  have hback : (s.withCores cs).writeBack (line * 128) 128 = (s.writeBack (line * 128) 128).withCores cs :=
    List.foldl_hom (fun u : State => u.withCores cs) fun u e => u.cleanByte_withCores cs e.1
  unfold State.evictL2
  rw [hback]
  rfl

theorem State.holdL2_withCores (key : Nat) : (s.withCores cs).holdL2 key = (s.holdL2 key).withCores cs := by
  have hvictim : (s.withCores cs).l2Victim (key / 128) = s.l2Victim (key / 128) := rfl
  have hheld : (s.withCores cs).l2Tags = s.l2Tags := rfl
  unfold State.holdL2
  dsimp only
  rw [hvictim, hheld]
  by_cases h : s.l2Tags.any (fun e => decide (e.1 = key / 128)) = true
  · rw [if_pos h, if_pos h]
  · rw [if_neg h, if_neg h]
    cases s.l2Victim (key / 128) with
    | none => rfl
    | some v =>
      dsimp only
      rw [State.evictL2_withCores]
      rfl

theorem State.putHomeRaw_withCores (xs : List Byte) : ∀ (s : State) (key : Nat),
    (s.withCores cs).putHomeRaw key xs = (s.putHomeRaw key xs).withCores cs := by
  induction xs with
  | nil => exact fun _ _ => rfl
  | cons x xs ih =>
    intro s key
    have hone : (s.withCores cs).putHomeByte key x = (s.putHomeByte key x).withCores cs := by
      unfold State.putHomeByte
      rw [State.holdL2_withCores]
      rfl
    rw [State.putHomeRaw, hone, ih]
    rfl

theorem State.checkPa_withCores (key n : Nat) : (s.withCores cs).checkPa key n = (s.checkPa key n).withCores cs := by
  unfold State.checkPa
  dsimp only
  split_ifs <;> rfl

theorem State.putHome_withCores (key : Nat) (xs : List Byte) :
    (s.withCores cs).putHome key xs = (s.putHome key xs).withCores cs := by
  have hreach : ∀ k, (s.withCores cs).unreachable k = s.unreachable k := fun _ => rfl
  unfold State.putHome
  rw [hreach, hreach, State.checkPa_withCores]
  dsimp only
  rw [State.putHomeRaw_withCores]
  split_ifs <;> rfl

theorem State.drainMany_withCores (n : Nat) : ∀ s : State, (s.withCores cs).drainMany n = (s.drainMany n).withCores cs := by
  induction n with
  | zero => exact fun _ => rfl
  | succ n ih =>
    intro s
    have hone : (s.withCores cs).drainOne = s.drainOne.withCores cs := by
      unfold State.drainOne
      cases hq : s.mq with
      | nil => rw [show (s.withCores cs).mq = [] from hq]
      | cons w rest =>
        rw [show (s.withCores cs).mq = w :: rest from hq]
        exact State.putHome_withCores { s with mq := rest } cs w.key w.bytes
    rw [State.drainMany, hone, ih]
    rfl

theorem State.drainAll_withCores : (s.withCores cs).drainAll = s.drainAll.withCores cs := State.drainMany_withCores cs _ s

theorem State.mq_putHome (key : Nat) (xs : List Byte) : (s.putHome key xs).mq = s.mq := by
  have hcheck : (s.checkPa key xs.length).mq = s.mq := by
    unfold State.checkPa
    dsimp only
    split_ifs <;> rfl
  obtain ⟨m, d, t, hraw⟩ := State.putHomeRaw_frame xs (s.checkPa key xs.length) key
  unfold State.putHome
  split_ifs
  · rfl
  · exact (congrArg State.mq hraw).trans hcheck

theorem State.mq_drainMany (n : Nat) : ∀ s : State, (s.drainMany n).mq = s.mq.drop n := by
  induction n with
  | zero => exact fun _ => rfl
  | succ n ih =>
    intro s
    have hone : s.drainOne.mq = s.mq.tail := by
      unfold State.drainOne
      split
      · next hq => rw [hq]; rfl
      · next hq => rw [State.mq_putHome, hq]; rfl
    rw [State.drainMany, ih, hone, List.drop_tail]

theorem State.mq_drainAll : s.drainAll.mq = [] := by
  rw [State.drainAll, State.mq_drainMany, List.drop_length]

end

/-! ### UNLOAD_CTX (R402, R432) -/

/-- Cores may be held as other entries, but each core is the same. -/
def State.SameCores (s t : State) : Prop := ∃ cs, t = s.withCores cs ∧ ∀ c, (s.withCores cs).core c = s.core c

theorem State.sameCores_refl (s : State) : s.SameCores s := ⟨s.cores, rfl, fun _ => rfl⟩

theorem State.SameCores.trans {s t u : State} (h : s.SameCores t) (k : t.SameCores u) : s.SameCores u := by
  obtain ⟨cs, rfl, hc⟩ := h
  obtain ⟨cs', rfl, hc'⟩ := k
  exact ⟨cs', rfl, fun c => (hc' c).trans (hc c)⟩

theorem State.SameCores.core {s t : State} (h : s.SameCores t) (c : Nat) : t.core c = s.core c := by
  obtain ⟨cs, rfl, hc⟩ := h
  exact hc c

theorem State.sameCores_updCore {s : State} {core : Nat} {f : Core → Core} (h : f (s.core core) = s.core core) :
    s.SameCores (s.updCore core f) := by
  have hc : ∀ c, (s.updCore core f).core c = s.core c := fun c => by
    by_cases hc : c = core
    · subst hc; rw [State.core_updCore, h]
    · exact s.core_updCore_ne _ hc
  exact ⟨_, rfl, hc⟩

/-- No bin of a core without bins is cast off. -/
theorem State.sameCores_castOff {s : State} {core : Nat} (n : Nat) (p : Bin → Bool) (h : (s.core core).bins = []) :
    s.SameCores (s.castOff core n p) := by
  unfold State.castOff
  rw [State.serveBins_empty (by rw [State.core_updCore, h, List.map_nil])]
  refine State.sameCores_updCore ?_
  rw [h, List.map_nil, ← h]

theorem State.sameCores_castOffs (p : Bin → Bool) (cores : List Nat) : ∀ s : State, (∀ c ∈ cores, (s.core c).bins = []) →
    s.SameCores (cores.foldl (fun s c => s.castOff c 1 p) s) := by
  induction cores with
  | nil => exact fun s _ => s.sameCores_refl
  | cons c cores ih =>
    intro s h
    obtain ⟨hc, hcores⟩ := List.forall_mem_cons.mp h
    have hone := State.sameCores_castOff 1 p hc
    exact hone.trans (ih _ fun x hx => by rw [hone.core, hcores x hx])

/-- What is in use does not depend on how the cores are held. -/
theorem State.SameCores.inUse {s t : State} (h : s.SameCores t) (die ctx : Nat) : t.inUse die ctx = s.inUse die ctx := by
  obtain ⟨cs, rfl, hc⟩ := h
  unfold State.inUse State.netCount
  simp only [hc]
  rfl

/-- The display right that a context holds on a die is withdrawn. -/
theorem State.withdrawn_frame (s : State) (die ctx : Nat) :
    ∃ ds, (if (s.disp die).granted = some ctx then s.withdrawDisplay die else s) = { s with dies := ds }
      ∧ ((s.disp die).granted = some ctx → (tget ds die ({} : Die)).disp.granted = none) := by
  split_ifs with h
  · have hnone : ((s.withdrawDisplay die).die die).disp.granted = none := by
      unfold State.withdrawDisplay State.updDisp
      rw [State.die_updDie]
    exact ⟨_, rfl, fun _ => hnone⟩
  · exact ⟨s.dies, rfl, fun h' => absurd h' h⟩

/-- R366, R432: A CONTEXT THAT WAS LOADED ON ONE DIE is taken off it, once the writes of path M have reached their homes. -/
theorem State.unloadDie_spec {s t : State} {ctx die : Nat} (hcores : s.SameCores t) (hdies : (s.ctx ctx).dies = 1#2 <<< die) :
    let u := t.unloadDie ctx die
    u.ctxs = tdel s.ctxs ctx ∧ u.groups = s.groups ∧ u.mq = [] ∧ u.stop = s.drainAll.stop
      ∧ (∀ k, u.homeByte k = s.drainAll.homeByte k) ∧ ((s.disp die).granted = some ctx → (u.disp die).granted = none) := by
  obtain ⟨cs, rfl, -⟩ := hcores
  obtain ⟨cs', f, hforget, hdisp⟩ := (s.withCores cs).drainAll.forgetCtx_frame die ctx
  obtain ⟨v, hv⟩ : ∃ v, v = (s.drainAll.withCores cs').updDie die f := ⟨_, rfl⟩
  obtain ⟨ds, hdrawn, hgranted⟩ := v.withdrawn_frame die ctx
  have hmem := s.onlyMemory_drainAll
  have hctxs : v.ctxs = s.ctxs := by rw [hv, hmem]; rfl
  have hright : v.disp die = s.disp die := by
    rw [hv]
    refine (congrArg Die.disp (State.die_updDie _ die f)).trans ((hdisp _).trans ?_)
    change (tget s.drainAll.dies die {}).disp = _
    rw [hmem.dies]
    rfl
  have hgone : (tget v.ctxs ctx {}).dies &&& ~~~(1#2 <<< die) = 0#2 := by
    rw [hctxs, show tget s.ctxs ctx {} = s.ctx ctx from rfl, hdies, BitVec.and_not_self]; rfl
  have hunload : (s.withCores cs).unloadDie ctx die = { v with dies := ds, ctxs := tdel v.ctxs ctx } := by
    rw [State.drainAll_withCores] at hforget
    unfold State.unloadDie
    dsimp only
    rw [State.drainAll_withCores, hforget, show ((s.drainAll.withCores cs).withCores cs').updDie die f = v from hv.symm, hdrawn]
    exact if_pos hgone
  intro u
  have hu : u = { v with dies := ds, ctxs := tdel v.ctxs ctx } := hunload
  rw [hu]
  refine ⟨congrArg (fun t => tdel t ctx) hctxs, ?_, ?_, ?_, fun k => ?_, fun h => hgranted (by rw [hright, h])⟩
  · change v.groups = _
    rw [hv]; exact hmem.groups
  · change v.mq = _
    rw [hv]; exact s.mq_drainAll
  · change v.stop = _
    rw [hv]; rfl
  · change v.homeByte k = _
    rw [hv]; rfl

/-- The dies of a payload on which the context is loaded, when it names one die, on which it is. -/
theorem State.unloadDies {s : State} {p die : Nat} (hd : die < 2) (hm : p / 2 ^ 8 % 4 = 2 ^ die)
    (hdies : (s.ctx (p % 256)).dies = 1#2 <<< die) :
    [0, 1].filter (fun d => decide (p / 2 ^ (8 + d) % 2 = 1) && s.loadedOn d (p % 256)) = [die] := by
  rw [← maskDies_pow hd, ← hm, ← payloadDies]
  refine List.filter_congr fun d hmem => ?_
  by_cases hbit : p / 2 ^ (8 + d) % 2 = 1
  · have hdie : d ∈ [0, 1].filter (fun d => decide (p / 2 ^ (8 + d) % 2 = 1)) := List.mem_filter.mpr ⟨hmem, decide_eq_true hbit⟩
    rw [payloadDies, hm, maskDies_pow hd, List.mem_singleton] at hdie
    subst hdie
    have hloaded : s.loadedOn d (p % 256) = true := by
      unfold State.loadedOn
      rw [hdies]
      match d, hd with
      | 0, _ => rfl
      | 1, _ => rfl
    rw [hloaded, Bool.and_true]
  · rw [decide_eq_false hbit, Bool.false_and]

/-- R432: UNLOAD_CTX OF A CONTEXT THAT ONE DIE HOLDS, no core having a bin. -/
theorem State.unloadCtx_on {s : State} {p die : Nat} (hd : die < 2) (hm : p / 2 ^ 8 % 4 = 2 ^ die)
    (hdies : (s.ctx (p % 256)).dies = 1#2 <<< die) (hbins : ∀ c < 32, (s.core c).bins = []) :
    ∃ t, s.SameCores t ∧ s.unloadCtx p = if s.inUse die (p % 256) = true then t.refuseOpen else ((0, 0), t.unloadDie (p % 256) die) := by
  have hcores := State.sameCores_castOffs (fun b => decide (b.ctx = p % 256)) (coresOf die) s fun c hc => by
    obtain ⟨i, hi, rfl⟩ := List.mem_map.mp hc
    rw [List.mem_range] at hi
    exact hbins _ (by omega)
  refine ⟨_, hcores, ?_⟩
  rw [← hcores.inUse]
  unfold State.unloadCtx
  dsimp only
  rw [State.unloadDies hd hm hdies, List.foldl_cons, List.foldl_nil, List.any_cons, List.any_nil, Bool.or_false]
  rfl

theorem exec_loadCtx {s : State} (hc : s.Commanded 0x01) (hf : s.host.service = .full) :
    exec .loadCtx s = finish (State.answered (s.loadCtx (s.payload64 0))) := by
  change finish (s.command _ _ _) = _
  rw [State.command_run _ hc (by simp [hf]), s.arg_eight]

theorem exec_unloadCtx {s : State} (hc : s.Commanded 0x02) (hf : s.host.service = .full) :
    exec .unloadCtx s = finish (State.answered (s.unloadCtx (s.payload16 0))) := by
  change finish (s.command _ _ _) = _
  rw [State.command_run _ hc (by simp [hf]), s.arg_two]

/-! ### The commands together -/

/-- R430: what LOAD_CTX refuses, and what it loads. -/
theorem loadCtx_effect {s : State} (hc : s.Commanded 0x01) (hf : s.host.service = .full) :
    let p := s.payload64 0
    let refused := fun d : Nat => ∃ t, exec .loadCtx s = .next t ∧ t.Replied 1 d ∧ s.OnlyHost t
    (¬GoodLoad p → refused 0x8001) ∧ (GoodLoad p → ¬s.FreeFor p → refused 0x8002)
      ∧ (∀ off, GoodLoad p → s.FreeFor p → descFault (s.descriptor p) = some off → refused off)
      ∧ (GoodLoad p → s.FreeFor p → descFault (s.descriptor p) = none →
          (∃ d < 2, p / 2 ^ 8 % 4 / 2 ^ d % 2 = 1 ∧ (s.described p).disp.getLsbD d = true ∧ (s.disp d).granted ≠ none) → refused 0x8003)
      ∧ ∀ die < 2, GoodLoad p → s.FreeFor p → descFault (s.descriptor p) = none → PlainDescriptor (s.described p) →
          p / 2 ^ 8 % 4 = 2 ^ die → (s.ctx (p % 2 ^ 8)).dies = 0#2 →
          exec .loadCtx s = .next (((s.admitted p).loadDie (p % 256) die).reply (0, 0)) := by
  intro p refused
  have hrefused : ∀ d, s.loadCtx p = ((1, d), s) → refused d := fun d h => by
    refine ⟨s.reply (1, d), ?_, s.replied_reply _, s.onlyHost_reply _⟩
    rw [exec_loadCtx hc hf, h]
    exact finish_next (s := s.reply (1, d)) hc.1
  refine ⟨fun h => hrefused _ (State.loadCtx_payload h), fun h hfree => hrefused _ (State.loadCtx_loaded h hfree),
    fun off h hfree hoff => hrefused _ (State.loadCtx_fault h hfree hoff), fun h hfree hoff hright => hrefused _ ?_,
    fun die hd h hfree hoff hplain hm hfirst => ?_⟩
  · obtain ⟨d, hd, hbit, hdisp, hgranted⟩ := hright
    rw [State.loadCtx_inOrder h hfree hoff]
    refine if_pos (List.any_eq_true.mpr ⟨d, mem_maskDies.mpr ⟨hd, hbit⟩, ?_⟩)
    rw [hdisp, Bool.true_and, Option.isSome_iff_ne_none]
    exact hgranted
  · obtain ⟨-, -, -, -, hstop, -⟩ := State.loadInOrder_first_spec hd hm hplain hfirst
    rw [exec_loadCtx hc hf, State.loadCtx_inOrder h hfree hoff, State.loadInOrder_first hd hm hplain]
    exact finish_next (s := State.reply _ (0, 0)) (hstop.trans hc.1)

/-- Settles O53: each command by its equation; a first load and an unload on one die by what they leave of the module. -/
theorem contextCommands : Obligations.ContextCommands := by
  unfold Obligations.ContextCommands
  refine ⟨fun s i code avail hm hstop => ⟨exec_mailbox_refused hm s, exec_mailbox_off hm s hstop⟩,
    fun s hgo h => exec_unknownCommand hgo h, fun s hstop hgo hf => ⟨fun hcmd => ?_, fun hcmd hbins die hd hm => ?_, fun hcmd => ?_,
      fun hcmd => ?_, fun hcmd => ?_⟩⟩
  · obtain ⟨hbad, hloaded, hfault, hright, hload⟩ := loadCtx_effect ⟨hstop, hgo, hcmd⟩ hf
    refine ⟨hbad, hloaded, hfault, hright, fun die hd hgood hfree hoff hplain hm hfirst => ?_⟩
    obtain ⟨hctx, hother, hgroups, hteams, -, hhome, hwharf, hgraphs⟩ := State.loadInOrder_first_spec hd hm hplain hfirst
    refine ⟨_, hload die hd hgood hfree hoff hplain hm hfirst, State.replied_reply _ _, hctx, hother, hgroups, hteams, hhome,
      fun k hk => ?_, hgraphs⟩
    exact (congrArg (fun w => tget? w k) hwharf).trans (State.wharf_zeroWindows _ _ hk)
  · intro ctx hdies hrising hdrain
    obtain ⟨u, hcores, hunload⟩ := State.unloadCtx_on hd hm hdies hbins
    have hexec := exec_unloadCtx ⟨hstop, hgo, hcmd⟩ hf
    rw [hunload] at hexec
    refine ⟨fun huse => ?_, fun hfree => ?_⟩
    · replace huse : s.inUse die (s.payload16 0 % 256) = true := huse
      rw [if_pos huse] at hexec
      obtain ⟨cs, rfl, -⟩ := hcores
      exact ⟨_, _, hexec.trans (finish_next hstop), State.replied_reply _ _, rfl⟩
    · obtain ⟨hctxs, hgroups, hmq, hstop', hhome, hright⟩ := State.unloadDie_spec hcores hdies
      replace hfree : s.inUse die (s.payload16 0 % 256) = false := hfree
      rw [if_neg (by rw [hfree]; decide)] at hexec
      refine ⟨_, hexec.trans (finish_next (hstop'.trans hdrain)), State.replied_reply _ _, ?_, fun h hh => ?_, hright, hgroups, hmq, hhome⟩
      · exact (congrArg (fun t => tget? t ctx) hctxs).trans ((tget?_tdel _ _ _).trans (if_pos rfl))
      · exact (congrArg (fun t => tget? t h) hctxs).trans ((tget?_tdel _ _ _).trans (if_neg hh))
  · have hexec := exec_preemptCmd hstop ⟨hstop, hgo, hcmd⟩ hf
    refine ⟨fun h => ⟨_, hexec.trans (if_pos h), s.replied_reply _, s.onlyHost_reply _⟩, fun h => ?_⟩
    intro q
    refine ⟨_, hexec.trans (if_neg (by omega)), State.replied_reply _ _, ?_, fun d hd => s.preempts_postPreempt q hd⟩
    change (s.postPreempt q).groups = s.groups
    rw [s.postPreempt_frame]
  · have hexec := exec_setIndex hstop ⟨hstop, hgo, hcmd⟩ hf
    exact ⟨fun h => ⟨_, _, hexec.trans (if_pos h), State.replied_reply _ _, rfl, rfl⟩, fun h => hexec.trans (if_neg (by simp [h]))⟩
  · have hexec := exec_setPeer hstop ⟨hstop, hgo, hcmd⟩ hf
    exact ⟨fun h => ⟨_, _, hexec.trans (if_pos h), State.replied_reply _ _, rfl⟩,
      fun h hm => hexec.trans (if_neg (by simp [h, hm]))⟩

end Sys2Proof.Machine
end

section
/-! PROOFS. A park for presence ends (R184, R278). -/
namespace Sys2Proof.Machine

/-- WHAT TAKING A PARKED WAVE BACK CHANGES: it issues again, ready from this cycle on, and whatever promotion it had is gone. -/
theorem State.wave_unpark {s : State} {gid wid : Nat} {why : Park} (h : ((s.group gid).wave wid).phase = .parked why) :
    ((s.unpark gid wid).group gid).wave wid = { (s.group gid).wave wid with
      phase := .body, readyAt := (s.core (s.group gid).core).cycles, promoted := false } := by
  unfold State.unpark
  rw [State.group_updGroup]
  simp only [h, Group.wave_setWave]

theorem exec_scratchpadPresenceResume {s : State} {gid wid : Nat} (h : ((s.group gid).wave wid).phase = .parked .presence) :
    exec (.scratchpadPresenceResume gid wid) s = .next (s.unpark gid wid) := by
  change execScratchpadPresenceResume gid wid s = _
  simp only [execScratchpadPresenceResume, h]

/-- A promoted wave that has parked for presence: a park leaves the promotion that a wave had (R278). -/
def State.promotedAtPark : State :=
  { State.reset with groups := [(0, { waves := [(0, { lanes := 1, phase := .body, promoted := true })] })] }.park .presence

/-- Refutes O27, by its clause on the end of a park: the wave loses its promotion, which the clause has it keep. -/
theorem not_scratchpadWords : ¬ Obligations.ScratchpadWords := by
  rintro ⟨-, hresume⟩
  have hparked : ((State.promotedAtPark.group 0).wave 0).phase = .parked .presence := rfl
  have hpromoted : ((State.promotedAtPark.group 0).wave 0).promoted = true := rfl
  obtain ⟨t, hexec, hwave, -⟩ := hresume .promotedAtPark 0 0 hparked
  obtain rfl := Host.Outcome.next.inj (hexec.symm.trans (exec_scratchpadPresenceResume hparked))
  rw [State.wave_unpark hparked] at hwave
  have hkept := congrArg Wave.promoted hwave
  rw [hpromoted] at hkept
  exact absurd hkept (by decide)

end Sys2Proof.Machine
end

section
/-! PROOFS. The issue of CINV (R199, R410). -/
namespace Sys2Proof.Machine

/-- A discardable buffer of 64 bytes at VA 0 that may be written (R174). -/
def discardable : QWord := (0x2000000000000040_0060000000000000 : BitVec 128)

/-- A wave at a CINV of one atom of that buffer: s0 is the offset 0, s1 the length 32, b0 the record. The core holds the
page's translation with its A and D bits set, and no prediction register of the group has been used. -/
def State.discarding : State := { State.reset with
  cores := [(0, { tlb := [{ leaf := 0x277 }] })]
  groups := [(0, { s := vecSet (Vector.replicate 64 0) 1 32, b := vecSet (Vector.replicate 16 0) 0 discardable,
                   waves := [(0, { lanes := 1, phase := .body, en := 1 })] })] }

theorem State.maps_discarding : State.discarding.Maps 0 0 true false .write 0 0 :=
  ⟨{ leaf := 0x277 }, rfl, rfl, rfl, fun _ => ⟨rfl, rfl, rfl⟩, nofun, fun _ => rfl, rfl⟩

/-- R410: the record's prediction register takes the translation that the CINV has used. -/
theorem State.exec_discarding : ∃ t, exec (.cinv 0 1 0) .discarding = .next t
    ∧ t.cg.preds = [(0, { recd := discardable, va := 0, entry := { leaf := 0x277 } })] :=
  ⟨_, rfl, rfl⟩

/-- Refutes O33, by its clause on the issue of CINV: the clause has every register of the group stay, its prediction registers with
them, while the access that CINV makes is noted in its record's. -/
theorem not_sealsAndCacheMaintenance : ¬ Obligations.SealsAndCacheMaintenance := by
  rintro ⟨-, hissue, -⟩
  obtain ⟨hcinv, -, -⟩ := hissue .discarding 0 1 0 0 rfl (by unfold State.Enabled; decide) ⟨rfl, by decide⟩
    (by decide) (by decide) (by decide) (by decide)
  obtain ⟨t, o, hexec, ⟨hgroup, -⟩, -⟩ := hcinv (by decide) (by decide) (by decide) (by decide) State.maps_discarding
  obtain ⟨u, hexec', hpreds⟩ := State.exec_discarding
  obtain rfl := Host.Outcome.next.inj (hexec.symm.trans hexec')
  rw [hgroup] at hpreds
  exact absurd hpreds nofun

end Sys2Proof.Machine
end

section
/-! PROOFS. Words that a FENCE holds back, its issue and its completion (R196, R287, R288, R290, R293). -/
namespace Sys2Proof.Machine

/-! ### Words that wait (R86, R196) -/

/-- The fields that FENCE takes (R196). -/
def fenceOk (c : BitVec 3) (p d : BitVec 7) : Bool := decide (c.toNat ≤ 5) && decide (p ≠ 0) && decide (d ≠ 0)

theorem fenceOk_iff {c : BitVec 3} {p d : BitVec 7} : fenceOk c p d = true ↔ c.toNat ≤ 5 ∧ p ≠ 0 ∧ d ≠ 0 := by
  simp only [fenceOk, Bool.and_eq_true, decide_eq_true_eq, and_assoc]

section
variable {s : State} (hf : s.cg.fence ≠ none)
include hf

theorem State.held_of_fence (fl : Option Nat) : s.held fl = true := by
  unfold State.held
  rw [Option.isSome_iff_ne_none.mpr hf, Bool.true_or]

/-- A V-set word of pipe M with fields that decode and a prefix that fits waits. -/
theorem State.mWord_fenced {ok : Bool} {orders : List Nat} {cRegs : Nat} {x : MIn} (hok : ok = true)
    (hv : s.memView orders cRegs = some x) (fl : Bool) (k : MIn → State → State) : s.mWord ok orders cRegs fl k = s := by
  have hheld := State.held_of_fence hf (s.cw.flagOf fl)
  unfold State.memView at hv
  unfold State.mWord
  cases hp : s.cw.pfx with
  | none =>
    rw [hp] at hv
    have hregs : cRegs = 0 := by_contra fun h => by simp [h] at hv
    simp [hok, hregs, hheld]
  | some p =>
    rw [hp] at hv
    have hfits : mpfxOk p s.cg.n orders cRegs = true := by_contra fun h => by simp [h] at hv
    simp [hok, hfits, hheld]

theorem State.vmAccess_fenced {i : Instr} {d a br : Nat} {fl : Bool} {w : MemW} {path : Nat} {write : Bool} {kinds : List Nat} {x : MIn}
    (hok : ((if write then srcOk s.cg.n d (regsOf (memBytes w)) else dstOk s.cg.n d (regsOf (memBytes w))) && srcOk s.cg.n a 1) = true)
    (hv : s.memView (if write then [0, 2] else [0, 1]) 0 = some x) : s.vmAccess i d a br fl w path write kinds = s := by
  unfold State.vmAccess
  exact State.mWord_fenced hf hok hv _ _

theorem State.vmSpad_fenced {i : Instr} {d a : Nat} {fl : Bool} {w : MemW} {write : Bool} {x : MIn}
    (hok : ((if write then srcOk s.cg.n d (regsOf (memBytes w)) else dstOk s.cg.n d (regsOf (memBytes w))) && srcOk s.cg.n a 1) = true)
    (hv : s.memView (if write then [0, 2] else [0, 1]) 0 = some x) : s.vmSpad i d a fl w write = s := by
  unfold State.vmSpad
  exact State.mWord_fenced hf hok hv _ _

theorem State.vtAtomic_fenced {i : Instr} {d a br : Nat} {p : Aop} {n : Nat} {ok : Bool} {x : MIn}
    (hok : (ok && dstOk s.cg.n d (n / 4) && srcOk s.cg.n a (n / 4 + 1)) = true)
    (hv : s.memView [0, 1, 2, 3] (if decide (p = .cas) = true then n / 4 else 0) = some x) : s.vtAtomic i d a br p n ok = s := by
  unfold State.vtAtomic
  exact State.mWord_fenced hf hok hv _ _

theorem State.wop_fenced {i : Instr} {d : Option Nat} {a br : Nat} {p : Wop} {x : MIn}
    (hd : ∀ e, d = some e → dstOk s.cg.n e (wopBytes p / 4) = true) (ha : srcOk s.cg.n a (wopBytes p / 4 + 1) = true)
    (hv : s.memView [0, 1, 2, 3] (if decide (p = .cas) = true then 1 else 0) = some x) : s.wop i d a br p = s := by
  unfold State.wop
  refine State.mWord_fenced hf ?_ hv _ _
  rw [ha, Bool.and_true]
  cases d with
  | none => rfl
  | some e => exact hd e rfl

variable (he : s.Enabled)
include he

/-- A U-set word of pipe M with fields that decode waits. -/
theorem State.umWord_fenced {ok : Bool} (hok : ok = true) (k : State → State) : s.umWord ok k = s :=
  (s.uWord_ok _ he hok).trans (if_pos (State.held_of_fence hf _))

/-- A word of pipe E waits. -/
theorem State.eWord_fenced {ok : Bool} (hok : ok = true) (l engine : Bool) (k : State → State) : s.eWord ok l engine k = s :=
  (s.uWord_ok _ he hok).trans (if_pos (State.held_of_fence hf _))

/-- A word of the streamer waits. -/
theorem State.cWord_fenced {ok : Bool} (hok : ok = true) (k : State → State) : s.cWord ok k = s :=
  (s.uWord_ok _ he hok).trans (if_pos (State.held_of_fence hf _))

end

section
variable {s : State} (hstop : s.stop = none) (hf : s.cg.fence ≠ none)
include hstop

/-- A word whose meaning leaves the state as it is. -/
theorem finish_of_eq {u : State} (h : u = s) : finish u = .next s := by
  rw [h, finish_next hstop]

include hf

/-- The V-set memory words wait. -/
theorem MemWord.fenced {i : Instr} {m : MemShape} {x : MIn} (h : MemWord i m) (hfits : m.fits s.cg.n = true)
    (hv : s.memView m.orders m.cRegs = some x) : exec i s = .next s := by
  cases h with
  | vld | vst | vldwh | vstwh => exact finish_of_eq hstop (State.vmAccess_fenced hf hfits hv)
  | vwop =>
    obtain ⟨hd, ha⟩ := Bool.and_eq_true_iff.mp hfits
    exact finish_of_eq hstop (State.wop_fenced hf (fun _ h => Option.some.inj h ▸ hd) ha (by simpa using hv))
  | vwopPosted => exact finish_of_eq hstop (State.wop_fenced hf nofun hfits (by simpa using hv))
  | vatom => exact finish_of_eq hstop (State.vtAtomic_fenced hf ((congrArg (· && _) (Bool.true_and _)).trans hfits) (by simpa using hv))
  | vatom64 hadd hmin hmax =>
    exact finish_of_eq hstop (State.vtAtomic_fenced hf (by simpa [hadd, hmin, hmax] using hfits) (by simpa using hv))
  | vcas128 => exact finish_of_eq hstop (State.vtAtomic_fenced hf ((congrArg (· && _) (Bool.true_and _)).trans hfits) hv)

/-- The words of path S and the page requests of lanes wait. -/
theorem LodWord.fenced {i : Instr} {d a : Byte} {br : BitVec 4} {fl : Bool} {dst src : Nat} {kinds : List Nat} {perm : QWord → Bool}
    {smp : Bool} {x : MIn} (h : LodWord i d a br fl dst src kinds perm smp) (hd : dstOk s.cg.n d.toNat dst = true)
    (ha : srcOk s.cg.n a.toNat src = true) (hv : s.memView [0] 0 = some x) : exec i s = .next s := by
  cases h with
  | vldl | vsmp | vpgreq => exact finish_of_eq hstop (State.mWord_fenced hf (by rw [hd, ha]; rfl) hv _ _)

/-- R196: WHILE A FENCE OF THE GROUP HAS NOT COMPLETED, a word of pipe M or E does not issue: nothing changes. -/
theorem PipeWord.fenced (he : s.Enabled) {i : Instr} (h : PipeWord s i) : exec i s = .next s := by
  cases h with
  | mem hw hfits hv => exact hw.fenced hstop hf hfits hv
  | lod hw hd ha hv => exact hw.fenced hstop hf hd ha hv
  | vldsp hd ha hv | vstsp hd ha hv => exact finish_of_eq hstop (State.vmSpad_fenced hf (by simp [hd, ha]) hv)
  | vpref ha hv => exact finish_of_eq hstop (State.mWord_fenced hf ha hv _ _)
  | sld h | sst h | sldsp h | sstsp h => exact finish_of_eq hstop (State.umWord_fenced hf he (by simpa [sspanOk] using h) _)
  | @satom p r w n o hp hn =>
    refine finish_of_eq hstop (State.umWord_fenced hf he ?_ _)
    have hspan : sspanOk n.toNat (if decide (p = .cas) = true then 2 * (atomBytes w / 4) else atomBytes w / 4) = true := by
      by_cases hc : p = .cas
      · simpa [sspanOk, hc, Nat.mul_comm] using hn
      · simpa [sspanOk, hc] using hn
    rw [hspan, Bool.and_true]
    cases w with
    | w32 => rfl
    | w64 => simp [hp rfl]
  | pgreq h | sealPages h | unsealPages h =>
    exact finish_of_eq hstop (State.umWord_fenced hf he (by simp [sspanOk]; omega) _)
  | fence hc hp hd => exact finish_of_eq hstop (State.umWord_fenced hf he (fenceOk_iff.mpr ⟨hc, hp, hd⟩) _)
  | cinv | cwb => exact finish_of_eq hstop (State.umWord_fenced hf he rfl _)
  | cpy h | cpym h | cpys h | cpyg h => exact finish_of_eq hstop (State.cWord_fenced hf he (by simpa [sspanOk] using h) _)
  | @accmap h x y f l hy hx =>
    refine finish_of_eq hstop (State.eWord_fenced hf he ?_ _ _ _)
    cases f with
    | scalebias => rfl
    | leaky => exact decide_eq_true (hy nofun)
    | _ => rw [hx nofun nofun, hy nofun]; rfl
  | chload | chrel | atdef | mma | mmag | mmav | accz | accld | accst | accrd | accwr | rfil | rema | mprog | mseq =>
    exact finish_of_eq hstop (State.eWord_fenced hf he rfl _ _ _)

end

/-! ### Issue (R196) -/

/-- Nothing holds back an operation that may issue. -/
theorem State.PipeFree.held {s : State} {fl : Option Nat} (h : s.PipeFree fl) : s.held fl = false := by
  obtain ⟨hfence, hflag⟩ := h
  unfold State.held Group.flagFull
  rw [hfence, decide_eq_false (by omega)]
  rfl

/-- A U-set word of pipe M that nothing holds back takes effect. -/
theorem State.umWord_free {s : State} {ok : Bool} (he : s.Enabled) (hfree : s.PipeFree (s.cw.flagOf false)) (hok : ok = true)
    (k : State → State) : s.umWord ok k = k s :=
  (s.uWord_ok _ he hok).trans (if_neg (by rw [hfree.held]; exact Bool.false_ne_true))

theorem State.umWord_illegal {s : State} (he : s.Enabled) (k : State → State) : s.umWord false k = s.illegal := by
  unfold State.umWord State.uWord
  rw [if_neg he]
  rfl

/-- What FENCE puts in flight. -/
def State.fenceOp (s : State) (c : BitVec 3) (o : BitVec 2) (p d : BitVec 7) : POp :=
  { instr := .fence c o p d, pfx := s.cw.pfx, flag := s.cw.flagOf false, act := s.cw.en, args := [c.toNat, o.toNat, p.toNat, d.toNat] }

/-- The state once the FENCE has issued: the group has it in flight, and knows of it. -/
def State.fenced (s : State) (c : BitVec 3) (o : BitVec 2) (p d : BitVec 7) : State :=
  (s.issueOp (s.fenceOp c o p d)).nextWord.updCur (fun g => { g with fence := some s.nextOp })

section
variable {s : State} {c : BitVec 3} {o : BitVec 2} {p d : BitVec 7} (hstop : s.stop = none) (he : s.Enabled)
include he

theorem exec_fence_illegal (h : fenceOk c p d = false) : exec (.fence c o p d) s = finish s.illegal := by
  change finish (s.umWord (fenceOk c p d) _) = _
  rw [h, State.umWord_illegal he]

include hstop

theorem exec_fence (hfree : s.PipeFree (s.cw.flagOf false)) (h : fenceOk c p d = true) :
    exec (.fence c o p d) s = .next (s.fenced c o p d) := by
  change finish (s.umWord (fenceOk c p d) _) = _
  rw [State.umWord_free he hfree h]
  exact finish_next (s := s.fenced c o p d) hstop

end

/-- A FENCE THAT ISSUES is the group's operation, which the group then waits for. -/
theorem State.issuedAs_fenced (s : State) (c : BitVec 3) (o : BitVec 2) (p d : BitVec 7) :
    s.IssuedAs (s.fenced c o p d) { s.cg with fence := some s.nextOp } (s.numbered (s.fenceOp c o p d)) := by
  obtain ⟨hgroup, hflags, hid, hnext, hclause, hidx, ⟨hwave, hwaves⟩, hother, hhome⟩ := s.issued_issueOp (s.fenceOp c o p d)
  have hcg : (s.fenced c o p d).cg = { (s.issueOp (s.fenceOp c o p d)).nextWord.cg with fence := some s.nextOp } :=
    State.cg_updCur _ _
  refine ⟨?_, fun f hf => ?_, hid, hnext, hclause, hidx, ⟨?_, fun w hw => ?_⟩, fun h hh => ?_, hhome⟩
  · rw [hcg, hgroup]
  · rw [hcg]; exact hflags f hf
  · unfold State.cw at hwave ⊢
    rw [hcg]; exact hwave
  · rw [hcg]; exact hwaves w hw
  · exact (State.group_updCur_ne (s.issueOp (s.fenceOp c o p d)).nextWord _ hh).trans (hother h hh)

/-! ### Lines that go (R293) -/

/-- A core that has lost the lines of path S. -/
def State.dropS (s : State) (c : Nat) : State := ((s.invalidate c .sampler).invalidate c .fetch).abortGate c

/-- Nothing but cores has changed: those of the list have lost the lines of path S, and no core a line of its L1. -/
def State.LostS (s t : State) (ls : List Nat) : Prop :=
  t = { s with cores := t.cores } ∧ ∀ k, (t.core k).l1 = (s.core k).l1
    ∧ (t.core k).sampler = (if k ∈ ls then [] else (s.core k).sampler)
    ∧ (t.core k).fetchBuf = (if k ∈ ls then [] else (s.core k).fetchBuf)

/-- An aborted gating changes no cache. -/
theorem State.lostS_abortGate (s : State) (c : Nat) : s.LostS (s.abortGate c) [] := by
  unfold State.abortGate
  split_ifs
  · refine ⟨rfl, fun k => ?_⟩
    by_cases hk : k = c
    · subst hk; simp
    · rw [State.core_updCore_ne _ _ hk]; simp
  · exact ⟨rfl, fun k => by simp⟩

theorem State.LostS.trans {s t u : State} {as bs : List Nat} (h : s.LostS t as) (k : t.LostS u bs) : s.LostS u (as ++ bs) := by
  obtain ⟨hst, hcores⟩ := h
  obtain ⟨htu, hcores'⟩ := k
  refine ⟨by rw [htu, hst], fun k => ?_⟩
  obtain ⟨hl1, hsmp, hfetch⟩ := hcores k
  obtain ⟨hl1', hsmp', hfetch'⟩ := hcores' k
  rw [hl1', hsmp', hfetch', hl1, hsmp, hfetch]
  by_cases ha : k ∈ as <;> by_cases hb : k ∈ bs <;> simp [ha, hb]

theorem State.lostS_dropS (s : State) (c : Nat) : s.LostS (s.dropS c) [c] := by
  have hinval : s.LostS ((s.invalidate c .sampler).invalidate c .fetch) [c] := by
    refine ⟨rfl, fun k => ?_⟩
    unfold State.invalidate
    by_cases hk : k = c
    · subst hk
      rw [State.core_updCore, State.core_updCore]
      simp [Core.setCache]
    · rw [State.core_updCore_ne _ _ hk, State.core_updCore_ne _ _ hk]
      simp [hk]
  exact hinval.trans (State.lostS_abortGate _ c)

theorem State.lostS_foldl (ls : List Nat) : ∀ s : State, s.LostS (ls.foldl State.dropS s) ls := by
  induction ls with
  | nil => exact fun s => ⟨rfl, fun k => by simp⟩
  | cons c ls ih => exact fun s => (s.lostS_dropS c).trans (ih _)

/-- R293: WHAT A FENCE'S INVALIDATIONS CHANGE: the L1 of the group's core, and the lines of path S on the cores of its scope. -/
theorem State.fenceInvalidate_spec (s : State) (gid scope order dst : Nat) :
    let u := s.fenceInvalidate gid scope order dst
    u = { s with cores := u.cores } ∧ ∀ k,
      (u.core k).l1 = (if k = (s.group gid).core ∧ order ≠ 1 ∧ dst % 2 = 1 ∧ 2 ≤ scope then [] else (s.core k).l1)
      ∧ (u.core k).sampler = (if k ∈ s.scopeCores gid scope ∧ dst / 2 % 2 = 1 then [] else (s.core k).sampler)
      ∧ (u.core k).fetchBuf = (if k ∈ s.scopeCores gid scope ∧ dst / 2 % 2 = 1 then [] else (s.core k).fetchBuf) := by
  obtain ⟨v, hv⟩ : ∃ v, v = if order ≠ 1 ∧ dst % 2 = 1 ∧ 2 ≤ scope then s.invalidate (s.group gid).core .l1 else s := ⟨_, rfl⟩
  have hframe : v = { s with cores := v.cores } := by rw [hv]; split_ifs <;> rfl
  have hcore : ∀ k, (v.core k).sampler = (s.core k).sampler ∧ (v.core k).fetchBuf = (s.core k).fetchBuf ∧ (v.core k).l1
      = if k = (s.group gid).core ∧ order ≠ 1 ∧ dst % 2 = 1 ∧ 2 ≤ scope then [] else (s.core k).l1 := fun k => by
    rw [hv]
    by_cases h : order ≠ 1 ∧ dst % 2 = 1 ∧ 2 ≤ scope
    · rw [if_pos h]
      unfold State.invalidate
      by_cases hk : k = (s.group gid).core
      · rw [if_pos ⟨hk, h⟩, hk, State.core_updCore]; exact ⟨rfl, rfl, rfl⟩
      · rw [if_neg (fun e => hk e.1), State.core_updCore_ne _ _ hk]; exact ⟨rfl, rfl, rfl⟩
    · rw [if_neg h, if_neg (fun e => h e.2)]; exact ⟨rfl, rfl, rfl⟩
  have hscope : v.scopeCores gid scope = s.scopeCores gid scope := by rw [hframe]; rfl
  obtain ⟨hlost, hlines⟩ := State.lostS_foldl (s.scopeCores gid scope) v
  have hu : s.fenceInvalidate gid scope order dst
      = if dst / 2 % 2 = 1 then (s.scopeCores gid scope).foldl State.dropS v else v := by
    rw [← hscope, hv]; rfl
  intro u
  rw [show u = _ from hu]
  by_cases hd : dst / 2 % 2 = 1
  · rw [if_pos hd]
    refine ⟨by rw [hlost, hframe], fun k => ?_⟩
    obtain ⟨hl1, hsmp, hfetch⟩ := hlines k
    obtain ⟨hsmp', hfetch', hl1'⟩ := hcore k
    simp only [hl1, hsmp, hfetch, hl1', hsmp', hfetch', hd, and_true]
  · rw [if_neg hd]
    refine ⟨hframe, fun k => ?_⟩
    obtain ⟨hsmp', hfetch', hl1'⟩ := hcore k
    simp only [hl1', hsmp', hfetch', hd, and_false, if_false, and_true]

/-! ### Completion (R196, R288, R290, R293) -/

/-- What a FENCE still waits for: an earlier operation of its group, or a traversal that may hold a line it drops. -/
def State.fenceHeld (s : State) (gid : Nat) (x : POp) (c : BitVec 3) (o : BitVec 2) (p d : BitVec 7) : Bool :=
  ((s.group gid).earlier x).any (fenceWaits o.toNat p.toNat) || (d.toNat.testBit pathS && s.walksOn (s.scopeCores gid c.toNat))

/-- The state once a release or full FENCE has brought the group's writes of path M to their homes (R290). -/
def State.fenceDrained (s : State) (gid : Nat) (o : BitVec 2) (p : BitVec 7) : State :=
  if o ≠ 0 ∧ (p.toNat.testBit pathM = true ∨ (p.toNat.testBit pathH = true
    ∧ s.mq.any (fun w => decide (w.gid = gid) && keyH w.key) = true)) then s.drainGroup gid else s

theorem State.onlyMemory_fenceDrained (s : State) (gid : Nat) (o : BitVec 2) (p : BitVec 7) : s.OnlyMemory (s.fenceDrained gid o p) := by
  unfold State.fenceDrained
  split_ifs
  · exact s.onlyMemory_drainMany _
  · exact s.onlyMemory_refl

/-- The state once a FENCE that waits for nothing has completed. -/
def State.fencePassed (s : State) (gid : Nat) (x : POp) (c : BitVec 3) (o : BitVec 2) (p d : BitVec 7) : State :=
  (((s.fenceDrained gid o p).fenceInvalidate gid c.toNat o.toNat d.toNat).updGroup gid (fun g => { g with fence := none })).opDone gid x

section
variable {s : State} {gid op : Nat} {x : POp} {c : BitVec 3} {o : BitVec 2} {p d : BitVec 7} (hx : (s.group gid).op? op = some x)
  (hi : x.instr = .fence c o p d)
include hx hi

theorem exec_fenceComplete : exec (.fenceComplete gid op) s
    = if s.fenceHeld gid x c o p d = true then .next s else finish (s.fencePassed gid x c o p d) := by
  change execFenceComplete gid op s = _
  simp only [execFenceComplete, hx, hi]
  rfl

end

/-- R196, R293: WHAT A FENCE LEAVES. Only the group, the lines it drops and the writes it brings home have changed. -/
theorem State.fencePassed_spec (s : State) (gid : Nat) (x : POp) (c : BitVec 3) (o : BitVec 2) (p d : BitVec 7) :
    let t := s.fencePassed gid x c o p d
    let g := s.group gid
    t.stop = (s.fenceDrained gid o p).stop ∧ t.group gid = ({ g with fence := none } : Group).endOp x
      ∧ (∀ k, (t.core k).l1 = (if k = g.core ∧ o.toNat ≠ 1 ∧ d.toNat % 2 = 1 ∧ 2 ≤ c.toNat then [] else (s.core k).l1)
        ∧ (t.core k).sampler = (if k ∈ s.scopeCores gid c.toNat ∧ d.toNat / 2 % 2 = 1 then [] else (s.core k).sampler)
        ∧ (t.core k).fetchBuf = (if k ∈ s.scopeCores gid c.toNat ∧ d.toNat / 2 % 2 = 1 then [] else (s.core k).fetchBuf))
      ∧ (∀ h, h ≠ gid → t.group h = s.group h) ∧ ∀ key, t.homeByte key = (s.fenceDrained gid o p).homeByte key := by
  have hmem := s.onlyMemory_fenceDrained gid o p
  obtain ⟨m, hm⟩ : ∃ m, m = s.fenceDrained gid o p := ⟨_, rfl⟩
  rw [← hm] at hmem
  obtain ⟨hframe, hlines⟩ := m.fenceInvalidate_spec gid c.toNat o.toNat d.toNat
  have hgroup : ∀ h, (m.fenceInvalidate gid c.toNat o.toNat d.toNat).group h = s.group h := fun h => by rw [hframe, hmem]; rfl
  have hcore : ∀ k, m.core k = s.core k := fun k => by rw [hmem]; rfl
  have hscope : m.scopeCores gid c.toNat = s.scopeCores gid c.toNat := by rw [hmem]; rfl
  have hown : m.group gid = s.group gid := by rw [hmem]; rfl
  intro t g
  have ht : t = ((m.fenceInvalidate gid c.toNat o.toNat d.toNat).updGroup gid (fun g => { g with fence := none })).opDone gid x := by
    rw [hm]; rfl
  rw [ht, ← hm]
  refine ⟨?_, ?_, fun k => ?_, fun h hh => ?_, fun key => ?_⟩
  · change (m.fenceInvalidate _ _ _ _).stop = _
    rw [hframe]
  · rw [State.opDone, State.group_updGroup, State.group_updGroup, hgroup]
  · obtain ⟨hl1, hsmp, hfetch⟩ := hlines k
    rw [hcore, hown] at hl1
    rw [hcore, hscope] at hsmp hfetch
    exact ⟨hl1, hsmp, hfetch⟩
  · rw [State.opDone, State.group_updGroup_ne _ _ hh, State.group_updGroup_ne _ _ hh, hgroup]
  · change (m.fenceInvalidate _ _ _ _).homeByte key = _
    rw [hframe]; rfl

/-- Settles O32: a word of pipe M or E waits by what its unit asks first; the issue is that of any operation; the completion changes
memory by the writes it brings home, cores by the lines it drops, and its group, one after another. -/
theorem fencesOrderAndInvalidate : Obligations.FencesOrderAndInvalidate := by
  refine ⟨fun s c o p d hstop he hfree => ⟨fun ⟨hc, hp, hd⟩ => ?_, fun hbad => exec_fence_illegal he ?_⟩,
    fun s i hstop he hf hw => hw.fenced hstop hf he, fun s gid op x c o p d hx hi => ?_⟩
  · exact ⟨_, _, exec_fence hstop he hfree (fenceOk_iff.mpr ⟨hc, hp, hd⟩), s.issuedAs_fenced c o p d, rfl, rfl⟩
  · refine Bool.eq_false_iff.mpr fun h => ?_
    obtain ⟨hc, hp, hd⟩ := fenceOk_iff.mp h
    rcases hbad with hc' | hp' | hd'
    · omega
    · exact hp hp'
    · exact hd hd'
  · intro g waits m
    have hexec := exec_fenceComplete hx hi
    have hheld : s.fenceHeld gid x c o p d = waits := by
      unfold State.fenceHeld
      rw [show d.toNat.testBit pathS = decide (d.toNat / 2 % 2 = 1) from by simp [Nat.testBit_eq_decide_div_mod_eq, pathS]]
    rw [hheld] at hexec
    refine ⟨fun hw => hexec.trans (if_pos hw), fun hw hstop => ?_⟩
    obtain ⟨hkept, hgroup, hlines, hother, hhome⟩ := s.fencePassed_spec gid x c o p d
    have hone : o.toNat ≠ 1 ↔ o ≠ 1 := not_congr (BitVec.toNat_inj (y := 1))
    simp only [hone] at hlines
    refine ⟨_, hexec.trans ((if_neg (by rw [hw]; exact Bool.false_ne_true)).trans (finish_next (hkept.trans hstop))), ?_, ?_,
      fun k => (hlines k).1, fun k => (hlines k).2.1, fun k => (hlines k).2.2, ?_, ?_, hother, hhome⟩
    · rw [hgroup, Group.endOp_eq]
    · rw [hgroup]; exact Group.ended_endOp x rfl rfl
    · rw [hgroup, Group.endOp_eq]
    · rw [hgroup, Group.endOp_eq]

end Sys2Proof.Machine
end

section
/-! PROOFS. Results of the engine operations (R70, R213). -/
namespace Sys2Proof.Machine

/-- An ACCZ of row 0 of a tile of one FP32 column, among whose values 1.0 stands where a product keeps element (0, 0) of an F16 tile
widened. Acceptance gives an ACCZ no values (R203). -/
def widenedAccz : POp := { instr := .accz 0 false, act := 1, args := [0, 1, 1], vals := [(wideKey 0 0, 0x3F800000)] }

/-- That operation alone in the engine of core 0. -/
def State.clearing : State := { State.reset with
  cores := [(0, { engine := [(0, 0)] })]
  groups := [(0, { ops := [widenedAccz] })] }

theorem State.mayRun_clearing : State.clearing.MayRun 0 0 widenedAccz := ⟨rfl, rfl, rfl, rfl, rfl⟩

/-- R70: a completion rounds what the operation holds widened into its tile, after the +0.0 of ACCZ. -/
theorem State.exec_clearing : ∃ t, exec (.engineOpComplete 0 0) .clearing = .next t
    ∧ (t.team 0).elem widenedAccz.tile 0 0 = 0x3F800000 := ⟨_, rfl, rfl⟩

/-- Refutes O35, by its clause on ACCZ: only the clause on products bounds the values that an operation holds, and a completion
writes widened elements among them over the zeros. -/
theorem not_engineResults : ¬ Obligations.EngineResults := by
  intro h
  obtain ⟨haccz, -⟩ := h .clearing 0 0 widenedAccz State.mayRun_clearing rfl (by decide)
  obtain ⟨t, hexec, -, ⟨hrows, -⟩, -⟩ := haccz 0 false rfl
  obtain ⟨-, helem⟩ := hrows 0 (by decide) rfl
  have hzero : (t.team 0).elem widenedAccz.tile 0 0 = 0 := helem 0 (by decide)
  obtain ⟨u, hexec', hone⟩ := State.exec_clearing
  obtain rfl := Host.Outcome.next.inj (hexec.symm.trans hexec')
  rw [hone] at hzero
  exact absurd hzero (by decide)

end Sys2Proof.Machine
end

section
/-! PROOFS. Operations of the engine that stop (R221). -/
namespace Sys2Proof.Machine

/-- A product that PREEMPT has told to stop before its first block. -/
def stoppingProduct : POp := { instr := .mma 0 0 0 0 0 false, stopReq := true }

/-- A table of groups out of order: group 0, which holds the product, stands behind group 1, where a read of the table misses it. -/
def State.unordered : State := { State.reset with groups := [(1, {}), (0, { ops := [stoppingProduct] })] }

theorem State.ownerOf_unordered : State.unordered.ownerOf 0 = some (0, stoppingProduct) := rfl

/-- The stop is written into group 0 as a read of the table gives it, without the product. -/
theorem State.exec_unordered : ∃ t, exec (.engineStop 0 0 0) .unordered = .next t ∧ (t.group 0).op? 0 = none := ⟨_, rfl, rfl⟩

/-- Refutes O36, by its clause on stops: it takes the operation's group from the list of groups, whose numbers it does not suppose to
rise, and asks for the stopped operation where the table is read by number. -/
theorem not_chambersStopsAndProgress : ¬ Obligations.ChambersStopsAndProgress := by
  rintro ⟨⟨-, -, hstop, -⟩, -⟩
  obtain ⟨t, hexec, hop, -⟩ := hstop .unordered 0 0 0 0 stoppingProduct rfl State.ownerOf_unordered rfl rfl rfl
    (.inr (Nat.zero_le _))
  obtain ⟨u, hexec', hnone⟩ := State.exec_unordered
  obtain rfl := Host.Outcome.next.inj (hexec.symm.trans hexec')
  rw [hnone] at hop
  exact absurd hop nofun

end Sys2Proof.Machine
end

section
/-! PROOFS. Moorings (R240, R394). -/
namespace Sys2Proof.Machine

/-- A mooring entry at VA 0 that uses pool 0. -/
def looseEntry : MoorEntry := {}

/-- A pool whose BASE lies one byte below the end of a 256 MiB page, so that its block leaves that page. -/
def loosePool : Pool := { base := 2 ^ 28 - 1, blocks := 1, free := 1 }

/-- The walk cache of a die: the page of `loosePool` is the last 256 MiB page of the die's LPDDR6 (V, Leaf, W, P). -/
def lastPageWalks : List WalkEntry :=
  [{ level := 1, entry := 0x1 }, { level := 2, entry := BitVec.ofNat 64 (0x207 + 179 * 2 ^ 28) }]

/-- A group whose one lane is at a MOOR of `looseEntry`. -/
def State.mooringLoose : State := { State.reset with
  ctxs := [(0, { dcCount := 1 })]
  groups := [(0, { waves := [(0, { phase := .body, en := 1, lanes := 1 })] })]
  dies := [(0, { moorings := [(0, [looseEntry])], pools := [(0, loosePool)], walks := lastPageWalks })] }

theorem State.moorFits_mooringLoose : State.mooringLoose.MoorFits 0 0 1 0 looseEntry := by
  unfold State.MoorFits State.Enabled; decide +kernel

theorem State.moorServed_mooringLoose : State.mooringLoose.MoorServed looseEntry := by
  unfold State.MoorServed State.DistinctDeltas; decide +kernel

/-- The payload of the lane is written past the end of the LPDDR6. -/
theorem State.exec_mooringLoose :
    exec (.moor 0 0 1 0) .mooringLoose = .fault (.badPhysicalAddress 0 (lpddrBytes - 1)) := by
  rw [show exec (.moor 0 0 1 0) .mooringLoose = finish (State.mooringLoose.moorWord 0 0 1 0) from rfl]
  unfold finish
  have hstop : (State.mooringLoose.moorWord 0 0 1 0).stop = some (.badPhysicalAddress 0 (lpddrBytes - 1)) := by
    decide +kernel
  rw [hstop]

/-- Refutes O40, by its clause on a MOOR that is served: nothing aligns the BASE of the pool, and the block of a BASE just below the end of
the last page of a die's LPDDR6 leaves the memory. -/
theorem not_mooringAndCastoff : ¬ Obligations.MooringAndCastoff := by
  intro h
  obtain ⟨hmoor, -⟩ := h
  obtain ⟨hserved, -⟩ := hmoor .mooringLoose 0 0 1 0 looseEntry State.moorFits_mooringLoose rfl
  obtain ⟨t, hexec, -⟩ := hserved (by decide +kernel) State.moorServed_mooringLoose
  cases hexec.symm.trans State.exec_mooringLoose

end Sys2Proof.Machine
end

section
/-! PROOFS. LAYSEAL of a record on a host page (R229, R290). -/
namespace Sys2Proof.Machine

/-- The first byte of host memory. -/
def hostStart : Nat := homeKey 0x80 0

/-- The translation of VA 0 to the start of host memory, for reads and writes of firmware, its A and D bits set (R407, R412). -/
def hostPage : TlbEntry := { leaf := 0x0080000000000267 }

/-- A LAYSEAL in flight of the record at VA 0. -/
def sealingOp : POp := { instr := .layseal 0, args := [0, 0] }

/-- A group seals a record at the start of host memory while a write of its own on path M waits that goes just after the record. -/
def State.sealingBehindWrite : State := { State.reset with
  cores := [(0, { tlb := [hostPage] })]
  groups := [(0, { ops := [sealingOp] })]
  mq := [{ gid := 0, key := hostStart + 64, bytes := [1] }] }

theorem State.maps_sealingBehindWrite : State.sealingBehindWrite.Maps 0 0 false false .write 0 hostStart :=
  ⟨hostPage, rfl, rfl, rfl, fun _ => ⟨rfl, rfl, rfl⟩, by decide, by decide, rfl⟩

theorem State.reachable_sealingBehindWrite : State.sealingBehindWrite.Reachable hostStart 64 := by
  unfold State.Reachable; decide

/-- R290: the waiting write reaches its home before the seal does. -/
theorem State.exec_sealingBehindWrite : ∃ t, exec (.laysealComplete 0 0) .sealingBehindWrite = .next t
    ∧ t.homeByte (hostStart + 64) = 1 := ⟨_, rfl, rfl⟩

/-- Refutes O38, by its clause on LAYSEAL: nothing keeps writes of the group out of the queue of path M, and a write to a host page brings
those before it home, which changes bytes outside the record. -/
theorem not_copiesComplete : ¬ Obligations.CopiesComplete := by
  intro h
  obtain ⟨-, -, -, -, -, hseal⟩ := h .sealingBehindWrite 0 0 0 sealingOp rfl rfl rfl rfl
  obtain ⟨t, hexec, -, -, hframe⟩ := hseal 0 hostStart rfl rfl rfl rfl rfl (by decide) State.maps_sealingBehindWrite
    State.reachable_sealingBehindWrite rfl rfl
  obtain ⟨u, hexec', hone⟩ := State.exec_sealingBehindWrite
  obtain rfl := Host.Outcome.next.inj (hexec.symm.trans hexec')
  have hzero : t.homeByte (hostStart + 64) = 0 := hframe _ (Or.inr le_rfl)
  rw [hone] at hzero
  exact absurd hzero (by decide)

end Sys2Proof.Machine
end

section
/-! PROOFS. What counting leaves alone (R329, R330), and words that change cores and dies. -/
namespace Sys2Proof.Machine

/-! ### What counting leaves of a die -/

/-- Of each die only the Keeper's table and its batches have changed. -/
def State.DiesCount (s t : State) : Prop :=
  ∀ d, t.die d = { s.die d with keeper := (t.die d).keeper, batches := (t.die d).batches }

theorem State.diesCount_refl (s : State) : s.DiesCount s := fun _ => rfl

theorem State.DiesCount.trans {s t u : State} (h : s.DiesCount t) (k : t.DiesCount u) : s.DiesCount u :=
  fun d => by rw [k d, h d]

theorem State.diesCount_updDie (s : State) (die : Nat) (table : Die → List KEntry) (batches : Die → List (Nat × List Delta)) :
    s.DiesCount (s.updDie die (fun d => { d with keeper := table d, batches := batches d })) := fun d => by
  by_cases h : d = die
  · rw [h, State.die_updDie]
  · rw [State.die_updDie_ne _ _ h]

theorem State.DiesCount.updCore {s t : State} (h : s.DiesCount t) (core : Nat) (f : Core → Core) : s.DiesCount (t.updCore core f) := h

theorem State.diesCount_flushDeltas (s : State) (core : Nat) : s.DiesCount (s.flushDeltas core) := by
  unfold State.flushDeltas
  dsimp only
  split_ifs
  · exact s.diesCount_refl
  · exact State.diesCount_updDie _ _ Die.keeper _

theorem State.diesCount_count (s : State) (core ctx node : Nat) (st : DWord) (d : Int) :
    s.DiesCount (s.count core ctx node st d) := by
  unfold State.count
  dsimp only
  split_ifs
  · exact s.diesCount_refl
  · exact s.diesCount_refl
  · exact ((s.diesCount_flushDeltas core).trans (State.diesCount_updDie _ _ _ Die.batches)).updCore _ _
  · exact (State.diesCount_updDie _ _ _ Die.batches).updCore _ _

/-! ### Counts seen through other changes -/

/-- The counts of a die stand in its Keeper's table, its batches and the buffers of cores. -/
theorem State.total_congr {s t : State} {die : Nat} (hkeeper : (t.die die).keeper = (s.die die).keeper)
    (hbatches : (t.die die).batches = (s.die die).batches) (hdeltas : ∀ c, (t.core c).deltas = (s.core c).deltas) (ctx node : Nat)
    (st : DWord) : t.total die ctx node st = s.total die ctx node st := by
  simp only [State.total, hkeeper, hbatches, hdeltas]

theorem State.Counted.congr {s t u : State} {die : Nat} {f : Nat → Nat → DWord → Int} (h : s.Counted t die f)
    (htotal : ∀ c n x, u.total die c n x = t.total die c n x) : s.Counted u die f := fun c n x => by rw [htotal, h c n x]

/-- A change of a die that leaves its Keeper's table and batches changes no count. -/
theorem State.total_updDie {s : State} (die at_ : Nat) {f : Die → Die} (hkeeper : ∀ d, (f d).keeper = d.keeper)
    (hbatches : ∀ d, (f d).batches = d.batches) (ctx node : Nat) (st : DWord) :
    (s.updDie at_ f).total die ctx node st = s.total die ctx node st := by
  refine State.total_congr (s := s) (t := s.updDie at_ f) ?_ ?_ (fun _ => rfl) ctx node st
  all_goals
    by_cases h : die = at_
    · subst h; simp only [State.die_updDie, hkeeper, hbatches]
    · rw [State.die_updDie_ne _ _ h]

/-- A change of a core that leaves its buffer changes no count. -/
theorem State.total_updCore {s : State} (die core : Nat) {f : Core → Core} (hdeltas : ∀ c, (f c).deltas = c.deltas) (ctx node : Nat)
    (st : DWord) : (s.updCore core f).total die ctx node st = s.total die ctx node st := by
  refine State.total_congr (s := s) (t := s.updCore core f) rfl rfl (fun c => ?_) ctx node st
  by_cases h : c = core
  · rw [h, State.core_updCore, hdeltas]
  · rw [State.core_updCore_ne _ _ h]

theorem State.total_nextWord (s : State) (die ctx node : Nat) (st : DWord) :
    s.nextWord.total die ctx node st = s.total die ctx node st := rfl

/-- Only counts have changed: those of one die by `f`. -/
structure State.CountsOnly (s t : State) (die : Nat) (f : Nat → Nat → DWord → Int) : Prop where
  only : s.OnlyCounts t
  dies : s.DiesCount t
  counted : s.Counted t die f

theorem State.countsOnly_count {s : State} {core : Nat} (hd : s.DistinctDeltas core) (ctx node : Nat) (st : DWord) (d : Int) :
    s.CountsOnly (s.count core ctx node st d) (dieOf core) (gain ctx node st d) := by
  obtain ⟨honly, -, hcounted⟩ := State.count_spec hd ctx node st d
  exact ⟨honly, s.diesCount_count core ctx node st d, hcounted⟩

theorem State.countsOnly_flushDeltas (s : State) (core : Nat) :
    s.CountsOnly (s.flushDeltas core) (dieOf core) (fun _ _ _ => 0) := by
  obtain ⟨honly, -, hcounted⟩ := s.flushDeltas_spec core
  exact ⟨honly, s.diesCount_flushDeltas core, hcounted⟩

section
variable {s t u : State} {die : Nat} {f : Nat → Nat → DWord → Int}

/-- A batch sent after a count leaves the count as it is. -/
theorem State.CountsOnly.flush {core : Nat} (h : s.CountsOnly t (dieOf core) f) :
    s.CountsOnly (t.flushDeltas core) (dieOf core) f where
  only := h.only.trans (t.countsOnly_flushDeltas core).only
  dies := h.dies.trans (t.countsOnly_flushDeltas core).dies
  counted := by simpa using h.counted.trans (t.countsOnly_flushDeltas core).counted

theorem State.CountsOnly.stop (h : s.CountsOnly t die f) : t.stop = s.stop := by rw [h.only.1]

/-- Counting keeps the cycles of a core. -/
theorem State.CountsOnly.cycles (h : s.CountsOnly t die f) (core : Nat) : (t.core core).cycles = (s.core core).cycles := by
  rw [h.only.2 core]

theorem State.CountsOnly.queue (h : s.CountsOnly t die f) (core : Nat) : (t.core core).queue = (s.core core).queue := by
  rw [h.only.2 core]

end

/-! ### A word that changes cores and dies goes on -/

theorem State.wentOn_nextWord {s u : State} (hframe : u = { s with cores := u.cores, dies := u.dies })
    (hcycles : (u.core s.cg.core).cycles = (s.core s.cg.core).cycles) : s.WentOn u.nextWord := by
  have hcg : u.cg = s.cg := by rw [hframe]; rfl
  have hcur : u.curWave = s.curWave := by rw [hframe]
  have hcw : u.cw = s.cw := by unfold State.cw; rw [hcg, hcur]
  refine ⟨⟨?_, ?_⟩, fun key => ?_⟩
  · rw [State.cw_nextWord, hcg, hcw, hcycles]; rfl
  · rw [State.cg_nextWord, hcg]; rfl
  · rw [hframe]; rfl

end Sys2Proof.Machine
end

section
/-! PROOFS. LAUNCH and TENQ (R225, R236 to R238, R299, R329, R357). -/
namespace Sys2Proof.Machine

/-! ### LAUNCH (R236) -/

/-- What a LAUNCH leaves with the scheduler of its die. -/
def State.launchReq (s : State) (va : Nat) (st : DWord) (node : Nat) : LaunchReq :=
  { ctx := s.cg.ctx, va := va, stamp := st, node := node, cap := s.cg.prio, core := s.cg.core, waits := s.cg.lPending }

theorem State.execLaunch_count {s : State} (he : s.Enabled) {a b n : BitVec 6} (ha : a.toNat < 63) (hb : b.toNat % 2 = 0)
    (halign : (s.cg.spair a.toNat).toNat % 64 = 0) (hva : (s.cg.spair a.toNat).toNat < 2 ^ 52)
    (hst : stampOk (s.cg.spair b.toNat) = true) (hroom : s.canCount s.cg.core s.cg.ctx n.toNat (s.cg.spair b.toNat) = true) :
    exec (.launch a b n) s = finish ((s.count s.cg.core s.cg.ctx n.toNat (s.cg.spair b.toNat) 1).updDie (dieOf s.cg.core) (fun d =>
      { d with launches := d.launches ++ [s.launchReq (s.cg.spair a.toNat).toNat (s.cg.spair b.toNat) n.toNat] })).nextWord := by
  have hok : (sspanOk a.toNat 2 && decide (b.toNat % 2 = 0)) = true := by simp [sspanOk, hb]; omega
  change finish (s.uWord _ _) = _
  rw [State.uWord_ok s _ he hok]
  simp only [halign, hst, hroom, Nat.not_le.mpr hva, ne_eq, not_true_eq_false, if_false, Bool.not_true, Bool.false_eq_true]
  rfl

theorem State.execLaunch_misaligned {s : State} (he : s.Enabled) {a b n : BitVec 6} (ha : a.toNat < 63) (hb : b.toNat % 2 = 0)
    (halign : (s.cg.spair a.toNat).toNat % 64 ≠ 0) :
    exec (.launch a b n) s = finish (s.addrTrap 0x03 (s.cg.spair a.toNat).toNat pathL false 0 s.cw.en) := by
  have hok : (sspanOk a.toNat 2 && decide (b.toNat % 2 = 0)) = true := by simp [sspanOk, hb]; omega
  change finish (s.uWord _ _) = _
  rw [State.uWord_ok s _ he hok, if_pos halign]
  rfl

/-- R236, R299, R329: after the count, the request joins the scheduler's and the wave goes on. -/
theorem State.CountsOnly.launches {s u : State} (hstop : s.stop = none) {die : Nat} {f : Nat → Nat → DWord → Int}
    (h : s.CountsOnly u die f) (q : LaunchReq) :
    ∃ t, finish (u.updDie die (fun d => { d with launches := d.launches ++ [q] })).nextWord = .next t ∧ s.WentOn t
      ∧ s.Counted t die f ∧ (t.die die).launches = (s.die die).launches ++ [q] := by
  set x := u.updDie die (fun d => { d with launches := d.launches ++ [q] }) with hx
  refine ⟨x.nextWord, finish_next ?_, State.wentOn_nextWord (h.only.trans (State.onlyCounts_updDie _ _ _)).1 (h.cycles _),
    h.counted.congr fun c n st => ?_, ?_⟩
  · rw [State.nextWord_stop, hx, State.updDie_stop, h.stop, hstop]
  · rw [State.total_nextWord]
    refine State.total_updDie _ _ (fun _ => ?_) (fun _ => ?_) c n st <;> rfl
  · change (x.die die).launches = _
    rw [hx, State.die_updDie, h.dies]

/-! ### TENQ (R237, R238) -/

/-- R38: to park stops nothing. -/
theorem State.park_stop (s : State) (why : Park) (flag : Option Nat) : (s.park why flag).stop = s.stop := by
  unfold State.park
  split_ifs
  · rw [State.updCur_stop, (s.leaveLines_frame s.curGroup).1]
    rfl
  · exact State.updCur_stop _ _

section
variable {s u : State} {die : Nat} {f : Nat → Nat → DWord → Int}

/-- After the count, the task joins a core's queue and the wave goes on. -/
theorem State.CountsOnly.toCore (hstop : s.stop = none) (h : s.CountsOnly u die f) (core : Nat) (w : Work) (prio : Nat)
    (waits : List Nat) :
    ∃ t, finish (u.toCore core w prio waits).nextWord = .next t ∧ s.WentOn t ∧ s.Counted t die f
      ∧ (t.core core).queue = (s.core core).queue ++ [{ work := w, prio := prio, since := s.ns, waits := waits }] := by
  have hns : u.ns = s.ns := by rw [h.only.1]
  have hframe : u.toCore core w prio waits = { s with cores := (u.toCore core w prio waits).cores, dies := u.dies } := by
    unfold State.toCore State.updCore; rw [h.only.1]
  have hcycles : ((u.toCore core w prio waits).core s.cg.core).cycles = (s.core s.cg.core).cycles := by
    rw [← h.cycles]
    unfold State.toCore
    by_cases hc : s.cg.core = core
    · rw [hc, State.core_updCore]
    · rw [State.core_updCore_ne _ _ hc]
  refine ⟨(u.toCore core w prio waits).nextWord, finish_next ?_, State.wentOn_nextWord hframe hcycles,
    h.counted.congr fun c n st => ?_, ?_⟩
  · rw [State.nextWord_stop, State.toCore, State.updCore_stop, h.stop, hstop]
  · rw [State.total_nextWord]
    refine State.total_updCore _ _ (fun _ => ?_) c n st
    rfl
  · change ((u.toCore core w prio waits).core core).queue = _
    rw [State.toCore, State.core_updCore, h.queue, hns]

/-- After the count, the task joins the die's queue and the wave goes on. -/
theorem State.CountsOnly.toDie (hstop : s.stop = none) (h : s.CountsOnly u die f) (w : Work) (prio : Nat) (waits : List Nat) :
    ∃ t, finish (u.toDie die w prio waits).nextWord = .next t ∧ s.WentOn t ∧ s.Counted t die f
      ∧ (t.die die).queue = (s.die die).queue ++ [{ work := w, prio := prio, since := s.ns, waits := waits }] := by
  have hns : u.ns = s.ns := by rw [h.only.1]
  refine ⟨(u.toDie die w prio waits).nextWord, finish_next ?_,
    State.wentOn_nextWord (h.only.trans (State.onlyCounts_updDie _ _ _)).1 (h.cycles _), h.counted.congr fun c n st => ?_, ?_⟩
  · rw [State.nextWord_stop, State.toDie, State.updDie_stop, h.stop, hstop]
  · rw [State.total_nextWord]
    refine State.total_updDie _ _ (fun _ => ?_) (fun _ => ?_) c n st <;> rfl
  · change ((u.toDie die w prio waits).die die).queue = _
    rw [State.toDie, State.die_updDie, h.dies, hns]

end

section
variable {s : State} (he : s.Enabled) {a b : BitVec 6} {q : BitVec 2} (ha : a.toNat + 16 ≤ 64) (hb : q = 2 ∨ b = 0)
  (hfault : taskFault (s.ctx s.cg.ctx) (s.taskWords a) = none)

/-- The task that a TENQ posts. -/
def State.postedTask (s : State) (a : BitVec 6) : Task := taskOf (s.taskWords a) s.cg.ctx s.cg.grid s.cg.prio

/-- The core whose queue takes the task of a TENQ that does not name the die's. -/
def State.postCore (s : State) (b : BitVec 6) (q : BitVec 2) : Nat :=
  if q = 2 then dieOf s.cg.core * 16 + (s.cg.sreg b.toNat).toNat % 16 else s.cg.core

/-- What a TENQ does once its queue has no room (R238). -/
def State.tenqFull (s : State) (x : Task) : State :=
  if s.cg.inlines.length < s.cg.inlineLimit ∧ !neverInline s.cw.hdr ∧ s.cw.inl.isNone then
    match s.callCheck.1 with
    | some tr => tr
    | none => (s.callCheck.2.updWave (fun w =>
        { w with inl := some { entry := BitVec.ofNat 52 x.entry, payload := x.payload, done := x.done } })).nextWord
  else s.park .tenqFull

/-- What a TENQ does once its queue has room: it counts, sends its counts with a task that leaves the core, and posts it. -/
def State.tenqRoom (s : State) (x : Task) (leaves : Prop) [Decidable leaves] (post : State → State) : State :=
  if !s.canCount s.cg.core s.cg.ctx x.node x.stamp then s.park .keeper
  else
    let u := s.count s.cg.core s.cg.ctx x.node x.stamp 1
    (post (if leaves then u.flushDeltas s.cg.core else u)).nextWord

include he ha hb hfault

/-- TENQ into the queue of a core. -/
theorem State.execTenq_core (h1 : q ≠ 1) (hq : q ≠ 3) :
    exec (.tenq a b q) s = finish (if (s.core (s.postCore b q)).queue.length < 256
      then s.tenqRoom (s.postedTask a) (s.postCore b q ≠ s.cg.core)
        (fun u => u.toCore (s.postCore b q) (.task (s.postedTask a)) (s.postedTask a).prio s.cg.lPending)
      else s.tenqFull (s.postedTask a)) := by
  have h1' : q.toNat ≠ 1 := fun h => h1 (BitVec.eq_of_toNat_eq h)
  have h2' : q.toNat = 2 ↔ q = 2 := ⟨fun h => BitVec.eq_of_toNat_eq h, fun h => by rw [h]; rfl⟩
  have h3' : q.toNat ≠ 3 := fun h => hq (BitVec.eq_of_toNat_eq h)
  have hok : (sspanOk a.toNat 16 && decide (q.toNat ≠ 3) && (decide (q.toNat = 2) || decide (b = 0))) = true := by
    simp only [sspanOk, ha, h3', h2', decide_true, Bool.true_and, ne_eq, not_false_eq_true]
    simpa using hb
  change finish (s.uWord _ _) = _
  rw [State.uWord_ok s _ he hok]
  unfold State.taskWords at hfault
  simp only [hfault, h1', h2', if_false, false_or, decide_eq_true_eq]
  rfl

/-- TENQ into the queue of the die, which takes no fired task first. -/
theorem State.execTenq_die (h1 : q = 1) (hplace : s.placeFired (dieOf s.cg.core) = s) (hfired : (s.die (dieOf s.cg.core)).fired = [])
    (hlen : (s.die (dieOf s.cg.core)).queue.length < 4096) :
    exec (.tenq a b q) s = finish (s.tenqRoom (s.postedTask a) True
      (fun u => u.toDie (dieOf s.cg.core) (.task (s.postedTask a)) (s.postedTask a).prio s.cg.lPending)) := by
  have h1' : q.toNat = 1 := by rw [h1]; rfl
  have hb0 : b = 0 := hb.resolve_left (by rw [h1]; decide)
  have hok : (sspanOk a.toNat 16 && decide (q.toNat ≠ 3) && (decide (q.toNat = 2) || decide (b = 0))) = true := by
    simp [sspanOk, ha, h1', hb0]
  change finish (s.uWord _ _) = _
  rw [State.uWord_ok s _ he hok]
  unfold State.taskWords at hfault
  simp only [hfault, h1', if_true, true_or, hplace, hfired, hlen, dieQueueMax, decide_true, List.isEmpty_nil, Bool.and_true]
  rfl

end

/-- R329, R330: a task that is posted has counted, also where the core sends its counts with it. -/
theorem State.countsOnly_posted {s : State} (x : Task) (hd : s.DistinctDeltas s.cg.core) (leaves : Prop) [Decidable leaves] :
    let u := s.count s.cg.core s.cg.ctx x.node x.stamp 1
    s.CountsOnly (if leaves then u.flushDeltas s.cg.core else u) (dieOf s.cg.core) (gain s.cg.ctx x.node x.stamp 1) := by
  intro u
  have hcount := State.countsOnly_count hd s.cg.ctx x.node x.stamp 1
  split_ifs
  · exact hcount.flush
  · exact hcount

section
variable {s : State} (hstop : s.stop = none) (x : Task)
include hstop

theorem State.tenqRoom_core (hroom : s.canCount s.cg.core s.cg.ctx x.node x.stamp = true) (hd : s.DistinctDeltas s.cg.core)
    (leaves : Prop) [Decidable leaves] (core : Nat) (waits : List Nat) :
    ∃ t, finish (s.tenqRoom x leaves (fun u => u.toCore core (.task x) x.prio waits)) = .next t ∧ s.WentOn t
      ∧ s.Counted t (dieOf s.cg.core) (gain s.cg.ctx x.node x.stamp 1)
      ∧ (t.core core).queue = (s.core core).queue ++ [{ work := .task x, prio := x.prio, since := s.ns, waits := waits }] := by
  unfold State.tenqRoom
  rw [hroom]
  exact (State.countsOnly_posted x hd leaves).toCore hstop core _ _ _

theorem State.tenqRoom_die (hroom : s.canCount s.cg.core s.cg.ctx x.node x.stamp = true) (hd : s.DistinctDeltas s.cg.core)
    (waits : List Nat) :
    ∃ t, finish (s.tenqRoom x True (fun u => u.toDie (dieOf s.cg.core) (.task x) x.prio waits)) = .next t ∧ s.WentOn t
      ∧ s.Counted t (dieOf s.cg.core) (gain s.cg.ctx x.node x.stamp 1)
      ∧ (t.die (dieOf s.cg.core)).queue
        = (s.die (dieOf s.cg.core)).queue ++ [{ work := .task x, prio := x.prio, since := s.ns, waits := waits }] := by
  unfold State.tenqRoom
  rw [hroom]
  exact (State.countsOnly_posted x hd True).toDie hstop _ _ _

/-- R238: where the task may run inline, it is left to the clause's end. -/
theorem State.tenqFull_inline (hdepth : s.cg.inlines.length < s.cg.inlineLimit) (hkind : neverInline s.cw.hdr = false)
    (hinl : s.cw.inl = none) (hcall : s.callCheck = (none, s)) :
    ∃ t, finish (s.tenqFull x) = .next t ∧ t.cg = { s.cg with waves := t.cg.waves } ∧ t.cw.idx = s.cw.idx + 1
      ∧ t.cw.inl = some { entry := BitVec.ofNat 52 x.entry, payload := x.payload, done := x.done }
      ∧ t.cores = s.cores ∧ t.dies = s.dies := by
  have hcond : s.cg.inlines.length < s.cg.inlineLimit ∧ !neverInline s.cw.hdr ∧ s.cw.inl.isNone := by simp [hdepth, hkind, hinl]
  unfold State.tenqFull
  rw [if_pos hcond, hcall]
  refine ⟨_, finish_next (s := State.nextWord _) hstop, ?_, ?_, ?_, rfl, rfl⟩
  · rw [State.cg_nextWord, State.cg_updWave]; rfl
  · rw [State.cw_nextWord, State.cw_updWave]; rfl
  · rw [State.cw_nextWord, State.cw_updWave]; rfl

/-- R238: where the inline depth is used up, the wave parks. -/
theorem State.tenqFull_parks (hdepth : s.cg.inlineLimit ≤ s.cg.inlines.length) :
    finish (s.tenqFull x) = .next (s.park .tenqFull) := by
  unfold State.tenqFull
  rw [if_neg fun h => absurd h.1 (Nat.not_lt.mpr hdepth)]
  exact finish_next ((s.park_stop _ _).trans hstop)

end

/-- Settles O39: each word posts after a count alone, which `State.CountsOnly` describes. -/
theorem launchAndTenq : Obligations.LaunchAndTenq := by
  unfold Obligations.LaunchAndTenq
  intro s hstop he
  refine ⟨fun a b n ha hb => ⟨fun halign hva hst hroom hd => ?_, State.execLaunch_misaligned he ha hb⟩,
    fun a b q ha hq hb hfault => ⟨fun h1 hlen hroom hd => ?_, fun h1 hplace hfired hlen hroom hd => ?_, fun h1 hfull => ?_⟩⟩
  · rw [State.execLaunch_count he ha hb halign hva hst hroom]
    exact (State.countsOnly_count hd _ _ _ 1).launches hstop _
  · rw [State.execTenq_core he ha hb hfault h1 hq, if_pos (show (s.core (s.postCore b q)).queue.length < 256 from hlen)]
    exact State.tenqRoom_core hstop (s.postedTask a) hroom hd _ _ _
  · rw [State.execTenq_die he ha hb hfault h1 hplace hfired hlen]
    exact State.tenqRoom_die hstop (s.postedTask a) hroom hd _
  · have hexec : exec (.tenq a b q) s = finish (s.tenqFull (s.postedTask a)) := by
      rw [State.execTenq_core he ha hb hfault h1 hq,
        if_neg (Nat.not_lt.mpr (show 256 ≤ (s.core (s.postCore b q)).queue.length from hfull))]
    rw [hexec]
    exact ⟨State.tenqFull_inline hstop _, State.tenqFull_parks hstop _⟩

end Sys2Proof.Machine
end

section
/-! PROOFS. The streamer's words go in flight (R226, R229 to R233, R303, R329). -/
namespace Sys2Proof.Machine

/-! ### The block and the record of a copy (R226, R230, R232) -/

section
variable {s : State} (he : s.Enabled) (hfree : s.PipeFree (s.cw.flagOf false)) {ok : Bool} (hok : ok = true) (k : State → State)
include he hfree hok

theorem State.cWord_producer (hp : s.cg.gidx = s.cg.producer) : s.cWord ok k = k s := by
  unfold State.cWord
  rw [State.uWord_ok s _ he hok, hfree.held]
  simp [Group.isProducer, hp]

theorem State.cWord_notProducer (hp : s.cg.gidx ≠ s.cg.producer) : s.cWord ok k = s.streamTrap := by
  unfold State.cWord
  rw [State.uWord_ok s _ he hok, hfree.held]
  simp [Group.isProducer, hp]

end

/-- The values of the copy block at `sa` (R230). -/
def State.blockArgs (s : State) (sa : Nat) (x m gth : Bool) : CopyArgs :=
  let r := fun (i : Nat) => (s.cg.sreg (sa + i)).toNat
  { va := (s.cg.spair sa).toNat, version := r 2, off := r 3, origin := [r 4, r 5, r 6 % 2 ^ 16, r 6 / 2 ^ 16], ctr := r 7 % 2 ^ 16
    excl := x || decide (r 7 / 2 ^ 16 % 2 = 1), failfast := decide (r 7 / 2 ^ 17 % 2 = 1)
    notrack := decide (r 7 / 2 ^ 18 % 2 = 1), mask := r 7 / 2 ^ 20, arrival := if m then r 8 % 2 ^ 16 else 0xFFFF
    list := r 8 + 2 ^ 32 * r 9, count := if gth then r 10 else 0 }

/-- R230: a block that keeps its rules is read. -/
theorem State.BlockFits.withBlock {s : State} {sa : Nat} {m gth : Bool} (h : s.BlockFits sa m gth) (x : Bool)
    (k : CopyArgs → State → State) : s.withBlock sa x m gth k = k (s.blockArgs sa x m gth) s := by
  unfold State.BlockFits at h
  dsimp only at h
  obtain ⟨halign, hva, hform, hrange, hzero, hmask, hm, hgth⟩ := h
  have hmask' : (!m && decide ((s.cg.sreg (sa + 7)).toNat / 2 ^ 20 ≠ 0)) = false := by
    cases m with
    | false => simpa using hmask rfl
    | true => rfl
  have hranks : (m && (decide ((s.cg.sreg (sa + 7)).toNat / 2 ^ 20 = 0)
      || (List.range 12).any (fun i => decide ((s.cg.sreg (sa + 7)).toNat / 2 ^ 20 / 2 ^ i % 2 = 1)
        && !(s.clusterRanks s.cg).contains i))) = false := by
    cases m with
    | false => rfl
    | true =>
      obtain ⟨hne, hall, -, -⟩ := hm rfl
      simp only [Bool.true_and, Bool.or_eq_false_iff, decide_eq_false_iff_not, List.any_eq_false, List.mem_range]
      exact ⟨hne, fun i hi => by simpa using hall i hi⟩
  have harrival : (m && !ctrFormOk ((s.cg.sreg (sa + 8)).toNat % 2 ^ 16)) = false
      ∧ (m && !ctrInRange (s.ctx s.cg.ctx) ((s.cg.sreg (sa + 8)).toNat % 2 ^ 16)) = false := by
    cases m with
    | false => exact ⟨rfl, rfl⟩
    | true => obtain ⟨-, -, hf, hr⟩ := hm rfl; exact ⟨by rw [hf]; rfl, by rw [hr]; rfl⟩
  have hlist : (gth && (decide ((s.cg.sreg (sa + 10)).toNat = 0) || decide (65536 < (s.cg.sreg (sa + 10)).toNat))) = false
      ∧ (gth && decide (2 ^ 52 ≤ (s.cg.sreg (sa + 8)).toNat + 2 ^ 32 * (s.cg.sreg (sa + 9)).toNat)) = false := by
    cases gth with
    | false => exact ⟨rfl, rfl⟩
    | true =>
      obtain ⟨hpos, hmax, hlt⟩ := hgth rfl
      simp only [Bool.true_and, Bool.or_eq_false_iff, decide_eq_false_iff_not]
      omega
  unfold State.withBlock
  simp only [halign, Nat.not_le.mpr hva, hform, hrange, hzero, hmask', hranks, harrival, hlist, ne_eq, not_true_eq_false, if_false,
    Bool.not_true, Bool.false_or, decide_false, Bool.false_eq_true, Nat.zero_ne_one]
  rfl

/-- R232, R412: a record that is mapped is read. -/
theorem State.LayoutAt.withLayout {s : State} {va key : Nat} (h : s.LayoutAt va key) (k : Layout → State → State) :
    s.withLayout va k = k { raw := s.homeNat key 64 } s := by
  obtain ⟨hacq, hpending, hmaps, hreach, hpoison⟩ := h
  have hlook := hmaps.reach true
  unfold State.withLayout
  simp only [hacq, hpending, hlook, hreach.checkPa, hpoison, Bool.or_false, Bool.false_eq_true, if_false]

theorem State.LayoutAt.layoutRead {s : State} {va key : Nat} (h : s.LayoutAt va key) : s.layoutRead va = s := by
  obtain ⟨-, -, hmaps, -, -⟩ := h
  unfold State.layoutRead
  rw [hmaps.reach]

/-! ### Lines of a box (R303) -/

theorem nodup_linesOf (key n : Nat) : (linesOf key n).Nodup := by
  unfold linesOf
  split_ifs
  · exact List.nodup_nil
  · exact List.nodup_range.map fun a b h => by simpa using h

/-- R303: each line of a list is owed by one copy more. -/
theorem Team.cleared_clearLines (t : Team) {lines : List Nat} (hnd : lines.Nodup) (line : Nat) :
    tget (t.clearLines lines).cleared line 0 = tget t.cleared line 0 + if line ∈ lines then 1 else 0 := by
  induction lines generalizing t with
  | nil => rfl
  | cons l ls ih =>
    obtain ⟨hl, hls⟩ := List.nodup_cons.mp hnd
    have hstep : t.clearLines (l :: ls) = (t.clearLines [l]).clearLines ls := rfl
    have hone : tget (t.clearLines [l]).cleared line 0 = tget t.cleared line 0 + if line = l then 1 else 0 := by
      change tget (tset _ _ _) _ _ = _
      rw [tget_tset]
      split_ifs with h
      · rw [h]
      · rfl
    rw [hstep, ih _ hls, hone]
    by_cases h : line = l
    · subst h; simp [hl]
    · simp [h]

theorem copyElems_congr {i : Instr} {l : Layout} {a b : CopyArgs} (h : a.count = b.count) : copyElems i l a = copyElems i l b := by
  unfold copyElems; rw [h]

theorem copyLines_congr {i : Instr} {l : Layout} {a b : CopyArgs} (hoff : a.off = b.off) (h : a.count = b.count) :
    copyLines i l a = copyLines i l b := by
  unfold copyLines; rw [hoff, copyElems_congr h]

theorem nodup_copyLines (i : Instr) (l : Layout) (a : CopyArgs) : (copyLines i l a).Nodup := nodup_linesOf _ _

/-! ### Operations issued after other changes -/

/-- An operation that a word issues after it has changed cores, dies and teams alone. -/
theorem State.Issued.of_frame {s u t : State} {o : POp}
    (hframe : u = { s with cores := u.cores, dies := u.dies, teams := u.teams })
    (hcycles : (u.core s.cg.core).cycles = (s.core s.cg.core).cycles) (h : u.Issued t o) : s.Issued t o := by
  have hgroup : ∀ g, u.group g = s.group g := fun g => by rw [hframe]; rfl
  have hcg : u.cg = s.cg := by rw [hframe]; rfl
  have hcw : u.cw = s.cw := by rw [hframe]; rfl
  have hbyte : ∀ key, u.homeByte key = s.homeByte key := fun key => by rw [hframe]; rfl
  have hnext : u.nextOp = s.nextOp := by rw [hframe]
  have hcur : u.curGroup = s.curGroup ∧ u.curWave = s.curWave := by rw [hframe]; exact ⟨rfl, rfl⟩
  unfold State.Issued State.IssuedAs State.MovedOn at *
  simpa only [hgroup, hcg, hcw, hbyte, hnext, hcur, hcycles] using h

/-- R36, R38: a word puts its operation in flight, after it has changed cores, dies and teams alone. -/
theorem State.issueLater_frame {s u : State} (hframe : u = { s with cores := u.cores, dies := u.dies, teams := u.teams })
    (hcycles : (u.core s.cg.core).cycles = (s.core s.cg.core).cycles) (i : Instr) (vals : Tab Nat) (args : List Nat) :
    ∃ o, s.Issued (u.issueLater i false u.cw.en 0 vals args) o ∧ o.instr = i ∧ o.flag = s.cw.flagOf false ∧ o.stage = 0
      ∧ o.args = args := by
  have hcw : u.cw = s.cw := by rw [hframe]; rfl
  refine ⟨_, State.Issued.of_frame hframe hcycles (u.issued_issueOp _), rfl, ?_, rfl, rfl⟩
  change u.cw.flagOf false = _
  rw [hcw]

theorem State.issueLater_stop (s : State) (i : Instr) (act : Mask) (vals : Tab Nat) (args : List Nat) :
    (s.issueLater i false act 0 vals args).stop = s.stop := rfl

theorem State.issueLater_total (s : State) (i : Instr) (act : Mask) (vals : Tab Nat) (args : List Nat) (die ctx node : Nat) (st : DWord) :
    (s.issueLater i false act 0 vals args).total die ctx node st = s.total die ctx node st := rfl

theorem State.issueLater_team (s : State) (i : Instr) (act : Mask) (vals : Tab Nat) (args : List Nat) (team : Nat) :
    (s.issueLater i false act 0 vals args).team team = s.team team := rfl

/-! ### Copies (R231, R232) -/

/-- The state `u`, which has counted for a copy whose record is `l`, once a copy that loads at team `team` has cleared the lines of its
box there. -/
def State.boxCleared (u : State) (team : Nat) (i : Instr) (l : Layout) (a : CopyArgs) (load : Bool) : State :=
  if l.ok && load then u.updTeam team (fun t => { t.clearLines (copyLines i l a) with inbound := t.inbound + 1 }) else u

/-- A copy goes in flight; one that loads here has been accepted here (R321). -/
def State.copyFlies (u : State) (g : Group) (i : Instr) (l : Layout) (a : CopyArgs) (load : Bool) : State :=
  u.issueLater i false u.cw.en 0 (if l.ok && load then tset (tset [] (markAccept 0) (u.nextOp + 1)) (markTeam 0) g.team else [])
    (a.list' (userArg g) l.raw g.node g.stamp.toNat)

/-- A copy whose block and record have been read (R232). -/
def State.copyRead (s : State) (i : Instr) (l : Layout) (a : CopyArgs) (load : Bool) : State :=
  let g := s.cg
  if l.ok && decide (a.off % l.ez ≠ 0) then s.cTrap cALIGN a.off
  else if l.ok && decide ((s.team g.team).spadLen < a.off + copyElems i l a * l.ez) then s.cTrap cACCESS a.off
  else if !s.canCount g.core g.ctx g.node g.stamp then s.park .keeper
  else (((s.layoutRead a.va).count g.core g.ctx g.node g.stamp 1).boxCleared g.team i l a load).copyFlies g i l a load

section
variable {s : State} {i : Instr} {sa n : Nat} {x m gth load : Bool}

theorem CopyWord.exec_eq (hw : CopyWord i sa n x m gth load) :
    exec i s = finish (s.cWord (sspanOk sa n) (fun s =>
      s.withBlock sa x m gth (fun a s => s.withLayout a.va (fun l s => s.copyRead i l a load)))) := by
  cases hw <;> rfl

theorem CopyWord.notProducer (hw : CopyWord i sa n x m gth load) (he : s.Enabled) (hfree : s.PipeFree (s.cw.flagOf false))
    (hspan : sa + n ≤ 64) (hp : s.cg.gidx ≠ s.cg.producer) : exec i s = finish s.streamTrap := by
  rw [hw.exec_eq, State.cWord_notProducer he hfree (ok := sspanOk sa n) (decide_eq_true hspan) _ hp]

theorem CopyWord.exec_read (hw : CopyWord i sa n x m gth load) (he : s.Enabled) (hfree : s.PipeFree (s.cw.flagOf false))
    (hspan : sa + n ≤ 64) (hp : s.cg.gidx = s.cg.producer) (hblock : s.BlockFits sa m gth) {key : Nat}
    (hlayout : s.LayoutAt (s.cg.spair sa).toNat key) :
    exec i s = finish (s.copyRead i { raw := s.homeNat key 64 } (s.blockArgs sa x m gth) load) := by
  rw [hw.exec_eq, State.cWord_producer he hfree (ok := sspanOk sa n) (decide_eq_true hspan) _ hp, hblock.withBlock]
  exact congrArg finish (hlayout.withLayout _)

/-- R232: a copy whose record and place keep their rules goes in flight. -/
theorem State.copyRead_flies {l : Layout} {a : CopyArgs} {key : Nat} (hlayout : s.LayoutAt a.va key)
    (hroom : s.canCount s.cg.core s.cg.ctx s.cg.node s.cg.stamp = true)
    (hfits : l.ok = true → a.off % l.ez = 0 ∧ a.off + copyElems i l a * l.ez ≤ (s.team s.cg.team).spadLen) :
    s.copyRead i l a load
      = ((s.count s.cg.core s.cg.ctx s.cg.node s.cg.stamp 1).boxCleared s.cg.team i l a load).copyFlies s.cg i l a load := by
  have halign : ¬ (l.ok && decide (a.off % l.ez ≠ 0)) = true := by
    simp only [Bool.and_eq_true, decide_eq_true_eq]
    exact fun h => h.2 (hfits h.1).1
  have hlen : ¬ (l.ok && decide ((s.team s.cg.team).spadLen < a.off + copyElems i l a * l.ez)) = true := by
    simp only [Bool.and_eq_true, decide_eq_true_eq]
    exact fun h => absurd h.2 (Nat.not_lt.mpr (hfits h.1).2)
  unfold State.copyRead
  dsimp only
  rw [if_neg halign, if_neg hlen, hroom, hlayout.layoutRead]
  rfl

end

section
variable (u : State) (team : Nat) (i : Instr) (l : Layout) (a : CopyArgs) (load : Bool)

theorem State.boxCleared_frame : u.boxCleared team i l a load = { u with teams := (u.boxCleared team i l a load).teams } := by
  unfold State.boxCleared
  split_ifs <;> rfl

/-- R303: each line of the box is owed by one copy more. -/
theorem State.cleared_boxCleared (line : Nat) :
    tget ((u.boxCleared team i l a load).team team).cleared line 0 = tget (u.team team).cleared line 0
      + if l.ok && load && decide (line ∈ copyLines i l a) then 1 else 0 := by
  by_cases h : (l.ok && load) = true
  · rw [State.boxCleared, if_pos h, State.team_updTeam, h, Bool.true_and]
    simpa only [decide_eq_true_eq] using Team.cleared_clearLines (u.team team) (nodup_copyLines i l a) line
  · rw [State.boxCleared, if_neg h, Bool.eq_false_iff.mpr h]
    rfl

end

/-- R232, R303, R329: after the count, the copy goes in flight. -/
theorem State.CountsOnly.flies {s u : State} {die : Nat} {f : Nat → Nat → DWord → Int} (h : s.CountsOnly u die f)
    (hstop : s.stop = none) (i : Instr) (l : Layout) (a : CopyArgs) (load : Bool) :
    ∃ t o, finish ((u.boxCleared s.cg.team i l a load).copyFlies s.cg i l a load) = .next t ∧ s.Issued t o ∧ o.instr = i
      ∧ o.flag = s.cw.flagOf false ∧ o.stage = 0 ∧ o.args = a.list' (userArg s.cg) l.raw s.cg.node s.cg.stamp.toNat
      ∧ s.Counted t die f
      ∧ ∀ line, tget (t.team s.cg.team).cleared line 0 = tget (s.team s.cg.team).cleared line 0
          + if l.ok && load && decide (line ∈ copyLines i l a) then 1 else 0 := by
  have hteam : u.team s.cg.team = s.team s.cg.team := by rw [h.only.1]; rfl
  have hbox := u.boxCleared_frame s.cg.team i l a load
  have hcleared := u.cleared_boxCleared s.cg.team i l a load
  unfold State.copyFlies
  generalize u.boxCleared s.cg.team i l a load = v at hbox hcleared ⊢
  have hframe : v = { s with cores := v.cores, dies := v.dies, teams := v.teams } := by rw [hbox, h.only.1]
  have hcore : ∀ c, v.core c = u.core c := fun c => by rw [hbox]; rfl
  have hdie : v.die die = u.die die := by rw [hbox]; rfl
  obtain ⟨o, hissued, hinstr, hflag, hstage, hargs⟩ := State.issueLater_frame hframe (by rw [hcore, h.cycles]) i
    (if l.ok && load then tset (tset [] (markAccept 0) (v.nextOp + 1)) (markTeam 0) s.cg.team else [])
    (a.list' (userArg s.cg) l.raw s.cg.node s.cg.stamp.toNat)
  refine ⟨_, o, finish_next ?_, hissued, hinstr, hflag, hstage, hargs, h.counted.congr fun c n st => ?_, fun line => ?_⟩
  · rw [State.issueLater_stop, hframe, hstop]
  · rw [State.issueLater_total]
    exact State.total_congr (by rw [hdie]) (by rw [hdie]) (fun c => by rw [hcore]) c n st
  · rw [State.issueLater_team, hcleared, hteam]

/-- What an operation whose arguments are those of a copy names. -/
theorem CopyArgs.list'_fields {o : POp} {a : CopyArgs} {user raw node stamp : Nat} (h : o.args = a.list' user raw node stamp) :
    o.layout = { raw := raw } ∧ o.copy.va = a.va ∧ o.copy.version = a.version ∧ o.copy.off = a.off ∧ o.copy.ctr = a.ctr := by
  simp only [POp.layout, POp.copy, POp.arg, h]
  exact ⟨rfl, rfl, rfl, rfl, rfl⟩

/-! ### CHKIN and LAYSEAL (R229, R233) -/

/-- A CHKIN whose block and record have been read. -/
def State.chkinRead (s : State) (i : Instr) (l : Layout) (b : CopyArgs) : State :=
  if l.ok && decide (b.off % l.ez ≠ 0) then s.cTrap cALIGN b.off
  else (s.layoutRead b.va).issueLater i false s.cw.en 0 [] (b.list' (userArg s.cg) l.raw 0 0)

/-- A LAYSEAL of the record at `va`. -/
def State.laysealAt (s : State) (i : Instr) (va : Nat) : State :=
  if va % 64 ≠ 0 then s.cTrap cALIGN va
  else if 2 ^ 52 ≤ va then s.cTrap cACCESS va
  else s.issueLater i false s.cw.en 0 [] [va, userArg s.cg]

section
variable {s : State} (he : s.Enabled) (hfree : s.PipeFree (s.cw.flagOf false)) {a : BitVec 6} (hp : s.cg.gidx = s.cg.producer)
include he hfree hp

theorem State.exec_chkin {key : Nat} (ha : a.toNat + 8 ≤ 64) (hblock : s.BlockFits a.toNat false false)
    (hlayout : s.LayoutAt (s.cg.spair a.toNat).toNat key) :
    exec (.chkin a) s = finish (s.chkinRead (.chkin a) { raw := s.homeNat key 64 } (s.blockArgs a.toNat false false false)) := by
  change finish (s.cWord (sspanOk a.toNat 8) (fun s => s.withBlock a.toNat false false false (fun b s =>
    s.withLayout b.va (fun l s => s.chkinRead (.chkin a) l b)))) = _
  rw [State.cWord_producer he hfree (ok := sspanOk a.toNat 8) (decide_eq_true ha) _ hp, hblock.withBlock]
  exact congrArg finish (hlayout.withLayout _)

theorem State.exec_layseal (ha : a.toNat < 63) :
    exec (.layseal a) s = finish (s.laysealAt (.layseal a) (s.cg.spair a.toNat).toNat) := by
  change finish (s.cWord (sspanOk a.toNat 2) (fun s => s.laysealAt (.layseal a) (s.cg.spair a.toNat).toNat)) = _
  rw [State.cWord_producer he hfree (ok := sspanOk a.toNat 2) (decide_eq_true (by omega)) _ hp]

end

/-- An operation whose word changes nothing else goes in flight. -/
theorem State.issueLater_next {s : State} (hstop : s.stop = none) (i : Instr) (args : List Nat) :
    ∃ t o, finish (s.issueLater i false s.cw.en 0 [] args) = .next t ∧ s.Issued t o ∧ o.instr = i ∧ o.flag = s.cw.flagOf false
      ∧ o.args = args := by
  obtain ⟨o, hissued, hinstr, hflag, -, hargs⟩ := State.issueLater_frame (s := s) (u := s) rfl rfl i [] args
  exact ⟨_, o, finish_next ((s.issueLater_stop _ _ _ _).trans hstop), hissued, hinstr, hflag, hargs⟩

theorem State.chkinRead_flies {s : State} {i : Instr} {l : Layout} {b : CopyArgs} {key : Nat} (hlayout : s.LayoutAt b.va key)
    (halign : l.ok = true → b.off % l.ez = 0) :
    s.chkinRead i l b = s.issueLater i false s.cw.en 0 [] (b.list' (userArg s.cg) l.raw 0 0) := by
  have hok : ¬ (l.ok && decide (b.off % l.ez ≠ 0)) = true := by
    simp only [Bool.and_eq_true, decide_eq_true_eq]
    exact fun h => h.2 (halign h.1)
  unfold State.chkinRead
  rw [if_neg hok, hlayout.layoutRead]

/-- R229 to R232, R303, R329: a copy whose checks pass, with what it carries and what it changes. -/
theorem CopyWord.goes {s : State} {i : Instr} {sa n : Nat} {x m gth load : Bool} (hw : CopyWord i sa n x m gth load)
    (hstop : s.stop = none) (he : s.Enabled) (hfree : s.PipeFree (s.cw.flagOf false)) (hspan : sa + n ≤ 64)
    (hp : s.cg.gidx = s.cg.producer) (hblock : s.BlockFits sa m gth) {key : Nat} (hlayout : s.LayoutAt (s.cg.spair sa).toNat key)
    (hroom : s.canCount s.cg.core s.cg.ctx s.cg.node s.cg.stamp = true) (hd : s.DistinctDeltas s.cg.core) {l : Layout}
    (hl : l = { raw := s.homeNat key 64 }) {b : CopyArgs} (hb : b = s.blockArgs sa x m gth)
    (hfits : l.ok = true → b.off % l.ez = 0 ∧ b.off + copyElems i l b * l.ez ≤ (s.team s.cg.team).spadLen) :
    ∃ t o, exec i s = .next t ∧ s.Issued t o ∧ o.instr = i ∧ o.flag = s.cw.flagOf false ∧ o.stage = 0
      ∧ o.layout = l ∧ o.copy.va = b.va ∧ o.copy.version = b.version ∧ o.copy.off = b.off ∧ o.copy.ctr = b.ctr
      ∧ s.Counted t (dieOf s.cg.core) (gain s.cg.ctx s.cg.node s.cg.stamp 1)
      ∧ ∀ line, tget (t.team s.cg.team).cleared line 0 = tget (s.team s.cg.team).cleared line 0
          + if l.ok && load && decide (line ∈ copyLines i l b) then 1 else 0 := by
  have hread : exec i s = finish (s.copyRead i l b load) := by rw [hl, hb, hw.exec_read he hfree hspan hp hblock hlayout]
  have hva : s.LayoutAt b.va key := by rw [hb]; exact hlayout
  obtain ⟨t, o, hexec, hissued, hinstr, hflag, hstage, hargs, hcounted, hcleared⟩ :=
    (State.countsOnly_count hd s.cg.ctx s.cg.node s.cg.stamp 1).flies hstop i l b load
  obtain ⟨hlayout', hva', hversion, hoff, hctr⟩ := CopyArgs.list'_fields hargs
  refine ⟨t, o, ?_, hissued, hinstr, hflag, hstage, hlayout', hva', hversion, hoff, hctr, hcounted, hcleared⟩
  rw [hread, State.copyRead_flies hva hroom hfits, hexec]

/-- Settles O37: the checks pass to the record, and the operation goes in flight after a count and the clearing of lines. -/
theorem copiesGoInFlight : Obligations.CopiesGoInFlight := by
  unfold Obligations.CopiesGoInFlight
  intro s hstop he hfree
  refine ⟨fun i sa n x m gth load key hw hspan => ⟨hw.notProducer he hfree hspan, ?_⟩,
    fun a key hp ha hblock hlayout halign => ?_, fun a hp ha => ⟨fun halign hva => ?_, fun halign => ?_⟩⟩
  · intro hp hblock hlayout hroom hd l off a hoff hcount hfits
    have hargs : a.off = (s.blockArgs sa x m gth).off ∧ a.count = (s.blockArgs sa x m gth).count := ⟨hoff, hcount⟩
    rw [copyElems_congr hargs.2] at hfits
    rw [copyLines_congr hargs.1 hargs.2]
    exact hw.goes hstop he hfree hspan hp hblock hlayout hroom hd rfl rfl hfits
  · obtain ⟨t, o, hexec, hissued, hinstr, hflag, hlist⟩ := State.issueLater_next hstop (.chkin a)
      ((s.blockArgs a.toNat false false false).list' (userArg s.cg) (s.homeNat key 64) 0 0)
    obtain ⟨hl, hva, -⟩ := CopyArgs.list'_fields hlist
    have hread := State.chkinRead_flies (i := .chkin a) (b := s.blockArgs a.toNat false false false) hlayout halign
    refine ⟨t, o, ?_, hissued, hinstr, hflag, hl, hva⟩
    rw [State.exec_chkin he hfree hp ha hblock hlayout, hread, hexec]
  · obtain ⟨t, o, hexec, hissued, hinstr, hflag, hlist⟩ := State.issueLater_next hstop (.layseal a)
      [(s.cg.spair a.toNat).toNat, userArg s.cg]
    refine ⟨t, o, ?_, hissued, hinstr, hflag, ?_⟩
    · rw [State.exec_layseal he hfree hp ha, ← hexec, State.laysealAt, if_neg (not_not.mpr halign), if_neg (Nat.not_le.mpr hva)]
    · rw [POp.arg, hlist]; rfl
  · rw [State.exec_layseal he hfree hp ha, State.laysealAt, if_pos halign]
    rfl

end Sys2Proof.Machine
end

section
/-! PROOFS. Launch records and submission queues (R236, R349 to R357). -/
namespace Sys2Proof.Machine

/-! ### What a walk and a die's write change (R351, R356, R410) -/

/-- Only the walk caches of dies have changed. -/
def State.OnlyWalks (s t : State) : Prop :=
  t = { s with dies := t.dies } ∧ ∀ d, t.die d = { s.die d with walks := (t.die d).walks }

theorem State.onlyWalks_refl (s : State) : s.OnlyWalks s := ⟨rfl, fun _ => rfl⟩

theorem State.OnlyWalks.trans {s t u : State} (h : s.OnlyWalks t) (k : t.OnlyWalks u) : s.OnlyWalks u :=
  ⟨by rw [k.1, h.1], fun d => by rw [k.2 d, h.2 d]⟩

theorem State.onlyWalks_walkNode (s : State) (die ctx level index at_ : Nat) :
    s.OnlyWalks (s.walkNode die ctx level index at_).2 := by
  unfold State.walkNode
  split
  · exact s.onlyWalks_refl
  · dsimp only
    split_ifs
    · refine ⟨rfl, fun d => ?_⟩
      by_cases h : d = die
      · rw [h, State.die_updDie]
      · rw [State.die_updDie_ne _ _ h]
    · exact s.onlyWalks_refl

theorem State.onlyWalks_walk (s : State) (die ctx va : Nat) : s.OnlyWalks (s.walk die ctx va).2 := by
  unfold State.walk
  dsimp only
  split_ifs
  · exact s.onlyWalks_refl
  · exact s.onlyWalks_walkNode _ _ _ _ _
  all_goals exact (s.onlyWalks_walkNode _ _ _ _ _).trans (State.onlyWalks_walkNode _ _ _ _ _ _)

/-- A write through a die's page table changes its walk cache and then memory. -/
theorem State.dieWrite_frame (s : State) (die ctx va n v : Nat) :
    ∃ u, s.OnlyWalks u ∧ u.OnlyMemory (s.dieWrite die ctx va n v) := by
  refine ⟨_, s.onlyWalks_walk die ctx va, ?_⟩
  unfold State.dieWrite
  dsimp only
  split
  · exact State.onlyMemory_putHome _ _ _
  · exact State.onlyMemory_refl _

/-! ### Dependence counters (R320, R324) -/

/-- Only dependence counters, the tasks that they fire and parked waves have changed. -/
def State.OnlyDcs (s t : State) : Prop :=
  t = { s with groups := t.groups, dies := t.dies } ∧ ∀ d, t.die d = { s.die d with dcs := (t.die d).dcs, fired := (t.die d).fired }

theorem State.onlyDcs_refl (s : State) : s.OnlyDcs s := ⟨rfl, fun _ => rfl⟩

theorem State.onlyDcs_updDie (s : State) (die : Nat) (dcs : Die → Tab DepCtr) (fired : Die → List Armed) :
    s.OnlyDcs (s.updDie die (fun d => { d with dcs := dcs d, fired := fired d })) := by
  refine ⟨rfl, fun d => ?_⟩
  by_cases h : d = die
  · rw [h, State.die_updDie]
  · rw [State.die_updDie_ne _ _ h]

theorem State.OnlyDcs.unparks {s t u : State} (h : s.OnlyDcs t) (k : t.OnlyUnparks u) : s.OnlyDcs u := by
  have hdie : ∀ d, u.die d = t.die d := fun d => by rw [k.1]; rfl
  exact ⟨by rw [k.1, h.1], fun d => by rw [hdie, h.2 d]⟩

theorem State.onlyDcs_dcApply (s : State) (die id : Nat) (f : Word → Word) : s.OnlyDcs (s.dcApply die id f) := by
  unfold State.dcApply
  dsimp only
  split_ifs
  · split
    · exact (s.onlyDcs_updDie _ _ _).unparks (State.onlyUnparks_unparkAll _ _)
    · exact (s.onlyDcs_updDie _ _ Die.fired).unparks (State.onlyUnparks_unparkAll _ _)
  · exact s.onlyDcs_updDie _ _ Die.fired

theorem State.onlyDcs_dcDec (s : State) (die id : Nat) : s.OnlyDcs (s.dcDec die id) := by
  unfold State.dcDec
  split_ifs
  · exact s.onlyDcs_refl
  · exact s.onlyDcs_dcApply _ _ _

theorem State.OnlyDcs.total {s t : State} (h : s.OnlyDcs t) (die ctx node : Nat) (st : DWord) :
    t.total die ctx node st = s.total die ctx node st := by
  refine State.total_congr ?_ ?_ (fun c => ?_) ctx node st
  · rw [h.2]
  · rw [h.2]
  · rw [h.1]; rfl

/-! ### A record enters the table of grids (R350, R357) -/

/-- A record has become a grid of a die. -/
def State.Enters (s t : State) (die ctx prio raw : Nat) : Prop :=
  tget t.grids s.nextGrid {} =
    { ctx := ctx, die := die, lr := launchRec raw, prio := min (launchRec raw).prio prio, pending := true
      toStart := List.range (launchRec raw).teams, since := s.ns, order := (s.die die).validated
      groupsLeft := (launchRec raw).teams * (launchRec raw).groups } ∧ t.nextGrid = s.nextGrid + 1

theorem State.enters_addGrid (s : State) (die ctx prio raw : Nat) :
    s.Enters (s.addGrid die ctx prio (launchRec raw)) die ctx prio raw :=
  ⟨by change tget (tset _ _ _) _ _ = _; rw [tget_tset, if_pos rfl], rfl⟩

/-- What changed before a record entered, and after it, besides the table of grids. -/
theorem State.Enters.congr {s s' t t' : State} {die ctx prio raw : Nat} (h : s'.Enters t' die ctx prio raw)
    (hnext : s'.nextGrid = s.nextGrid) (hns : s'.ns = s.ns) (hvalidated : (s'.die die).validated = (s.die die).validated)
    (hgrids : t.grids = t'.grids) (hnext' : t.nextGrid = t'.nextGrid) : s.Enters t die ctx prio raw := by
  unfold State.Enters at *
  rw [hgrids, hnext', ← hnext, ← hns, ← hvalidated]
  exact h

theorem State.die_addGrid (s : State) (die ctx prio : Nat) (l : LaunchRec) :
    (s.addGrid die ctx prio l).die die = { s.die die with validated := (s.die die).validated + 1 } := State.die_updDie _ _ _

theorem State.total_addGrid (s : State) (die ctx prio : Nat) (l : LaunchRec) (c n : Nat) (x : DWord) :
    (s.addGrid die ctx prio l).total die c n x = s.total die c n x := by
  refine State.total_congr (s := s) (t := s.addGrid die ctx prio l) ?_ ?_ (fun _ => rfl) c n x <;> rw [State.die_addGrid]

theorem State.addGrid_stop (s : State) (die ctx prio : Nat) (l : LaunchRec) : (s.addGrid die ctx prio l).stop = s.stop := rfl

/-! ### A record is rejected (R352, R467) -/

/-- R352: A REJECTED RECORD of a LAUNCH is counted −1 and recorded, and no grid comes of it. -/
theorem State.rejectLaunch_spec {s : State} {die core : Nat} (hring : (s.die die).errRing = none) (hcore : dieOf core = die)
    (hd : s.DistinctDeltas core) (ctx va code : Nat) (raw : Option Nat) (node : Nat) (st : DWord) :
    let t := s.rejectLaunch die ctx va code raw (some (core, node, st))
    t.stop = s.stop ∧ t.grids = s.grids ∧ s.Counted t die (gain ctx node st (-1))
      ∧ (t.die die).errSeq = (s.die die).errSeq + 1 ∧ (t.die die).hostQueues = (s.die die).hostQueues := by
  have hcount := State.countsOnly_count hd ctx node st (-1)
  rw [hcore] at hcount
  obtain ⟨v, hdcs, ht⟩ : ∃ v, (s.count core ctx node st (-1)).OnlyDcs v
      ∧ s.rejectLaunch die ctx va code raw (some (core, node, st)) = v.errorRecord die 6 0xFF ctx false va code := by
    refine ⟨_, ?_, rfl⟩
    split_ifs
    · exact State.onlyDcs_dcDec _ _ _
    · exact State.onlyDcs_refl _
  have hdie : v.die die = { s.die die with
      keeper := (v.die die).keeper, batches := (v.die die).batches, dcs := (v.die die).dcs, fired := (v.die die).fired } := by
    rw [hdcs.2, hcount.dies]
  have hcounted : s.Counted v die (gain ctx node st (-1)) := hcount.counted.congr (hdcs.total die)
  rw [ht, State.errorRecord_unplaced v 6 0xFF ctx false va code [] (by rw [hdie]; exact hring)]
  refine ⟨?_, ?_, hcounted.congr fun c n x => ?_, ?_, ?_⟩
  · rw [State.counted, State.updDie_stop, hdcs.1, hcount.only.1]
  · change v.grids = s.grids
    rw [hdcs.1, hcount.only.1]
  · refine State.total_updDie _ _ (fun _ => ?_) (fun _ => ?_) c n x <;> rfl
  · rw [State.counted, State.die_updDie, hdie]
  · rw [State.counted, State.die_updDie, hdie]

/-! ### Launches (R236, R299) -/

/-- The record of a LAUNCH with the stamp and node of the LAUNCH in place of its own (R236). -/
def LaunchReq.stamped (q : LaunchReq) (raw : Nat) : Nat :=
  raw % 2 ^ (8 * 0xC0) + q.stamp.toNat * 2 ^ (8 * 0xC0) + q.node * 2 ^ (8 * 0xC8) + raw / 2 ^ (8 * 0xCA) * 2 ^ (8 * 0xCA)

/-- The state with a launch taken out of the scheduler's. -/
def State.taking (s : State) (die : Nat) (q : LaunchReq) : State :=
  s.updDie die (fun d => { d with launches := d.launches.erase q })

/-- LAUNCH_RECORD_TAKE of the oldest launch that has been released, or a retry of the only launch, which is due (R236, R351). -/
def State.Takes (s : State) (i : Instr) (die : Nat) (q : LaunchReq) : Prop :=
  (i = .launchRecordTake die ∧ (s.die die).launches.find? (fun x => x.wait.isNone && s.released x.waits) = some q)
    ∨ (i = .recordReadRetry die ∧ (s.die die).launches = [q] ∧ (s.die die).hostQueues = [] ∧ ∃ p, q.wait = some p ∧ p.retryAt ≤ s.ns)

/-- Both steps take the launch; a die without submission queues has nothing else to read again. -/
theorem State.Takes.exec_eq {s : State} {i : Instr} {die : Nat} {q : LaunchReq} (h : s.Takes i die q)
    (hqueues : ((s.takeLaunch die q).die die).hostQueues = (s.die die).hostQueues) : exec i s = finish (s.takeLaunch die q) := by
  rcases h with ⟨rfl, hfind⟩ | ⟨rfl, hone, hnone, p, hwait, hdue⟩
  · change execLaunchRecordTake die s = _
    unfold execLaunchRecordTake
    rw [hfind]
  · change execRecordReadRetry die s = _
    unfold execRecordReadRetry
    simp only [hone, List.filter_cons, hwait, decide_eq_true hdue, if_true, List.filter_nil, List.foldl_cons, List.foldl_nil, hqueues,
      hnone]

section
variable {s : State} {die raw : Nat} {q : LaunchReq} (hread : (s.taking die q).dieRead die q.ctx q.va 256 = (.ok raw, s.taking die q))
include hread

theorem State.takeLaunch_read :
    s.takeLaunch die q =
      let f := launchFault (s.ctx q.ctx) (q.stamped raw)
      let reject := fun code => (s.taking die q).rejectLaunch die q.ctx q.va code (some (q.stamped raw)) (some (q.core, q.node, q.stamp))
      if f ≠ 0 then reject f
      else if !s.gridRoom die then reject 16
      else (s.taking die q).addGrid die q.ctx q.cap (launchRec (q.stamped raw)) := by
  unfold State.takeLaunch
  dsimp only
  rw [show s.updDie die (fun d => { d with launches := d.launches.erase q }) = s.taking die q from rfl, hread]
  rfl

/-- R350: a record that keeps every limit becomes a grid. -/
theorem State.Takes.enters {i : Instr} (h : s.Takes i die q) (hstop : s.stop = none)
    (hfault : launchFault (s.ctx q.ctx) (q.stamped raw) = 0) (hroom : s.gridRoom die = true) :
    ∃ t, exec i s = .next t ∧ s.Enters t die q.ctx q.cap (q.stamped raw)
      ∧ (t.die die).launches = (s.die die).launches.erase q ∧ s.Counted t die (fun _ _ _ => 0)
      ∧ ∀ key, t.homeByte key = s.homeByte key := by
  have htake : s.takeLaunch die q = (s.taking die q).addGrid die q.ctx q.cap (launchRec (q.stamped raw)) := by
    rw [State.takeLaunch_read hread]
    dsimp only
    rw [if_neg (not_not.mpr hfault), hroom]
    rfl
  have hdie : (s.taking die q).die die = { s.die die with launches := (s.die die).launches.erase q } := State.die_updDie _ _ _
  have hexec := h.exec_eq (by rw [htake, State.die_addGrid, hdie])
  rw [htake] at hexec
  refine ⟨_, hexec.trans (finish_next hstop), (State.enters_addGrid (s.taking die q) _ _ _ _).congr rfl rfl (by rw [hdie]) rfl rfl, ?_,
    fun c n x => ?_, fun _ => rfl⟩
  · rw [State.die_addGrid, hdie]
  · rw [State.total_addGrid, add_zero]
    exact State.total_congr (s := s) (t := s.taking die q) (by rw [hdie]) (by rw [hdie]) (fun _ => rfl) c n x

/-- R352: a record that breaks a limit is rejected, and its count falls. -/
theorem State.Takes.rejects {i : Instr} (h : s.Takes i die q) (hstop : s.stop = none)
    (hfault : launchFault (s.ctx q.ctx) (q.stamped raw) ≠ 0) (hring : (s.die die).errRing = none) (hcore : dieOf q.core = die)
    (hd : s.DistinctDeltas q.core) :
    ∃ t, exec i s = .next t ∧ t.grids = s.grids ∧ s.Counted t die (gain q.ctx q.node q.stamp (-1))
      ∧ (t.die die).errSeq = (s.die die).errSeq + 1 := by
  have htake : s.takeLaunch die q = (s.taking die q).rejectLaunch die q.ctx q.va (launchFault (s.ctx q.ctx) (q.stamped raw))
      (some (q.stamped raw)) (some (q.core, q.node, q.stamp)) := by
    rw [State.takeLaunch_read hread]
    exact if_pos hfault
  have hdie : (s.taking die q).die die = { s.die die with launches := (s.die die).launches.erase q } := State.die_updDie _ _ _
  obtain ⟨hstop', hgrids, hcounted, hseq, hqueues⟩ := State.rejectLaunch_spec (s := s.taking die q) (by rw [hdie]; exact hring) hcore hd
    q.ctx q.va (launchFault (s.ctx q.ctx) (q.stamped raw)) (some (q.stamped raw)) q.node q.stamp
  have hexec := h.exec_eq (by rw [htake, hqueues, hdie])
  rw [htake] at hexec
  refine ⟨_, hexec.trans (finish_next (hstop'.trans hstop)), hgrids, fun c n x => ?_, ?_⟩
  · rw [hcounted c n x, State.total_congr (s := s) (t := s.taking die q) (by rw [hdie]) (by rw [hdie]) (fun _ => rfl) c n x]
  · rw [hseq, hdie]

end

/-! ### Submission queues (R353 to R356) -/

/-- A die's submission queue `key` becomes `q`. -/
def State.putQueue (s : State) (die key : Nat) (q : HostQueue) : State :=
  s.updDie die (fun d => { d with hostQueues := tset d.hostQueues key q })

theorem State.die_putQueue (s : State) (die key : Nat) (q : HostQueue) :
    (s.putQueue die key q).die die = { s.die die with hostQueues := tset (s.die die).hostQueues key q } := State.die_updDie _ _ _

theorem State.putQueue_putQueue (s : State) (die key : Nat) (p q : HostQueue) :
    (s.putQueue die key p).putQueue die key q = s.putQueue die key q := by
  unfold State.putQueue State.updDie
  simp [State.die]

theorem State.total_putQueue (s : State) (die key : Nat) (q : HostQueue) (c n : Nat) (x : DWord) :
    (s.putQueue die key q).total die c n x = s.total die c n x := by
  refine State.total_congr (s := s) (t := s.putQueue die key q) ?_ ?_ (fun _ => rfl) c n x <;> rw [State.die_putQueue]

/-- R331: a unit's count of one goes to its die's Keeper as a batch. -/
theorem State.countsOnly_unitCount (s : State) (die ctx node : Nat) (st : DWord) :
    s.CountsOnly (s.unitCount die ctx node st [1]) die (gain ctx node st 1) := by
  have heq : s.unitCount die ctx node st [1] = s.updDie die (fun d => { d with
      keeper := updEntry (freeEntries d.keeper) ctx node st KEntry.more
      batches := d.batches ++ [(die * 16, [{ ctx := ctx, node := node, stamp := st, d := 1 }])] }) := rfl
  rw [heq]
  refine ⟨s.onlyCounts_updDie _ _, s.diesCount_updDie _ _ _, fun c n x => ?_⟩
  unfold State.total
  rw [State.die_updDie, countIn_updEntry_more, countIn_freeEntries, List.map_append, List.sum_append]
  simp only [List.map_cons, List.map_nil, List.sum_cons, List.sum_nil, deltaSum_cons, show deltaSum [] c n x = 0 from rfl, Delta.is_iff,
    gain, eq_comm (a := c), eq_comm (a := n), eq_comm (a := x)]
  change _ + _ + ((coresOf die).map (fun c => deltaSum (s.core c).deltas _ n x)).sum = _
  omega

section
variable {s : State} {die ctx queue : Nat} {q : HostQueue}
  (hq : tget? (s.die die).hostQueues (ctx * 16 + queue) = some q)
include hq

/-- R355: A QUEUE SERVED UP TO ITS TAIL waits for the next write of it. -/
theorem State.exec_tailWake_served (hstop : s.stop = none) (hw : q.woken = false) (htail : q.tail = q.head) :
    exec (.tailWake die ctx queue) s = .next s := by
  change execTailWake die ctx queue s = _
  unfold execTailWake
  simp only [hq, hw, htail, Bool.not_false, if_true, Nat.add_sub_cancel_left, Nat.mod_self, State.takeRecords, ite_self]
  exact finish_next hstop

/-- R355: the tail that a wake reads. -/
theorem State.exec_tailWake_woken (hw : q.woken = true) (hwait : q.wait = none) {tail : Nat}
    (hread : ∀ p, (s.putQueue die (ctx * 16 + queue) p).dieRead die ctx q.tailVa 4 = (.ok tail, s.putQueue die (ctx * 16 + queue) p))
    (hdist : (tail + 2 ^ 32 - q.head) % 2 ^ 32 = 1) :
    exec (.tailWake die ctx queue) s
      = finish ((s.putQueue die (ctx * 16 + queue) { q with woken := false, tail := tail }).takeRecords die ctx queue 1) := by
  have hone : ¬ 2 ^ q.log2n < 1 := Nat.not_lt.mpr Nat.one_le_two_pow
  have hread1 := hread { q with woken := false }
  unfold State.putQueue at hread1
  have hput := s.putQueue_putQueue die (ctx * 16 + queue) { q with woken := false } { q with woken := false, tail := tail }
  change execTailWake die ctx queue s = _
  unfold execTailWake
  dsimp only
  rw [hq]
  dsimp only
  rw [if_neg (by rw [hw]; decide), hread1]
  dsimp only
  rw [hdist, if_neg hone, if_neg (by rw [hwait]; decide), ← hput]
  rfl

/-- R350, R355, R356: a record that keeps every limit becomes a grid, is counted, and HEAD moves on. -/
theorem State.takeRecords_one {raw : Nat} (hsel : q.dieSel < 2) (hne : q.head ≠ q.tail) (hroom : s.gridRoom die = true)
    (hread : s.dieRead die ctx (vaWrap (q.ring + 256 * (q.head % 2 ^ q.log2n))) 256 = (.ok raw, s))
    (hfault : launchFault (s.ctx ctx) raw = 0)
    (hkeeper : s.keeperRoom die ctx (launchRec raw).node (launchRec raw).stamp = true) :
    s.takeRecords die ctx queue 1 =
      let p := { q with head := (q.head + 1) % 2 ^ 32, wait := none }
      (((s.unitCount die ctx (launchRec raw).node (launchRec raw).stamp [1]).addGrid die ctx q.pcap (launchRec raw)).putQueue die
        (ctx * 16 + queue) p).writeStatus die ctx p := by
  have hhome : s.queueDie q die = die := if_pos hsel
  unfold State.takeRecords
  simp only [hq, hhome, hne, hroom, hread, hfault, hkeeper, Bool.not_true, Bool.false_eq_true, false_or, if_false, ne_eq, not_true_eq_false,
    State.takeRecords]
  rfl

end

/-- The walk caches stand as they were when a record enters and its queue is put back. -/
theorem State.walks_entered {s u : State} {die : Nat} {f : Nat → Nat → DWord → Int} {key : Nat} {p : HostQueue}
    (h : (s.putQueue die key p).CountsOnly u die f) (ctx prio : Nat) (l : LaunchRec) (q : HostQueue) (d : Nat) :
    (((u.addGrid die ctx prio l).putQueue die key q).die d).walks = (s.die d).walks := by
  by_cases hd : d = die
  · rw [hd, State.die_putQueue, State.die_addGrid, h.dies, State.die_putQueue]
  · have hgrid : (u.addGrid die ctx prio l).die d = u.die d := State.die_updDie_ne _ _ hd
    have hput : (s.putQueue die key p).die d = s.die d := State.die_updDie_ne _ _ hd
    rw [State.putQueue, State.die_updDie_ne _ _ hd, hgrid, h.dies, hput]

/-- R356: the write of a queue's status line changes nothing that a grid, a queue or a count is read from. -/
theorem State.writeStatus_frame (a : State) (die ctx : Nat) (q : HostQueue) :
    (a.writeStatus die ctx q).grids = a.grids ∧ (a.writeStatus die ctx q).nextGrid = a.nextGrid
      ∧ ((a.writeStatus die ctx q).die die).hostQueues = (a.die die).hostQueues
      ∧ ∀ c n x, (a.writeStatus die ctx q).total die c n x = a.total die c n x := by
  unfold State.writeStatus
  obtain ⟨w, ⟨hframe, hdies⟩, hmem⟩ := a.dieWrite_frame die ctx q.statVa 64
    (q.head + 2 ^ 32 * q.rej + 2 ^ 64 * q.lastIdx + 2 ^ 96 * q.lastCode)
  have hdie : ∀ d, (a.dieWrite die ctx q.statVa 64 (q.head + 2 ^ 32 * q.rej + 2 ^ 64 * q.lastIdx + 2 ^ 96 * q.lastCode)).die d
      = { a.die d with walks := (w.die d).walks } := fun d => by
    rw [hmem, ← hdies d]
    rfl
  refine ⟨?_, ?_, by rw [hdie], State.total_congr (by rw [hdie]) (by rw [hdie]) fun c => ?_⟩
  · rw [hmem, hframe]
  · rw [hmem, hframe]
  · rw [hmem, hframe]
    rfl

/-- The status line of `q` can be written in every state that has the memory and the page tables of this one (R356). -/
def State.StatusWrites (s : State) (die ctx : Nat) (q : HostQueue) : Prop :=
  ∀ a : State, a.mem = s.mem → a.l2 = s.l2 → a.ctxs = s.ctxs → a.host = s.host → a.modIndex = s.modIndex →
    (∀ d, (a.die d).walks = (s.die d).walks) → a.stop = none → (a.writeStatus die ctx q).stop = none

/-- R350, R356: after the count, a record enters and its queue, now `q`, is put back and shown in its status line. -/
theorem State.CountsOnly.serves {s u : State} {die key : Nat} {p q : HostQueue} {f : Nat → Nat → DWord → Int}
    (h : (s.putQueue die key p).CountsOnly u die f) (hstop : s.stop = none) {ctx : Nat} (hstatus : s.StatusWrites die ctx q)
    (prio raw : Nat) :
    let t := ((u.addGrid die ctx prio (launchRec raw)).putQueue die key q).writeStatus die ctx q
    t.stop = none ∧ s.Enters t die ctx prio raw ∧ tget? (t.die die).hostQueues key = some q ∧ s.Counted t die f := by
  have hframe : u = { s with cores := u.cores, dies := u.dies } := by rw [h.only.1]; rfl
  have hwalks := State.walks_entered h ctx prio (launchRec raw) q
  set a := (u.addGrid die ctx prio (launchRec raw)).putQueue die key q with ha
  obtain ⟨hgrids, hnext, hqueues, htotal⟩ := a.writeStatus_frame die ctx q
  have hsame : a.mem = s.mem ∧ a.l2 = s.l2 ∧ a.ctxs = s.ctxs ∧ a.host = s.host ∧ a.modIndex = s.modIndex ∧ a.stop = s.stop := by
    change u.mem = _ ∧ u.l2 = _ ∧ u.ctxs = _ ∧ u.host = _ ∧ u.modIndex = _ ∧ u.stop = _
    rw [hframe]
    exact ⟨rfl, rfl, rfl, rfl, rfl, rfl⟩
  obtain ⟨hmem, hl2, hctxs, hhost, hmod, hnone⟩ := hsame
  refine ⟨hstatus a hmem hl2 hctxs hhost hmod hwalks (hnone.trans hstop), ?_, ?_, fun c n x => ?_⟩
  · refine (State.enters_addGrid u die ctx prio raw).congr ?_ ?_ ?_ hgrids hnext
    · rw [hframe]
    · rw [hframe]
    · rw [h.dies, State.die_putQueue]
  · rw [hqueues, ha, State.die_putQueue]
    exact tget?_tset_same _ _ _
  · rw [htotal, ha, State.total_putQueue, State.total_addGrid, h.counted c n x, State.total_putQueue]

/-- A queue whose one record has been taken: it is served up to the tail that a wake has read (R355). -/
def HostQueue.served (q : HostQueue) : HostQueue :=
  { q with woken := false, tail := (q.head + 1) % 2 ^ 32, head := (q.head + 1) % 2 ^ 32 }

/-- R350, R355, R356: THE RECORD OF A WOKEN QUEUE becomes a grid, is counted, and HEAD moves on to TAIL. -/
theorem State.tailWake_enters {s : State} {die ctx queue raw : Nat} {q : HostQueue} (hstop : s.stop = none)
    (hq : tget? (s.die die).hostQueues (ctx * 16 + queue) = some q) (hw : q.woken = true) (hsel : q.dieSel < 2) (hwait : q.wait = none)
    (hhead : q.head < 2 ^ 32)
    (htail : ∀ p, (s.putQueue die (ctx * 16 + queue) p).dieRead die ctx q.tailVa 4
      = (.ok ((q.head + 1) % 2 ^ 32), s.putQueue die (ctx * 16 + queue) p))
    (hread : ∀ p, (s.putQueue die (ctx * 16 + queue) p).dieRead die ctx (vaWrap (q.ring + 256 * (q.head % 2 ^ q.log2n))) 256
      = (.ok raw, s.putQueue die (ctx * 16 + queue) p))
    (hfault : launchFault (s.ctx ctx) raw = 0) (hroom : s.gridRoom die = true)
    (hkeeper : s.keeperRoom die ctx (launchRec raw).node (launchRec raw).stamp = true) (hstatus : s.StatusWrites die ctx q.served) :
    ∃ t, exec (.tailWake die ctx queue) s = .next t ∧ s.Enters t die ctx q.pcap raw
      ∧ tget? (t.die die).hostQueues (ctx * 16 + queue) = some q.served
      ∧ s.Counted t die (gain ctx (launchRec raw).node (launchRec raw).stamp 1) := by
  set key := ctx * 16 + queue
  set p : HostQueue := { q with woken := false, tail := (q.head + 1) % 2 ^ 32 } with hp
  have hqueue : tget? ((s.putQueue die key p).die die).hostQueues key = some p := by rw [State.die_putQueue]; exact tget?_tset_same _ _ _
  have hkeeper' : (s.putQueue die key p).keeperRoom die ctx (launchRec raw).node (launchRec raw).stamp = true := by
    rw [State.keeperRoom, State.die_putQueue]
    exact hkeeper
  have htake := State.takeRecords_one hqueue hsel (show q.head ≠ (q.head + 1) % 2 ^ 32 by omega) hroom (hread p) hfault hkeeper'
  have hserved : ({ p with head := (p.head + 1) % 2 ^ 32, wait := none } : HostQueue) = q.served := by
    rw [hp, ← hwait]
    rfl
  have hexec := State.exec_tailWake_woken hq hw hwait htail (by omega)
  rw [htake, hserved] at hexec
  obtain ⟨hstop', henters, hput, hcounted⟩ :=
    ((s.putQueue die key p).countsOnly_unitCount die ctx (launchRec raw).node (launchRec raw).stamp).serves hstop hstatus q.pcap raw
  exact ⟨_, hexec.trans (finish_next hstop'), henters, hput, hcounted⟩

/-- Settles O44: a launch taken and a queue that wakes each come to one record, which enters the table of grids or is rejected. -/
theorem launchRecordsAreTaken : Obligations.LaunchRecordsAreTaken := by
  unfold Obligations.LaunchRecordsAreTaken
  intro withStamp entered
  refine ⟨fun s die raw i q hstop htakes hread => ?_, fun s die ctx queue raw q hstop _ _ hq =>
    ⟨State.exec_tailWake_served hq hstop, fun hw hsel hwait hhead => ?_⟩⟩
  · intro f
    have htaking : (s.taking die q).dieRead die q.ctx q.va 256 = (.ok raw, s.taking die q) := hread ((s.die die).launches.erase q)
    exact ⟨State.Takes.enters htaking htakes hstop, State.Takes.rejects htaking htakes hstop⟩
  · intro tail va hread
    have hput : ∀ p, (s.putQueue die (ctx * 16 + queue) p).dieRead die ctx q.tailVa 4
          = (.ok ((q.head + 1) % 2 ^ 32), s.putQueue die (ctx * 16 + queue) p)
        ∧ (s.putQueue die (ctx * 16 + queue) p).dieRead die ctx (vaWrap (q.ring + 256 * (q.head % 2 ^ q.log2n))) 256
          = (.ok raw, s.putQueue die (ctx * 16 + queue) p) := fun p => hread (tset (s.die die).hostQueues (ctx * 16 + queue) p)
    exact State.tailWake_enters hstop hq hw hsel hwait hhead (fun p => (hput p).1) fun p => (hput p).2

end Sys2Proof.Machine
end
